-- ==== Sys2Proof/Word.lean ====
section
/-! DEFINITION. The word and byte types of the device (spec/00_scope.md R6–R8) and the plainest facts about numbers
of a fixed width. -/
namespace Sys2Proof

/-- A word: 128 bits, always (R8). -/
abbrev Word := BitVec 128

/-- A byte; multi-byte values are little-endian (R7). -/
abbrev Byte := BitVec 8

end Sys2Proof
end

