-- ==== Sys2Proof/Syntax.lean ====
section
/-! DEFINITION. The commands the device takes: one constructor per row of spec/opcode_table.json, with its operands. A
command is what reaches the device from outside, or an event of one of its clocks, pins, links or engines; the operands
say what the event brings. -/
namespace Sys2Proof

/-! ## Operand types -/

/-- Who makes an access to control space: a function of the host, the management port, JTAG, a logical engine, a
Clothesline entry, a PLR region's fabric master, the device itself. -/
inductive Port
  | host (fn : Nat) | mgmt | jtag | engine (e : Nat) | clothesline | plr (r : Nat) | dev
  deriving DecidableEq, Repr

/-- Packet operations of R361 that the model distinguishes: a read, a write, a message to a unit, an endpoint's response. -/
inductive PktOp | rd | wr | msg | rsp
  deriving DecidableEq, Repr

/-- A packet (R360): source port, transaction tag, class, address (of a message: the unit address), size in bytes, data
words and their poison flags; the requester, where the model names one. Of a response, `src` is the endpoint port that
answers and `txn` the request it answers. -/
structure Pkt where
  op : PktOp
  src : Nat
  txn : Nat
  cls : Nat
  addr : Nat
  bytes : Nat
  data : Nat
  poison : Nat
  by_ : Option Port := none
  deriving DecidableEq, Repr

/-- A pin a PLR image claims: pin, IOSTD, DIR, DRIVE and slew code of PLR_PIN_CFG. -/
structure PlrPin where
  pin : Nat
  iostd : Nat
  dir : Nat
  drive : Nat
  slew : Nat
  deriving DecidableEq, Repr

/-- A memory block an image uses (R419): its number, its mode (1 RAM, 2 FIFO, 3 RING, 4 DUAL-CLOCK), the user width and the
initial words from word 0 on; the words beyond them start as zeros. -/
structure PlrBlkImg where
  blk : Nat
  mode : Nat
  width : Nat
  init : List Nat
  deriving DecidableEq, Repr

/-- What the loader sees of a region image (R413–R416, R419): format version, design identifier, number of frames, the pins it
claims, the source it names for each clock tree it uses (tree, 0 PLR_CLKn or 1 pin CCn), the memory blocks it uses. -/
structure PlrImage where
  version : Nat
  id : Nat
  frames : Nat
  pins : List PlrPin
  trees : List (Nat × Nat)
  blocks : List PlrBlkImg := []
  deriving DecidableEq, Repr

/-- One lane of a received frame: its marker block and its 63 payload blocks as received (scrambled), bit 0 first
(R108, R109). -/
structure LaneFrame where
  marker : Nat
  payload : Nat
  deriving DecidableEq, Repr

/-- What a sweep finds for an antenna (R246, R251): residuals, and whether some ratio moved beyond the divergence
limits. -/
structure SweepRes where
  ant : Nat
  ph : Nat
  amp : Nat
  diverged : Bool
  deriving DecidableEq, Repr

/-- What a read of host memory returns: data, Unsupported Request or Completer Abort, or a poisoned TLP (R98). -/
inductive HostRead | ok | failed | poisoned
  deriving DecidableEq, Repr

/-- What the loader finds in an engine image for one cluster (R266, R472): entry group, handler group, issue groups from
group 0 on. The layout of the body is the image tools'. -/
structure EngImage where
  cluster : Nat
  entry : Nat
  evec : Nat
  groups : List Nat
  deriving DecidableEq, Repr

/-- One PRB of a U-plane section: its exponent and its 24 mantissas, I and Q in turn; uncompressed, exponent 0. -/
structure UPrb where
  exp : Nat
  vals : List Int
  deriving DecidableEq, Repr

/-- A U-plane section (R431): first PRB, number of PRBs (0 all), section extension present, udCompMeth, udIqWidth. -/
structure USection where
  first : Nat
  num : Nat
  ext : Bool
  meth : Nat
  width : Nat
  prbs : List UPrb
  deriving DecidableEq, Repr

/-- An uplink U-plane message (R430, R435): eAxC ID, ecpriSeqid, frameId, symbol of the frame, sections. -/
structure UMsg where
  eaxc : Nat
  seq : Nat
  frame : Nat
  sym : Nat
  secs : List USection
  deriving DecidableEq, Repr

/-- What an Ethernet frame holds (R428, R430): eCPRI (revision, C bit, message type; for C-plane its eAxC ID; for a delay
measurement its action and identifier), PTP by EtherType or UDP, ARP (request for an address, or reply with a MAC), ESMC,
anything else. -/
inductive EthBody
  | ecpri (rev : Nat) (concat : Bool) (type eaxc : Nat)
  | owd (rev : Nat) (concat : Bool) (action id : Nat)
  | ptp
  | arpRequest (ip : Nat)
  | arpReply (ip mac : Nat)
  | esmc
  | other
  deriving DecidableEq, Repr

/-- An Ethernet frame as received: its length with the FCS, the FEC codewords found uncorrectable up to its end since the
frame before, the FCS's verdict, what it holds. -/
structure EthFrame where
  bytes : Nat
  fec : Nat
  fcsOk : Bool
  body : EthBody
  deriving DecidableEq, Repr

/-- A PTP message (R440): an Announce, with the port state that the profile's BMCA then gives (IEEE 1588 numbers); a Sync,
with the master's time at its receipt in TAI seconds and ns, corrected for the path, and the half nanoseconds that the own
tick has then run; a Delay_Req; anything else. -/
inductive PtpMsg
  | announce (state : Nat)
  | sync (sec ns : Nat) (half : Fin 66)
  | delayReq
  | other
  deriving DecidableEq, Repr

/-- What a device entry on lists 48–63 of the Clothesline does (R344): a stage start of an antenna channel (channel,
carrier, symbol of the frame, its data is in the pool), a window's open, a window's end, a PA edge, the end of an emergency
ramp, an exchange of the Steamer, the SOAK pre-wake (R467), a SOAK transmission (R468). -/
inductive DevAct
  | txStage (n : Fin 256) (cc : Fin 8) (sym : Nat) (ready : Bool)
  | windowOpen (n : Fin 256) (w : Fin 8)
  | windowEnd (n : Fin 256)
  | paEdge (n : Fin 256) (w : Fin 8) (on : Bool)
  | emergencyEnd (n : Fin 256)
  | exchange (clash : Bool)
  | soakPrewake
  | soakTx (q : Fin 4)
  deriving DecidableEq, Repr

/-- An access by JTAG under DEBUG_ACCESS (R507): write, address, size in bytes, data. -/
structure DebugAcc where
  write : Bool
  addr : Nat
  bytes : Nat
  data : Nat
  deriving DecidableEq, Repr

/-! ## The commands -/

/-- A command of the device; the name and the rule are those of its row in spec/opcode_table.json. -/
inductive Instr
  /-- REGISTER_WRITE (R16). -/
  | registerWrite (by_ : Port) (addr : Fin 0x10000000) (bytes : Nat) (value : Nat)
  /-- PIN_RESET (R50). -/
  | pinReset (byResetN : Bool) (rises : Bool)
  /-- WARM_RESET (R52). -/
  | warmReset (by_ : Port) (key : Fin 65536)
  /-- RESET_RELEASE (R57). -/
  | resetRelease (straps : Nat)
  /-- MODE_REQ_RELAY (R63). -/
  | modeReqRelay (by_ : Port) (key : Fin 65536)
  /-- MODE_REQ_VERIFY (R63). -/
  | modeReqVerify (by_ : Port) (key : Fin 65536)
  /-- MODE_REQ_SERVICE (R62). -/
  | modeReqService (by_ : Port) (key : Fin 65536)
  /-- MODE_REQ_SHED (R63). -/
  | modeReqShed (by_ : Port) (key : Fin 65536)
  /-- MODE_REQ_SOAK (R66). -/
  | modeReqSoak (by_ : Port) (key : Fin 65536)
  /-- MODE_REQ_QUIESCE (R70). -/
  | modeReqQuiesce (by_ : Port) (key : Fin 65536)
  /-- MODE_REQ_TEST (R67). -/
  | modeReqTest (by_ : Port) (key : Fin 65536)
  /-- MODE_PEND_CANCEL (R71). -/
  | modePendCancel (by_ : Port)
  /-- MODE_PEND_CNT_CLR (R71). -/
  | modePendCntClr (by_ : Port)
  /-- HIF_VERSION_WRITE (R79). -/
  | hifVersionWrite (by_ : Port) (f : Fin 64) (value : Nat)
  /-- RING_ENABLE (R81). -/
  | ringEnable (by_ : Port) (f : Fin 64) (r : Fin 17) (value : Nat)
  /-- RING_RESET (R99). -/
  | ringReset (by_ : Port) (f : Fin 64) (r : Fin 17)
  /-- RING_RESET_COMPLETE (R99). -/
  | ringResetComplete (f : Fin 64) (r : Fin 17)
  /-- FN_RESET_ALL (R81). -/
  | fnResetAll (by_ : Port) (f : Fin 64)
  /-- CMD_DOORBELL (R82). -/
  | cmdDoorbell (f : Fin 64) (off : Nat) (bytes : Nat) (value : Nat)
  /-- CPL_DOORBELL (R82). -/
  | cplDoorbell (f : Fin 64) (off : Nat) (bytes : Nat) (value : Nat)
  /-- EVENT_DOORBELL (R82). -/
  | eventDoorbell (f : Fin 64) (off : Nat) (bytes : Nat) (value : Nat)
  /-- COMMAND_FETCH (R94). -/
  | commandFetch (f : Fin 64) (r : Fin 8) (read : HostRead)
  /-- UL_SLOT (R85). -/
  | ulSlot (f : Fin 64) (r : Fin 8)
  /-- DL_SLOT (R85). -/
  | dlSlot (f : Fin 64) (r : Fin 8)
  /-- NOP (R85). -/
  | nop (f : Fin 64) (r : Fin 8)
  /-- CAL_STORE_EXPORT (R262). -/
  | calStoreExport (f : Fin 64) (r : Fin 8)
  /-- CAL_STORE_IMPORT (R263). -/
  | calStoreImport (f : Fin 64) (r : Fin 8)
  /-- ATTEST_REPORT (R491). -/
  | attestReport (f : Fin 64) (r : Fin 8)
  /-- IMAGE_LOAD_LOAD (R485). -/
  | imageLoadLoad (f : Fin 64) (r : Fin 8)
  /-- IMAGE_LOAD_FLASH (R485). -/
  | imageLoadFlash (f : Fin 64) (r : Fin 8)
  /-- IMAGE_LOAD_COMMIT (R485). -/
  | imageLoadCommit (f : Fin 64) (r : Fin 8)
  /-- IMAGE_LOAD_ERASE (R485). -/
  | imageLoadErase (f : Fin 64) (r : Fin 8)
  /-- ITEM_TABLE_READ (R92). -/
  | itemTableRead (f : Fin 64) (r : Fin 8) (read : HostRead)
  /-- HOST_WRITE_FAILED (R98). -/
  | hostWriteFailed (f : Fin 64) (q : Fin 9)
  /-- COMPLETION_POST (R93). -/
  | completionPost (f : Fin 64) (r : Fin 8)
  /-- COALESCE_TIMEOUT (R97). -/
  | coalesceTimeout (f : Fin 64) (q : Fin 9)
  /-- MSIX_UNMASK (R97). -/
  | msixUnmask (f : Fin 64) (v : Fin 32)
  /-- LINK_ENABLE (R103). -/
  | linkEnable (by_ : Port) (l : Fin 18)
  /-- LINK_DISABLE (R103). -/
  | linkDisable (by_ : Port) (l : Fin 18)
  /-- LINK_RETRAIN_REQ (R103). -/
  | linkRetrainReq (by_ : Port) (l : Fin 18)
  /-- ECV_CNT_CLR (R144). -/
  | ecvCntClr (by_ : Port) (l : Fin 18)
  /-- LINK_STORM_CLEAR (R125). -/
  | linkStormClear (by_ : Port) (l : Fin 18)
  /-- CLK_LANE_DETECTED (R103). -/
  | clkLaneDetected (l : Fin 18)
  /-- CLK_LOCK_ACHIEVED (R103). -/
  | clkLockAchieved (l : Fin 18)
  /-- BIT_LOCK_DONE (R104). -/
  | bitLockDone (l : Fin 18) (lanes : Fin 256)
  /-- ALIGN_DONE (R103). -/
  | alignDone (l : Fin 18)
  /-- CAPS_COMPLETE (R106). -/
  | capsComplete (l : Fin 18)
  /-- RATE_UP_DONE (R103). -/
  | rateUpDone (l : Fin 18)
  /-- RETRAIN_RELOCK_DONE (R121). -/
  | retrainRelockDone (l : Fin 18)
  /-- TRAIN_STATE_TIMEOUT (R103). -/
  | trainStateTimeout (l : Fin 18)
  /-- HOLD_RETRY_TIMER (R103). -/
  | holdRetryTimer (l : Fin 18)
  /-- FRAME_RECEIVE (R110). -/
  | frameReceive (l : Fin 18) (lanes : List LaneFrame) (frac : Fin 1024)
  /-- LOS_ASSERT (R120). -/
  | losAssert (l : Fin 18)
  /-- LOS_DEASSERT (R120). -/
  | losDeassert (l : Fin 18)
  /-- LOL_ASSERT (R120). -/
  | lolAssert (l : Fin 18)
  /-- LOL_DEASSERT (R120). -/
  | lolDeassert (l : Fin 18)
  /-- LINK_LOSS_TIMEOUT (R124). -/
  | linkLossTimeout (l : Fin 16)
  /-- SAMPLE_CFG_WRITE (R113). -/
  | sampleCfgWrite (by_ : Port) (l : Fin 16) (value : Nat)
  /-- SB_CAPS_LO (R105). -/
  | sbCapsLo (l : Fin 18)
  /-- SB_CAPS_HI (R105). -/
  | sbCapsHi (l : Fin 18)
  /-- SB_ACK (R118). -/
  | sbAck (l : Fin 18)
  /-- SB_NAK (R118). -/
  | sbNak (l : Fin 18)
  /-- SB_RATE_GO (R107). -/
  | sbRateGo (l : Fin 18)
  /-- SB_LP_ENTER (R126). -/
  | sbLpEnter (l : Fin 18)
  /-- SB_TELEM (R117). -/
  | sbTelem (l : Fin 18)
  /-- SB_TILE_ALARM (R117). -/
  | sbTileAlarm (l : Fin 18)
  /-- SB_TT_TX (R139). -/
  | sbTtTx (l : Fin 18)
  /-- SB_TT_RX (R140). -/
  | sbTtRx (l : Fin 18)
  /-- SB_TT_TICK (R446). -/
  | sbTtTick (l : Fin 18)
  /-- SB_RING_STATE (R137). -/
  | sbRingState (l : Fin 18)
  /-- SB_ACK_TIMEOUT (R118). -/
  | sbAckTimeout (l : Fin 18) (seq : Fin 16)
  /-- LP_TX_ENTER (R130). -/
  | lpTxEnter (l : Fin 18)
  /-- LP_IDLE_NOW (R130). -/
  | lpIdleNow (by_ : Port) (l : Fin 16) (value : Nat)
  /-- LP_TX_EXIT (R128). -/
  | lpTxExit (l : Fin 18)
  /-- WAKE_PATTERN_SEEN (R127). -/
  | wakePatternSeen (l : Fin 18)
  /-- LP_RX_EXIT (R128). -/
  | lpRxExit (l : Fin 18)
  /-- LISTEN_NO_SIGNAL_TIMEOUT (R133). -/
  | listenNoSignalTimeout (p : Fin 2)
  /-- RING_MESSAGE_RECEIVE (R136). -/
  | ringMessageReceive (p : Fin 2) (words : List Nat)
  /-- SLOT_BOUNDARY (R167). -/
  | slotBoundary (n : Fin 256)
  /-- SYMBOL_BOUNDARY (R166). -/
  | symbolBoundary (n : Fin 256)
  /-- COMMIT_GO (R152). -/
  | commitGo (by_ : Port) (n : Fin 256) (tick : Nat)
  /-- ACH_LEAVE (R168). -/
  | achLeave (by_ : Port) (n : Fin 256)
  /-- ACH_READMIT (R169). -/
  | achReadmit (by_ : Port) (n : Fin 256)
  /-- ACH_READMIT_HELD_START (R169). -/
  | achReadmitHeldStart (n : Fin 256)
  /-- ACH_CNT_CLR (R145). -/
  | achCntClr (by_ : Port) (n : Fin 256)
  /-- RX_SYMBOL_DONE (R151). -/
  | rxSymbolDone (n : Fin 256) (cc : Fin 8) (sym : Nat) (poisoned : Bool)
  /-- GAIN_SYMBOL_MEASURED (R155). -/
  | gainSymbolMeasured (n : Fin 256)
  /-- GAIN_STEP_APPLY (R157). -/
  | gainStepApply (n : Fin 256)
  /-- ACH_TX_STAGE_START (R41). -/
  | achTxStageStart (n : Fin 256) (cc : Fin 8) (sym : Nat) (ready : Bool)
  /-- TX_WINDOW_OPEN (R161). -/
  | txWindowOpen (n : Fin 256) (w : Fin 8)
  /-- TX_WINDOW_END (R161). -/
  | txWindowEnd (n : Fin 256)
  /-- PA_EDGE (R162). -/
  | paEdge (n : Fin 256) (w : Fin 8) (on : Bool)
  /-- EMERGENCY_RAMP_END (R163). -/
  | emergencyRampEnd (n : Fin 256)
  /-- BR_ENABLE (R174). -/
  | brEnable (by_ : Port) (n : Fin 32) (value : Nat)
  /-- BR_DISABLE (R174). -/
  | brDisable (by_ : Port) (n : Fin 32) (value : Nat)
  /-- BR_STOP_COMPLETE (R174). -/
  | brStopComplete (n : Fin 32)
  /-- BR_OCCASION_START (R176). -/
  | brOccasionStart (n : Fin 32)
  /-- BR_WINDOW_EVAL (R182): window `j` of the occasion. -/
  | brWindowEval (n : Fin 32) (j : Nat)
  /-- BR_GAIN_BLOCK (R177): `poison`: a tap sample of the block that ends was marked poisoned. -/
  | brGainBlock (n : Fin 32) (poison : Bool)
  /-- BR_RECEPTION_CLOSE (R183): of preamble `idx`; `poison`: a tap sample since the last block was marked poisoned. -/
  | brReceptionClose (n : Fin 32) (idx : Fin 64) (poison : Bool)
  /-- BR_SOAK_SPAN_END (R185). -/
  | brSoakSpanEnd (n : Fin 32)
  /-- BR_CNT_CLR (R187). -/
  | brCntClr (by_ : Port) (value : Nat)
  /-- AE_MATMUL (R194). -/
  | aeMatmul (n : Fin 8)
  /-- AE_GRAM (R194). -/
  | aeGram (n : Fin 8)
  /-- AE_JD_MF_SEND (R214). -/
  | aeJdMfSend (n : Fin 8)
  /-- AE_JD_GRAM_SEND (R214). -/
  | aeJdGramSend (n : Fin 8)
  /-- AE_JD_REQ_SEND (R213). -/
  | aeJdReqSend (n : Fin 8)
  /-- AE_COMMAND_READ (R196). -/
  | aeCommandRead (n : Fin 8)
  /-- AE_TILE_DONE (R205). -/
  | aeTileDone (n : Fin 8) (mismatch : Bool)
  /-- AE_COMMAND_COMPLETE (R199). -/
  | aeCommandComplete (n : Fin 8)
  /-- AE_JD_WAIT_TIMEOUT (R216). -/
  | aeJdWaitTimeout (n : Fin 8)
  /-- AE_RES_INJECT (R206). -/
  | aeResInject (by_ : Port) (n : Fin 8)
  /-- AE_CNT_CLR (R201). -/
  | aeCntClr (by_ : Port) (n : Fin 8)
  /-- AE_JD_CNT_CLR (R214). -/
  | aeJdCntClr (by_ : Port)
  /-- LDPC_DEC (R223). -/
  | ldpcDec (k : Fin 8)
  /-- LDPC_ENC (R223). -/
  | ldpcEnc (k : Fin 8)
  /-- POLAR_DEC (R228). -/
  | polarDec (k : Fin 2)
  /-- POLAR_ENC (R228). -/
  | polarEnc (k : Fin 2)
  /-- TURBO_DEC (R228). -/
  | turboDec (k : Fin 2)
  /-- TURBO_ENC (R228). -/
  | turboEnc (k : Fin 2)
  /-- CONV_DEC (R228). -/
  | convDec (k : Fin 2)
  /-- CONV_ENC (R228). -/
  | convEnc (k : Fin 2)
  /-- CODE_HARQ_ENTRY_READ (R231). -/
  | codeHarqEntryRead (k : Fin 12)
  /-- CODE_BLOCK_DONE (R223). -/
  | codeBlockDone (k : Fin 12)
  /-- CODE_JOB_COMPLETE (R238). -/
  | codeJobComplete (k : Fin 12)
  /-- HARQ_FLUSH (R233). -/
  | harqFlush (by_ : Port)
  /-- CODE_CNT_CLR (R234). -/
  | codeCntClr (by_ : Port)
  /-- DESPREAD_PERIOD_END (R243). -/
  | despreadPeriodEnd (n : Fin 256) (obs : Bool) (same : Bool)
  /-- GUARD_EXCHANGE (R245). -/
  | guardExchange (clash : Bool)
  /-- SWEEP_COMPLETE (R246). -/
  | sweepComplete (res : List SweepRes)
  /-- CAL_STORE_SAVE (R259). -/
  | calStoreSave (by_ : Port) (value : Nat)
  /-- CAL_CNT_CLR (R264). -/
  | calCntClr (by_ : Port)
  /-- ISSUE_GROUP (R270). -/
  | issueGroup (e : Fin 256) (busy : Option Nat)
  /-- LOAD_DATA_ARRIVE (R274). -/
  | loadDataArrive (e : Fin 256) (k : Nat)
  /-- STORE_ACK (R287). -/
  | storeAck (e : Fin 256) (k : Nat)
  /-- CC_FILL_COMPLETE (R289). -/
  | ccFillComplete (n : Fin 16)
  /-- CC_WRITEBACK_COMPLETE (R289). -/
  | ccWritebackComplete (n : Fin 16)
  /-- INTERRUPT_TAKEN (R302). -/
  | interruptTaken (e : Fin 256)
  /-- HOLDOFF_OVERRUN (R303). -/
  | holdoffOverrun (e : Fin 256)
  /-- TCMP_TIMER (R296). -/
  | tcmpTimer (e : Fin 256)
  /-- CC_CLEAN_ALL (R288). -/
  | ccCleanAll (by_ : Port) (n : Fin 16)
  /-- CLU_CC_CNT_CLR (R289). -/
  | cluCcCntClr (by_ : Port) (n : Fin 16)
  /-- ENG_HALT (R296). -/
  | engHalt (by_ : Port) (e : Fin 256)
  /-- ENG_STEP (R296). -/
  | engStep (by_ : Port) (e : Fin 256)
  /-- ENG_RESUME (R296). -/
  | engResume (by_ : Port) (e : Fin 256)
  /-- ENG_MBOX_WRITE (R297). -/
  | engMboxWrite (by_ : Port) (e : Fin 256) (value : Nat)
  /-- TASK_ACCEPT (R326). -/
  | taskAccept (addr : Nat)
  /-- SQ_DOORBELL (R331). -/
  | sqDoorbell (by_ : Port) (n : Fin 288) (value : Nat)
  /-- SQ_CFG_WRITE (R331). -/
  | sqCfgWrite (by_ : Port) (n : Fin 288) (value : Nat)
  /-- SQ_DESCRIPTOR_READ (R331). -/
  | sqDescriptorRead (n : Fin 288)
  /-- TASK_COMPLETE (R339). -/
  | taskComplete (u : Fin 320) (k : Fin 4) (st : Fin 16)
  /-- FOLD_RELEASE (R339). -/
  | foldRelease (flow : Fin 4096)
  /-- REL_RD_WRITE (R342). -/
  | relRdWrite (by_ : Port) (flow : Fin 4096) (value : Nat)
  /-- BUNDLE_LOAD (R338). -/
  | bundleLoad (by_ : Port) (index : Fin 1024) (addr : Nat)
  /-- BUNDLE_UNLOAD (R338). -/
  | bundleUnload (by_ : Port) (index : Fin 1024)
  /-- CL_SUBMIT (R346). -/
  | clSubmit (by_ : Port) (value : Nat)
  /-- CL_CANCEL (R348). -/
  | clCancel (by_ : Port) (value : Nat)
  /-- CL_FIRE_DEVICE (R344). -/
  | clFireDevice (act : DevAct)
  /-- SCHED_LEAVE (R352). -/
  | schedLeave (by_ : Port) (u : Fin 2048)
  /-- SCHED_READMIT (R354). -/
  | schedReadmit (by_ : Port) (u : Fin 2048)
  /-- SCHED_SUBST (R354). -/
  | schedSubst (by_ : Port) (u : Fin 2048)
  /-- UNIT_DRAIN_COMPLETE (R353). -/
  | unitDrainComplete (u : Fin 320)
  /-- SPARE_SELFTEST_DONE (R354). -/
  | spareSelftestDone (u : Fin 320) (pass : Bool)
  /-- UNIT_ADMIT_COMPLETE (R354). -/
  | unitAdmitComplete (u : Fin 320)
  /-- ROUTE_CHANGE (R365). -/
  | routeChange (by_ : Port) (gen : Nat)
  /-- PACKET_ARRIVE (R367). -/
  | packetArrive (pkt : Pkt) (answered : Bool) (clash : Bool)
  /-- FLIT_CRC_FAIL (R362). -/
  | flitCrcFail (router : Fin 80) (out : Fin 4) (first : Bool)
  /-- PORT_ISOLATE (R369). -/
  | portIsolate (port : Fin 320)
  /-- FAB_READMIT (R370). -/
  | fabReadmit (by_ : Port) (port : Nat)
  /-- FAB_PROBE_RESULT (R370). -/
  | fabProbeResult (ok : Bool)
  /-- BANK_HANDOVER (R377). -/
  | bankHandover (by_ : Port) (cluster : Fin 16) (bank : Fin 32) (value : Nat)
  /-- RET_REQUEST_WRITE (R387). -/
  | retRequestWrite (by_ : Port) (target : Fin 17) (value : Nat)
  /-- BANK_RETAIN_ENTER (R387). -/
  | bankRetainEnter (index : Fin 576)
  /-- BANK_RETAIN_DONE (R387). -/
  | bankRetainDone (index : Fin 576)
  /-- MEM_CNT_CLR (R383). -/
  | memCntClr (by_ : Port)
  /-- DARNER_REPAIR (R397). -/
  | darnerRepair (bucket : Fin 128)
  /-- TMR_CHECK (R401). -/
  | tmrCheck (upset : List (Fin 96))
  /-- INTEG_INJECT_ARM (R411). -/
  | integInjectArm (by_ : Port) (value : Nat)
  /-- INTEG_CNT_CLR (R404). -/
  | integCntClr (by_ : Port)
  /-- PLR_LOAD_START (R415). -/
  | plrLoadStart (r : Fin 8) (img : PlrImage)
  /-- PLR_DRAIN_TIMEOUT (R415). -/
  | plrDrainTimeout (r : Fin 8)
  /-- PLR_FRAMES_DONE (R416). -/
  | plrFramesDone (r : Fin 8) (found : Option (Nat × Nat))
  /-- PLR_CHECK_DONE (R415). -/
  | plrCheckDone (r : Fin 8) (pass : Bool)
  /-- PLR_UNLOAD (R417). -/
  | plrUnload (by_ : Port) (r : Fin 8)
  /-- PLR_TASK_ACCEPT (R418). -/
  | plrTaskAccept (p : Fin 32)
  /-- PLR_TASK_DONE (R418). -/
  | plrTaskDone (p : Fin 32) (slot : Fin 4) (status : Fin 256)
  /-- PLR_MASTER_REQUEST (R418). -/
  | plrMasterRequest (r : Fin 8) (write : Bool) (addr : Nat) (bytes : Nat) (data : Nat) (poison : Nat)
  /-- PLR_POISON_PULSE (R418). -/
  | plrPoisonPulse (r : Fin 8) (kind : Fin 16)
  /-- PLR_INPUT_FIRE (R423). -/
  | plrInputFire (p : Fin 144) (lvl : Bool)
  /-- PLR_STORM_UNMASK (R424). -/
  | plrStormUnmask (by_ : Port) (q : Fin 3) (value : Nat)
  /-- BANK_SUPPLY_CHANGE (R420). -/
  | bankSupplyChange (b : Fin 6) (mv : Nat)
  /-- PLR_CNT_CLR (R418). -/
  | plrCntClr (by_ : Port)
  /-- ETH_FRAME_RECEIVE (R428). -/
  | ethFrameReceive (q : Fin 16) (f : EthFrame)
  /-- UPLANE_RECEIVE (R435). -/
  | uplaneReceive (q : Fin 16) (m : UMsg)
  /-- UPLANE_WINDOW_CLOSE (R435). -/
  | uplaneWindowClose (r : Fin 32) (prach : Bool) (sfn : Fin 1024) (sym : Nat)
  /-- CPLANE_SEND (R434). -/
  | cplaneSend (f : Fin 64) (ring : Fin 8) (count : Nat)
  /-- PRACH_CPLANE_SEND (R434). -/
  | prachCplaneSend (r : Fin 32) (slot : Nat)
  /-- UPLANE_SEND (R436). -/
  | uplaneSend (r : Fin 32) (sfn : Fin 1024) (sym : Nat) (ready : Bool)
  /-- RU_ENABLE (R432). -/
  | ruEnable (by_ : Port) (r : Fin 32) (value : Nat)
  /-- OWD_REQUEST (R438). -/
  | owdRequest (by_ : Port) (r : Fin 32)
  /-- OWD_RESPONSE (R438). -/
  | owdResponse (r : Fin 32) (delay : Int)
  /-- OWD_TIMEOUT (R438). -/
  | owdTimeout (r : Fin 32)
  /-- PTP_MESSAGE_RECEIVE (R440). -/
  | ptpMessageReceive (q : Fin 16) (msg : PtpMsg)
  /-- PTP_SEND_TIMER (R440). -/
  | ptpSendTimer (q : Fin 16) (kind : Fin 3)
  /-- ESMC_SEND_TIMER (R441). -/
  | esmcSendTimer (q : Fin 16)
  /-- ESMC_RECEIVE (R441). -/
  | esmcReceive (q : Fin 16) (ql : Fin 16)
  /-- ESMC_TIMEOUT (R441). -/
  | esmcTimeout (q : Fin 16)
  /-- PPS_IN_EDGE (R442): `half` nanoseconds halves into the own tick. -/
  | ppsInEdge (half : Fin 66)
  /-- DOMAIN_REQUEST (R453). -/
  | domainRequest (by_ : Port) (d : Fin 64) (st : Fin 4)
  /-- DOMAIN_IDLE (R453). -/
  | domainIdle (d : Fin 64)
  /-- DOMAIN_IDLE_TIMEOUT (R453). -/
  | domainIdleTimeout (d : Fin 64)
  /-- DOMAIN_WAKE_DONE (R449). -/
  | domainWakeDone (d : Fin 64)
  /-- DOMAIN_ENTRY_DONE (R453). -/
  | domainEntryDone (d : Fin 64)
  /-- DOM_PEND_CANCEL (R454). -/
  | domPendCancel (by_ : Port) (d : Fin 64)
  /-- DOM_PEND_CNT_CLR (R454). -/
  | domPendCntClr (by_ : Port) (d : Fin 64)
  /-- SHED_STAGE_ENTER (R463). -/
  | shedStageEnter (k : Fin 7) (v : Fin 1024)
  /-- SHED_STAGE_CLEAR (R464). -/
  | shedStageClear (v : Fin 1024)
  /-- PWR_WARN_DEASSERT (R464). -/
  | pwrWarnDeassert (railDone : Bool)
  /-- SHED_STAGE_CLR_WRITE (R465). -/
  | shedStageClrWrite (by_ : Port) (v : Fin 1024)
  /-- SOAK_TX (R468). -/
  | soakTx (q : Fin 4)
  /-- SOAK_WAKE (R469). -/
  | soakWake (src : Fin 9) (link : Fin 18)
  /-- IMAGE_VERIFY_DONE (R475). -/
  | imageVerifyDone (code : List EngImage)
  /-- HOST_DONE (R483). -/
  | hostDone (by_ : Port)
  /-- NEW_NONCE (R488). -/
  | newNonce (by_ : Port)
  /-- PLL_LOL (R495). -/
  | pllLol (p : Fin 12)
  /-- PLL_RELOCK (R495). -/
  | pllRelock (p : Fin 12)
  /-- REFCLK_LOSS (R496). -/
  | refclkLoss (b : Bool)
  /-- SENSOR_ROUND (R511). -/
  | sensorRound (temps : List (Option Int)) (volts : List (Option Nat))
  /-- AGEING_COMPUTE (R519). -/
  | ageingCompute (counts : List Nat) (acked : Bool)
  /-- I2C_READ32 (R506). -/
  | i2cRead32 (addr : Fin 0x10000000)
  /-- I2C_WRITE32 (R506). -/
  | i2cWrite32 (addr : Fin 0x10000000) (value : BitVec 32)
  /-- I2C_READ64 (R506). -/
  | i2cRead64 (addr : Fin 0x10000000)
  /-- I2C_WRITE64 (R506). -/
  | i2cWrite64 (addr : Fin 0x10000000) (value : BitVec 64)
  /-- I2C_WARM_RESET (R506). -/
  | i2cWarmReset (key : Fin 65536)
  /-- JTAG_SAMPLE_PRELOAD (R507). -/
  | jtagSamplePreload (pins : Nat) (next : Nat)
  /-- JTAG_EXTEST (R508). -/
  | jtagExtest (pins : Nat) (next : Nat)
  /-- JTAG_EXTEST_PULSE (R507). -/
  | jtagExtestPulse (pins : Nat) (next : Nat)
  /-- JTAG_EXTEST_TRAIN (R507). -/
  | jtagExtestTrain (pins : Nat) (next : Nat)
  /-- JTAG_DEBUG_ACCESS (R507). -/
  | jtagDebugAccess (acc : Option DebugAcc)
  /-- SUPPLY_LOSS (R461). -/
  | supplyLoss (aon : Bool)
  /-- TT_FRAME_SEND (R139). -/
  | ttFrameSend (l : Fin 18) (frac : Fin 1024)
  /-- SB_UNSUPPORTED_CMD (R117). -/
  | sbUnsupportedCmd (l : Fin 18)
  /-- ETH_LINK_CHANGE (R443). -/
  | ethLinkChange (q : Fin 16) (up : Bool)
  /-- REFCLK_RETURN (R496). -/
  | refclkReturn (b : Bool)
  /-- PCIE_LINK_UP (R76). -/
  | pcieLinkUp (gen : Fin 8) (width : Fin 32) (flit : Bool)
  /-- POWER_ON_RESET (R50). -/
  | powerOnReset
  /-- PCIE_RESET (R56). -/
  | pcieReset
  /-- RELAY_REACHED (R58). -/
  | relayReached
  /-- HW_SHED_EXIT (R64). -/
  | hwShedExit
  /-- TRANSITION_COMPLETE (R73). -/
  | transitionComplete
  /-- DRAIN_END (R66). -/
  | drainEnd
  /-- DRAIN_TIMEOUT (R66). -/
  | drainTimeout
  /-- LISTEN_COMPLETE (R133). -/
  | listenComplete (vw ve : Fin 4)
  /-- RING_STATE_TIMER (R137). -/
  | ringStateTimer
  /-- PEER_CHANGE_APPLY (R137). -/
  | peerChangeApply
  /-- FRAME_BOUNDARY (R445). -/
  | frameBoundary
  /-- AE_MEM_COPY_DONE (R210). -/
  | aeMemCopyDone
  /-- HARQ_FLUSH_COMPLETE (R233). -/
  | harqFlushComplete
  /-- HARQ_TTL_SWEEP (R232). -/
  | harqTtlSweep
  /-- TEMP_READ_TIMER (R249). -/
  | tempReadTimer
  /-- CAL_STORE_WRITE_COMPLETE (R259). -/
  | calStoreWriteComplete
  /-- ERASE_LEFTOVER_DONE (R258). -/
  | eraseLeftoverDone
  /-- DISPATCH (R334). -/
  | dispatch
  /-- TASK_DEADLINE_PASSED (R336). -/
  | taskDeadlinePassed
  /-- TASK_HANG (R336). -/
  | taskHang
  /-- BUNDLE_LOAD_COMPLETE (R338). -/
  | bundleLoadComplete
  /-- CL_ENTRY_INSERT (R346). -/
  | clEntryInsert
  /-- CL_FIRE_TASK (R347). -/
  | clFireTask
  /-- CL_FIRE_POWER (R347). -/
  | clFirePower
  /-- CL_FIRE_WRITE32 (R347). -/
  | clFireWrite32
  /-- ROUTE_DRAIN_COMPLETE (R365). -/
  | routeDrainComplete
  /-- ROUTE_CHANGE_TIMEOUT (R365). -/
  | routeChangeTimeout
  /-- HANDOVER_APPLY (R377). -/
  | handoverApply
  /-- HBM_FILL_COMPLETE (R390). -/
  | hbmFillComplete
  /-- PATROL_READ (R398). -/
  | patrolRead
  /-- PATROL_PERIOD_START (R398). -/
  | patrolPeriodStart
  /-- BUCKET_UPDATE (R404). -/
  | bucketUpdate
  /-- PLR_STORM_CHECK (R424). -/
  | plrStormCheck
  /-- PPS_IN_LOSS (R443). -/
  | ppsInLoss
  /-- PPS_OUT_EDGE (R442). -/
  | ppsOutEdge
  /-- TIME_LOCK_TIMER (R443). -/
  | timeLockTimer
  /-- REVERT_WTR_TIMER (R443). -/
  | revertWtrTimer
  /-- TIME_ALARM (R443). -/
  | timeAlarm
  /-- RING_HOLD_TIMER (R446). -/
  | ringHoldTimer
  /-- MANGLE_RAMP_DONE (R458). -/
  | mangleRampDone
  /-- PWR_WARN_ASSERT (R463). -/
  | pwrWarnAssert
  /-- SOAK_DOMAIN_RETURN (R468). -/
  | soakDomainReturn
  /-- SOAK_MAX_SLEEP_TIMER (R469). -/
  | soakMaxSleepTimer
  /-- HOST_IMAGE_TIMEOUT (R483). -/
  | hostImageTimeout
  /-- FUSE_PROGRAM_DONE (R478). -/
  | fuseProgramDone
  /-- ATTEST_SIGN_DONE (R492). -/
  | attestSignDone
  /-- FLASH_OP_DONE (R486). -/
  | flashOpDone
  /-- AVS_TIMEOUT (R503). -/
  | avsTimeout
  /-- I2C_WAKE (R506). -/
  | i2cWake
  /-- I2C_STATUS (R506). -/
  | i2cStatus
  /-- JTAG_RESET (R507). -/
  | jtagReset
  /-- JTAG_BYPASS (R507). -/
  | jtagBypass
  /-- JTAG_IDCODE (R509). -/
  | jtagIdcode
  /-- JTAG_CLAMP (R507). -/
  | jtagClamp
  /-- JTAG_HIGHZ (R507). -/
  | jtagHighz
  /-- BROWN_OUT_RELEASE (R50). -/
  | brownOutRelease
  /-- OSC_10M_PRESENCE_CHANGE (R439). -/
  | osc10mPresenceChange
  deriving DecidableEq, Repr

end Sys2Proof
end

