-- ==== Sys2Proof/Decode.lean ====
section
/-! DEFINITION. Commands spelled as words. The table of commands gives no row any bits (the device takes its commands from
pins, links, clocks and accesses, not from an instruction memory), so no word spells a command (log entry 1). -/
namespace Sys2Proof

/-- The command that a word of the table's bits spells: none, since no row of the table has bits. -/
def decodeTableWord (_nbits _w : Nat) : Option Instr := none

end Sys2Proof
end

