-- ==== Sys2Proof/Config.lean ====
section
/-! DEFINITION. What the spec leaves open: free values. Each is an opaque constant without a body, applied to the counter
`Chip.free`, so that nothing can be proved of its value (log entry 4). -/
namespace Sys2Proof.Config

/-- Data of a load that reads a dual-port word in the cycle in which the other port writes it (R287, R321, R382). -/
opaque loadData : Nat → BitVec 128

/-- SHA-384 of a sequence of bytes: the spec uses it and defines it elsewhere. -/
opaque sha384 : List (BitVec 8) → BitVec 384

/-- A carrier's channel filter (R146): its amplitude response, in units of its own, at an offset in Hz from the carrier's
centre. Bounds of R146 are put on it in Machine/Ach.lean. -/
opaque filterGain : Nat → Int → BitVec 64

/-- Receive steps 6 and 7 of R145 for one symbol of a carrier: from the carrier's word, its filter's response and the samples
of the symbol's ticks, the value of a subcarrier. The rounding inside shift, filter and FFT is not stated. -/
opaque rxBin : Nat → (Int → Nat) → List (Int × Int) → Nat → Int × Int

/-- Transmit steps 3 and 4 of R145: from the carrier's word, its filter's response and the subcarriers of a symbol, the sample
at a distance from the symbol's first one; past the symbol it goes on cyclically (R161). -/
opaque txTime : Nat → (Int → Nat) → List (Int × Int) → Nat → Int × Int

/-- Interpolation from and decimation to 245.76 Msps (R145): the samples before, the samples, and which sample results. -/
opaque interp2 : List (Int × Int) → List (Int × Int) → Nat → Int × Int
opaque decim2 : List (Int × Int) → Nat → Int × Int

/-- The first-order loop of DC removal (R166): from DC_TC, the estimate and a sample, the next estimate. -/
opaque dcNext : Nat → Int × Int → Int × Int → Int × Int

/-- A sample after crest-factor reduction (R165): from the passes, THR, the carriers' words and the samples of a tick. -/
opaque cfrSample : Nat → Nat → List Nat → List (Int × Int) → Nat → Int × Int

/-- The waveform of injected tones (R241): from LEVEL, the tones as grid points with their chips, the subcarriers of the
antenna's NR and LTE carriers in the symbol, the sample at a distance from the symbol's first one. -/
opaque injTime : Nat → List (Int × Nat) → List (List (Int × Int)) → Nat → Int × Int

/-- The burst of a guard-period exchange (R245) before its ramps: from EXCH_ATT, the link whose Walsh cover it carries and the
distance from its first sample. -/
opaque burst : Nat → Nat → Nat → Int × Int

/-- What a level in decibels reads as where its power is zero (R173, R179): the spec states no logarithm of 0. -/
opaque levelOfZero : BitVec 16

/-- Shift to a burst receiver's band centre and decimation to its rate (R175): from the SCS code, CF_OFFSET and the tap's
samples of a span that begins 64 receiver samples earlier, a receiver sample of the span. -/
opaque brDown : Nat → Nat → List (Int × Int) → Nat → Int × Int

/-- Power of the cyclic correlation of a window with a preamble's sequence, by lag, with the sequence length removed (R172,
R173, R179): from FAMILY, the SCS code, the root or the NPRACH subcarrier, and the window's samples. -/
opaque brProfile : Nat → Nat → Nat → List (Int × Int) → Nat → Nat

/-- Where between two lags a peak lies, in sixteenths of a tick (R180). -/
opaque brFine : List (Int × Int) → Nat → Nat

/-- Physical root of a logical root index by FAMILY, and N_CS by FAMILY, SCS code and NCS_CFG: the tables of TS 38.211 and
TS 36.211 (R172). -/
opaque raRoot : Nat → Nat → Nat
opaque raShift : Nat → Nat → Nat → Nat

/-- The supported frequency that a reference clock is measured to be nearest to, as the code of CLK_REF_CFG (R525). -/
opaque refFreq : Nat → BitVec 2

/-- What the Steamer measures, by subband: the despread estimate T of a period (R243), and the factor by which the uplink
statistics of a period correct a receive coefficient, Q2.14 (R247). -/
opaque calT : Nat → Nat → Int × Int
opaque calUl : Nat → Nat → BitVec 32

/-- Qualifying pairs and fitted ratio of a sweep in a subband, temperature slope and gain factor (R246, R248, R249). -/
opaque calPairs : Nat → Nat → Nat
opaque calRho : Nat → Nat → BitVec 32
opaque calSlope : Nat → Nat → BitVec 64
opaque calGain : Nat → Nat → BitVec 32

/-- Hash of the public key programmed in a slot of a key algorithm, RSA and SLH-DSA (R477). -/
opaque rsaKeyHash : Nat → BitVec 384
opaque slhKeyHash : Nat → BitVec 384

/-- RSASSA-PSS verification (RFC 8017) of a signature over a digest under modulus and exponent, and SLH-DSA-SHA2-128s
verification (FIPS 205) under a public key: the spec uses both and defines neither (R474). -/
opaque rsaVerifies : List (BitVec 8) → List (BitVec 8) → BitVec 384 → Bool
opaque slhVerifies : List (BitVec 8) → List (BitVec 8) → BitVec 384 → Bool

/-- Identity key block of the device, and its two signatures of a report digest (R490, R491). -/
opaque identity : BitVec 3584
opaque rsaSign : BitVec 384 → Nat → BitVec 3072
opaque slhSign : BitVec 384 → Nat → BitVec 62848

/-- A fresh nonce (R488). -/
opaque nonce : Nat → BitVec 128

/-- Fuse bits that a programming cut off by a reset has blown (R478). -/
opaque fuseBlown : Nat → BitVec 136

/-- The NPRACH configuration is of format 1, not 0, by its NCS_CFG: the spec does not say which field tells (R172). -/
opaque nprachFormat1 : Nat → Bool

/-- Parts of an output element of a tile whose every attempt failed its residue check (R205). -/
opaque pressValue : Nat → Nat → BitVec 32

/-- The decoders of the 3GPP codes: the spec names the standards and algorithms and does not restate their matrices
(R223, R228). Of a block's parameters and, for every soft value, the bit it favours and how strongly: after a number of
iterations the information bits, and whether every parity check holds. -/
opaque decBits : List Nat → List (Option Bool × Nat) → Nat → Nat
opaque decHolds : List Nat → List (Option Bool × Nat) → Nat → Bool

/-- The parity bits of an LDPC block, by base graph, lifting size, K' and the block's bits; the mother code of a polar block, by
operation, K, N and the block's bits: the tables of TS 38.212 are not restated (R223, R228). Bit k of the value is bit k of
the sequence. -/
opaque ldpcParity : Nat → Nat → Nat → Nat → Nat
opaque polarMother : Nat → Nat → Nat → Nat → Nat

/-- Coefficients of the turbo code's internal interleaver for K: the table of TS 36.212 is not restated (R228). -/
opaque qpp : Nat → Nat × Nat

/-- After which iteration a decoder stops when the deadline passes (R236): time within a block is not modelled. -/
opaque stopIter : Nat → Nat

/-- Which of the free slabs a job is given: the spec states no order (R232). -/
opaque slabPick : Nat → Nat

/-- Which line of a full control cache makes room for another: the spec states no order (R288). -/
opaque lineOut : Nat → Nat

/-- Activity current of the units in 0.1 A units, of which PWR_MANGLE_STAT.I_EST is an estimate (R458). -/
opaque activityCurrent : Nat → BitVec 16

/-- The device's trimmed VDD_CORE target in mV at a junction temperature in eighths of a degree (R520). -/
opaque avsBase : Int → BitVec 16

/-- Reference count of an ageing oscillator, scaled to the present target and temperature by its trimmed coefficients, at
one computation (R519): the trims are not given. -/
opaque ageRef : Nat → Nat → BitVec 32

/-- What a region's logic drives on the ports of a memory block at a clock edge, and how many edges fall in a tick: the logic is
the image's own, and the cell-level timing model is not in the spec (R412, R413). -/
opaque plrDrive : Nat → Nat → Nat → BitVec 288
opaque plrEdges : Nat → Nat → BitVec 5

/-- Data of a port B read of the word that port A writes in the same cycle (R419). -/
opaque plrRead : Nat → BitVec 128

/-- The manufacturer's identity in IDCODE (R509): the spec does not give its value. -/
opaque manufacturer : BitVec 11

/-- Quality level of a frequency source other than SyncE, by its FREQ_SRC code (R441). -/
opaque sourceQl : Nat → BitVec 4

end Sys2Proof.Config
end

