-- ==== Sys2Proof/Machine/State.lean ====
section
/-! DEFINITION. The state of the device as plain data: the queue of commands that are waiting and the chip. Every
control-space register field stands in `Chip.regs` (one entry per field that differs from its reset value, the fields
themselves are in Machine/Fields.lean); everything else the spec gives the device and that no register shows stands in
one structure per block. -/
namespace Sys2Proof.Machine

/-! ## Tables and register fields -/

/-- A sparse table: strictly rising keys, no entry equal to what an unlisted key reads as. -/
abbrev Tbl (α : Type) := List (Nat × α)

/-- Access codes of register fields (R18). -/
inductive Acc | rw | ro | wo | w1c | w1s | rwv | lck
  deriving DecidableEq, Repr

/-- One field of a register: its number, its lowest bit, its width, its reset value and its access code. -/
structure Fld where
  id : Nat
  lo : Nat
  w : Nat
  rst : Nat
  acc : Acc
  deriving DecidableEq, Repr

/-- One register of the map: address of instance 0, strides and counts of its two indices, width in bytes, write modes
(bit k: mode code k), fields. -/
structure RegInfo where
  name : String
  base : Nat
  stride1 : Nat
  count1 : Nat
  stride2 : Nat
  count2 : Nat
  bytes : Nat
  modes : Nat
  fields : List Fld
  deriving DecidableEq, Repr

/-- Status codes of R34; values 0x10–0xFF are reserved (R35). -/
inductive Status
  | ok | poisoned | domainOff | targetIsolated | notOwner | deadlineMissed | superseded | recomputed
  | badDescriptor | versionMismatch | shed | abortedByQuiesce | accessDenied | narrowWrite | gap | storm
  deriving DecidableEq, Repr

/-! ## What leaves the device -/

/-- What the device puts outside itself, in the order it does so. -/
inductive Out
  /-- Status of a control-space access, to its requester (R15, R16). -/
  | access (port : Port) (st : Status)
  /-- Data and status of a read, and the marks of its poisoned words (R29). -/
  | readData (port : Port) (data : Nat) (st : Status) (poison : Nat)
  /-- An MSI-X message (R97). -/
  | msix (fn vec : Nat)
  /-- A sideband message queued on an Ecrov link, as its 64 bits (R116). -/
  | sideband (link : Nat) (msg : Nat)
  /-- A frame of an Ecrov link as it leaves: its FRAME_SEQ, the 8,192 bits of each lane, lane 0 first (R108, R109). -/
  | frame (link seq : Nat) (lanes : List Nat)
  /-- The fast-exit burst of an Ecrov link: the 1,024 bits of each lane before the marker (R128). -/
  | burst (link : Nat) (lanes : List Nat)
  /-- A ring message on a ring port: words, header first (R138). -/
  | ringMsg (link : Nat) (words : List Nat)
  /-- A ring message forwarded to a ring port (R136). -/
  | ringFwd (link : Nat) (words : List Nat)
  /-- An Ethernet frame: port, kind, fields. -/
  | eth (port : Nat) (kind : String) (fields : List Nat)
  /-- State that a pin group of the table of R54 takes. -/
  | pins (group state : String)
  /-- Level of a pin or a named output. -/
  | pin (name : String) (level : Nat)
  /-- Transmit action of an antenna channel: kind, tick, data words. -/
  | radio (ch : Nat) (kind : String) (tick : Nat) (data : List Nat)
  /-- A timed or untimed low-level action on a link (electrical idle, wake pattern, fast-exit burst …). -/
  | linkAct (link : Nat) (kind : String) (arg : Nat)
  /-- A management-port (I²C) response; the mark of a poisoned word does not go over I²C, which returns the value alone
  (R506). -/
  | i2c (status : Nat) (data : Nat) (poison : Nat)
  /-- A JTAG register shifted out. -/
  | jtag (reg : String) (value : Nat)
  /-- AVSBus target voltage in mV. -/
  | avs (mv : Nat)
  /-- A configuration or non-posted request answered during a warm reset, or a TLP error. -/
  | tlp (kind : String)
  /-- Write to host memory sent as a poisoned TLP (R100). -/
  | poisonedTlp (addr : Nat)
  /-- Region output lines towards PLR logic: region, line, value. -/
  | plr (region : Nat) (line : String) (value : Nat)
  deriving DecidableEq, Repr

/-! ## DEV: supplies, pins, modes -/

/-- What BYPASS is being held for (R50). -/
inductive Held | none | release | brownOut | thermal
  deriving DecidableEq, Repr

/-- The phase of a mode transition in progress. -/
inductive TransPhase
  /-- The boot ROM is bringing the device to RELAY (R58). -/
  | boot
  /-- Images are being loaded and verified (R475, R483). -/
  | verify
  /-- Slot intake is closed and started slots are running to their end (R66). -/
  | drain
  /-- Everything the transition waits for is under way. -/
  | run
  /-- A warm reset has begun and RELAY is not yet reached (R52). -/
  | warm
  deriving DecidableEq, Repr

/-- A mode transition in progress (R69). -/
structure Trans where
  /-- Mode it started from. -/
  source : Nat
  /-- Mode it ends in. -/
  target : Nat
  phase : TransPhase
  /-- Status of the MODE event at its end (a failed verification, R69). -/
  fail : Status := .ok
  /-- Hardware asked for it. -/
  hw : Bool := false
  deriving DecidableEq, Repr

/-- Device state of R47–R75 that no register shows. -/
structure DevSt where
  vddAon : Bool := true
  vddSvc : Bool := true
  pwrgd : Bool := false
  resetN : Bool := false
  perstN : Bool := true
  /-- Levels at the strap pins, placed as the bits of DEV_STRAPS. -/
  strapPins : Nat := 0
  held : Held := .release
  /-- THERMTRIP_N asserted (R53). -/
  thermtrip : Bool := false
  /-- ALERT_N asserted. -/
  alert : Bool := false
  /-- LCK fields still take writes (R19, R51). -/
  lckOpen : Bool := true
  trans : Option Trans := none
  /-- The last reset makes the AUTO_VERIFY strap act (R56's strap table). -/
  autoVerify : Bool := false
  /-- Hardware causes that hold SHED (R64): bit 0 stage S4, bit 1 PWR_WARN_N, bit 2 temperature. -/
  shedCauses : Nat := 0
  /-- A PCIe reset came during a passage through QUIESCE: its completions are discarded (R56). -/
  pcieDiscard : Bool := false
  /-- Configuration requests are answered with retry status (R52, R58). -/
  cfgRetry : Bool := true
  /-- A warm reset triggered whose ramps still run: the field of its cause (R52). -/
  warm : Option Nat := none
  /-- Column of the pin table of R54 in force: 0 unpowered, 1 in reset or BYPASS, 2 from RELAY. -/
  pinCol : Nat := 1
  /-- The three copies of a boot-configuration field in the service-die flash, by `Fld.key`; an unlisted field has its
  ROM default in all three (R58, R61, R525). -/
  bootcfg : Tbl (Nat × Nat × Nat) := []
  /-- Free spares still to be tested in a VERIFY-to-SERVICE transition (R517): 0–15 engine spares, 16 the Press's. -/
  spareTests : List Nat := []
  deriving DecidableEq, Repr

/-! ## HIF -/

/-- Progress of a fetched host command. -/
inductive CmdStage
  /-- Read, not yet checked. -/
  | fetched
  /-- Entry checked, item table being read. -/
  | table
  /-- Handed to the unit that executes it; started. -/
  | started
  /-- Finished, waiting for its turn to be posted. -/
  | finished
  deriving DecidableEq, Repr

/-- One host command in flight (R84–R94). -/
structure HostCmd where
  fn : Nat
  ring : Nat
  /-- Count of the command in its ring; its index is this modulo the ring size. -/
  count : Nat
  /-- Words 0–2 of the entry. -/
  w0 : Nat
  w1 : Nat
  w2 : Nat
  stage : CmdStage
  /-- Status held so far and the mask of every status that held. -/
  status : Status
  cond : Nat
  nOk : Nat
  nFail : Nat
  /-- Command-area slot (R329), for UL_SLOT and DL_SLOT. -/
  slot : Option Nat
  /-- Task entry of its slot task. -/
  task : Option Nat
  /-- Outputs and completion are discarded (R99). -/
  discard : Bool
  /-- Minor version agreed at the fetch (R79). -/
  minor : Nat
  /-- Status of its released slot task, and whether a unit ran it (R330). -/
  rel : Option (Status × Bool) := none
  /-- Tick of its fetch (R88). -/
  fetchTick : Nat := 0
  /-- Carrier and layer limit of the served cell at the fetch, and whether the function held the cell then (R78, R87). -/
  carrier : Option (Nat × Nat) := none
  cellOk : Bool := true
  /-- The item table as it was read, four words to an item (R86). -/
  table : List Nat := []
  /-- Downlink items above layer 15 that stage S3 sheds (R42). -/
  shed : List Nat := []
  deriving DecidableEq, Repr

/-- Ring state beside the ring descriptor registers. -/
structure RingX where
  /-- Completion entries reserved by fetched commands (R94). -/
  reserved : Nat := 0
  /-- Entries counted towards the interrupt and the tick of the first of them (R97). -/
  coalN : Nat := 0
  coalTick : Nat := 0
  /-- Events lost since the last EVENTS_LOST (R96). -/
  lost : Nat := 0
  /-- RESET in progress (R99). -/
  resetting : Bool := false
  /-- Stopped by a ring error, not RESET since (R81). -/
  mustReset : Bool := false
  /-- SLOT_START of the last slot command since ENABLE (R87). -/
  lastStart : Option Nat := none
  deriving DecidableEq, Repr

/-- One MSI-X table entry (PCIe layout, log entry 8). -/
structure MsixEntry where
  addrLo : Nat := 0
  addrHi : Nat := 0
  data : Nat := 0
  masked : Bool := true
  pending : Bool := false
  deriving DecidableEq, Repr

/-- Host-interface state. -/
structure HifSt where
  rings : Tbl RingX := []
  inflight : List HostCmd := []
  /-- Commands whose completion may be posted, in the order in which they became postable (R93). -/
  post : List (Nat × Nat × Nat) := []
  msix : Tbl MsixEntry := []
  deriving DecidableEq, Repr

/-! ## PWR -/

/-- One Mangle ramp (R458). -/
structure Ramp where
  /-- The domain ramped, none for a clock ramp of stage S2. -/
  dom : Option Nat
  rising : Bool
  deriving DecidableEq, Repr

/-- Power-domain state beside PWR_DOM_STAT. -/
structure DomX where
  /-- The ramp has ended and the wake or entry time runs. -/
  ramped : Bool := false
  /-- State entered directly after the wake to ON (R453). -/
  next : Option Nat := none
  /-- State the domain held when the shed lock took it (R456). -/
  saved : Option Nat := none
  deriving DecidableEq, Repr

/-- Power-controller state. -/
structure PwrSt where
  ramps : List Ramp := []
  doms : Tbl DomX := []
  /-- Domains disabled by fuse (R456). -/
  fuseOff : Nat := 0
  /-- Domains returned to their SOAK state 50 µs after their span (R467, R468). -/
  soakReturn : List Nat := []
  /-- The occurrence of each PWR_SOAK_TX entry that comes next: its tick, and whether its domains have been asked for
  (R468). -/
  soakOcc : Tbl (Nat × Bool) := []
  /-- The bleed cells have fired (R461). -/
  bleed : Bool := false
  /-- The locks of stage S5 wait for the tiles and code blocks in progress (R209, R237, R456). -/
  lockWait : Bool := false
  deriving DecidableEq, Repr

/-! ## FAB and MEM -/

/-- A response packet: to which source and transaction, status, data and poison flags (bit k: word k). -/
structure Rsp where
  src : Nat
  txn : Nat
  status : Status
  data : Nat
  poison : Nat
  deriving DecidableEq, Repr

/-- Network state (R357–R372). -/
structure FabSt where
  /-- Anterooms by endpoint port, in arrival order. -/
  ante : Tbl (List Pkt) := []
  /-- Requests delivered and not yet answered, by port. -/
  open_ : Tbl (List Pkt) := []
  /-- Responses on their way to their source. -/
  rsp : List Rsp := []
  /-- Next generation of a route change whose switch has been made (R365). -/
  change : Option Nat := none
  /-- Consecutive replays of the head flit of a mesh link (4r + d) (R362). -/
  replays : Tbl Nat := []
  deriving DecidableEq, Repr

/-- A bank handover accepted and not yet applied (R377). -/
structure Handover where
  cluster : Nat
  bank : Nat
  portB : Bool
  owner : Nat
  by_ : Port
  deriving DecidableEq, Repr

/-- Retention phase of a bank or pool group (R387). -/
inductive RetPhase | on | entering | retained | leaving
  deriving DecidableEq, Repr

/-- Memory state beside the MEM registers. -/
structure MemSt where
  handovers : List Handover := []
  /-- Retention phase by bank (32·c + b) and pool group (512 + g). -/
  ret : Tbl RetPhase := []
  /-- Accesses waiting at a bank in retention or behind the HBM fill. -/
  waiting : List Pkt := []
  /-- Stacks (0, 1) whose fill is running and stacks never filled since the last reset. -/
  filling : List Nat := []
  unfilled : List Nat := [0, 1]
  /-- Tick at which the running fill of a stack began. -/
  fillTick : Tbl Nat := []
  /-- What accesses of the command under way wait for (R38): a domain not ON, 64 + the index of a bank or pool group in
  RETAIN, 640 for a running fill; empty between commands. -/
  asleep : List Nat := []
  deriving DecidableEq, Repr

/-! ## INTEG -/

/-- Weight added to a bucket in the current millisecond, with the kind and address of its last increment. -/
structure BucketAdd where
  weight : Nat := 0
  kind : Nat := 0
  addr : Nat := 0
  deriving DecidableEq, Repr

/-- Integrity state beside the INTEG registers. -/
structure IntegSt where
  repair : Tbl (List Nat) := []
  adds : Tbl BucketAdd := []
  ms : Nat := 0
  /-- Words visited in the current pass, and whether the pass is over. -/
  patrolPos : Nat := 0
  patrolWait : Bool := false
  deriving DecidableEq, Repr

/-! ## SCHED -/

/-- Where a task stands. -/
inductive TaskState
  /-- Accepted, its dependency not yet met (R332). -/
  | waiting
  | ready
  /-- Held by a unit; `ord` orders the tasks a unit holds. -/
  | held (unit : Nat) (ord : Nat)
  /-- Releasable: completed, or made a tombstone. -/
  | done
  deriving DecidableEq, Repr

/-- One task entry (R324–R336). -/
structure Task where
  id : Nat
  flow : Nat
  seq : Nat
  prio : Nat
  target : Nat
  deadline : Option Nat
  record : Bool
  dep : Option (Nat × Nat)
  arg : Nat
  tag : Nat
  state : TaskState
  status : Status := .ok
  ran : Bool := false
  unit : Nat := 0x7FF
  /-- Its deadline has passed while a unit held it (R336). -/
  late : Bool := false
  deriving DecidableEq, Repr

/-- A loaded bundle and its policy state (R337, R338). -/
structure Bundle where
  policy : Nat
  /-- Members: address and weight. -/
  members : List (Nat × Nat)
  last : Nat
  credits : List Nat
  deriving DecidableEq, Repr

/-- A request to a unit held behind its state (R354, R356). -/
structure UnitReq where
  op : Nat
  /-- A SUBST whose first checks have passed. -/
  checked : Bool := false
  deriving DecidableEq, Repr

/-- A Clothesline entry (R345), or a device entry on lists 48–63 (R344). -/
structure ClEntry where
  list : Nat
  tick : Nat
  kind : Nat
  arg : Nat
  /-- Held until SERVICE (R349). -/
  held : Bool := false
  /-- Its tick has been reached, or it was late at its insertion (R346). -/
  due : Bool := false
  /-- Counted as delayed past its tick (R347). -/
  slipped : Bool := false
  deriving DecidableEq, Repr

/-- Scheduler state beside the SCHED registers. -/
structure SchedSt where
  tasks : List Task := []
  nextId : Nat := 0
  nextOrd : Nat := 0
  bundles : Tbl Bundle := []
  /-- A load or unload in progress: operation, index, address. -/
  loading : Option (Nat × Nat × Nat) := none
  pend : Tbl UnitReq := []
  /-- Bars of R355: unit, flow. -/
  bars : List (Nat × Nat) := []
  cl : List ClEntry := []
  batches : List (Nat × Nat) := []
  /-- Producer and consumer counts of the submission rings, free-running (R331). -/
  sqs : Tbl (Nat × Nat) := []
  /-- Entries fired in the current tick (R347). -/
  clFired : Nat := 0
  /-- Units whose spare has passed its self-test. -/
  tested : List Nat := []
  deriving DecidableEq, Repr

/-! ## CLU: signal engines, control caches, instruction stores -/

/-- A register value with its poison flag. -/
structure PV where
  v : Nat := 0
  p : Bool := false
  deriving DecidableEq, Repr

/-- A vector register: 2,048 bits and one poison flag per 128-bit granule (R304). -/
structure VR where
  v : Nat := 0
  p : Nat := 0
  deriving DecidableEq, Repr

/-- Where a result goes. -/
inductive Dst
  | g (r : Nat)
  | a (r : Nat)
  | v (r : Nat)
  | m (r : Nat)
  /-- Bits to be set in FXSTAT. -/
  | fx
  deriving DecidableEq, Repr

/-- A result not yet visible (R273, R311): the group count from which it is, where it goes, its value and poison (bit k:
granule k), and whether its data has arrived (R274). -/
structure Pend where
  id : Nat
  due : Nat
  dst : Dst
  val : Nat
  poi : Nat
  arrived : Bool
  /-- A wide accumulation of VMACW or VMACJW, which a later one reads at once (R311). -/
  wide : Bool := false
  deriving DecidableEq, Repr

/-- An access of an engine that has not completed. -/
structure EngAcc where
  id : Nat
  load : Bool
  control : Bool
  cached : Bool
  addr : Nat
  size : Nat
  data : Nat
  poison : Bool
  signed : Bool
  /-- Status and every status seen (bit k: code k), for accesses whose result is already known. -/
  status : Status
  seen : Nat
  busy : Bool
  deriving DecidableEq, Repr

/-- Why an engine is HALTED (CLU_ENG_STAT.STATE 5). -/
inductive HaltWhy | none | doubleFault | s5 | test
  deriving DecidableEq, Repr

/-- State of a logical engine (R268, R296, R304); STATE, LAST_CAUSE, LAST_STATUS and PHYS stand in its registers. -/
structure Eng where
  pc : Nat := 0
  /-- Groups issued since the engine started. -/
  grp : Nat := 0
  g : Tbl PV := []
  a : Tbl PV := []
  v : Tbl VR := []
  m : Tbl PV := []
  cb : Tbl Nat := []
  cln : Tbl Nat := []
  lp : Tbl Nat := []
  depth : Nat := 0
  fxstat : Nat := 0
  ldstat : Nat := 0
  epc : Nat := 0
  ecause : Nat := 0
  eaddr : Nat := 0
  etgt : Nat := 0
  evec : Nat := 0
  ictrl : Nat := 0
  irqPend : Nat := 0
  holdoff : Nat := 0x14
  tcmp : Nat := 0
  mbox : Nat := 0
  vl : Nat := 0
  vtype : Nat := 0
  faultElem : Nat := 0
  /-- Delay groups still owed to a taken branch, and its target. -/
  brLeft : Nat := 0
  brTgt : Nat := 0
  /-- The next group is the target of a taken branch: loop levels it lies outside are popped when it issues (R292). -/
  popDue : Bool := false
  pend : List Pend := []
  /-- Results withheld at an exception (R300), `due` holding the remaining distance; the last exception first. -/
  withheld : List (List Pend) := []
  /-- Loop levels active when each exception was taken. -/
  bases : List Nat := []
  acc : List EngAcc := []
  nextAcc : Nat := 0
  haltReq : Bool := false
  haltWhy : HaltWhy := .none
  /-- Tick at which the hold-off began, and the watchdog (R303). -/
  hoSince : Option Nat := none
  hoArmed : Bool := false
  deriving DecidableEq, Repr

/-- A line of a control cache: 128 bytes, a poison flag per word, dirty. -/
structure CcLine where
  line : Nat
  data : Nat
  poi : Nat
  dirty : Bool
  deriving DecidableEq, Repr

/-- State of a cluster beside its engines. -/
structure Cluster where
  lines : List CcLine := []
  /-- Lines whose fill is under way, with the engine whose access asked for it. -/
  fills : List (Nat × Nat) := []
  /-- Write-backs under way, with the engine whose access caused them. -/
  wbs : List (CcLine × Nat) := []
  /-- CLEAN_ALL in progress. -/
  cleaning : Bool := false
  /-- Code of the engine image: groups, entry group, handler group (R266, R267). -/
  codeLen : Nat := 0
  entry : Nat := 0
  evec : Nat := 0
  deriving DecidableEq, Repr

/-- All engines and clusters. -/
structure EngSt where
  engs : Tbl Eng := []
  clus : Tbl Cluster := []
  /-- Issue groups by 16,384·c + group, and stored-bit errors. -/
  istore : Tbl Nat := []
  istUpset : Tbl Nat := []
  deriving DecidableEq, Repr

/-! ## PLR -/

/-- A host command: function, ring, count. -/
abbrev CmdRef := Nat × Nat × Nat

/-- What the device measures of an image (R474, R491): the manifest digest, IMAGE_ID and SVN. -/
structure Meas where
  digest : Nat
  id : Nat
  svn : Nat
  deriving DecidableEq, Repr

/-- A load or unload of a region (R415, R417), with the command that supplied the image and the image's measurement. -/
inductive PlrReq
  | load (img : PlrImage) (src : Option CmdRef) (meas : Meas)
  | unload
  deriving DecidableEq, Repr

/-- A region beside PLR_REGION_STAT: the operation in progress, the one held behind it, the image it claims pins and
clock trees for. -/
structure PlrRegion where
  op : Option PlrReq := none
  held : Option PlrReq := none
  img : Option PlrImage := none
  deriving DecidableEq, Repr

/-- A memory block of a region with its hard queue controller (R419): the mode and width its image sets; 288 words as stored
(138 bits, R392); entries written to and read from the queue so far; the staging word; the pointers on their way through the
synchronisers, newest first; OVERRUN; what the ports last returned, with the poison wires, and port B's BUSY wire. -/
structure PlrBlk where
  mode : Nat := 0
  width : Nat := 128
  words : Tbl Nat := []
  wr : Nat := 0
  rd : Nat := 0
  stage : Nat := 0
  stagePoison : Bool := false
  wrSync : List Nat := []
  rdSync : List Nat := []
  overrun : Bool := false
  outA : Nat := 0
  poisonA : Bool := false
  outB : Nat := 0
  poisonB : Bool := false
  busyB : Bool := false
  deriving DecidableEq, Repr

/-- PLR state beside the PLR registers. -/
structure PlrSt where
  regions : Tbl PlrRegion := []
  /-- Memory blocks in use, by 128·r + block. -/
  blocks : Tbl PlrBlk := []
  /-- Verified images on their way to the loader: region, supplying command, measurement. -/
  inbound : List (Nat × Option CmdRef × Meas) := []
  /-- Tasks in the places of a task port: port, place, task (R418). -/
  places : List (Nat × Nat × Nat) := []
  /-- Filtered levels of the pins, level sources that have fired and not re-armed, and edges counted in this
  millisecond (R423, R424). -/
  levels : Tbl Nat := []
  fired : List Nat := []
  edges : Tbl Nat := []
  deriving DecidableEq, Repr

/-! ## ECV: links, the ring -/

/-- An acknowledged sideband command outstanding: its bits 55:0 with SEQ, and how often it has been repeated (R118). -/
structure SbSent where
  msg : Nat
  repeats : Nat
  deriving DecidableEq, Repr

/-- Sample groups delivered to the antenna channels: first tick, number of groups, GAP (R122). -/
structure GroupRx where
  tick : Nat
  count : Nat
  gap : Bool
  deriving DecidableEq, Repr

/-- A group of which part has been received: first tick, bits so far, their number, all intact. -/
structure GroupPart where
  tick : Nat
  data : Nat
  len : Nat
  ok : Bool
  deriving DecidableEq, Repr

/-- A sample group on its way out (R111, R112): its number, its bits, whether it goes as zeros for poison (R115). -/
structure TxGroup where
  num : Nat
  data : Nat
  zf : Bool
  deriving DecidableEq, Repr

/-- What a link holds beside its registers. -/
structure LinkX where
  /-- Shutdown after ENABLE = 0 in progress (R103). -/
  shutting : Bool := false
  /-- Low-power form being entered; a held exit shows in ENABLE_PENDING (R126, R129). -/
  entering : Option Nat := none
  /-- Training after a retrain timeout, at the agreed rate (R103). -/
  retraining : Bool := false
  /-- A RATE_GO received and not yet followed (R107). -/
  rateGo : Bool := false
  /-- Versions capped at 1.1 for the next attempt (R103). -/
  capped : Bool := false
  /-- Partner's capability word: low half last received, word last put together, times received identically. -/
  capLo : Nat := 0
  capSeen : Nat := 0
  capCnt : Nat := 0
  /-- Tick and LINK event cause of the loss the link has not recovered from. -/
  lossTick : Option Nat := none
  lossCause : Nat := 0
  /-- Sideband: next SEQ, commands outstanding, commands waiting, messages received, half a slot (R116–R118). -/
  seqNext : Nat := 0
  sent : List SbSent := []
  queue : List Nat := []
  sbRx : List Nat := []
  sbCarry : Option Nat := none
  /-- Unscrambled payload of the previous frame, with its markers; per lane the CRC results of the last 16 (R110). -/
  prev : List LaneFrame := []
  crcHist : Tbl Nat := []
  /-- Groups (R111, R112, R122); `gapFrom`: groups from this tick on are GAP until ACTIVE is reached (R158). -/
  gapFrom : Option Nat := none
  part : Option GroupPart := none
  rx : List GroupRx := []
  lastGrp : Option Nat := none
  /-- A CAL_SW of this link has been given up or lost in the current exchange or window (R244). -/
  calLost : Bool := false
  /-- The tile is muted (R123, R163), and the tick at which the release sent to it takes effect. -/
  muted : Bool := true
  leave : Option Nat := none
  /-- Ticks of the LOS edges of the last millisecond, latest first (R125). -/
  edges : List Nat := []
  /-- Frames in a row whose lane-0 marker had no SYNC (R120). -/
  noSync : Nat := 0
  /-- Version and width offered in the training under way, as ECV_LINK_CTRL had them at its start (R144). -/
  offVer : Nat := 3
  offWid : Nat := 8
  /-- The link has been ACTIVE since it was last OFF (R114). -/
  was : Bool := false
  /-- Own direction (R108, R109, R112, R116, R128): FRAME_SEQ of the next frame, sixths of a UI sent of the present one,
  messages waiting, 32-bit halves of messages being cut into frames, groups or 128-bit ring words waiting, bits of a group
  that has begun, payload of the frame before by lane. -/
  txSeq : Nat := 0
  txUi : Nat := 0
  txSb : List Nat := []
  txHalf : List Nat := []
  txGroups : List TxGroup := []
  txRing : List Nat := []
  txRest : Nat := 0
  txRestLen : Nat := 0
  txPrev : List Nat := []
  /-- Time transfer: own stamps by FRAME_SEQ[11:4], the partner's receive stamp of one of them, the partner's transmit stamp
  and the local receive stamp of its last frame, exchanges since ACTIVE, the partner's tick count (R139–R141). -/
  t1 : Tbl Nat := []
  t2 : Option (Nat × Nat) := none
  t3 : Option (Nat × Nat) := none
  t4 : Option (Nat × Nat) := none
  exch : List (Int × Nat) := []
  exchN : Nat := 0
  partnerTick : Nat := 0
  /-- Telemetry by 256·antenna + item, and the last alarm code (R117). -/
  telem : Tbl Nat := []
  alarm : Nat := 0
  /-- LISTEN has ended with no signal at this port's tap (R133). -/
  noSignal : Bool := false
  /-- Last RING_STATE received: ARG and EXT; the peer that takes effect at the next slot boundary (R137). -/
  ringState : Option (Nat × Nat) := none
  peerNext : Option (Bool × Nat × Nat) := none
  deriving DecidableEq, Repr

/-- Link state. -/
structure EcvSt where
  links : Tbl LinkX := []
  /-- Links that the power controller sends into low power (R462). -/
  lpReq : List Nat := []
  deriving DecidableEq, Repr

/-! ## ACH: antenna channels -/

/-- A configuration that a commit puts in force (R152): carriers as (ACH_CC_CFG, ACH_CC_POOL), transmit windows, ramps,
crest-factor reduction. -/
structure AchCfg where
  cc : Tbl (Nat × Nat) := []
  origin : Nat := 0
  period : Nat := 0
  wins : Tbl (Nat × Nat) := []
  lead : Nat := 0x3E
  lag : Nat := 0x10
  ramp : Nat := 0x10
  emerg : Nat := 0x40
  thr : Nat := 0x2D
  iter : Nat := 3
  deriving DecidableEq, Repr

/-- The samples of one tick of a channel as delivered (R145, R154): the tick, the largest part before compensation, and the
tap after receive step 4 at 491.52 Msps. -/
structure TapTick where
  tick : Nat
  peak : Nat
  x : List (Int × Int)
  deriving DecidableEq, Repr

/-- A symbol of a carrier in the transmit chain (R145): carrier, its word, the symbol of the frame, its first tick, its
length in ticks, its subcarriers after transmit step 2, whether its source was poisoned (R115), whether crest-factor
reduction has clipped in it (R165). -/
structure TxSym where
  cc : Nat
  w : Nat
  sym : Nat
  tick : Nat
  len : Nat
  bins : List (Int × Int)
  zf : Bool
  clipped : Bool := false
  deriving DecidableEq, Repr

/-- What a channel holds beside its registers. -/
structure AchX where
  cfg : AchCfg := {}
  /-- The configuration before the last commit and the boundary at which that took effect (R152, step 3). -/
  prevCfg : AchCfg := {}
  cfgTick : Option Nat := none
  /-- Receive chain (R145, R166): ticks delivered, latest first; the estimate of the DC loop; the samples of the group
  before, from which 245.76 Msps is interpolated. -/
  taps : List TapTick := []
  dc : Int × Int := (0, 0)
  last : List (Int × Int) := []
  /-- Transmit chain: symbols under way; the tick of the ramp-up and the tick and length in ticks of the ramp-down of the
  window last opened (R161, R163). -/
  tx : List TxSym := []
  up : Option Nat := none
  down : Option (Nat × Nat) := none
  /-- Tick at which the channel reached OUT (R168). -/
  outTick : Option Nat := none
  /-- Pending commit and its frame boundary. -/
  pend : Option (AchCfg × Nat) := none
  /-- Step whose GAIN_SET is under way: code and step tick; the code before the last step, and its tick (R155–R158). -/
  step : Option (Nat × Nat) := none
  prevCode : Nat := 0
  lastStep : Option Nat := none
  dnRun : Nat := 0
  /-- Tick at which CONVERGING was entered (R169). -/
  convTick : Option Nat := none
  /-- Window open, PA enabled at the tile, windows skipped for want of lead, emergency ramp running (R161–R163). -/
  win : Option Nat := none
  pa : Bool := false
  skip : List Nat := []
  emer : Bool := false
  /-- Corrections in effect (R166). -/
  rxBeta : Nat := 0
  txBeta : Nat := 0
  comp : Tbl Nat := []
  /-- Stored coefficients to be applied at the next symbol boundary (R169). -/
  loadCoef : Bool := false
  /-- Whether the in-service mask holds the channel, by slot boundary, the last four, latest first (R167, R202). -/
  hist : List (Nat × Bool) := []
  deriving DecidableEq, Repr

/-- Channel state. `zeroed`: symbols that go as zeros on every antenna of a carrier because their data was not there in time
(R41): cell and first tick. -/
structure AchSt where
  chans : Tbl AchX := []
  zeroed : List (Nat × Nat) := []
  /-- Tick at which the current frame began (R445). -/
  frameTick : Nat := 0
  deriving DecidableEq, Repr

/-! ## CAL: the Steamer and the calibration store -/

/-- What the Steamer holds for an antenna (R243, R249, R250): despread periods ended since it entered CONVERGING, whether
two consecutive ones agreed, whether a sweep since entry met the limits, the tile's temperature now and at the last
update. -/
structure CalAnt where
  periods : Nat := 0
  pairOk : Bool := false
  sweepOk : Bool := false
  temp : Int := 0
  tempUsed : Int := 0
  /-- Its temperatures at the last sweeps, latest first, at most 64 (R249). -/
  temps : List Int := []
  /-- Its last CAL_SW code (R244, R253); a CAL_SW of its link was lost in this despread period (R244). -/
  sw : Nat := 0
  lost : Bool := false
  /-- Tick from which the next millisecond of AGE_MS runs, none while it does not count. -/
  ageTick : Option Nat := none
  deriving DecidableEq, Repr

/-- One 1 MiB area of the store flash (R255): the bytes that differ from what the area reads as unlisted, whether that is
the set written at manufacture (else erased), whether its contents meet its digest. -/
structure StoreArea where
  bytes : Tbl Byte := []
  factory : Bool := false
  intact : Bool := false
  deriving DecidableEq, Repr

/-- A store operation (R259, R263): a save, or an import of an image with the command that asked for it. -/
inductive StoreOp
  | save
  | import_ (bytes : Tbl Byte) (sections : Nat) (src : Option CmdRef)
  deriving DecidableEq, Repr

/-- Steamer state beside the CAL registers. -/
structure CalSt where
  ants : Tbl CalAnt := []
  /-- Next exchange group, tick at which the sweep under way began, sweeps since the last gain-factor exchange, and which
  half of the antennas it took (R245, R248). -/
  group : Nat := 0
  sweepTick : Option Nat := none
  /-- First tick and length of the last guard-period exchange (R154, R245). -/
  exch : Option (Nat × Nat) := none
  gcSweeps : Nat := 0
  gcOdd : Bool := false
  /-- The last exchange has not ended; it is a gain-factor exchange of half of the antennas (R248). -/
  exchOn : Bool := false
  gcPend : Option Bool := none
  /-- REF_ANT of the sweep under way; the exchanges of it, by group, in which a link lost a CAL_SW (R244, R245). -/
  ref : Nat := 0
  lost : List (Nat × Nat) := []
  /-- A mode change or a change of the shed stage has cut the despread periods short, but for those antennas whose period began
  after it (R243). -/
  cut : Bool := false
  since : List Nat := []
  /-- Estimates T of the last period by 64·antenna + subband; those recorded at the last sweep, with the transmit coefficient
  the sweep set (R243, R246). -/
  tNow : Tbl (Int × Int) := []
  tRef : Tbl ((Int × Int) × Nat) := []
  /-- Coefficients that are to be reached under the step limit, same key (R240). -/
  wantTx : Tbl (Option Nat) := []
  wantRx : Tbl (Option Nat) := []
  /-- Sweep ratios in force by 64·antenna + subband. -/
  rho : Tbl Nat := []
  /-- Temperature slopes in force, same key (R249). -/
  slopes : Tbl Nat := []
  areas : Tbl StoreArea := [(0, { factory := true, intact := true })]
  /-- Operation running with the bytes being written, operations held, exports waiting (R261). -/
  op : Option (StoreOp × Tbl Byte) := none
  held : List StoreOp := []
  exports : List CmdRef := []
  /-- The set in force has passed the check of R258 and its trims are applied. -/
  checked : Bool := false
  deriving DecidableEq, Repr

/-! ## TRUST: images, fuses, flash -/

/-- An entry of a directory (R480): TYPE, TARGET, OFFSET from the slot base, LENGTH. -/
structure DirEntry where
  type : Nat
  target : Nat
  offset : Nat
  length : Nat
  deriving DecidableEq, Repr

/-- An operation of the trust block (R487): boot verification, an IMAGE_LOAD that checks an image, COMMIT, ERASE, an
attestation report with the bytes of its snapshot. -/
inductive TrustOp
  | boot
  | image (ref : CmdRef)
  | commit (ref : CmdRef)
  | erase (ref : CmdRef)
  | attest (ref : CmdRef) (report : List Byte)
  deriving DecidableEq, Repr

/-- A flash action (R485, R486): program an image at an offset of a slot, commit a slot's staged directory, erase a
slot. -/
inductive FlashAct
  | program (slot : Nat) (entry : DirEntry) (bytes : List Byte)
  | commit (slot : Nat)
  | erase (slot : Nat)
  deriving DecidableEq, Repr

/-- Boot verification (R481, R482): the slot being tried, the images of it still to be checked, the types and targets it
has delivered, and whether it is the second slot tried. -/
structure BootSt where
  slot : Nat
  todo : List DirEntry
  taken : List (Nat × Nat)
  second : Bool
  deriving DecidableEq, Repr

/-- Key slots programmed, slots revoked, the anti-rollback counter (R477; log entry 45). -/
structure Fuses where
  progRsa : Nat := 0xF
  progSlh : Nat := 0xF
  revRsa : Nat := 0
  revSlh : Nat := 0
  svn : Nat := 0
  deriving DecidableEq, Repr

/-- Trust state beside the TRUST registers. -/
structure TrustSt where
  fuses : Fuses := {}
  /-- Operation running and operations waiting, in the order of their start (R487). -/
  op : Option TrustOp := none
  queue : List TrustOp := []
  boot : Option BootSt := none
  /-- The device waits for host images (R483); types 1–3 passed since VERIFY began. -/
  hostWait : Bool := false
  passed : List Nat := []
  /-- PERMS of the debug token held (R488). -/
  token : Option Nat := none
  /-- Bytes of the service-die flash (R479) but for the calibration-store areas, which stand in `CalSt.areas`. -/
  flash : Tbl Byte := []
  /-- Slots erased since their last COMMIT, and the next free offset of each slot. -/
  erased : List Nat := []
  top : Tbl Nat := []
  staged : List DirEntry := []
  /-- Flash action running or waiting, and the store operations held ahead of a waiting one. -/
  act : Option FlashAct := none
  wait : Option Nat := none
  /-- Fuse update being programmed: RSA and SLH-DSA revocations, SVN floor, the command (R478). -/
  fuse : Option (Nat × Nat × Nat × CmdRef) := none
  deriving DecidableEq, Repr

/-! ## BRX: burst receivers -/

/-- One reception (R180, R181): preamble index, beam, arrival in ticks and sixteenths, the strengths latched (0.125 dB),
the detection instant, what has been seen of it since; the root, the lag and the first tick of the window that gave it, the
power accumulated at that lag over `reps` repetitions, and the sum of that window's profile (R181). -/
structure BrRec where
  idx : Nat
  beam : Nat
  arrival : Nat
  frac : Nat
  rss : Int
  noise : Int
  wb : Int
  metric : Nat
  dg : Nat
  det : Nat
  nAnt : Nat
  restarted : Bool := false
  sat : Bool := false
  poison : Bool := false
  gap : Bool := false
  soak : Bool := false
  root : Nat := 0
  lag : Nat := 0
  win : Nat := 0
  acc : Nat := 0
  reps : Nat := 0
  sum : Nat := 0
  deriving DecidableEq, Repr

/-- An occasion (R176): its first tick, the antennas included with their calibration coefficients as latched, whether a
candidate has reached its threshold in SOAK. -/
structure BrOcc where
  start : Nat
  coefs : List (Nat × Nat)
  cand : Bool := false
  deriving DecidableEq, Repr

/-- A block of 64 receiver samples (R177): its first tick, the digital gain it was scaled with, whether a tap sample in it was
marked poisoned. -/
structure BrBlk where
  tick : Nat
  dg : Nat
  poison : Bool
  deriving DecidableEq, Repr

/-- A burst receiver beside its registers. -/
structure BrX where
  occ : Option BrOcc := none
  recs : List BrRec := []
  /-- Blocks ended, latest first (R177). -/
  blocks : List BrBlk := []
  /-- First tick and number of the last occasion reached on the grid ORIGIN + k × PERIOD (R173). -/
  grid : Option (Nat × Int) := none
  /-- The gain loop is frozen (R178). -/
  frozen : Bool := false
  stopping : Bool := false
  /-- Occasions that begin before this tick are not searched: 10 µs after the enable (R174), the recovery from stage S5
  (R184). -/
  notBefore : Option Nat := none
  /-- Records held in SOAK: their two words and DET_TICK (R185). -/
  buf : List (Nat × Nat × Nat) := []
  deriving DecidableEq, Repr

/-- Burst-receiver state. -/
structure BrxSt where
  rcv : Tbl BrX := []
  /-- Antennas included at SOAK entry (R185). -/
  soakAnts : List Nat := []
  deriving DecidableEq, Repr

/-! ## AE: Presses -/

/-- A command as a Press has read it: its task, its address, its eight words (R192). -/
structure AeCmd where
  task : Nat
  addr : Nat
  w : List Nat
  deriving DecidableEq, Repr

/-- A command in execution (R197–R209): the antenna mask it uses, the tile and the attempt at it, the recomputes that
tile may take, what the status record counts, the outputs of a GRAM that later row blocks repeat. -/
structure AeRun where
  cmd : AeCmd
  mask : Nat
  tile : Nat := 0
  attempt : Nat := 0
  maxRe : Nat := 0
  /-- Every status seen (bit k: code k). -/
  cond : Nat := 0
  tiles : Nat := 0
  recomp : Nat := 0
  pois : Nat := 0
  localOnly : Nat := 0
  cycles : Nat := 0
  /-- The merge of this tile waits; its wait has ended (R216). -/
  waiting : Bool := false
  timedOut : Bool := false
  /-- The failure of this tile was injected (R206). -/
  injected : Bool := false
  /-- No further tile starts. -/
  finished : Bool := false
  /-- Stage S5 was entered while the command was in execution: it ends with SHED after its tile (R209). -/
  shed : Bool := false
  /-- Values by ((item · M) + row) · M + column, and whether they were poisoned (R194). -/
  upper : Tbl (Int × Int × Bool) := []
  deriving DecidableEq, Repr

/-- A logical Press: the command read ahead and the command in execution (R196). -/
structure AeX where
  ready : Option AeCmd := none
  run : Option AeRun := none
  deriving DecidableEq, Repr

/-- Press state: per cell the masks fixed for its four most recent slots (SLOT_START, mask), latest first; per ring port
the last eight DECLINEs (SLOT_TICK, JD_CARRIER), latest first (R202, R213). -/
structure AeSt where
  press : Tbl AeX := []
  masks : Tbl (List (Nat × Nat)) := []
  declines : Tbl (List (Nat × Nat)) := []
  deriving DecidableEq, Repr

/-! ## CODE: coding engines -/

/-- What a job does with its HARQ entry (R231, R232): the slabs of its lowest-numbered code blocks, how many of them it has
written, whether a mismatch freed the entry, whether slabs were lacking, whether the slabs hold values to combine
with. -/
structure HarqUse where
  slabs : List Nat
  written : Nat := 0
  reset : Bool
  lack : Bool
  again : Bool
  deriving DecidableEq, Repr

/-- A job in execution (R219–R238): its task, its address, words 0–2; the next code block; what the status record counts;
the bits decoded so far (first bit highest) or the payload to be encoded; the blocks whose output is poisoned; bits of a
part word carried to the next block's output. -/
structure CodeRun where
  task : Nat
  addr : Nat
  w : List Nat
  blk : Nat := 0
  cond : Nat := 0
  iter : Nat := 0
  cbFail : Nat := 0
  cycles : Nat := 0
  data : Nat := 0
  /-- A status that refuses the job before anything of it is executed (R221, R235). -/
  refused : Option Status := none
  /-- The words of a decode's input, with their poison (R218). -/
  inp : List (Nat × Bool) := []
  srcBad : List Nat := []
  bad : List Nat := []
  carry : Nat := 0
  carryBad : Bool := false
  /-- Every block so far has passed (polar, convolutional: the codeword's CRC). -/
  pass : Bool := true
  harq : Option HarqUse := none
  /-- The deadline has passed: no block is decoded, each is combined (R236). -/
  missed : Bool := false
  finished : Bool := false
  /-- Stage S5 was entered while the job was in execution: it ends with SHED after its code block (R237). -/
  shed : Bool := false
  deriving DecidableEq, Repr

/-- A coding engine beside its registers: the job read ahead and the job in execution (R218). -/
structure CodeX where
  run : Option CodeRun := none
  ready : Option CodeRun := none
  deriving DecidableEq, Repr

/-- Coding state: engines, slabs that are not free. -/
structure CodeSt where
  eng : Tbl CodeX := []
  used : List Nat := []
  deriving DecidableEq, Repr

/-! ## ETH and TIME -/

/-- An uplink symbol buffer of an RU port whose window is open (R435): entry, port, whether it is a PRACH occasion's
(R433), the air time of its symbol, the symbol of the frame, the SFN, the resource blocks that have arrived, saturation. -/
structure UlBuf where
  ru : Nat
  port : Nat
  prach : Bool
  at_ : Nat
  sym : Nat
  sfn : Nat
  got : List Nat := []
  sat : Bool := false
  deriving DecidableEq, Repr

/-- A C-plane section that has been sent (R434): RU entry, downlink, the air times of its first symbol and of the end of
its last, the command. -/
structure CpSpan where
  ru : Nat
  dl : Bool
  first : Nat
  stop : Nat
  ref : CmdRef
  deriving DecidableEq, Repr

/-- Ethernet state beside the ETH registers. -/
structure EthSt where
  /-- Tick from which an enabled RU entry is in effect, until it has come (R432). -/
  start : Tbl Nat := []
  bufs : List UlBuf := []
  /-- Next ecpriSeqid by 65,536·entry + eAxC ID, received and sent (R430). -/
  seqRx : Tbl Nat := []
  seqTx : Tbl Nat := []
  /-- C-plane sections sent. -/
  sent : List CpSpan := []
  /-- Link-layer address of the unicast master by port, as ARP found it (R440). -/
  arp : Tbl Nat := []
  /-- QL received by SyncE port, plus 1 (R441). -/
  ql : Tbl Nat := []
  deriving DecidableEq, Repr

/-- Timing state beside the TIME registers. -/
structure TimeSt where
  /-- PPS_IN edges arrive at most 1.5 s apart; tick of the last edge taken (R442, R443). -/
  ppsOk : Bool := false
  ppsTick : Option Nat := none
  /-- Ticks since the GPS epoch beyond the 32 bits of the tick count, once a source of time of day has been taken (R445). -/
  epoch : Option Int := none
  /-- The unit counts frames from the present one, whose boundary it has taken under the frame configuration in force
  (R445). -/
  counting : Bool := false
  /-- Last servo offset in ns, and whether a phase source has been locked since reset. -/
  offset : Int := 0
  locked : Bool := false
  /-- TE_EST at entry to HOLDOVER and ticks since (R443). -/
  holdBase : Int := 0
  holdTicks : Nat := 0
  /-- DIST received last on ELW (0) and ELE (1), how often in a row, and the last value seen in 4 messages in a row
  (R446). -/
  dist : Tbl (Nat × Nat × Nat) := []
  /-- Ring ports whose last message reported the root in HOLDOVER. -/
  rootHold : List Nat := []
  /-- OSC_10M_IN is present (R496). -/
  osc10m : Bool := false
  /-- PPS_OUT is high. -/
  ppsOut : Bool := false
  deriving DecidableEq, Repr

/-! ## SENS, CLK and the service ports -/

/-- Sensor state beside the SENS registers. -/
structure SensSt where
  /-- The boot ROM has armed the sensors (R58, R511). -/
  armed : Bool := false
  /-- Conversions failed in a row, sensors converted at least once, sensors marked FAILED (0–65) (R511). -/
  fails : Tbl Nat := []
  seen : List Nat := []
  failed : List Nat := []
  /-- Last readings of the HBM stacks (R511), in eighths of a degree, two's complement in 16 bits. -/
  hbm : Tbl Nat := []
  /-- Rounds in a row at or above SHED_TEMP_ON, below SHED_TEMP_OFF, below 107 °C (R511). -/
  hotRun : Nat := 0
  coolRun : Nat := 0
  lowRun : Nat := 0
  /-- The regulator does not answer on AVSBus (R503). -/
  avsBad : Bool := false
  deriving DecidableEq, Repr

/-- Instructions of the TAP (R507). -/
inductive Tap | bypass | idcode | sample | extest | clamp | highz | pulse | train | debug
  deriving DecidableEq, Repr

/-- I²C and JTAG state (R506, R507): status of the last access by I²C; the instruction the TAP holds (IDCODE after the
TAP's reset, as IEEE 1149.1 has it; log entry 53), the boundary register, and whether the Seam was open when an
instruction began to drive pins (R508). -/
structure PortSt where
  i2cLast : Status := .ok
  tap : Tap := .idcode
  bsr : Nat := 0
  seamWas : Bool := false
  deriving DecidableEq, Repr

/-! ## The whole -/

/-- The device. -/
structure Chip where
  /-- Register fields that differ from their reset value, by `Fld.key`. -/
  regs : Tbl Nat := []
  /-- Bytes of memory space and of host memory, by internal address; an unlisted byte is 0. -/
  mem : Tbl Byte := []
  /-- Poison flags by word number, and stored-bit errors of a word as the mask of its inverted bits (R392). -/
  poison : Tbl Bool := []
  upset : Tbl Nat := []
  /-- The tick counter (R13). -/
  tick : Nat := 0
  /-- Index of the next free value: the model's own field, not the spec's (log entry 4). -/
  free : Nat := 0
  /-- Action bits set again while their action runs (R18, W1S). -/
  again : List Nat := []
  /-- Everything put outside the device so far, oldest first. -/
  out : List Out := []
  dev : DevSt := {}
  hif : HifSt := {}
  pwr : PwrSt := {}
  fab : FabSt := {}
  mems : MemSt := {}
  integ : IntegSt := {}
  sched : SchedSt := {}
  clu : EngSt := {}
  plr : PlrSt := {}
  ecv : EcvSt := {}
  ach : AchSt := {}
  cal : CalSt := {}
  trust : TrustSt := {}
  brx : BrxSt := {}
  ae : AeSt := {}
  code : CodeSt := {}
  eth : EthSt := {}
  time : TimeSt := {}
  sens : SensSt := {}
  port : PortSt := {}
  deriving DecidableEq, Repr

/-- The machine: the commands that are waiting, first in, first out, and the device. -/
structure State where
  pending : List Instr
  chip : Chip
  deriving DecidableEq, Repr

/-- The device right after a power-on reset, supplies in range and the reset not released: every register at its reset
value and DEV_RESET_CAUSE.POR set (R75; key of the field, which Machine/Fields.lean numbers), the memories empty, no
command waiting. -/
def State.reset : State := ⟨[], { regs := [(37 * 2 ^ 32, 1)] }⟩

/-- Reasons for which a command could stop. No meaning of this model raises one; safe. -/
inductive Fault
  /-- Raised by nothing: every command of the table runs to a next state. -/
  | none
  deriving DecidableEq, Repr

/-- Reasons for which a command could be refused. -/
inductive Refusal
  /-- A command without a meaning yet, raised by an arm of exec; safe. -/
  | notModelled (mnemonic : String)
  deriving DecidableEq, Repr

end Sys2Proof.Machine
end

