-- ==== Sys2Proof/Machine/Fields.lean ====
section
/-! DEFINITION. The fields of every control-space register: their place in the register, their width, their access
code (R18) and their reset value, as the register tables of spec/ give them (spec/00_scope.md R16–R19). A field whose
table gives no reset value (a dash) is loaded at boot from the boot configuration, a fuse or the calibration store
and carries 0 here until then (log entry 3). -/
namespace Sys2Proof.Machine

/-! Fields of spec/02_staged_start.md. -/
def F.DEV_STRAPS_I2C_ADDR_LO : Fld := ⟨1, 9, 3, 0, .ro⟩
def F.DEV_STRAPS_AUTO_VERIFY : Fld := ⟨2, 8, 1, 0, .ro⟩
def F.DEV_STRAPS_RING_EN : Fld := ⟨3, 7, 1, 0, .ro⟩
def F.DEV_STRAPS_NOC_MERGED : Fld := ⟨4, 6, 1, 0, .ro⟩
def F.DEV_STRAPS_BOOT_SRC : Fld := ⟨5, 4, 2, 0, .ro⟩
def F.DEV_STRAPS_PCIE_EN : Fld := ⟨6, 3, 1, 0, .ro⟩
def F.DEV_MODE_TRANS_COUNT : Fld := ⟨7, 16, 8, 0, .ro⟩
def F.DEV_MODE_RETURN_MODE : Fld := ⟨8, 13, 3, 3, .ro⟩
def F.DEV_MODE_SHED_BY_SW : Fld := ⟨9, 12, 1, 0, .ro⟩
def F.DEV_MODE_SEAM_OPEN : Fld := ⟨10, 11, 1, 0, .ro⟩
def F.DEV_MODE_IMAGES_OK : Fld := ⟨11, 10, 1, 0, .ro⟩
def F.DEV_MODE_BOOTCFG_DEFAULT : Fld := ⟨12, 9, 1, 0, .ro⟩
def F.DEV_MODE_TARGET_MODE : Fld := ⟨13, 4, 3, 1, .ro⟩
def F.DEV_MODE_IN_TRANSITION : Fld := ⟨14, 3, 1, 1, .ro⟩
def F.DEV_MODE_MODE : Fld := ⟨15, 0, 3, 0, .ro⟩
def F.DEV_MODE_REQ_KEY : Fld := ⟨16, 16, 16, 0, .wo⟩
def F.DEV_MODE_REQ_REQ_MODE : Fld := ⟨17, 0, 3, 0, .wo⟩
def F.DEV_MODE_PEND_SUPERSEDED_CNT : Fld := ⟨18, 24, 8, 0, .ro⟩
def F.DEV_MODE_PEND_LAST_REJECT_STATUS : Fld := ⟨19, 16, 8, 0, .ro⟩
def F.DEV_MODE_PEND_LAST_REJECT_MODE : Fld := ⟨20, 13, 3, 0, .ro⟩
def F.DEV_MODE_PEND_LAST_SUPERSEDED_MODE : Fld := ⟨21, 10, 3, 0, .ro⟩
def F.DEV_MODE_PEND_CNT_CLR : Fld := ⟨22, 9, 1, 0, .w1s⟩
def F.DEV_MODE_PEND_CANCEL : Fld := ⟨23, 8, 1, 0, .w1s⟩
def F.DEV_MODE_PEND_HW_PEND : Fld := ⟨24, 4, 1, 0, .ro⟩
def F.DEV_MODE_PEND_PEND_VALID : Fld := ⟨25, 3, 1, 0, .ro⟩
def F.DEV_MODE_PEND_PEND_MODE : Fld := ⟨26, 0, 3, 0, .ro⟩
def F.DEV_MODE_CFG_SHED_TEMP_ON : Fld := ⟨27, 24, 8, 0x73, .rw⟩
def F.DEV_MODE_CFG_SHED_TEMP_OFF : Fld := ⟨28, 16, 8, 0x6c, .rw⟩
def F.DEV_MODE_CFG_DRAIN_TMO : Fld := ⟨29, 0, 16, 0x4e20, .rw⟩
def F.DEV_RESET_CAUSE_PCIE : Fld := ⟨30, 7, 1, 0, .w1c⟩
def F.DEV_RESET_CAUSE_WARM_MGMT : Fld := ⟨31, 6, 1, 0, .w1c⟩
def F.DEV_RESET_CAUSE_WARM_SW : Fld := ⟨32, 5, 1, 0, .w1c⟩
def F.DEV_RESET_CAUSE_SVC_LOSS : Fld := ⟨33, 4, 1, 0, .w1c⟩
def F.DEV_RESET_CAUSE_THERMTRIP : Fld := ⟨34, 3, 1, 0, .w1c⟩
def F.DEV_RESET_CAUSE_BROWNOUT : Fld := ⟨35, 2, 1, 0, .w1c⟩
def F.DEV_RESET_CAUSE_PIN : Fld := ⟨36, 1, 1, 0, .w1c⟩
def F.DEV_RESET_CAUSE_POR : Fld := ⟨37, 0, 1, 0, .w1c⟩
def F.DEV_RESET_CTRL_KEY : Fld := ⟨38, 16, 16, 0, .wo⟩
def F.DEV_RESET_CTRL_WARM : Fld := ⟨39, 0, 1, 0, .wo⟩

/-! Fields of spec/03_host_rings.md. -/
def F.HIF_VERSION_AGREED_VALID : Fld := ⟨40, 31, 1, 0, .ro⟩
def F.HIF_VERSION_AGREED_MAJOR : Fld := ⟨41, 20, 4, 0, .ro⟩
def F.HIF_VERSION_AGREED_MINOR : Fld := ⟨42, 16, 4, 0, .ro⟩
def F.HIF_VERSION_HOST_MAJOR : Fld := ⟨43, 12, 4, 0, .rw⟩
def F.HIF_VERSION_HOST_MINOR : Fld := ⟨44, 8, 4, 0, .rw⟩
def F.HIF_VERSION_DEV_MAJOR : Fld := ⟨45, 4, 4, 1, .ro⟩
def F.HIF_VERSION_DEV_MINOR : Fld := ⟨46, 0, 4, 1, .ro⟩
def F.RING_BASE_BASE : Fld := ⟨47, 12, 52, 0, .rw⟩
def F.RING_CFG_ENABLE : Fld := ⟨48, 63, 1, 0, .rwv⟩
def F.RING_CFG_RESET : Fld := ⟨49, 62, 1, 0, .w1s⟩
def F.RING_CFG_VECTOR : Fld := ⟨50, 51, 5, 0, .rw⟩
def F.RING_CFG_CPL_RING : Fld := ⟨51, 48, 3, 0, .rw⟩
def F.RING_CFG_PRIO : Fld := ⟨52, 44, 4, 0, .rw⟩
def F.RING_CFG_LOG2_SIZE : Fld := ⟨53, 32, 5, 6, .rw⟩
def F.RING_CFG_COAL_TIME : Fld := ⟨54, 16, 16, 0, .rw⟩
def F.RING_CFG_COAL_COUNT : Fld := ⟨55, 8, 8, 1, .rw⟩
def F.RING_PTR_DEV_COUNT : Fld := ⟨56, 32, 32, 0, .ro⟩
def F.RING_PTR_HOST_COUNT : Fld := ⟨57, 0, 32, 0, .ro⟩
def F.RING_STAT_LOST : Fld := ⟨58, 32, 32, 0, .ro⟩
def F.RING_STAT_IN_FLIGHT : Fld := ⟨59, 16, 16, 0, .ro⟩
def F.RING_STAT_CPL_STALL : Fld := ⟨60, 11, 1, 0, .ro⟩
def F.RING_STAT_OVERFLOW : Fld := ⟨61, 10, 1, 0, .w1c⟩
def F.RING_STAT_HALTED : Fld := ⟨62, 9, 1, 0, .w1c⟩
def F.RING_STAT_ERR_STATUS : Fld := ⟨63, 0, 8, 0, .ro⟩
def F.HIF_FN_CTRL_RESET_ALL : Fld := ⟨64, 0, 1, 0, .w1s⟩
def F.HIF_FN_STAT_DB_DROP : Fld := ⟨65, 16, 16, 0, .w1c⟩
def F.HIF_FN_STAT_LAST_ERR : Fld := ⟨66, 8, 8, 0, .ro⟩
def F.HIF_FN_STAT_ANY_HALTED : Fld := ⟨67, 0, 1, 0, .ro⟩
def F.HIF_FN_CELLS_CELLS : Fld := ⟨68, 0, 32, 0xffffffff, .rw⟩
def F.HIF_LINK_STAT_FLIT : Fld := ⟨69, 11, 1, 0, .ro⟩
def F.HIF_LINK_STAT_GEN : Fld := ⟨70, 8, 3, 0, .ro⟩
def F.HIF_LINK_STAT_WIDTH : Fld := ⟨71, 0, 5, 0, .ro⟩

/-! Fields of spec/04_ecrov_links.md. -/
def F.ECV_LINK_STAT_STORM : Fld := ⟨72, 31, 1, 0, .w1c⟩
def F.ECV_LINK_STAT_WAKE_SEEN : Fld := ⟨73, 30, 1, 0, .w1c⟩
def F.ECV_LINK_STAT_DOWNGRADED : Fld := ⟨74, 29, 1, 0, .ro⟩
def F.ECV_LINK_STAT_PARTNER_SELF : Fld := ⟨75, 28, 1, 0, .ro⟩
def F.ECV_LINK_STAT_LOL : Fld := ⟨76, 27, 1, 1, .ro⟩
def F.ECV_LINK_STAT_LOS : Fld := ⟨77, 26, 1, 1, .ro⟩
def F.ECV_LINK_STAT_ENABLE_PENDING : Fld := ⟨78, 25, 1, 0, .ro⟩
def F.ECV_LINK_STAT_RX_LP : Fld := ⟨79, 22, 2, 0, .ro⟩
def F.ECV_LINK_STAT_TX_LP : Fld := ⟨80, 20, 2, 0, .ro⟩
def F.ECV_LINK_STAT_WIDTH : Fld := ⟨81, 16, 4, 0, .ro⟩
def F.ECV_LINK_STAT_VERSION : Fld := ⟨82, 8, 4, 0, .ro⟩
def F.ECV_LINK_STAT_PARTNER_ROLE : Fld := ⟨83, 4, 4, 0, .ro⟩
def F.ECV_LINK_STAT_STATE : Fld := ⟨84, 0, 4, 0, .ro⟩
def F.ECV_LINK_CTRL_RETRAIN : Fld := ⟨85, 15, 1, 0, .w1s⟩
def F.ECV_LINK_CTRL_CNT_CLR : Fld := ⟨86, 14, 1, 0, .w1s⟩
def F.ECV_LINK_CTRL_MAX_VER : Fld := ⟨87, 10, 2, 3, .rw⟩
def F.ECV_LINK_CTRL_MAX_WIDTH : Fld := ⟨88, 4, 4, 8, .rw⟩
def F.ECV_LINK_CTRL_ENABLE : Fld := ⟨89, 0, 1, 1, .rw⟩
def F.ECV_CAPS_PARTNER_CAPS : Fld := ⟨90, 0, 64, 0, .ro⟩
def F.ECV_SAMPLE_CFG_RATE : Fld := ⟨91, 4, 2, 1, .rw⟩
def F.ECV_SAMPLE_CFG_MANT : Fld := ⟨92, 0, 4, 9, .rw⟩
def F.ECV_LP_CTRL_MIN_IDLE : Fld := ⟨93, 16, 16, 0x64, .rw⟩
def F.ECV_LP_CTRL_FOLLOW : Fld := ⟨94, 2, 1, 0, .rw⟩
def F.ECV_LP_CTRL_TX_POLICY : Fld := ⟨95, 0, 2, 0, .rw⟩
def F.ECV_ERR_CNT_RETRAINS : Fld := ⟨96, 48, 16, 0, .ro⟩
def F.ECV_ERR_CNT_CRC_ERR : Fld := ⟨97, 32, 16, 0, .ro⟩
def F.ECV_ERR_CNT_GAP_GROUPS : Fld := ⟨98, 0, 32, 0, .ro⟩
def F.ECV_TT_DELAY : Fld := ⟨99, 32, 32, 0, .ro⟩
def F.ECV_TT_OFFSET : Fld := ⟨100, 0, 32, 0, .ro⟩
def F.ECV_TT_ASYM_ASYM : Fld := ⟨101, 0, 16, 0, .lck⟩
def F.ECV_RING_STAT_PEER_ID : Fld := ⟨102, 27, 5, 0, .ro⟩
def F.ECV_RING_STAT_PEER_VALID : Fld := ⟨103, 26, 1, 0, .ro⟩
def F.ECV_RING_STAT_PEER_HOPS : Fld := ⟨104, 24, 2, 0, .ro⟩
def F.ECV_RING_STAT_PARTNER_ID : Fld := ⟨105, 19, 5, 0, .ro⟩
def F.ECV_RING_STAT_LOCAL_ID : Fld := ⟨106, 14, 5, 0, .ro⟩
def F.ECV_RING_STAT_TT_VALID : Fld := ⟨107, 13, 1, 0, .ro⟩
def F.ECV_RING_STAT_JD_ACTIVE : Fld := ⟨108, 12, 1, 0, .ro⟩
def F.ECV_RING_STAT_FWD : Fld := ⟨109, 11, 1, 0, .ro⟩
def F.ECV_RING_STAT_DUP_ID : Fld := ⟨110, 10, 1, 0, .ro⟩
def F.ECV_RING_STAT_DISCARD : Fld := ⟨111, 0, 8, 0, .ro⟩

/-! Fields of spec/05_antenna_channels.md. -/
def F.ACH_CTRL_CNT_CLR : Fld := ⟨112, 3, 1, 0, .w1s⟩
def F.ACH_CTRL_LEAVE : Fld := ⟨113, 2, 1, 0, .w1s⟩
def F.ACH_CTRL_READMIT : Fld := ⟨114, 1, 1, 0, .w1s⟩
def F.ACH_CTRL_AUTO_READMIT : Fld := ⟨115, 0, 1, 1, .rw⟩
def F.ACH_STAT_COMMIT_STATUS : Fld := ⟨116, 24, 8, 0, .ro⟩
def F.ACH_STAT_COMMIT_PEND : Fld := ⟨117, 23, 1, 0, .ro⟩
def F.ACH_STAT_ENABLE_PENDING : Fld := ⟨118, 22, 1, 0, .ro⟩
def F.ACH_STAT_LEAVE_CAUSE : Fld := ⟨119, 8, 8, 4, .ro⟩
def F.ACH_STAT_SVC_STATE : Fld := ⟨120, 0, 2, 0, .ro⟩
def F.ACH_COMMIT_TICK : Fld := ⟨121, 32, 32, 0, .rw⟩
def F.ACH_COMMIT_GO : Fld := ⟨122, 0, 1, 0, .w1s⟩
def F.ACH_CC_CFG_TYPE : Fld := ⟨123, 61, 3, 0, .rw⟩
def F.ACH_CC_CFG_SCS : Fld := ⟨124, 59, 2, 0, .rw⟩
def F.ACH_CC_CFG_CP_EXT : Fld := ⟨125, 58, 1, 0, .rw⟩
def F.ACH_CC_CFG_CELL : Fld := ⟨126, 53, 5, 0, .rw⟩
def F.ACH_CC_CFG_HOST_CC : Fld := ⟨127, 50, 3, 0, .rw⟩
def F.ACH_CC_CFG_FD_SHIFT : Fld := ⟨128, 46, 4, 0, .rw⟩
def F.ACH_CC_CFG_TX_ATT : Fld := ⟨129, 38, 8, 0, .rw⟩
def F.ACH_CC_CFG_N_RB : Fld := ⟨130, 29, 9, 0, .rw⟩
def F.ACH_CC_CFG_BW : Fld := ⟨131, 18, 11, 0, .rw⟩
def F.ACH_CC_CFG_CF_OFFSET : Fld := ⟨132, 0, 18, 0, .rw⟩
def F.ACH_CC_POOL_N_BUF : Fld := ⟨133, 58, 6, 0, .rw⟩
def F.ACH_CC_POOL_UL_OFF : Fld := ⟨134, 36, 20, 0, .rw⟩
def F.ACH_CC_POOL_DL_OFF : Fld := ⟨135, 16, 20, 0, .rw⟩
def F.ACH_CC_POOL_STRIDE : Fld := ⟨136, 0, 16, 0, .rw⟩
def F.ACH_GAIN_CFG_UP_THR : Fld := ⟨137, 56, 8, 0xf4, .rw⟩
def F.ACH_GAIN_CFG_DN_THR : Fld := ⟨138, 48, 8, 0xd0, .rw⟩
def F.ACH_GAIN_CFG_DN_HOLD : Fld := ⟨139, 40, 8, 0x1c, .rw⟩
def F.ACH_GAIN_CFG_MIN_CODE : Fld := ⟨140, 36, 4, 0, .rw⟩
def F.ACH_GAIN_CFG_MAX_CODE : Fld := ⟨141, 32, 4, 0xf, .rw⟩
def F.ACH_GAIN_CFG_MAN_CODE : Fld := ⟨142, 28, 4, 0, .rw⟩
def F.ACH_GAIN_CFG_REF_CC : Fld := ⟨143, 25, 3, 0, .rw⟩
def F.ACH_GAIN_CFG_FREEZE : Fld := ⟨144, 24, 1, 0, .rw⟩
def F.ACH_GAIN_CFG_MODE : Fld := ⟨145, 22, 2, 0, .rw⟩
def F.ACH_GAIN_STAT_STEPS : Fld := ⟨146, 16, 16, 0, .ro⟩
def F.ACH_GAIN_STAT_STEP_PEND : Fld := ⟨147, 7, 1, 0, .ro⟩
def F.ACH_GAIN_STAT_CODE : Fld := ⟨148, 0, 4, 0, .ro⟩
def F.ACH_GAIN_COMP_FACTOR : Fld := ⟨149, 0, 32, 0, .rwv⟩
def F.ACH_TDD_CFG_ORIGIN : Fld := ⟨150, 32, 32, 0, .rw⟩
def F.ACH_TDD_CFG_PERIOD : Fld := ⟨151, 0, 24, 0, .rw⟩
def F.ACH_TDD_WIN_EN : Fld := ⟨152, 63, 1, 0, .rw⟩
def F.ACH_TDD_WIN_START : Fld := ⟨153, 32, 24, 0, .rw⟩
def F.ACH_TDD_WIN_END : Fld := ⟨154, 0, 24, 0, .rw⟩
def F.ACH_RAMP_CFG_PA_LEAD : Fld := ⟨155, 24, 8, 0x3e, .rw⟩
def F.ACH_RAMP_CFG_PA_LAG : Fld := ⟨156, 16, 8, 0x10, .rw⟩
def F.ACH_RAMP_CFG_RAMP_TICKS : Fld := ⟨157, 8, 8, 0x10, .rw⟩
def F.ACH_RAMP_CFG_EMERG_TICKS : Fld := ⟨158, 0, 8, 0x40, .rw⟩
def F.ACH_CFR_CFG_THR : Fld := ⟨159, 8, 8, 0x2d, .rw⟩
def F.ACH_CFR_CFG_ITER : Fld := ⟨160, 2, 2, 3, .rw⟩
def F.ACH_IQ_CFG_TX_BETA : Fld := ⟨161, 32, 32, 0, .rwv⟩
def F.ACH_IQ_CFG_RX_BETA : Fld := ⟨162, 0, 32, 0, .rwv⟩
def F.ACH_DC_CFG_DC_TC : Fld := ⟨163, 12, 4, 8, .rw⟩
def F.ACH_DC_CFG_DC_EN : Fld := ⟨164, 0, 1, 1, .rw⟩
def F.ACH_CNT_FD_SAT : Fld := ⟨165, 48, 16, 0, .ro⟩
def F.ACH_CNT_CFR_CLIP : Fld := ⟨166, 32, 16, 0, .ro⟩
def F.ACH_CNT_TX_OUTSIDE : Fld := ⟨167, 16, 16, 0, .ro⟩
def F.ACH_CNT_GAIN_LOST : Fld := ⟨168, 0, 16, 0, .ro⟩

/-! Fields of spec/06_burst_receivers.md. -/
def F.BRX_GEOM_HALF : Fld := ⟨169, 1, 1, 0, .rw⟩
def F.BRX_GEOM_GEOM : Fld := ⟨170, 0, 1, 0, .rw⟩
def F.BRX_SUPERSEDE_SUP : Fld := ⟨171, 0, 8, 0x18, .rw⟩
def F.BRX_SOAK_CFG_SOAK_LINKS : Fld := ⟨172, 48, 16, 0, .rw⟩
def F.BRX_SOAK_CFG_SOAK_DIV : Fld := ⟨173, 40, 8, 1, .rw⟩
def F.BRX_SOAK_CFG_SOAK_THR : Fld := ⟨174, 32, 8, 0x30, .rw⟩
def F.BRX_SOAK_CFG_SOAK_BR : Fld := ⟨175, 0, 5, 0, .rw⟩
def F.BRX_STAT_ACTIVE : Fld := ⟨176, 0, 32, 0, .ro⟩
def F.BRX_CNT_CLR_CLR : Fld := ⟨177, 0, 32, 0, .wo⟩
def F.BRn_CFG_EN : Fld := ⟨178, 63, 1, 0, .rwv⟩
def F.BRn_CFG_EVT_EN : Fld := ⟨179, 62, 1, 0, .rw⟩
def F.BRn_CFG_FAMILY : Fld := ⟨180, 60, 2, 0, .rw⟩
def F.BRn_CFG_SCS : Fld := ⟨181, 57, 3, 0, .rw⟩
def F.BRn_CFG_N_REP_M1 : Fld := ⟨182, 50, 7, 0, .rw⟩
def F.BRn_CFG_N_PRE_M1 : Fld := ⟨183, 44, 6, 0x3f, .rw⟩
def F.BRn_CFG_LOG_ROOT : Fld := ⟨184, 34, 10, 0, .rw⟩
def F.BRn_CFG_NCS_CFG : Fld := ⟨185, 30, 4, 0, .rw⟩
def F.BRn_CFG_DG_INIT : Fld := ⟨186, 20, 7, 0x30, .rw⟩
def F.BRn_CFG_CF_OFFSET : Fld := ⟨187, 0, 20, 0, .rw⟩
def F.BRn_OCC_ORIGIN : Fld := ⟨188, 32, 32, 0, .rw⟩
def F.BRn_OCC_PERIOD : Fld := ⟨189, 0, 24, 0, .rw⟩
def F.BRn_THR_SPAN : Fld := ⟨190, 40, 24, 0, .rw⟩
def F.BRn_THR_TARGET : Fld := ⟨191, 24, 8, 0xc4, .rw⟩
def F.BRn_THR_CONF_THR : Fld := ⟨192, 8, 8, 0x30, .rw⟩
def F.BRn_THR_DET_THR : Fld := ⟨193, 0, 8, 0x28, .rw⟩
def F.BRn_RING_LOG2 : Fld := ⟨194, 60, 4, 0, .rw⟩
def F.BRn_RING_BASE : Fld := ⟨195, 0, 43, 0, .rw⟩
def F.BRn_PTR_WR : Fld := ⟨196, 32, 32, 0, .ro⟩
def F.BRn_PTR_RD : Fld := ⟨197, 0, 32, 0, .rw⟩
def F.BRn_STAT_LOST : Fld := ⟨198, 48, 16, 0, .ro⟩
def F.BRn_STAT_IGNORED : Fld := ⟨199, 32, 16, 0, .ro⟩
def F.BRn_STAT_REC_DROP : Fld := ⟨200, 16, 16, 0, .ro⟩
def F.BRn_STAT_DG : Fld := ⟨201, 9, 7, 0x30, .ro⟩
def F.BRn_STAT_N_ACTIVE : Fld := ⟨202, 5, 4, 0, .ro⟩
def F.BRn_STAT_ENABLE_PENDING : Fld := ⟨203, 4, 1, 0, .ro⟩
def F.BRn_STAT_STATE : Fld := ⟨204, 2, 2, 0, .ro⟩

/-! Fields of spec/07_array_processing.md. -/
def F.AE_CTRL_RES_INJECT : Fld := ⟨205, 2, 1, 0, .w1s⟩
def F.AE_CTRL_CNT_CLR : Fld := ⟨206, 1, 1, 0, .w1s⟩
def F.AE_STAT_PHYS : Fld := ⟨207, 28, 4, 0, .ro⟩
def F.AE_STAT_QDEPTH : Fld := ⟨208, 21, 3, 0, .ro⟩
def F.AE_STAT_SUSPECT : Fld := ⟨209, 20, 1, 0, .w1c⟩
def F.AE_STAT_LAST_STATUS : Fld := ⟨210, 8, 8, 0, .ro⟩
def F.AE_STAT_STATE : Fld := ⟨211, 0, 3, 0, .ro⟩
def F.AE_TILE_CFG_MAX_RECOMP : Fld := ⟨212, 0, 2, 2, .rw⟩
def F.AE_RES_CNT_MISMATCH : Fld := ⟨213, 48, 16, 0, .ro⟩
def F.AE_RES_CNT_RECOMPUTED : Fld := ⟨214, 32, 16, 0, .ro⟩
def F.AE_RES_CNT_HARD : Fld := ⟨215, 16, 16, 0, .ro⟩
def F.AE_RES_CNT_OUT_SAT : Fld := ⟨216, 0, 16, 0, .ro⟩
def F.AE_FAULT_CMD_ADDR : Fld := ⟨217, 20, 44, 0, .ro⟩
def F.AE_FAULT_TILE : Fld := ⟨218, 4, 16, 0, .ro⟩
def F.AE_FAULT_ATTEMPT : Fld := ⟨219, 2, 2, 0, .ro⟩
def F.AE_FAULT_HARD : Fld := ⟨220, 1, 1, 0, .ro⟩
def F.AE_FAULT_VALID : Fld := ⟨221, 0, 1, 0, .ro⟩
def F.AE_CMD_CNT_COMMANDS : Fld := ⟨222, 32, 32, 0, .ro⟩
def F.AE_CMD_CNT_TILES : Fld := ⟨223, 0, 32, 0, .ro⟩
def F.AE_MAP_SPARE_PHYS : Fld := ⟨224, 36, 4, 0, .ro⟩
def F.AE_MAP_SPARE_FREE : Fld := ⟨225, 34, 1, 1, .ro⟩
def F.AE_MAP_PHYS : Fld := ⟨226, 0, 32, 0, .ro⟩
def F.AE_JD_CFG_REQ_UNIT : Fld := ⟨227, 53, 11, 0, .rw⟩
def F.AE_JD_CFG_JD_WAIT : Fld := ⟨228, 40, 8, 0x3c, .rw⟩
def F.AE_JD_CFG_REQ_LEAD : Fld := ⟨229, 16, 16, 0x600, .rw⟩
def F.AE_JD_CFG_CNT_CLR : Fld := ⟨230, 2, 1, 0, .w1s⟩
def F.AE_JD_CFG_JD_EN_E : Fld := ⟨231, 1, 1, 0, .rw⟩
def F.AE_JD_CFG_JD_EN_W : Fld := ⟨232, 0, 1, 0, .rw⟩
def F.AE_JD_MAP_EN : Fld := ⟨233, 31, 1, 0, .rw⟩
def F.AE_JD_MAP_CELL : Fld := ⟨234, 8, 5, 0, .rw⟩
def F.AE_JD_MAP_CC : Fld := ⟨235, 0, 3, 0, .rw⟩
def F.AE_JD_RX_BASE : Fld := ⟨236, 12, 36, 0, .rw⟩
def F.AE_JD_RX_VALID : Fld := ⟨237, 0, 1, 0, .rw⟩
def F.AE_JD_STAT_SENT : Fld := ⟨238, 48, 16, 0, .ro⟩
def F.AE_JD_STAT_RECEIVED : Fld := ⟨239, 32, 16, 0, .ro⟩
def F.AE_JD_STAT_LOCAL_ONLY : Fld := ⟨240, 16, 16, 0, .ro⟩
def F.AE_JD_STAT_DECLINES : Fld := ⟨241, 8, 8, 0, .ro⟩
def F.AE_JD_STAT_UNSENT : Fld := ⟨242, 0, 8, 0, .ro⟩
def F.AE_MASK_SNAP_MASK : Fld := ⟨243, 0, 64, 0, .ro⟩
def F.AE_MASK_TICK_SLOT_TICK : Fld := ⟨244, 0, 32, 0, .ro⟩

/-! Fields of spec/08_channel_coding.md. -/
def F.CODE_CTRL_DEF_ITER : Fld := ⟨245, 8, 8, 8, .rw⟩
def F.CODE_CTRL_CNT_CLR : Fld := ⟨246, 1, 1, 0, .w1s⟩
def F.CODE_CTRL_FLUSH : Fld := ⟨247, 0, 1, 0, .w1s⟩
def F.CODE_HARQ_TBL_BASE : Fld := ⟨248, 26, 22, 0x1001, .rw⟩
def F.CODE_HARQ_SLAB_BASE : Fld := ⟨249, 15, 33, 0x801000, .rw⟩
def F.CODE_HARQ_CNT_N_SLABS : Fld := ⟨250, 0, 20, 0x40000, .rw⟩
def F.CODE_HARQ_TTL_TTL : Fld := ⟨251, 0, 16, 0x50, .rw⟩
def F.CODE_HARQ_STAT_ALLOC_FAIL : Fld := ⟨252, 48, 16, 0, .ro⟩
def F.CODE_HARQ_STAT_LEAKED : Fld := ⟨253, 32, 16, 0, .ro⟩
def F.CODE_HARQ_STAT_FLUSHING : Fld := ⟨254, 20, 1, 0, .ro⟩
def F.CODE_HARQ_STAT_FREE : Fld := ⟨255, 0, 20, 0, .ro⟩
def F.CODE_ENG_STAT_LAST_STATUS : Fld := ⟨256, 8, 8, 0, .ro⟩
def F.CODE_ENG_STAT_QDEPTH : Fld := ⟨257, 5, 3, 0, .ro⟩
def F.CODE_ENG_STAT_STATE : Fld := ⟨258, 0, 3, 0, .ro⟩
def F.CODE_CNT_BLOCKS : Fld := ⟨259, 32, 32, 0, .ro⟩
def F.CODE_CNT_CB_FAIL : Fld := ⟨260, 16, 16, 0, .ro⟩
def F.CODE_CNT_JOBS_MISSED : Fld := ⟨261, 0, 16, 0, .ro⟩

/-! Fields of spec/09_live_calibration.md. -/
def F.CAL_CTRL_REF_ANT : Fld := ⟨262, 8, 8, 0, .rw⟩
def F.CAL_CTRL_CNT_CLR : Fld := ⟨263, 3, 1, 0, .w1s⟩
def F.CAL_CTRL_ULT_EN : Fld := ⟨264, 2, 1, 1, .rw⟩
def F.CAL_CTRL_EXCH_EN : Fld := ⟨265, 1, 1, 1, .rw⟩
def F.CAL_CTRL_INJ_EN : Fld := ⟨266, 0, 1, 1, .rw⟩
def F.CAL_INJ_CFG_DESPREAD_MS : Fld := ⟨267, 16, 16, 0xc8, .rw⟩
def F.CAL_INJ_CFG_LEVEL : Fld := ⟨268, 8, 4, 0, .rw⟩
def F.CAL_INJ_CFG_SYM_DIV : Fld := ⟨269, 0, 6, 8, .rw⟩
def F.CAL_EXCH_CFG_EXCH_WIN : Fld := ⟨270, 25, 3, 0, .rw⟩
def F.CAL_EXCH_CFG_EXCH_ATT : Fld := ⟨271, 17, 8, 0x14, .rw⟩
def F.CAL_EXCH_CFG_GC_DIV : Fld := ⟨272, 13, 4, 4, .rw⟩
def F.CAL_EXCH_CFG_EXCH_TICKS : Fld := ⟨273, 0, 12, 0x280, .rw⟩
def F.CAL_CONV_CFG_DIV_PH : Fld := ⟨274, 24, 8, 0x14, .rw⟩
def F.CAL_CONV_CFG_DIV_AMP : Fld := ⟨275, 16, 8, 0x14, .rw⟩
def F.CAL_CONV_CFG_CONV_PH : Fld := ⟨276, 8, 8, 0x28, .rw⟩
def F.CAL_CONV_CFG_CONV_AMP : Fld := ⟨277, 0, 8, 0x14, .rw⟩
def F.CAL_STAT_SWEEPS : Fld := ⟨278, 16, 16, 0, .ro⟩
def F.CAL_STAT_STORE_BAD : Fld := ⟨279, 7, 1, 0, .ro⟩
def F.CAL_STAT_TEMP_FALLBACK : Fld := ⟨280, 6, 1, 0, .ro⟩
def F.CAL_STAT_STATE : Fld := ⟨281, 0, 3, 0, .ro⟩
def F.CAL_CNT_EXCH_SKIPPED : Fld := ⟨282, 48, 16, 0, .ro⟩
def F.CAL_CNT_DIVERGED : Fld := ⟨283, 32, 16, 0, .ro⟩
def F.CAL_CNT_UPDATES : Fld := ⟨284, 0, 32, 0, .ro⟩
def F.CAL_STORE_CTRL_KEY : Fld := ⟨285, 16, 16, 0, .wo⟩
def F.CAL_STORE_CTRL_SAVE : Fld := ⟨286, 0, 1, 0, .w1s⟩
def F.CAL_STORE_STAT_WRITES : Fld := ⟨287, 32, 32, 0, .ro⟩
def F.CAL_STORE_STAT_LAST_STATUS : Fld := ⟨288, 24, 8, 0, .ro⟩
def F.CAL_STORE_STAT_FORMAT : Fld := ⟨289, 20, 4, 0, .ro⟩
def F.CAL_STORE_STAT_ORIGIN : Fld := ⟨290, 19, 1, 0, .ro⟩
def F.CAL_STORE_STAT_AREA : Fld := ⟨291, 18, 1, 0, .ro⟩
def F.CAL_STORE_STAT_ERASE_PEND : Fld := ⟨292, 17, 1, 0, .ro⟩
def F.CAL_STORE_STAT_ENABLE_PENDING : Fld := ⟨293, 16, 1, 0, .ro⟩
def F.CAL_STORE_STAT_BUSY : Fld := ⟨294, 0, 2, 0, .ro⟩
def F.CAL_STORE_DIGEST_DIGEST : Fld := ⟨295, 0, 64, 0, .ro⟩
def F.CAL_ULREF_MAP_MAP : Fld := ⟨296, 0, 14, 0, .rw⟩
def F.CAL_ANT_STAT_RES_PH : Fld := ⟨297, 48, 16, 0, .ro⟩
def F.CAL_ANT_STAT_RES_AMP : Fld := ⟨298, 32, 16, 0, .ro⟩
def F.CAL_ANT_STAT_AGE_MS : Fld := ⟨299, 16, 16, 0xffff, .ro⟩
def F.CAL_ANT_STAT_NO_STORE : Fld := ⟨300, 3, 1, 0, .ro⟩
def F.CAL_ANT_STAT_DIVERGED : Fld := ⟨301, 2, 1, 0, .ro⟩
def F.CAL_ANT_STAT_OBS_OK : Fld := ⟨302, 1, 1, 0, .ro⟩
def F.CAL_ANT_STAT_CONVERGED : Fld := ⟨303, 0, 1, 0, .ro⟩
def F.CAL_COEF_TX : Fld := ⟨304, 32, 32, 0, .rwv⟩
def F.CAL_COEF_RX : Fld := ⟨305, 0, 32, 0, .rwv⟩

/-! Fields of spec/10_engine_programming.md. -/
def F.CLU_CC_CTRL_CNT_CLR : Fld := ⟨306, 1, 1, 0, .w1s⟩
def F.CLU_CC_CTRL_CLEAN_ALL : Fld := ⟨307, 0, 1, 0, .w1s⟩
def F.CLU_CC_STAT_MISSES : Fld := ⟨308, 32, 32, 0, .ro⟩
def F.CLU_CC_STAT_WB_FAIL : Fld := ⟨309, 16, 16, 0, .ro⟩
def F.CLU_ENG_CTRL_STEP : Fld := ⟨310, 2, 1, 0, .w1s⟩
def F.CLU_ENG_CTRL_RESUME : Fld := ⟨311, 1, 1, 0, .w1s⟩
def F.CLU_ENG_CTRL_HALT : Fld := ⟨312, 0, 1, 0, .w1s⟩
def F.CLU_ENG_STAT_LAST_CAUSE : Fld := ⟨313, 24, 8, 0, .ro⟩
def F.CLU_ENG_STAT_LAST_STATUS : Fld := ⟨314, 16, 8, 0, .ro⟩
def F.CLU_ENG_STAT_PHYS : Fld := ⟨315, 8, 5, 0, .ro⟩
def F.CLU_ENG_STAT_STATE : Fld := ⟨316, 0, 3, 0, .ro⟩
def F.CLU_ENG_FAULT_SLOT : Fld := ⟨317, 62, 2, 0, .ro⟩
def F.CLU_ENG_FAULT_PC : Fld := ⟨318, 48, 14, 0, .ro⟩
def F.CLU_ENG_FAULT_ADDR : Fld := ⟨319, 0, 48, 0, .ro⟩
def F.CLU_ENG_MBOX_VALUE : Fld := ⟨320, 0, 32, 0, .wo⟩

/-! Fields of spec/12_scheduler.md. -/
def F.SCHED_CFG_HANG : Fld := ⟨321, 16, 16, 0x3e8, .rw⟩
def F.SCHED_CFG_RESERVE : Fld := ⟨322, 0, 15, 0x400, .rw⟩
def F.SCHED_STAT_REJECTS : Fld := ⟨323, 48, 16, 0, .ro⟩
def F.SCHED_STAT_LAST_REJECT : Fld := ⟨324, 40, 8, 0, .ro⟩
def F.SCHED_STAT_S5_HALT : Fld := ⟨325, 34, 1, 0, .ro⟩
def F.SCHED_STAT_S2_SUSP : Fld := ⟨326, 33, 1, 0, .ro⟩
def F.SCHED_STAT_INTAKE : Fld := ⟨327, 32, 1, 0, .ro⟩
def F.SCHED_STAT_READY : Fld := ⟨328, 16, 15, 0, .ro⟩
def F.SCHED_STAT_FREE : Fld := ⟨329, 0, 15, 0x4000, .ro⟩
def F.SCHED_EPOCH_EPOCH : Fld := ⟨330, 0, 16, 0, .ro⟩
def F.SCHED_READMIT_OP : Fld := ⟨331, 12, 2, 0, .wo⟩
def F.SCHED_READMIT_UNIT : Fld := ⟨332, 0, 11, 0, .wo⟩
def F.SCHED_SLOT_MAP_FLOW : Fld := ⟨333, 16, 12, 0, .rw⟩
def F.SCHED_SLOT_MAP_TARGET : Fld := ⟨334, 0, 11, 0, .rw⟩
def F.SCHED_CMD_AREA_BASE : Fld := ⟨335, 16, 32, 0x4a0000, .rw⟩
def F.SCHED_BUNDLE_LOAD_OP : Fld := ⟨336, 62, 2, 0, .wo⟩
def F.SCHED_BUNDLE_LOAD_INDEX : Fld := ⟨337, 48, 10, 0, .wo⟩
def F.SCHED_BUNDLE_LOAD_ADDR : Fld := ⟨338, 6, 42, 0, .wo⟩
def F.SCHED_BUNDLE_STAT_LAST_STATUS : Fld := ⟨339, 8, 8, 0, .ro⟩
def F.SCHED_BUNDLE_STAT_BUSY : Fld := ⟨340, 0, 1, 0, .ro⟩
def F.SCHED_CL_SUBMIT_COUNT_M1 : Fld := ⟨341, 48, 12, 0, .wo⟩
def F.SCHED_CL_SUBMIT_ADDR : Fld := ⟨342, 4, 44, 0, .wo⟩
def F.SCHED_CL_CANCEL_LISTS : Fld := ⟨343, 0, 48, 0, .w1s⟩
def F.SCHED_CL_STAT_BATCH_FREE : Fld := ⟨344, 24, 7, 0x40, .ro⟩
def F.SCHED_CL_STAT_FREE : Fld := ⟨345, 0, 17, 0x10000, .ro⟩
def F.SCHED_CL_CNT_SLIP : Fld := ⟨346, 48, 16, 0, .ro⟩
def F.SCHED_CL_CNT_LATE : Fld := ⟨347, 32, 16, 0, .ro⟩
def F.SCHED_CL_CNT_BATCH_DROP : Fld := ⟨348, 24, 8, 0, .ro⟩
def F.SCHED_CL_CNT_FULL_DROP : Fld := ⟨349, 12, 12, 0, .ro⟩
def F.SCHED_CL_CNT_BAD : Fld := ⟨350, 0, 12, 0, .ro⟩
def F.SCHED_SPARE_PRESS_FREE : Fld := ⟨351, 16, 1, 0, .ro⟩
def F.SCHED_SPARE_ENGINE_FREE : Fld := ⟨352, 0, 16, 0, .ro⟩
def F.SCHED_BUNDLE_VALID_VALID : Fld := ⟨353, 0, 64, 0, .ro⟩
def F.SCHED_SQ_CFG_EN : Fld := ⟨354, 63, 1, 0, .rw⟩
def F.SCHED_SQ_CFG_LOG2 : Fld := ⟨355, 52, 4, 4, .rw⟩
def F.SCHED_SQ_CFG_BASE : Fld := ⟨356, 5, 43, 0, .rw⟩
def F.SCHED_SQ_DB_COUNT : Fld := ⟨357, 0, 32, 0, .wo⟩
def F.SCHED_SQ_PTR_HALTED : Fld := ⟨358, 63, 1, 0, .ro⟩
def F.SCHED_SQ_PTR_PROD : Fld := ⟨359, 16, 16, 0, .ro⟩
def F.SCHED_SQ_PTR_CONS : Fld := ⟨360, 0, 16, 0, .ro⟩
def F.SCHED_FLOW_CFG_EN : Fld := ⟨361, 63, 1, 0, .rw⟩
def F.SCHED_FLOW_CFG_LOG2 : Fld := ⟨362, 59, 4, 4, .rw⟩
def F.SCHED_FLOW_CFG_MAX_OUT : Fld := ⟨363, 44, 15, 0, .rw⟩
def F.SCHED_FLOW_CFG_BASE : Fld := ⟨364, 0, 44, 0, .rw⟩
def F.SCHED_FLOW_PTR_REL_WR : Fld := ⟨365, 32, 32, 0, .ro⟩
def F.SCHED_FLOW_PTR_REL_RD : Fld := ⟨366, 0, 32, 0, .rw⟩
def F.SCHED_FLOW_STAT_NEXT_SEQ : Fld := ⟨367, 48, 16, 0, .ro⟩
def F.SCHED_FLOW_STAT_REL_NEXT : Fld := ⟨368, 32, 16, 0, .ro⟩
def F.SCHED_FLOW_STAT_OUT : Fld := ⟨369, 16, 16, 0, .ro⟩
def F.SCHED_FLOW_STAT_REC_FAIL : Fld := ⟨370, 8, 8, 0, .ro⟩
def F.SCHED_UNIT_STAT_ADMIT_EPOCH : Fld := ⟨371, 48, 16, 0, .ro⟩
def F.SCHED_UNIT_STAT_LAST_STATUS : Fld := ⟨372, 40, 8, 0, .ro⟩
def F.SCHED_UNIT_STAT_HELD : Fld := ⟨373, 32, 3, 0, .ro⟩
def F.SCHED_UNIT_STAT_SPARE_FAIL : Fld := ⟨374, 12, 1, 0, .ro⟩
def F.SCHED_UNIT_STAT_LEAVE_CAUSE : Fld := ⟨375, 8, 4, 0, .ro⟩
def F.SCHED_UNIT_STAT_ENABLE_PENDING : Fld := ⟨376, 3, 1, 0, .ro⟩
def F.SCHED_UNIT_STAT_STATE : Fld := ⟨377, 0, 3, 0, .ro⟩

/-! Fields of spec/13_fabric.md. -/
def F.FAB_CFG_MERGED : Fld := ⟨378, 0, 1, 0, .ro⟩
def F.FAB_ROUTE_GEN_BUSY : Fld := ⟨379, 31, 1, 0, .ro⟩
def F.FAB_ROUTE_GEN_LAST_STATUS : Fld := ⟨380, 8, 8, 0, .ro⟩
def F.FAB_ROUTE_GEN_GEN : Fld := ⟨381, 0, 8, 0, .rwv⟩
def F.FAB_RECFG_TIMEOUT_COUNT : Fld := ⟨382, 16, 16, 0, .ro⟩
def F.FAB_RECFG_TIMEOUT_LAST_GEN : Fld := ⟨383, 8, 8, 0, .ro⟩
def F.FAB_RECFG_TIMEOUT_SET : Fld := ⟨384, 0, 1, 0, .w1c⟩
def F.FAB_READMIT_LAST_STATUS : Fld := ⟨385, 24, 8, 0, .ro⟩
def F.FAB_READMIT_GO : Fld := ⟨386, 9, 1, 0, .w1s⟩
def F.FAB_READMIT_PORT : Fld := ⟨387, 0, 9, 0, .rw⟩
def F.FAB_ERR_CNT_REPLAY : Fld := ⟨388, 32, 32, 0, .ro⟩
def F.FAB_ERR_CNT_ISOLATIONS : Fld := ⟨389, 16, 16, 0, .ro⟩
def F.FAB_ERR_CNT_STUCK : Fld := ⟨390, 0, 1, 0, .ro⟩
def F.FAB_RT_SHADOW_ENTRY : Fld := ⟨391, 0, 64, 0, .rw⟩
def F.FAB_RT_CUR_ENTRY : Fld := ⟨392, 0, 64, 0, .ro⟩
def F.FAB_PORT_STAT_LATE_RSP : Fld := ⟨393, 48, 16, 0, .ro⟩
def F.FAB_PORT_STAT_ABSORBED : Fld := ⟨394, 32, 16, 0, .ro⟩
def F.FAB_PORT_STAT_WAKES : Fld := ⟨395, 16, 16, 0, .ro⟩
def F.FAB_PORT_STAT_ANTEROOM : Fld := ⟨396, 2, 6, 0, .ro⟩
def F.FAB_PORT_STAT_PRESENT : Fld := ⟨397, 1, 1, 0, .ro⟩
def F.FAB_PORT_STAT_ISOLATED : Fld := ⟨398, 0, 1, 0, .ro⟩

/-! Fields of spec/14_memories.md. -/
def F.MEM_STAT_NOT_OWNER : Fld := ⟨399, 48, 16, 0, .ro⟩
def F.MEM_STAT_BUSY : Fld := ⟨400, 32, 16, 0, .ro⟩
def F.MEM_STAT_NARROW : Fld := ⟨401, 16, 16, 0, .ro⟩
def F.MEM_STAT_REPLAY : Fld := ⟨402, 0, 16, 0, .ro⟩
def F.MEM_CTRL_CNT_CLR : Fld := ⟨403, 0, 1, 0, .w1s⟩
def F.MEM_CNT_RET_WAKES : Fld := ⟨404, 32, 32, 0, .ro⟩
def F.MEM_CNT_HANDOVERS : Fld := ⟨405, 16, 16, 0, .ro⟩
def F.MEM_CNT_HANDOVER_FAIL : Fld := ⟨406, 0, 16, 0, .ro⟩
def F.MEM_HBM_STAT_TEMP : Fld := ⟨407, 24, 8, 0, .ro⟩
def F.MEM_HBM_STAT_FILL_PCT : Fld := ⟨408, 16, 8, 0, .ro⟩
def F.MEM_HBM_STAT_REFRESH : Fld := ⟨409, 8, 2, 0, .ro⟩
def F.MEM_HBM_STAT_STATE : Fld := ⟨410, 0, 3, 0, .ro⟩
def F.MEM_POOL_RET_REQ : Fld := ⟨411, 0, 64, 0, .rwv⟩
def F.MEM_POOL_RET_STAT_STATE : Fld := ⟨412, 0, 64, 0, .ro⟩
def F.MEM_CLU_RET_STATE : Fld := ⟨413, 32, 32, 0, .ro⟩
def F.MEM_CLU_RET_REQ : Fld := ⟨414, 0, 32, 0, .rwv⟩
def F.MEM_BANK_OWN_EXPECT : Fld := ⟨415, 48, 11, 0, .wo⟩
def F.MEM_BANK_OWN_PORT_SEL : Fld := ⟨416, 40, 1, 0, .wo⟩
def F.MEM_BANK_OWN_LAST_STATUS : Fld := ⟨417, 32, 8, 0, .ro⟩
def F.MEM_BANK_OWN_OWN_B : Fld := ⟨418, 16, 11, 0, .rwv⟩
def F.MEM_BANK_OWN_OWN_A : Fld := ⟨419, 0, 11, 0, .rwv⟩

/-! Fields of spec/15_integrity.md. -/
def F.INTEG_CTRL_UE_WEIGHT : Fld := ⟨420, 8, 8, 8, .rw⟩
def F.INTEG_CTRL_CNT_CLR : Fld := ⟨421, 2, 1, 0, .w1s⟩
def F.INTEG_CTRL_DARNER_EN : Fld := ⟨422, 1, 1, 1, .rw⟩
def F.INTEG_CTRL_REPAIR_EN : Fld := ⟨423, 0, 1, 1, .rw⟩
def F.INTEG_STAT_REPAIRS : Fld := ⟨424, 48, 16, 0, .ro⟩
def F.INTEG_STAT_REPAIR_DROP : Fld := ⟨425, 32, 16, 0, .ro⟩
def F.INTEG_STAT_UE_TOTAL : Fld := ⟨426, 16, 16, 0, .ro⟩
def F.INTEG_STAT_CE_TOTAL : Fld := ⟨427, 0, 16, 0, .ro⟩
def F.INTEG_UE_LOG_BUCKET : Fld := ⟨428, 57, 7, 0, .ro⟩
def F.INTEG_UE_LOG_VALID : Fld := ⟨429, 48, 1, 0, .ro⟩
def F.INTEG_UE_LOG_ADDR : Fld := ⟨430, 0, 48, 0, .ro⟩
def F.INTEG_TMR_FIX_FIXES : Fld := ⟨431, 16, 16, 0, .ro⟩
def F.INTEG_TMR_FIX_LAST_WORD : Fld := ⟨432, 8, 8, 0, .ro⟩
def F.INTEG_TMR_FIX_SEEN : Fld := ⟨433, 0, 1, 0, .w1c⟩
def F.INTEG_DARNER_CFG_PERIOD_MIN : Fld := ⟨434, 0, 16, 0x5a0, .rw⟩
def F.INTEG_DARNER_STAT_PASSES : Fld := ⟨435, 32, 32, 0, .ro⟩
def F.INTEG_DARNER_STAT_LAG : Fld := ⟨436, 24, 1, 0, .ro⟩
def F.INTEG_DARNER_STAT_PROGRESS : Fld := ⟨437, 16, 8, 0, .ro⟩
def F.INTEG_DARNER_STAT_STATE : Fld := ⟨438, 0, 3, 0, .ro⟩
def F.INTEG_INJECT_BIT_B : Fld := ⟨439, 56, 8, 0, .rw⟩
def F.INTEG_INJECT_BIT_A : Fld := ⟨440, 48, 8, 0, .rw⟩
def F.INTEG_INJECT_ADDR : Fld := ⟨441, 4, 44, 0, .rw⟩
def F.INTEG_INJECT_KIND : Fld := ⟨442, 0, 2, 0, .rwv⟩
def F.INTEG_BUCKET_CFG_THRESHOLD : Fld := ⟨443, 16, 8, 0x10, .rw⟩
def F.INTEG_BUCKET_CFG_LEAK_MS : Fld := ⟨444, 0, 16, 0x3e8, .rw⟩
def F.INTEG_BUCKET_STAT_CE : Fld := ⟨445, 48, 16, 0, .ro⟩
def F.INTEG_BUCKET_STAT_UE : Fld := ⟨446, 32, 16, 0, .ro⟩
def F.INTEG_BUCKET_STAT_OVF : Fld := ⟨447, 16, 16, 0, .ro⟩
def F.INTEG_BUCKET_STAT_LEVEL : Fld := ⟨448, 0, 8, 0, .ro⟩

/-! Fields of spec/16_programmable_logic.md. -/
def F.PLR_STAT_BAD_DONE : Fld := ⟨449, 48, 16, 0, .ro⟩
def F.PLR_STAT_BAD_STATUS : Fld := ⟨450, 32, 16, 0, .ro⟩
def F.PLR_STAT_LOADED : Fld := ⟨451, 8, 8, 0, .ro⟩
def F.PLR_STAT_FENCED : Fld := ⟨452, 0, 8, 0xff, .ro⟩
def F.PLR_CTRL_CNT_CLR : Fld := ⟨453, 0, 1, 0, .w1s⟩
def F.PLR_REGION_CTRL_UNLOAD : Fld := ⟨454, 1, 1, 0, .w1s⟩
def F.PLR_REGION_CTRL_AUTO_READMIT : Fld := ⟨455, 0, 1, 1, .rw⟩
def F.PLR_REGION_STAT_IMAGE_ID : Fld := ⟨456, 32, 32, 0, .ro⟩
def F.PLR_REGION_STAT_LAST_STATUS : Fld := ⟨457, 24, 8, 0, .ro⟩
def F.PLR_REGION_STAT_LOAD_ERR : Fld := ⟨458, 20, 4, 0, .ro⟩
def F.PLR_REGION_STAT_ERR_FRAME : Fld := ⟨459, 8, 12, 0, .ro⟩
def F.PLR_REGION_STAT_PEND : Fld := ⟨460, 7, 1, 0, .ro⟩
def F.PLR_REGION_STAT_HELD : Fld := ⟨461, 6, 1, 0, .ro⟩
def F.PLR_REGION_STAT_STATE : Fld := ⟨462, 0, 3, 0, .ro⟩
def F.PLR_BANK_CFG_VMEAS : Fld := ⟨463, 8, 8, 0, .ro⟩
def F.PLR_BANK_CFG_SUPPLY_OK : Fld := ⟨464, 7, 1, 0, .ro⟩
def F.PLR_BANK_CFG_VMISMATCH : Fld := ⟨465, 6, 1, 0, .ro⟩
def F.PLR_BANK_CFG_VOLT : Fld := ⟨466, 0, 3, 0, .lck⟩
def F.PLR_BANK_SAFE_SAFE : Fld := ⟨467, 0, 48, 0, .rw⟩
def F.PLR_PIN_CFG_REGION : Fld := ⟨468, 24, 8, 0xff, .ro⟩
def F.PLR_PIN_CFG_IOSTD : Fld := ⟨469, 20, 4, 0, .ro⟩
def F.PLR_PIN_CFG_DIR : Fld := ⟨470, 18, 2, 0, .ro⟩
def F.PLR_PIN_CFG_DRIVE : Fld := ⟨471, 16, 2, 0, .ro⟩
def F.PLR_PIN_CFG_DRIVE_CAP : Fld := ⟨472, 14, 2, 0, .lck⟩
def F.PLR_PIN_CFG_SLOW_ONLY : Fld := ⟨473, 13, 1, 0, .lck⟩
def F.PLR_PIN_CFG_SLEW : Fld := ⟨474, 12, 1, 0, .ro⟩
def F.PLR_PIN_CFG_SLEW_IMG : Fld := ⟨475, 11, 1, 0, .ro⟩
def F.PLR_PIN_CFG_IRQ_EN : Fld := ⟨476, 5, 1, 0, .rw⟩
def F.PLR_PIN_CFG_LEVEL : Fld := ⟨477, 4, 1, 0, .rw⟩
def F.PLR_PIN_CFG_ACTIVE_LOW : Fld := ⟨478, 3, 1, 0, .rw⟩
def F.PLR_PIN_CFG_WAKE : Fld := ⟨479, 2, 1, 0, .rw⟩
def F.PLR_IRQ_STAT_FIRED : Fld := ⟨480, 0, 64, 0, .w1c⟩
def F.PLR_STORM_MASKED : Fld := ⟨481, 0, 64, 0, .w1c⟩

/-! Fields of spec/17_ethernet_timing.md. -/
def F.ETH_CFG_MODE : Fld := ⟨482, 0, 2, 0, .lck⟩
def F.ETH_PORT_CFG_MAC : Fld := ⟨483, 16, 48, 0, .lck⟩
def F.ETH_PORT_CFG_ROLE_SYNCE : Fld := ⟨484, 2, 1, 0, .lck⟩
def F.ETH_PORT_CFG_ROLE_PTP : Fld := ⟨485, 1, 1, 0, .lck⟩
def F.ETH_PORT_CFG_ROLE_FH : Fld := ⟨486, 0, 1, 0, .rw⟩
def F.ETH_PORT_STAT_RX_DROP : Fld := ⟨487, 32, 32, 0, .ro⟩
def F.ETH_PORT_STAT_FEC_UNCORR : Fld := ⟨488, 16, 16, 0, .ro⟩
def F.ETH_PORT_STAT_SPEED : Fld := ⟨489, 1, 2, 0, .ro⟩
def F.ETH_PORT_STAT_LINK_UP : Fld := ⟨490, 0, 1, 0, .ro⟩
def F.ETH_RU_CFG_EN : Fld := ⟨491, 63, 1, 0, .rw⟩
def F.ETH_RU_CFG_STATIC_COMP : Fld := ⟨492, 62, 1, 0, .rw⟩
def F.ETH_RU_CFG_JUMBO : Fld := ⟨493, 61, 1, 0, .rw⟩
def F.ETH_RU_CFG_PORT : Fld := ⟨494, 57, 4, 0, .rw⟩
def F.ETH_RU_CFG_CELL : Fld := ⟨495, 52, 5, 0, .rw⟩
def F.ETH_RU_CFG_TYPE : Fld := ⟨496, 51, 1, 0, .rw⟩
def F.ETH_RU_CFG_SCS : Fld := ⟨497, 50, 1, 0, .rw⟩
def F.ETH_RU_CFG_CP_EXT : Fld := ⟨498, 49, 1, 0, .rw⟩
def F.ETH_RU_CFG_N_RB : Fld := ⟨499, 40, 9, 0, .rw⟩
def F.ETH_RU_CFG_N_PORT_M1 : Fld := ⟨500, 37, 3, 0, .rw⟩
def F.ETH_RU_CFG_MANT : Fld := ⟨501, 33, 4, 9, .rw⟩
def F.ETH_RU_CFG_RU_BITS : Fld := ⟨502, 29, 4, 0, .rw⟩
def F.ETH_RU_CFG_EAXC_BASE : Fld := ⟨503, 0, 16, 0, .rw⟩
def F.ETH_RU_ADDR_VLAN_EN : Fld := ⟨504, 63, 1, 0, .rw⟩
def F.ETH_RU_ADDR_PCP : Fld := ⟨505, 60, 3, 0, .rw⟩
def F.ETH_RU_ADDR_VLAN_ID : Fld := ⟨506, 48, 12, 0, .rw⟩
def F.ETH_RU_ADDR_RU_MAC : Fld := ⟨507, 0, 48, 0, .rw⟩
def F.ETH_RU_POOL_N_BUF : Fld := ⟨508, 58, 6, 0, .rw⟩
def F.ETH_RU_POOL_UL_OFF : Fld := ⟨509, 36, 20, 0, .rw⟩
def F.ETH_RU_POOL_DL_OFF : Fld := ⟨510, 16, 20, 0, .rw⟩
def F.ETH_RU_POOL_STRIDE : Fld := ⟨511, 0, 16, 0, .rw⟩
def F.ETH_RU_WIN_TA4_MAX : Fld := ⟨512, 48, 16, 0x600, .rw⟩
def F.ETH_RU_WIN_T1A_UP : Fld := ⟨513, 32, 16, 0xc00, .rw⟩
def F.ETH_RU_WIN_TCP_ADV_DL : Fld := ⟨514, 16, 16, 0x600, .rw⟩
def F.ETH_RU_WIN_TCP_ADV_UL : Fld := ⟨515, 0, 16, 0xa00, .rw⟩
def F.ETH_RU_PRACH_EN : Fld := ⟨516, 63, 1, 0, .rw⟩
def F.ETH_RU_PRACH_PERIOD : Fld := ⟨517, 54, 9, 0, .rw⟩
def F.ETH_RU_PRACH_SLOT_OFF : Fld := ⟨518, 45, 9, 0, .rw⟩
def F.ETH_RU_PRACH_START_SYM : Fld := ⟨519, 41, 4, 0, .rw⟩
def F.ETH_RU_PRACH_N_SYM_M1 : Fld := ⟨520, 37, 4, 0, .rw⟩
def F.ETH_RU_PRACH_N_PRBC : Fld := ⟨521, 28, 9, 0, .rw⟩
def F.ETH_RU_PRACH_PSTRIDE : Fld := ⟨522, 0, 16, 0, .rw⟩
def F.ETH_RU_PRACH2_FILTER_IDX : Fld := ⟨523, 60, 4, 0, .rw⟩
def F.ETH_RU_PRACH2_PRACH_OFF : Fld := ⟨524, 32, 20, 0, .rw⟩
def F.ETH_RU_PRACH2_FS_SCS : Fld := ⟨525, 28, 4, 0, .rw⟩
def F.ETH_RU_PRACH2_FFT : Fld := ⟨526, 24, 4, 0, .rw⟩
def F.ETH_RU_PRACH2_PRACH_BASE : Fld := ⟨527, 0, 16, 0, .rw⟩
def F.ETH_RU_CNT_LATE : Fld := ⟨528, 48, 16, 0, .ro⟩
def F.ETH_RU_CNT_DISCARD : Fld := ⟨529, 32, 16, 0, .ro⟩
def F.ETH_RU_CNT_SEQ_ERR : Fld := ⟨530, 16, 16, 0, .ro⟩
def F.ETH_RU_CNT_ZEROED : Fld := ⟨531, 0, 16, 0, .ro⟩
def F.ETH_RU_OWD_GO : Fld := ⟨532, 63, 1, 0, .w1s⟩
def F.ETH_RU_OWD_VALID : Fld := ⟨533, 32, 1, 0, .ro⟩
def F.ETH_RU_OWD_DELAY_NS : Fld := ⟨534, 0, 32, 0, .ro⟩
def F.TIME_CTRL_TE_LIMIT : Fld := ⟨535, 48, 16, 0x44c, .rw⟩
def F.TIME_CTRL_SLEW_PPB : Fld := ⟨536, 40, 8, 0xa, .rw⟩
def F.TIME_CTRL_HOLD_PPB : Fld := ⟨537, 32, 8, 0xa, .rw⟩
def F.TIME_CTRL_PPS_OFFSET : Fld := ⟨538, 16, 16, 0, .rw⟩
def F.TIME_CTRL_WIDTH : Fld := ⟨539, 8, 8, 0xa, .rw⟩
def F.TIME_CTRL_WTR_S : Fld := ⟨540, 4, 4, 0xa, .rw⟩
def F.TIME_CTRL_REVERT : Fld := ⟨541, 3, 1, 0, .rw⟩
def F.TIME_CTRL_PPS_IN_EN : Fld := ⟨542, 1, 1, 0, .rw⟩
def F.TIME_CTRL_PPS_OUT_EN : Fld := ⟨543, 0, 1, 0, .rw⟩
def F.TIME_SRC_CFG_SYNCE_PORT : Fld := ⟨544, 28, 4, 0, .rw⟩
def F.TIME_SRC_CFG_ROLE : Fld := ⟨545, 16, 2, 0, .rw⟩
def F.TIME_SRC_CFG_PRIO_10M : Fld := ⟨546, 14, 2, 0, .rw⟩
def F.TIME_SRC_CFG_PRIO_SYNCE : Fld := ⟨547, 12, 2, 0, .rw⟩
def F.TIME_SRC_CFG_PRIO_RING : Fld := ⟨548, 6, 2, 0, .rw⟩
def F.TIME_SRC_CFG_PRIO_PPS : Fld := ⟨549, 4, 2, 0, .rw⟩
def F.TIME_SRC_CFG_PRIO_PTP : Fld := ⟨550, 2, 2, 0, .rw⟩
def F.TIME_STAT_TE_EST : Fld := ⟨551, 32, 32, 0x7fffffff, .ro⟩
def F.TIME_STAT_PPS_DROP : Fld := ⟨552, 24, 8, 0, .ro⟩
def F.TIME_STAT_ALARM_SEEN : Fld := ⟨553, 22, 1, 0, .w1c⟩
def F.TIME_STAT_ALARM : Fld := ⟨554, 21, 1, 0, .ro⟩
def F.TIME_STAT_FREQ_SRC : Fld := ⟨555, 12, 4, 0, .ro⟩
def F.TIME_STAT_PHASE_SRC : Fld := ⟨556, 8, 4, 0, .ro⟩
def F.TIME_STAT_STATE : Fld := ⟨557, 0, 2, 0, .ro⟩
def F.TIME_TOD_TOD : Fld := ⟨558, 0, 48, 0, .rwv⟩
def F.TIME_PTP_CFG_DOMAIN : Fld := ⟨559, 24, 8, 0x18, .rw⟩
def F.TIME_PTP_CFG_PRIORITY2 : Fld := ⟨560, 16, 8, 0x80, .rw⟩
def F.TIME_PTP_CFG_TSC : Fld := ⟨561, 2, 1, 0, .rw⟩
def F.TIME_PTP_CFG_PROFILE : Fld := ⟨562, 0, 2, 0, .rw⟩
def F.TIME_PTP_PORT_LOCAL_PRIO : Fld := ⟨563, 56, 8, 0x80, .rw⟩
def F.TIME_PTP_PORT_NOT_SLAVE : Fld := ⟨564, 55, 1, 0, .rw⟩
def F.TIME_PTP_PORT_MCAST_ALT : Fld := ⟨565, 54, 1, 0, .rw⟩
def F.TIME_PTP_PORT_ASYM : Fld := ⟨566, 32, 16, 0, .lck⟩
def F.TIME_PTP_PORT_PORT_STATE : Fld := ⟨567, 0, 4, 0, .ro⟩
def F.TIME_PTP_IP_OWN : Fld := ⟨568, 32, 32, 0, .rw⟩
def F.TIME_PTP_IP_MASTER : Fld := ⟨569, 0, 32, 0, .rw⟩
def F.TIME_FRAME_CFG_ORIGIN : Fld := ⟨570, 32, 32, 0, .rw⟩
def F.TIME_FRAME_CFG_OFFSET : Fld := ⟨571, 16, 16, 0, .rw⟩
def F.TIME_FRAME_CFG_MODE : Fld := ⟨572, 0, 1, 0, .rw⟩
def F.TIME_FRAME_STAT_SFN0_TICK : Fld := ⟨573, 32, 32, 0, .ro⟩
def F.TIME_FRAME_STAT_SFN : Fld := ⟨574, 0, 10, 0, .ro⟩
def F.TIME_TICK_TICK : Fld := ⟨575, 0, 32, 0, .ro⟩
def F.TIME_RING_STAT_HOLD : Fld := ⟨576, 17, 1, 0, .ro⟩
def F.TIME_RING_STAT_UP_VALID : Fld := ⟨577, 16, 1, 0, .ro⟩
def F.TIME_RING_STAT_UPSTREAM : Fld := ⟨578, 15, 1, 0, .ro⟩
def F.TIME_RING_STAT_DIST : Fld := ⟨579, 10, 5, 0x1f, .ro⟩
def F.TIME_RING_STAT_DIST_W : Fld := ⟨580, 5, 5, 0x1f, .ro⟩
def F.TIME_RING_STAT_DIST_E : Fld := ⟨581, 0, 5, 0x1f, .ro⟩

/-! Fields of spec/18_power.md. -/
def F.PWR_CFG_IDLE_TMO : Fld := ⟨582, 16, 16, 0x3e8, .rw⟩
def F.PWR_CFG_SOAK_LEAD : Fld := ⟨583, 8, 8, 0x32, .rw⟩
def F.PWR_MANGLE_STAT_RAMPS : Fld := ⟨584, 32, 32, 0, .ro⟩
def F.PWR_MANGLE_STAT_QUEUE : Fld := ⟨585, 24, 8, 0, .ro⟩
def F.PWR_MANGLE_STAT_I_EST : Fld := ⟨586, 0, 16, 0, .ro⟩
def F.PWR_SHED_STAGE_VMEAS : Fld := ⟨587, 22, 10, 0, .ro⟩
def F.PWR_SHED_STAGE_VMIN : Fld := ⟨588, 12, 10, 0x3ff, .ro⟩
def F.PWR_SHED_STAGE_CLR : Fld := ⟨589, 11, 1, 0, .w1s⟩
def F.PWR_SHED_STAGE_WARN : Fld := ⟨590, 10, 1, 0, .ro⟩
def F.PWR_SHED_STAGE_PEAK : Fld := ⟨591, 7, 3, 0, .ro⟩
def F.PWR_SHED_STAGE_STAGE : Fld := ⟨592, 0, 3, 0, .ro⟩
def F.PWR_SHED_CNT_ENTRIES : Fld := ⟨593, 0, 48, 0, .ro⟩
def F.PWR_WAKE_CFG_LINK : Fld := ⟨594, 46, 18, 0, .rw⟩
def F.PWR_WAKE_CFG_MAX_SLEEP_S : Fld := ⟨595, 16, 16, 0, .rw⟩
def F.PWR_WAKE_CFG_MGMT : Fld := ⟨596, 2, 1, 1, .rw⟩
def F.PWR_WAKE_CFG_PLR : Fld := ⟨597, 1, 1, 0, .rw⟩
def F.PWR_WAKE_CFG_BRX : Fld := ⟨598, 0, 1, 1, .rw⟩
def F.PWR_WAKE_STAT_SOAK_WAKES : Fld := ⟨599, 32, 32, 0, .ro⟩
def F.PWR_WAKE_STAT_LAST_LINK : Fld := ⟨600, 16, 5, 0, .ro⟩
def F.PWR_WAKE_STAT_LATCHED : Fld := ⟨601, 8, 8, 0, .w1c⟩
def F.PWR_WAKE_STAT_LAST_SRC : Fld := ⟨602, 0, 4, 0, .ro⟩
def F.PWR_SOAK_TX_EN : Fld := ⟨603, 63, 1, 0, .rw⟩
def F.PWR_SOAK_TX_CC : Fld := ⟨604, 60, 3, 0, .rw⟩
def F.PWR_SOAK_TX_PERIOD : Fld := ⟨605, 57, 3, 0, .rw⟩
def F.PWR_SOAK_TX_N_SYM_M1 : Fld := ⟨606, 43, 3, 0, .rw⟩
def F.PWR_SOAK_TX_ORIGIN : Fld := ⟨607, 0, 32, 0, .rw⟩
def F.PWR_DOM_REQ_STATE : Fld := ⟨608, 0, 2, 0, .wo⟩
def F.PWR_DOM_STAT_SAVE_SKIP : Fld := ⟨609, 24, 8, 0, .ro⟩
def F.PWR_DOM_STAT_LAST_STATUS : Fld := ⟨610, 16, 8, 0, .ro⟩
def F.PWR_DOM_STAT_LOCK_SRC : Fld := ⟨611, 14, 2, 0, .ro⟩
def F.PWR_DOM_STAT_ENABLE_PENDING : Fld := ⟨612, 13, 1, 0, .ro⟩
def F.PWR_DOM_STAT_IDLE_WAIT : Fld := ⟨613, 12, 1, 0, .ro⟩
def F.PWR_DOM_STAT_TARGET : Fld := ⟨614, 4, 2, 0, .ro⟩
def F.PWR_DOM_STAT_IN_TRANSITION : Fld := ⟨615, 3, 1, 0, .ro⟩
def F.PWR_DOM_STAT_STATE : Fld := ⟨616, 0, 2, 3, .ro⟩
def F.PWR_DOM_PEND_SUPERSEDED_CNT : Fld := ⟨617, 24, 8, 0, .ro⟩
def F.PWR_DOM_PEND_LAST_REJECT_STATUS : Fld := ⟨618, 16, 8, 0, .ro⟩
def F.PWR_DOM_PEND_LAST_REJECT_STATE : Fld := ⟨619, 14, 2, 0, .ro⟩
def F.PWR_DOM_PEND_LAST_SUPERSEDED : Fld := ⟨620, 12, 2, 0, .ro⟩
def F.PWR_DOM_PEND_CNT_CLR : Fld := ⟨621, 9, 1, 0, .w1s⟩
def F.PWR_DOM_PEND_CANCEL : Fld := ⟨622, 8, 1, 0, .w1s⟩
def F.PWR_DOM_PEND_HW_PEND : Fld := ⟨623, 4, 1, 0, .ro⟩
def F.PWR_DOM_PEND_PEND_VALID : Fld := ⟨624, 3, 1, 0, .ro⟩
def F.PWR_DOM_PEND_PEND_STATE : Fld := ⟨625, 0, 2, 0, .ro⟩
def F.PWR_DOM_CFG_STEP : Fld := ⟨626, 56, 8, 0, .ro⟩
def F.PWR_DOM_CFG_SAVE_BASE : Fld := ⟨627, 44, 12, 0, .rw⟩
def F.PWR_DOM_CFG_SAVE_LEN : Fld := ⟨628, 35, 9, 0, .rw⟩
def F.PWR_DOM_CFG_SVC_SET : Fld := ⟨629, 3, 1, 0, .lck⟩
def F.PWR_DOM_CFG_POLICY_LOCK : Fld := ⟨630, 2, 1, 0, .lck⟩
def F.PWR_DOM_CFG_SOAK_STATE : Fld := ⟨631, 0, 2, 2, .rw⟩

/-! Fields of spec/19_trust.md. -/
def F.TRUST_STATUS_LAST_FAIL_STATUS : Fld := ⟨632, 56, 8, 0, .ro⟩
def F.TRUST_STATUS_LAST_FAIL_CHECK : Fld := ⟨633, 52, 4, 0, .ro⟩
def F.TRUST_STATUS_LAST_FAIL_TARGET : Fld := ⟨634, 48, 4, 0, .ro⟩
def F.TRUST_STATUS_LAST_FAIL_TYPE : Fld := ⟨635, 44, 4, 0, .ro⟩
def F.TRUST_STATUS_TOKEN_PERMS : Fld := ⟨636, 32, 4, 0, .ro⟩
def F.TRUST_STATUS_TOKEN_OK : Fld := ⟨637, 15, 1, 0, .ro⟩
def F.TRUST_STATUS_FALLBACK : Fld := ⟨638, 14, 1, 0, .ro⟩
def F.TRUST_STATUS_BOOT_FROM : Fld := ⟨639, 12, 2, 0, .ro⟩
def F.TRUST_STATUS_VALID_A : Fld := ⟨640, 11, 1, 0, .ro⟩
def F.TRUST_STATUS_VALID_B : Fld := ⟨641, 10, 1, 0, .ro⟩
def F.TRUST_STATUS_STAGED : Fld := ⟨642, 9, 1, 0, .ro⟩
def F.TRUST_STATUS_FLASH_BUSY : Fld := ⟨643, 8, 1, 0, .ro⟩
def F.TRUST_STATUS_BUSY : Fld := ⟨644, 0, 4, 0, .ro⟩
def F.TRUST_CTRL_HOST_DONE : Fld := ⟨645, 1, 1, 0, .w1s⟩
def F.TRUST_CTRL_NEW_NONCE : Fld := ⟨646, 0, 1, 0, .w1s⟩
def F.TRUST_NONCE_NONCE : Fld := ⟨647, 0, 64, 0, .ro⟩
def F.TRUST_FUSE_SVN : Fld := ⟨648, 16, 8, 0, .ro⟩
def F.TRUST_FUSE_REV_SLH : Fld := ⟨649, 12, 4, 0, .ro⟩
def F.TRUST_FUSE_REV_RSA : Fld := ⟨650, 8, 4, 0, .ro⟩
def F.TRUST_FUSE_PROG_SLH : Fld := ⟨651, 4, 4, 0, .ro⟩
def F.TRUST_FUSE_PROG_RSA : Fld := ⟨652, 0, 4, 0, .ro⟩
def F.TRUST_DEV_ID_DEV_ID : Fld := ⟨653, 0, 64, 0, .ro⟩
def F.TRUST_SEQ_SEQ_B : Fld := ⟨654, 32, 32, 0, .ro⟩
def F.TRUST_SEQ_SEQ_A : Fld := ⟨655, 0, 32, 0, .ro⟩
def F.TRUST_MEAS_DIGEST : Fld := ⟨656, 0, 64, 0, .ro⟩
def F.TRUST_MEAS_INFO_IMAGE_ID : Fld := ⟨657, 32, 32, 0, .ro⟩
def F.TRUST_MEAS_INFO_SVN : Fld := ⟨658, 24, 8, 0, .ro⟩
def F.TRUST_MEAS_INFO_VALID : Fld := ⟨659, 0, 1, 0, .ro⟩

/-! Fields of spec/20_clocks_pins.md. -/
def F.CLK_REF_CFG_USING_B : Fld := ⟨660, 7, 1, 0, .ro⟩
def F.CLK_REF_CFG_REF_B_OK : Fld := ⟨661, 6, 1, 0, .ro⟩
def F.CLK_REF_CFG_REF_A_OK : Fld := ⟨662, 5, 1, 0, .ro⟩
def F.CLK_REF_CFG_B_FREQ : Fld := ⟨663, 2, 2, 0, .lck⟩
def F.CLK_REF_CFG_A_FREQ : Fld := ⟨664, 0, 2, 0, .lck⟩
def F.CLK_PLL_STAT_LOL_SEEN : Fld := ⟨665, 16, 12, 0, .w1c⟩
def F.CLK_PLL_STAT_LOCK : Fld := ⟨666, 0, 12, 0, .ro⟩
def F.CLK_PLR_DIV : Fld := ⟨667, 0, 8, 0x18, .rw⟩
def F.SENS_STAT_MAX_TEMP : Fld := ⟨668, 16, 16, 0, .ro⟩
def F.SENS_STAT_HOT : Fld := ⟨669, 8, 8, 0, .ro⟩
def F.SENS_STAT_THROTTLE : Fld := ⟨670, 7, 1, 0, .ro⟩
def F.SENS_STAT_FAILED : Fld := ⟨671, 0, 7, 0, .ro⟩
def F.SENS_ALERT_AVS : Fld := ⟨672, 4, 1, 0, .ro⟩
def F.SENS_ALERT_SENSOR : Fld := ⟨673, 3, 1, 0, .ro⟩
def F.SENS_ALERT_PLL : Fld := ⟨674, 2, 1, 0, .ro⟩
def F.SENS_ALERT_THROTTLE : Fld := ⟨675, 1, 1, 0, .ro⟩
def F.SENS_ALERT_TIME : Fld := ⟨676, 0, 1, 0, .ro⟩
def F.SENS_TEMP_FAILED : Fld := ⟨677, 16, 1, 0, .ro⟩
def F.SENS_TEMP_TEMP : Fld := ⟨678, 0, 16, 0, .ro⟩
def F.SENS_VOLT_MIN : Fld := ⟨679, 16, 16, 0xffff, .ro⟩
def F.SENS_VOLT_VOLT : Fld := ⟨680, 0, 16, 0, .ro⟩
def F.SENS_AGE_COUNT : Fld := ⟨681, 0, 32, 0, .ro⟩

/-! Fields of spec/21_service_life.md. -/
def F.SENS_AVS_SLOW : Fld := ⟨682, 48, 16, 0, .ro⟩
def F.SENS_AVS_BASE : Fld := ⟨683, 32, 16, 0, .ro⟩
def F.SENS_AVS_TARGET : Fld := ⟨684, 16, 16, 0x2ee, .ro⟩
def F.SENS_AVS_REDUCED : Fld := ⟨685, 1, 1, 0, .ro⟩
def F.SENS_AVS_AT_LIMIT : Fld := ⟨686, 0, 1, 0, .ro⟩

end Sys2Proof.Machine
end

