-- ==== Sys2Proof/Machine/Ops.lean ====
section
/-! DEFINITION. The named operations every block uses: tables, register fields, ticks, bit fields, what leaves the
device, and how a command's effect becomes an outcome. -/
namespace Sys2Proof.Machine

/-! ## Tables -/

/-- What the table holds for a key, `d` where the key is not listed. -/
def Tbl.get {α : Type} (t : Tbl α) (k : Nat) (d : α) : α :=
  match t with
  | [] => d
  | (k', v) :: r => if k = k' then v else Tbl.get r k d

/-- Insert before the first larger key. -/
def Tbl.insert {α : Type} (t : Tbl α) (k : Nat) (v : α) : Tbl α :=
  match t with
  | [] => [(k, v)]
  | (k', v') :: r => if k < k' then (k, v) :: (k', v') :: r else (k', v') :: Tbl.insert r k v

/-- Remove a key. -/
def Tbl.erase {α : Type} (t : Tbl α) (k : Nat) : Tbl α := t.filter fun e => e.1 != k

/-- Set a key; a value equal to the default removes the entry, so that equal tables are equal data. -/
def Tbl.set {α : Type} [DecidableEq α] (t : Tbl α) (k : Nat) (v d : α) : Tbl α :=
  if v = d then Tbl.erase t k else Tbl.insert (Tbl.erase t k) k v

/-- Keys strictly rising from `lo` on. -/
def Tbl.rising {α : Type} (lo : Nat) (t : Tbl α) : Bool :=
  match t with
  | [] => true
  | (k, _) :: r => lo ≤ k && Tbl.rising (k + 1) r

/-- The canonical form: keys strictly rising, no entry equal to the default of its key. -/
def Tbl.wf {α : Type} [DecidableEq α] (d : Nat → α) (t : Tbl α) : Bool :=
  Tbl.rising 0 t && t.all fun e => e.2 != d e.1

/-- The listed values whose key satisfies `p` are removed. -/
def Tbl.eraseIf {α : Type} (t : Tbl α) (p : Nat → Bool) : Tbl α := t.filter fun e => !p e.1

/-! ## Named updates: one part of the chip set, every other left alone -/

/-- The chip with `regs` set. -/
def Chip.withRegs (c : Chip) (x : Tbl Nat) : Chip := { c with regs := x }
/-- The chip with `mem` set. -/
def Chip.withMem (c : Chip) (x : Tbl Byte) : Chip := { c with mem := x }
/-- The chip with `poison` set. -/
def Chip.withPoison (c : Chip) (x : Tbl Bool) : Chip := { c with poison := x }
/-- The chip with `upset` set. -/
def Chip.withUpset (c : Chip) (x : Tbl Nat) : Chip := { c with upset := x }
/-- The chip with `tick` set. -/
def Chip.withTick (c : Chip) (x : Nat) : Chip := { c with tick := x }
/-- The chip with `free` set. -/
def Chip.withFree (c : Chip) (x : Nat) : Chip := { c with free := x }
/-- The chip with `again` set. -/
def Chip.withAgain (c : Chip) (x : List Nat) : Chip := { c with again := x }
/-- The chip with `out` set. -/
def Chip.withOut (c : Chip) (x : List Out) : Chip := { c with out := x }
/-- The chip with `dev` set. -/
def Chip.withDev (c : Chip) (x : DevSt) : Chip := { c with dev := x }
/-- The chip with `hif` set. -/
def Chip.withHif (c : Chip) (x : HifSt) : Chip := { c with hif := x }
/-- The chip with `pwr` set. -/
def Chip.withPwr (c : Chip) (x : PwrSt) : Chip := { c with pwr := x }
/-- The chip with `fab` set. -/
def Chip.withFab (c : Chip) (x : FabSt) : Chip := { c with fab := x }
/-- The chip with `mems` set. -/
def Chip.withMems (c : Chip) (x : MemSt) : Chip := { c with mems := x }
/-- The chip with `integ` set. -/
def Chip.withInteg (c : Chip) (x : IntegSt) : Chip := { c with integ := x }
/-- The chip with `sched` set. -/
def Chip.withSched (c : Chip) (x : SchedSt) : Chip := { c with sched := x }
/-- The chip with `clu` set. -/
def Chip.withClu (c : Chip) (x : EngSt) : Chip := { c with clu := x }
/-- The chip with `plr` set. -/
def Chip.withPlr (c : Chip) (x : PlrSt) : Chip := { c with plr := x }
/-- The chip with `ecv` set. -/
def Chip.withEcv (c : Chip) (x : EcvSt) : Chip := { c with ecv := x }
/-- The chip with `ach` set. -/
def Chip.withAch (c : Chip) (x : AchSt) : Chip := { c with ach := x }
/-- The chip with `cal` set. -/
def Chip.withCal (c : Chip) (x : CalSt) : Chip := { c with cal := x }
/-- The chip with `trust` set. -/
def Chip.withTrust (c : Chip) (x : TrustSt) : Chip := { c with trust := x }
/-- The chip with `brx` set. -/
def Chip.withBrx (c : Chip) (x : BrxSt) : Chip := { c with brx := x }
/-- The chip with `ae` set. -/
def Chip.withAe (c : Chip) (x : AeSt) : Chip := { c with ae := x }
/-- The chip with `code` set. -/
def Chip.withCode (c : Chip) (x : CodeSt) : Chip := { c with code := x }
/-- The chip with `eth` set. -/
def Chip.withEth (c : Chip) (x : EthSt) : Chip := { c with eth := x }
/-- The chip with `time` set. -/
def Chip.withTime (c : Chip) (x : TimeSt) : Chip := { c with time := x }
/-- The chip with `sens` set. -/
def Chip.withSens (c : Chip) (x : SensSt) : Chip := { c with sens := x }
/-- The chip with `port` set. -/
def Chip.withPort (c : Chip) (x : PortSt) : Chip := { c with port := x }

/-! ## Bits and numbers -/

/-- Bits `hi` down to `lo` of a number (R6). -/
def bits (v hi lo : Nat) : Nat := v / 2 ^ lo % 2 ^ (hi + 1 - lo)

/-- One bit of a number. -/
def bit (v k : Nat) : Bool := v / 2 ^ k % 2 == 1

/-- A number with bit `k` set or cleared. -/
def setBit (v k : Nat) (b : Bool) : Nat :=
  if bit v k == b then v else if b then v + 2 ^ k else v - 2 ^ k

/-- The numbers of the bits set below `w`. -/
def bitsSet (v w : Nat) : List Nat := (List.range w).filter (bit v)

/-- A boolean as a bit. -/
def b2n (b : Bool) : Nat := if b then 1 else 0

/-- The two's-complement value of a `w`-bit number. -/
def sx (w v : Nat) : Int :=
  let u := v % 2 ^ w
  if 2 * u < 2 ^ w then (u : Int) else (u : Int) - (2 ^ w : Nat)

/-- An integer as `w` bits, two's complement; the low-order bits are kept (R12, non-saturating). -/
def toBits (w : Nat) (x : Int) : Nat := (x % (2 ^ w : Nat)).toNat

/-- Saturation to a `w`-bit signed range (R12). -/
def satS (w : Nat) (x : Int) : Int :=
  if x < -(2 ^ (w - 1) : Nat) then -(2 ^ (w - 1) : Nat)
  else if (2 ^ (w - 1) : Nat) - 1 < x then (2 ^ (w - 1) : Nat) - 1 else x

/-- Round half up and drop `n` bits (R11). -/
def roundDrop (n : Nat) (x : Int) : Int :=
  if n = 0 then x else (x + (2 ^ (n - 1) : Nat)) / (2 ^ n : Nat)

/-- Division by two with rounding half up (R11). -/
def halfUp (x : Int) : Int := (x + 1) / 2

/-- Quotient by a positive divisor, rounded half up (R11). -/
def roundDiv (a d : Int) : Int := (2 * a + d) / (2 * d)

/-- Little-endian bytes of a value (R7). -/
def toBytes (n v : Nat) : List Byte :=
  match n with
  | 0 => []
  | m + 1 => BitVec.ofNat 8 v :: toBytes m (v / 256)

/-- The value of little-endian bytes (R7). -/
def ofBytes (l : List Byte) : Nat :=
  match l with
  | [] => 0
  | b :: r => b.toNat + 256 * ofBytes r

/-! ## Ticks -/

/-- Ticks are 32-bit and wrap (R13). -/
def tickMod : Nat := 2 ^ 32

/-- Signed difference `a − b` of two ticks (R88). -/
def tickDiff (a b : Nat) : Int := sx 32 (a + tickMod - b % tickMod)

/-- Tick `a` is later than tick `b`. -/
def tickLater (a b : Nat) : Bool := 0 < tickDiff a b

/-- Tick sum. -/
def tickAdd (a n : Nat) : Nat := (a + n) % tickMod

/-- Ticks in `us` microseconds, rounded up: 30.72 ticks in a microsecond. -/
def usTicks (us : Nat) : Nat := (us * 3072 + 99) / 100

/-- Counts are compared modulo 2^32 (R82). -/
def cntSub (a b : Nat) : Nat := (a + 2 ^ 32 - b % 2 ^ 32) % 2 ^ 32

/-! ## Register fields -/

/-- The key of field `f` of the register with indices `i`, `j`. -/
def Fld.key (f : Fld) (i j : Nat) : Nat := (f.id * 2 ^ 16 + i % 2 ^ 16) * 2 ^ 16 + j % 2 ^ 16

/-- The dimension-order output of router `r` for destination `t`: X first, then Y, then EJECT (R364). -/
def dimOrder (r t : Nat) : Nat :=
  if r % 8 < t % 8 then 1 else if t % 8 < r % 8 then 3
  else if r / 8 < t / 8 then 2 else if t / 8 < r / 8 then 0 else 4

/-- Dimension-order entries of router `r` for destinations 16q to 16q + 15 (R364). -/
def dimOrderWord (r q : Nat) : Nat :=
  (List.range 16).foldr (fun k acc => acc * 16 + (if 16 * q + k < 80 then dimOrder r (16 * q + k) else 0)) 0

/-- An endpoint is attached at port 4r + k (R357, R526). -/
def portPresent (p : Nat) : Bool :=
  let r := p / 4
  let k := p % 4
  let x := r % 8
  let y := r / 8
  if y = 0 then
    (x == 0 && k < 1) || (x == 1 && k < 2) || (x == 2 && k < 3) || (x == 3 && k < 2) || (x == 4 && k < 2)
      || (x == 5 && k < 1) || (x == 6 && k < 1) || (x == 7 && k < 2)
  else if y = 9 then
    (x < 8 && k == 0) || (k == 1 && (x == 0 || x == 2 || x == 5 || x == 7 || x == 3)) || (k == 1 && x == 4)
  else y < 9 && k == 0

/-- Wake step ΔI of a domain in 0.25 A units (R448). -/
def domStep (d : Nat) : Nat :=
  if d < 16 then 24 else if d < 25 then 20 else if d < 33 then 16 else if d < 38 then 8 else if d < 39 then 4
  else if d < 47 then 6 else if d < 49 then 12 else if d < 61 then 8 else if d < 62 then 4 else if d < 63 then 8
  else 20

/-- ROM default of the owner of port A of bank `b` of cluster `c` (R379). -/
def romOwnA (c b : Nat) : Nat := if b < 16 then 16 * c + b else 0x7FE

/-- The nominal gain compensation factor of a code: 3c dB in Q8.24, rounded half up (R153, R254). -/
def nominalGain (code : Nat) : Nat :=
  (([16777216, 23698447, 33474947, 47284619, 66791300, 94345219, 133266164, 188243460, 265900954,
    375595081, 530542154, 749410711, 1058570766, 1495270950, 2112126356, 2983457777] : List Nat)).getD code 0

/-- What a field reads as while nothing has been written to it: the reset value of its table, the value fixed in
silicon, or the ROM default of a boot-configuration field (R525). -/
def Fld.reset (f : Fld) (i j : Nat) : Nat :=
  if f.id = F.HIF_FN_CELLS_CELLS.id then (if i = 0 then 0xFFFFFFFF else 0)
  else if f.id = F.FAB_RT_SHADOW_ENTRY.id || f.id = F.FAB_RT_CUR_ENTRY.id then dimOrderWord i j
  else if f.id = F.FAB_PORT_STAT_PRESENT.id then b2n (portPresent i)
  else if f.id = F.MEM_BANK_OWN_OWN_A.id then romOwnA i j
  else if f.id = F.MEM_BANK_OWN_OWN_B.id then (if j < 2 then 0x7FE else 0x7FF)
  else if f.id = F.PWR_DOM_CFG_STEP.id then domStep i
  else if f.id = F.PWR_DOM_CFG_SVC_SET.id then 1
  else if f.id = F.PLR_PIN_CFG_SLOW_ONLY.id then 1
  else if f.id = F.PLR_BANK_SAFE_SAFE.id then 2 ^ 48 - 1
  else if f.id = F.CAL_COEF_TX.id || f.id = F.CAL_COEF_RX.id then 0x4000
  else if f.id = F.ACH_GAIN_COMP_FACTOR.id then nominalGain j
  else if f.id = F.AE_MAP_PHYS.id then 0x76543210
  else if f.id = F.AE_MAP_SPARE_PHYS.id then 8
  else if f.id = F.SCHED_SPARE_ENGINE_FREE.id then 0xFFFF
  else if f.id = F.CLU_ENG_STAT_PHYS.id then j
  else f.rst

/-- The value of a field. -/
def Chip.rd (c : Chip) (f : Fld) (i : Nat := 0) (j : Nat := 0) : Nat :=
  Tbl.get c.regs (f.key i j) (f.reset i j)

/-- A field set to a value, cut to the field's width. -/
def Chip.wr (c : Chip) (f : Fld) (v : Nat) (i : Nat := 0) (j : Nat := 0) : Chip :=
  c.withRegs (Tbl.set c.regs (f.key i j) (v % 2 ^ f.w) (f.reset i j))

/-- A one-bit field as a boolean. -/
def Chip.flag (c : Chip) (f : Fld) (i : Nat := 0) (j : Nat := 0) : Bool := c.rd f i j == 1

/-- A one-bit field set from a boolean. -/
def Chip.setFlag (c : Chip) (f : Fld) (b : Bool) (i : Nat := 0) (j : Nat := 0) : Chip := c.wr f (b2n b) i j

/-- A counter field raised by `n`, saturating. -/
def Chip.incSat (c : Chip) (f : Fld) (i : Nat := 0) (j : Nat := 0) (n : Nat := 1) : Chip :=
  c.wr f (min (c.rd f i j + n) (2 ^ f.w - 1)) i j

/-- A counter field raised by `n`, modulo its width. -/
def Chip.incMod (c : Chip) (f : Fld) (i : Nat := 0) (j : Nat := 0) (n : Nat := 1) : Chip :=
  c.wr f (c.rd f i j + n) i j

/-- Fields of one register set to 0. -/
def Chip.clrFields (c : Chip) (fs : List Fld) (i : Nat := 0) (j : Nat := 0) : Chip :=
  fs.foldl (fun c f => c.wr f 0 i j) c

/-- Every field of a register back to its reset value. -/
def Chip.resetReg (c : Chip) (r : RegInfo) (i : Nat := 0) (j : Nat := 0) : Chip :=
  r.fields.foldl (fun c f => c.wr f (f.reset i j) i j) c

/-! ## Modes -/

/-- Mode codes of R47. -/
abbrev mBypass : Nat := 0
abbrev mRelay : Nat := 1
abbrev mVerify : Nat := 2
abbrev mService : Nat := 3
abbrev mShed : Nat := 4
abbrev mSoak : Nat := 5
abbrev mQuiesce : Nat := 6
abbrev mTest : Nat := 7

/-- The current mode code (DEV_MODE.MODE). -/
def Chip.mode (c : Chip) : Nat := c.rd F.DEV_MODE_MODE

/-- The mode is one of the set (bit k: mode k). -/
def Chip.modeIn (c : Chip) (set : Nat) : Bool := bit set c.mode

/-! ## Output, free values, outcome -/

/-- Put one thing outside the device. -/
def Chip.emit (c : Chip) (o : Out) : Chip := c.withOut (c.out ++ [o])

/-- Take a fresh index for a free value. -/
def Chip.fresh (c : Chip) : Nat × Chip := (c.free, c.withFree (c.free + 1))

/-- A warm reset is under way (R52). -/
def Chip.inWarm (c : Chip) : Bool := c.dev.warm.isSome || c.dev.trans.any fun t => t.phase == .warm

/-- The requester is the host, which a warm reset shuts out: its posted writes are dropped, its other requests
unsupported (R52). -/
def Chip.hostShut (c : Chip) (p : Port) : Bool := match p with | .host _ => c.inWarm | _ => false

/-- Report the status of a control-space access to its requester; the management port keeps it for its STATUS command
(R506). A posted write dropped during a warm reset has no answer (R52). -/
def Chip.report (c : Chip) (p : Port) (st : Status) : Chip :=
  if c.hostShut p then c.emit (.tlp "posted write dropped")
  else
    let c := match p with | .mgmt => (c.withPort { c.port with i2cLast := st }) | _ => c
    c.emit (.access p st)

/-- Apply an effect only when a condition holds. -/
def Chip.when (c : Chip) (b : Bool) (f : Chip → Chip) : Chip := if b then f c else c

/-! ## ALERT_N -/

/-- A PLL is out of lock, or its loss has not been read (R515). -/
def Chip.pllAlert (c : Chip) : Bool := c.rd F.CLK_PLL_STAT_LOCK != 0xFFF || c.rd F.CLK_PLL_STAT_LOL_SEEN != 0

/-- ALERT_N is asserted (R515). -/
def Chip.alertWanted (c : Chip) : Bool :=
  c.mode != mBypass && (c.flag F.TIME_STAT_ALARM || c.flag F.SENS_STAT_THROTTLE || c.pllAlert || c.sens.avsBad
    || !c.sens.failed.isEmpty)

/-- Bring ALERT_N up to date. -/
def Chip.showAlert (c : Chip) : Chip :=
  if c.alertWanted == c.dev.alert then c
  else (c.withDev { c.dev with alert := c.alertWanted }).emit (.pin "ALERT_N" (b2n !c.alertWanted))

/-! ## Completions become postable (R93) -/

/-- The commands that have finished with no earlier command of their ring in flight, in the order of their fetch; `seen`
holds the rings of the commands before. -/
def postable (l : List HostCmd) (seen : List (Nat × Nat)) : List (Nat × Nat × Nat) :=
  match l with
  | [] => []
  | h :: r =>
    let rest := postable r ((h.fn, h.ring) :: seen)
    if h.stage == .finished && !seen.contains (h.fn, h.ring) then (h.fn, h.ring, h.count) :: rest else rest

/-- Commands that have become postable join the queue behind those that became so before; several at once join in the
order of their fetch (log entry 66). -/
def Chip.showPostable (c : Chip) : Chip :=
  let now := postable c.hif.inflight []
  let kept := c.hif.post.filter fun k => now.contains k
  let l := kept ++ now.filter fun k => !kept.contains k
  if l = c.hif.post then c else c.withHif { c.hif with post := l }

/-! ## The outcome of a command -/

/-- No access is noted as having met a sleeping domain. -/
def Chip.noneAsleep (c : Chip) : Chip :=
  match c.mems.asleep with
  | [] => c
  | _ => c.withMems { c.mems with asleep := [] }

/-- What follows a command at once: ALERT_N (R515) and the queue of postable completions (R93). -/
def Chip.settle (c : Chip) : Chip := c.noneAsleep.showPostable.showAlert

/-- The outcome of a command whose effect on the chip is `f`: the queue of waiting commands is not touched. -/
def State.run (s : State) (f : Chip → Chip) : Host.Outcome State Fault Refusal :=
  .next { s with chip := (f s.chip).settle }

end Sys2Proof.Machine
end

