-- ==== Sys2Proof/Machine/Flags.lean ====
section
/-! DEFINITION. Status codes: their values (R34) and their precedence (R36), and the condition masks made of them. -/
namespace Sys2Proof.Machine

/-- The code of a status (R34). -/
def Status.code (s : Status) : Nat :=
  match s with
  | .ok => 0 | .poisoned => 1 | .domainOff => 2 | .targetIsolated => 3 | .notOwner => 4 | .deadlineMissed => 5
  | .superseded => 6 | .recomputed => 7 | .badDescriptor => 8 | .versionMismatch => 9 | .shed => 10
  | .abortedByQuiesce => 11 | .accessDenied => 12 | .narrowWrite => 13 | .gap => 14 | .storm => 15

/-- The status of a code; a reserved value is a failure of the item that carries it (R35) and is taken as
ACCESS_DENIED, the status that delivers none of its data. -/
def Status.ofCode (n : Nat) : Status :=
  match n with
  | 0 => .ok | 1 => .poisoned | 2 => .domainOff | 3 => .targetIsolated | 4 => .notOwner | 5 => .deadlineMissed
  | 6 => .superseded | 7 => .recomputed | 8 => .badDescriptor | 9 => .versionMismatch | 10 => .shed
  | 11 => .abortedByQuiesce | 12 => .accessDenied | 13 => .narrowWrite | 14 => .gap | 15 => .storm
  | _ => .accessDenied

/-- Place in the precedence order of R36, 1 first. -/
def Status.rank (s : Status) : Nat :=
  match s with
  | .accessDenied => 1 | .badDescriptor => 2 | .versionMismatch => 3 | .abortedByQuiesce => 4 | .shed => 5
  | .storm => 6 | .targetIsolated => 7 | .domainOff => 8 | .notOwner => 9 | .narrowWrite => 10
  | .deadlineMissed => 11 | .poisoned => 12 | .gap => 13 | .superseded => 14 | .recomputed => 15 | .ok => 16

/-- The status reported when two conditions hold (R36). -/
def Status.worst (a b : Status) : Status := if a.rank ≤ b.rank then a else b

/-- The status reported when every one of a list holds; OK for none. -/
def Status.worstOf (l : List Status) : Status := l.foldl Status.worst .ok

/-- An item with this status is released as a tombstone (R341). -/
def Status.tomb (s : Status) : Bool := s != .ok && s != .recomputed && s != .poisoned

/-- The bit of a status in a condition mask (R90). -/
def Status.mask (s : Status) : Nat := 2 ^ s.code

/-- Add a status to a condition mask. -/
def condAdd (m : Nat) (s : Status) : Nat := setBit m s.code true

end Sys2Proof.Machine
end

