-- ==== Sys2Proof/Machine/RegMap.lean ====
section
/-! DEFINITION. The register map: for every register its address in control space (block base of R22's window table plus
the offset of the register's italic line), its index strides and counts, its width in bytes, the modes that may write it
(bit k set: mode code k, R16) and its fields. -/
namespace Sys2Proof.Machine
/-- `DEV_STRAPS`. -/
def G.DEV_STRAPS : RegInfo :=
  ⟨"DEV_STRAPS", 0x20, 0x0, 1, 0x0, 1, 4, 0x0,
   [F.DEV_STRAPS_I2C_ADDR_LO, F.DEV_STRAPS_AUTO_VERIFY, F.DEV_STRAPS_RING_EN, F.DEV_STRAPS_NOC_MERGED, F.DEV_STRAPS_BOOT_SRC, F.DEV_STRAPS_PCIE_EN]⟩
/-- `DEV_MODE`. -/
def G.DEV_MODE : RegInfo :=
  ⟨"DEV_MODE", 0x0, 0x0, 1, 0x0, 1, 4, 0x0,
   [F.DEV_MODE_TRANS_COUNT, F.DEV_MODE_RETURN_MODE, F.DEV_MODE_SHED_BY_SW, F.DEV_MODE_SEAM_OPEN, F.DEV_MODE_IMAGES_OK, F.DEV_MODE_BOOTCFG_DEFAULT, F.DEV_MODE_TARGET_MODE, F.DEV_MODE_IN_TRANSITION, F.DEV_MODE_MODE]⟩
/-- `DEV_MODE_REQ`. -/
def G.DEV_MODE_REQ : RegInfo :=
  ⟨"DEV_MODE_REQ", 0x8, 0x0, 1, 0x0, 1, 4, 0xfe,
   [F.DEV_MODE_REQ_KEY, F.DEV_MODE_REQ_REQ_MODE]⟩
/-- `DEV_MODE_PEND`. -/
def G.DEV_MODE_PEND : RegInfo :=
  ⟨"DEV_MODE_PEND", 0x10, 0x0, 1, 0x0, 1, 4, 0xfe,
   [F.DEV_MODE_PEND_SUPERSEDED_CNT, F.DEV_MODE_PEND_LAST_REJECT_STATUS, F.DEV_MODE_PEND_LAST_REJECT_MODE, F.DEV_MODE_PEND_LAST_SUPERSEDED_MODE, F.DEV_MODE_PEND_CNT_CLR, F.DEV_MODE_PEND_CANCEL, F.DEV_MODE_PEND_HW_PEND, F.DEV_MODE_PEND_PEND_VALID, F.DEV_MODE_PEND_PEND_MODE]⟩
/-- `DEV_MODE_CFG`. -/
def G.DEV_MODE_CFG : RegInfo :=
  ⟨"DEV_MODE_CFG", 0x18, 0x0, 1, 0x0, 1, 4, 0x3e,
   [F.DEV_MODE_CFG_SHED_TEMP_ON, F.DEV_MODE_CFG_SHED_TEMP_OFF, F.DEV_MODE_CFG_DRAIN_TMO]⟩
/-- `DEV_RESET_CAUSE`. -/
def G.DEV_RESET_CAUSE : RegInfo :=
  ⟨"DEV_RESET_CAUSE", 0x30, 0x0, 1, 0x0, 1, 4, 0xfe,
   [F.DEV_RESET_CAUSE_PCIE, F.DEV_RESET_CAUSE_WARM_MGMT, F.DEV_RESET_CAUSE_WARM_SW, F.DEV_RESET_CAUSE_SVC_LOSS, F.DEV_RESET_CAUSE_THERMTRIP, F.DEV_RESET_CAUSE_BROWNOUT, F.DEV_RESET_CAUSE_PIN, F.DEV_RESET_CAUSE_POR]⟩
/-- `DEV_RESET_CTRL`. -/
def G.DEV_RESET_CTRL : RegInfo :=
  ⟨"DEV_RESET_CTRL", 0x40, 0x0, 1, 0x0, 1, 4, 0xfe,
   [F.DEV_RESET_CTRL_KEY, F.DEV_RESET_CTRL_WARM]⟩
/-- `HIF_VERSION`. -/
def G.HIF_VERSION : RegInfo :=
  ⟨"HIF_VERSION", 0x180000, 0x2000, 64, 0x0, 1, 4, 0xfe,
   [F.HIF_VERSION_AGREED_VALID, F.HIF_VERSION_AGREED_MAJOR, F.HIF_VERSION_AGREED_MINOR, F.HIF_VERSION_HOST_MAJOR, F.HIF_VERSION_HOST_MINOR, F.HIF_VERSION_DEV_MAJOR, F.HIF_VERSION_DEV_MINOR]⟩
/-- `RING_BASE`. -/
def G.RING_BASE : RegInfo :=
  ⟨"RING_BASE", 0x180100, 0x2000, 64, 0x20, 17, 8, 0xfe,
   [F.RING_BASE_BASE]⟩
/-- `RING_CFG`. -/
def G.RING_CFG : RegInfo :=
  ⟨"RING_CFG", 0x180108, 0x2000, 64, 0x20, 17, 8, 0xfe,
   [F.RING_CFG_ENABLE, F.RING_CFG_RESET, F.RING_CFG_VECTOR, F.RING_CFG_CPL_RING, F.RING_CFG_PRIO, F.RING_CFG_LOG2_SIZE, F.RING_CFG_COAL_TIME, F.RING_CFG_COAL_COUNT]⟩
/-- `RING_PTR`. -/
def G.RING_PTR : RegInfo :=
  ⟨"RING_PTR", 0x180110, 0x2000, 64, 0x20, 17, 8, 0x0,
   [F.RING_PTR_DEV_COUNT, F.RING_PTR_HOST_COUNT]⟩
/-- `RING_STAT`. -/
def G.RING_STAT : RegInfo :=
  ⟨"RING_STAT", 0x180118, 0x2000, 64, 0x20, 17, 8, 0xfe,
   [F.RING_STAT_LOST, F.RING_STAT_IN_FLIGHT, F.RING_STAT_CPL_STALL, F.RING_STAT_OVERFLOW, F.RING_STAT_HALTED, F.RING_STAT_ERR_STATUS]⟩
/-- `HIF_FN_CTRL`. -/
def G.HIF_FN_CTRL : RegInfo :=
  ⟨"HIF_FN_CTRL", 0x180008, 0x2000, 64, 0x0, 1, 4, 0xfe,
   [F.HIF_FN_CTRL_RESET_ALL]⟩
/-- `HIF_FN_STAT`. -/
def G.HIF_FN_STAT : RegInfo :=
  ⟨"HIF_FN_STAT", 0x180010, 0x2000, 64, 0x0, 1, 4, 0xfe,
   [F.HIF_FN_STAT_DB_DROP, F.HIF_FN_STAT_LAST_ERR, F.HIF_FN_STAT_ANY_HALTED]⟩
/-- `HIF_FN_CELLS`. -/
def G.HIF_FN_CELLS : RegInfo :=
  ⟨"HIF_FN_CELLS", 0x100100, 0x4, 64, 0x0, 1, 4, 0xbe,
   [F.HIF_FN_CELLS_CELLS]⟩
/-- `HIF_LINK_STAT`. -/
def G.HIF_LINK_STAT : RegInfo :=
  ⟨"HIF_LINK_STAT", 0x100000, 0x0, 1, 0x0, 1, 4, 0x0,
   [F.HIF_LINK_STAT_FLIT, F.HIF_LINK_STAT_GEN, F.HIF_LINK_STAT_WIDTH]⟩
/-- `ECV_LINK_STAT`. -/
def G.ECV_LINK_STAT : RegInfo :=
  ⟨"ECV_LINK_STAT", 0x2000000, 0x10000, 18, 0x0, 1, 4, 0xfe,
   [F.ECV_LINK_STAT_STORM, F.ECV_LINK_STAT_WAKE_SEEN, F.ECV_LINK_STAT_DOWNGRADED, F.ECV_LINK_STAT_PARTNER_SELF, F.ECV_LINK_STAT_LOL, F.ECV_LINK_STAT_LOS, F.ECV_LINK_STAT_ENABLE_PENDING, F.ECV_LINK_STAT_RX_LP, F.ECV_LINK_STAT_TX_LP, F.ECV_LINK_STAT_WIDTH, F.ECV_LINK_STAT_VERSION, F.ECV_LINK_STAT_PARTNER_ROLE, F.ECV_LINK_STAT_STATE]⟩
/-- `ECV_LINK_CTRL`. -/
def G.ECV_LINK_CTRL : RegInfo :=
  ⟨"ECV_LINK_CTRL", 0x2000008, 0x10000, 18, 0x0, 1, 4, 0xfe,
   [F.ECV_LINK_CTRL_RETRAIN, F.ECV_LINK_CTRL_CNT_CLR, F.ECV_LINK_CTRL_MAX_VER, F.ECV_LINK_CTRL_MAX_WIDTH, F.ECV_LINK_CTRL_ENABLE]⟩
/-- `ECV_CAPS_PARTNER`. -/
def G.ECV_CAPS_PARTNER : RegInfo :=
  ⟨"ECV_CAPS_PARTNER", 0x2000010, 0x10000, 18, 0x0, 1, 8, 0x0,
   [F.ECV_CAPS_PARTNER_CAPS]⟩
/-- `ECV_SAMPLE_CFG`. -/
def G.ECV_SAMPLE_CFG : RegInfo :=
  ⟨"ECV_SAMPLE_CFG", 0x2000020, 0x10000, 16, 0x0, 1, 4, 0xbe,
   [F.ECV_SAMPLE_CFG_RATE, F.ECV_SAMPLE_CFG_MANT]⟩
/-- `ECV_LP_CTRL`. -/
def G.ECV_LP_CTRL : RegInfo :=
  ⟨"ECV_LP_CTRL", 0x2000028, 0x10000, 16, 0x0, 1, 4, 0xbe,
   [F.ECV_LP_CTRL_MIN_IDLE, F.ECV_LP_CTRL_FOLLOW, F.ECV_LP_CTRL_TX_POLICY]⟩
/-- `ECV_ERR_CNT`. -/
def G.ECV_ERR_CNT : RegInfo :=
  ⟨"ECV_ERR_CNT", 0x2000030, 0x10000, 18, 0x0, 1, 8, 0x0,
   [F.ECV_ERR_CNT_RETRAINS, F.ECV_ERR_CNT_CRC_ERR, F.ECV_ERR_CNT_GAP_GROUPS]⟩
/-- `ECV_TT`. -/
def G.ECV_TT : RegInfo :=
  ⟨"ECV_TT", 0x2000040, 0x10000, 18, 0x0, 1, 8, 0x0,
   [F.ECV_TT_DELAY, F.ECV_TT_OFFSET]⟩
/-- `ECV_TT_ASYM`. -/
def G.ECV_TT_ASYM : RegInfo :=
  ⟨"ECV_TT_ASYM", 0x2000048, 0x10000, 18, 0x0, 1, 4, 0x6,
   [F.ECV_TT_ASYM_ASYM]⟩
/-- `ECV_RING_STAT`. -/
def G.ECV_RING_STAT : RegInfo :=
  ⟨"ECV_RING_STAT", 0x2000050, 0x10000, 18, 0x0, 1, 4, 0x0,
   [F.ECV_RING_STAT_PEER_ID, F.ECV_RING_STAT_PEER_VALID, F.ECV_RING_STAT_PEER_HOPS, F.ECV_RING_STAT_PARTNER_ID, F.ECV_RING_STAT_LOCAL_ID, F.ECV_RING_STAT_TT_VALID, F.ECV_RING_STAT_JD_ACTIVE, F.ECV_RING_STAT_FWD, F.ECV_RING_STAT_DUP_ID, F.ECV_RING_STAT_DISCARD]⟩
/-- `ACH_CTRL`. -/
def G.ACH_CTRL : RegInfo :=
  ⟨"ACH_CTRL", 0x1000000, 0x10000, 256, 0x0, 1, 4, 0xfe,
   [F.ACH_CTRL_CNT_CLR, F.ACH_CTRL_LEAVE, F.ACH_CTRL_READMIT, F.ACH_CTRL_AUTO_READMIT]⟩
/-- `ACH_STAT`. -/
def G.ACH_STAT : RegInfo :=
  ⟨"ACH_STAT", 0x1000008, 0x10000, 256, 0x0, 1, 4, 0x0,
   [F.ACH_STAT_COMMIT_STATUS, F.ACH_STAT_COMMIT_PEND, F.ACH_STAT_ENABLE_PENDING, F.ACH_STAT_LEAVE_CAUSE, F.ACH_STAT_SVC_STATE]⟩
/-- `ACH_COMMIT`. -/
def G.ACH_COMMIT : RegInfo :=
  ⟨"ACH_COMMIT", 0x1000010, 0x10000, 256, 0x0, 1, 8, 0xbe,
   [F.ACH_COMMIT_TICK, F.ACH_COMMIT_GO]⟩
/-- `ACH_CC_CFG`. -/
def G.ACH_CC_CFG : RegInfo :=
  ⟨"ACH_CC_CFG", 0x1000100, 0x10000, 256, 0x10, 8, 8, 0xbe,
   [F.ACH_CC_CFG_TYPE, F.ACH_CC_CFG_SCS, F.ACH_CC_CFG_CP_EXT, F.ACH_CC_CFG_CELL, F.ACH_CC_CFG_HOST_CC, F.ACH_CC_CFG_FD_SHIFT, F.ACH_CC_CFG_TX_ATT, F.ACH_CC_CFG_N_RB, F.ACH_CC_CFG_BW, F.ACH_CC_CFG_CF_OFFSET]⟩
/-- `ACH_CC_POOL`. -/
def G.ACH_CC_POOL : RegInfo :=
  ⟨"ACH_CC_POOL", 0x1000108, 0x10000, 256, 0x10, 8, 8, 0xbe,
   [F.ACH_CC_POOL_N_BUF, F.ACH_CC_POOL_UL_OFF, F.ACH_CC_POOL_DL_OFF, F.ACH_CC_POOL_STRIDE]⟩
/-- `ACH_GAIN_CFG`. -/
def G.ACH_GAIN_CFG : RegInfo :=
  ⟨"ACH_GAIN_CFG", 0x1000300, 0x10000, 256, 0x0, 1, 8, 0xfe,
   [F.ACH_GAIN_CFG_UP_THR, F.ACH_GAIN_CFG_DN_THR, F.ACH_GAIN_CFG_DN_HOLD, F.ACH_GAIN_CFG_MIN_CODE, F.ACH_GAIN_CFG_MAX_CODE, F.ACH_GAIN_CFG_MAN_CODE, F.ACH_GAIN_CFG_REF_CC, F.ACH_GAIN_CFG_FREEZE, F.ACH_GAIN_CFG_MODE]⟩
/-- `ACH_GAIN_STAT`. -/
def G.ACH_GAIN_STAT : RegInfo :=
  ⟨"ACH_GAIN_STAT", 0x1000308, 0x10000, 256, 0x0, 1, 4, 0x0,
   [F.ACH_GAIN_STAT_STEPS, F.ACH_GAIN_STAT_STEP_PEND, F.ACH_GAIN_STAT_CODE]⟩
/-- `ACH_GAIN_COMP`. -/
def G.ACH_GAIN_COMP : RegInfo :=
  ⟨"ACH_GAIN_COMP", 0x1000340, 0x10000, 256, 0x4, 16, 4, 0x86,
   [F.ACH_GAIN_COMP_FACTOR]⟩
/-- `ACH_TDD_CFG`. -/
def G.ACH_TDD_CFG : RegInfo :=
  ⟨"ACH_TDD_CFG", 0x1000400, 0x10000, 256, 0x0, 1, 8, 0xbe,
   [F.ACH_TDD_CFG_ORIGIN, F.ACH_TDD_CFG_PERIOD]⟩
/-- `ACH_TDD_WIN`. -/
def G.ACH_TDD_WIN : RegInfo :=
  ⟨"ACH_TDD_WIN", 0x1000410, 0x10000, 256, 0x8, 8, 8, 0xbe,
   [F.ACH_TDD_WIN_EN, F.ACH_TDD_WIN_START, F.ACH_TDD_WIN_END]⟩
/-- `ACH_RAMP_CFG`. -/
def G.ACH_RAMP_CFG : RegInfo :=
  ⟨"ACH_RAMP_CFG", 0x1000460, 0x10000, 256, 0x0, 1, 4, 0xbe,
   [F.ACH_RAMP_CFG_PA_LEAD, F.ACH_RAMP_CFG_PA_LAG, F.ACH_RAMP_CFG_RAMP_TICKS, F.ACH_RAMP_CFG_EMERG_TICKS]⟩
/-- `ACH_CFR_CFG`. -/
def G.ACH_CFR_CFG : RegInfo :=
  ⟨"ACH_CFR_CFG", 0x1000500, 0x10000, 256, 0x0, 1, 4, 0xbe,
   [F.ACH_CFR_CFG_THR, F.ACH_CFR_CFG_ITER]⟩
/-- `ACH_IQ_CFG`. -/
def G.ACH_IQ_CFG : RegInfo :=
  ⟨"ACH_IQ_CFG", 0x1000600, 0x10000, 256, 0x0, 1, 8, 0xfe,
   [F.ACH_IQ_CFG_TX_BETA, F.ACH_IQ_CFG_RX_BETA]⟩
/-- `ACH_DC_CFG`. -/
def G.ACH_DC_CFG : RegInfo :=
  ⟨"ACH_DC_CFG", 0x1000608, 0x10000, 256, 0x0, 1, 4, 0xfe,
   [F.ACH_DC_CFG_DC_TC, F.ACH_DC_CFG_DC_EN]⟩
/-- `ACH_CNT`. -/
def G.ACH_CNT : RegInfo :=
  ⟨"ACH_CNT", 0x1000700, 0x10000, 256, 0x0, 1, 8, 0x0,
   [F.ACH_CNT_FD_SAT, F.ACH_CNT_CFR_CLIP, F.ACH_CNT_TX_OUTSIDE, F.ACH_CNT_GAIN_LOST]⟩
/-- `BRX_GEOM`. -/
def G.BRX_GEOM : RegInfo :=
  ⟨"BRX_GEOM", 0xb00000, 0x0, 1, 0x0, 1, 4, 0x86,
   [F.BRX_GEOM_HALF, F.BRX_GEOM_GEOM]⟩
/-- `BRX_SUPERSEDE`. -/
def G.BRX_SUPERSEDE : RegInfo :=
  ⟨"BRX_SUPERSEDE", 0xb00008, 0x0, 1, 0x0, 1, 4, 0xfe,
   [F.BRX_SUPERSEDE_SUP]⟩
/-- `BRX_SOAK_CFG`. -/
def G.BRX_SOAK_CFG : RegInfo :=
  ⟨"BRX_SOAK_CFG", 0xb00010, 0x0, 1, 0x0, 1, 8, 0x8e,
   [F.BRX_SOAK_CFG_SOAK_LINKS, F.BRX_SOAK_CFG_SOAK_DIV, F.BRX_SOAK_CFG_SOAK_THR, F.BRX_SOAK_CFG_SOAK_BR]⟩
/-- `BRX_STAT`. -/
def G.BRX_STAT : RegInfo :=
  ⟨"BRX_STAT", 0xb00018, 0x0, 1, 0x0, 1, 4, 0x0,
   [F.BRX_STAT_ACTIVE]⟩
/-- `BRX_CNT_CLR`. -/
def G.BRX_CNT_CLR : RegInfo :=
  ⟨"BRX_CNT_CLR", 0xb00020, 0x0, 1, 0x0, 1, 4, 0xfe,
   [F.BRX_CNT_CLR_CLR]⟩
/-- `BRn_CFG`. -/
def G.BRn_CFG : RegInfo :=
  ⟨"BRn_CFG", 0xb10000, 0x100, 32, 0x0, 1, 8, 0xfe,
   [F.BRn_CFG_EN, F.BRn_CFG_EVT_EN, F.BRn_CFG_FAMILY, F.BRn_CFG_SCS, F.BRn_CFG_N_REP_M1, F.BRn_CFG_N_PRE_M1, F.BRn_CFG_LOG_ROOT, F.BRn_CFG_NCS_CFG, F.BRn_CFG_DG_INIT, F.BRn_CFG_CF_OFFSET]⟩
/-- `BRn_OCC`. -/
def G.BRn_OCC : RegInfo :=
  ⟨"BRn_OCC", 0xb10008, 0x100, 32, 0x0, 1, 8, 0xfe,
   [F.BRn_OCC_ORIGIN, F.BRn_OCC_PERIOD]⟩
/-- `BRn_THR`. -/
def G.BRn_THR : RegInfo :=
  ⟨"BRn_THR", 0xb10010, 0x100, 32, 0x0, 1, 8, 0xfe,
   [F.BRn_THR_SPAN, F.BRn_THR_TARGET, F.BRn_THR_CONF_THR, F.BRn_THR_DET_THR]⟩
/-- `BRn_RING`. -/
def G.BRn_RING : RegInfo :=
  ⟨"BRn_RING", 0xb10018, 0x100, 32, 0x0, 1, 8, 0xfe,
   [F.BRn_RING_LOG2, F.BRn_RING_BASE]⟩
/-- `BRn_PTR`. -/
def G.BRn_PTR : RegInfo :=
  ⟨"BRn_PTR", 0xb10020, 0x100, 32, 0x0, 1, 8, 0xfe,
   [F.BRn_PTR_WR, F.BRn_PTR_RD]⟩
/-- `BRn_STAT`. -/
def G.BRn_STAT : RegInfo :=
  ⟨"BRn_STAT", 0xb10028, 0x100, 32, 0x0, 1, 8, 0x0,
   [F.BRn_STAT_LOST, F.BRn_STAT_IGNORED, F.BRn_STAT_REC_DROP, F.BRn_STAT_DG, F.BRn_STAT_N_ACTIVE, F.BRn_STAT_ENABLE_PENDING, F.BRn_STAT_STATE]⟩
/-- `AE_CTRL`. -/
def G.AE_CTRL : RegInfo :=
  ⟨"AE_CTRL", 0x3000000, 0x100000, 8, 0x0, 1, 4, 0xfe,
   [F.AE_CTRL_RES_INJECT, F.AE_CTRL_CNT_CLR]⟩
/-- `AE_STAT`. -/
def G.AE_STAT : RegInfo :=
  ⟨"AE_STAT", 0x3000008, 0x100000, 8, 0x0, 1, 4, 0xfe,
   [F.AE_STAT_PHYS, F.AE_STAT_QDEPTH, F.AE_STAT_SUSPECT, F.AE_STAT_LAST_STATUS, F.AE_STAT_STATE]⟩
/-- `AE_TILE_CFG`. -/
def G.AE_TILE_CFG : RegInfo :=
  ⟨"AE_TILE_CFG", 0x3000010, 0x100000, 8, 0x0, 1, 4, 0xfe,
   [F.AE_TILE_CFG_MAX_RECOMP]⟩
/-- `AE_RES_CNT`. -/
def G.AE_RES_CNT : RegInfo :=
  ⟨"AE_RES_CNT", 0x3000018, 0x100000, 8, 0x0, 1, 8, 0x0,
   [F.AE_RES_CNT_MISMATCH, F.AE_RES_CNT_RECOMPUTED, F.AE_RES_CNT_HARD, F.AE_RES_CNT_OUT_SAT]⟩
/-- `AE_FAULT`. -/
def G.AE_FAULT : RegInfo :=
  ⟨"AE_FAULT", 0x3000020, 0x100000, 8, 0x0, 1, 8, 0x0,
   [F.AE_FAULT_CMD_ADDR, F.AE_FAULT_TILE, F.AE_FAULT_ATTEMPT, F.AE_FAULT_HARD, F.AE_FAULT_VALID]⟩
/-- `AE_CMD_CNT`. -/
def G.AE_CMD_CNT : RegInfo :=
  ⟨"AE_CMD_CNT", 0x3000028, 0x100000, 8, 0x0, 1, 8, 0x0,
   [F.AE_CMD_CNT_COMMANDS, F.AE_CMD_CNT_TILES]⟩
/-- `AE_MAP`. -/
def G.AE_MAP : RegInfo :=
  ⟨"AE_MAP", 0x3080000, 0x0, 1, 0x0, 1, 8, 0x0,
   [F.AE_MAP_SPARE_PHYS, F.AE_MAP_SPARE_FREE, F.AE_MAP_PHYS]⟩
/-- `AE_JD_CFG`. -/
def G.AE_JD_CFG : RegInfo :=
  ⟨"AE_JD_CFG", 0x3080010, 0x0, 1, 0x0, 1, 8, 0xbe,
   [F.AE_JD_CFG_REQ_UNIT, F.AE_JD_CFG_JD_WAIT, F.AE_JD_CFG_REQ_LEAD, F.AE_JD_CFG_CNT_CLR, F.AE_JD_CFG_JD_EN_E, F.AE_JD_CFG_JD_EN_W]⟩
/-- `AE_JD_MAP`. -/
def G.AE_JD_MAP : RegInfo :=
  ⟨"AE_JD_MAP", 0x3080020, 0x8, 4, 0x0, 1, 4, 0xbe,
   [F.AE_JD_MAP_EN, F.AE_JD_MAP_CELL, F.AE_JD_MAP_CC]⟩
/-- `AE_JD_RX`. -/
def G.AE_JD_RX : RegInfo :=
  ⟨"AE_JD_RX", 0x3080040, 0x8, 2, 0x0, 1, 8, 0xbe,
   [F.AE_JD_RX_BASE, F.AE_JD_RX_VALID]⟩
/-- `AE_JD_STAT`. -/
def G.AE_JD_STAT : RegInfo :=
  ⟨"AE_JD_STAT", 0x3080060, 0x8, 2, 0x0, 1, 8, 0x0,
   [F.AE_JD_STAT_SENT, F.AE_JD_STAT_RECEIVED, F.AE_JD_STAT_LOCAL_ONLY, F.AE_JD_STAT_DECLINES, F.AE_JD_STAT_UNSENT]⟩
/-- `AE_MASK_SNAP`. -/
def G.AE_MASK_SNAP : RegInfo :=
  ⟨"AE_MASK_SNAP", 0x3081000, 0x40, 32, 0x8, 4, 8, 0x0,
   [F.AE_MASK_SNAP_MASK]⟩
/-- `AE_MASK_TICK`. -/
def G.AE_MASK_TICK : RegInfo :=
  ⟨"AE_MASK_TICK", 0x3081020, 0x40, 32, 0x0, 1, 4, 0x0,
   [F.AE_MASK_TICK_SLOT_TICK]⟩
/-- `CODE_CTRL`. -/
def G.CODE_CTRL : RegInfo :=
  ⟨"CODE_CTRL", 0xc00000, 0x0, 1, 0x0, 1, 4, 0xfe,
   [F.CODE_CTRL_DEF_ITER, F.CODE_CTRL_CNT_CLR, F.CODE_CTRL_FLUSH]⟩
/-- `CODE_HARQ_TBL`. -/
def G.CODE_HARQ_TBL : RegInfo :=
  ⟨"CODE_HARQ_TBL", 0xc00010, 0x0, 1, 0x0, 1, 8, 0x86,
   [F.CODE_HARQ_TBL_BASE]⟩
/-- `CODE_HARQ_SLAB`. -/
def G.CODE_HARQ_SLAB : RegInfo :=
  ⟨"CODE_HARQ_SLAB", 0xc00018, 0x0, 1, 0x0, 1, 8, 0x86,
   [F.CODE_HARQ_SLAB_BASE]⟩
/-- `CODE_HARQ_CNT`. -/
def G.CODE_HARQ_CNT : RegInfo :=
  ⟨"CODE_HARQ_CNT", 0xc00020, 0x0, 1, 0x0, 1, 4, 0x86,
   [F.CODE_HARQ_CNT_N_SLABS]⟩
/-- `CODE_HARQ_TTL`. -/
def G.CODE_HARQ_TTL : RegInfo :=
  ⟨"CODE_HARQ_TTL", 0xc00028, 0x0, 1, 0x0, 1, 4, 0xbe,
   [F.CODE_HARQ_TTL_TTL]⟩
/-- `CODE_HARQ_STAT`. -/
def G.CODE_HARQ_STAT : RegInfo :=
  ⟨"CODE_HARQ_STAT", 0xc00030, 0x0, 1, 0x0, 1, 8, 0x0,
   [F.CODE_HARQ_STAT_ALLOC_FAIL, F.CODE_HARQ_STAT_LEAKED, F.CODE_HARQ_STAT_FLUSHING, F.CODE_HARQ_STAT_FREE]⟩
/-- `CODE_ENG_STAT`. -/
def G.CODE_ENG_STAT : RegInfo :=
  ⟨"CODE_ENG_STAT", 0xc10000, 0x100, 12, 0x0, 1, 4, 0x0,
   [F.CODE_ENG_STAT_LAST_STATUS, F.CODE_ENG_STAT_QDEPTH, F.CODE_ENG_STAT_STATE]⟩
/-- `CODE_CNT`. -/
def G.CODE_CNT : RegInfo :=
  ⟨"CODE_CNT", 0xc10008, 0x100, 12, 0x0, 1, 8, 0x0,
   [F.CODE_CNT_BLOCKS, F.CODE_CNT_CB_FAIL, F.CODE_CNT_JOBS_MISSED]⟩
/-- `CAL_CTRL`. -/
def G.CAL_CTRL : RegInfo :=
  ⟨"CAL_CTRL", 0xa00000, 0x0, 1, 0x0, 1, 4, 0xfe,
   [F.CAL_CTRL_REF_ANT, F.CAL_CTRL_CNT_CLR, F.CAL_CTRL_ULT_EN, F.CAL_CTRL_EXCH_EN, F.CAL_CTRL_INJ_EN]⟩
/-- `CAL_INJ_CFG`. -/
def G.CAL_INJ_CFG : RegInfo :=
  ⟨"CAL_INJ_CFG", 0xa00008, 0x0, 1, 0x0, 1, 4, 0xbe,
   [F.CAL_INJ_CFG_DESPREAD_MS, F.CAL_INJ_CFG_LEVEL, F.CAL_INJ_CFG_SYM_DIV]⟩
/-- `CAL_EXCH_CFG`. -/
def G.CAL_EXCH_CFG : RegInfo :=
  ⟨"CAL_EXCH_CFG", 0xa00010, 0x0, 1, 0x0, 1, 4, 0xbe,
   [F.CAL_EXCH_CFG_EXCH_WIN, F.CAL_EXCH_CFG_EXCH_ATT, F.CAL_EXCH_CFG_GC_DIV, F.CAL_EXCH_CFG_EXCH_TICKS]⟩
/-- `CAL_CONV_CFG`. -/
def G.CAL_CONV_CFG : RegInfo :=
  ⟨"CAL_CONV_CFG", 0xa00018, 0x0, 1, 0x0, 1, 4, 0xbe,
   [F.CAL_CONV_CFG_DIV_PH, F.CAL_CONV_CFG_DIV_AMP, F.CAL_CONV_CFG_CONV_PH, F.CAL_CONV_CFG_CONV_AMP]⟩
/-- `CAL_STAT`. -/
def G.CAL_STAT : RegInfo :=
  ⟨"CAL_STAT", 0xa00020, 0x0, 1, 0x0, 1, 4, 0x0,
   [F.CAL_STAT_SWEEPS, F.CAL_STAT_STORE_BAD, F.CAL_STAT_TEMP_FALLBACK, F.CAL_STAT_STATE]⟩
/-- `CAL_CNT`. -/
def G.CAL_CNT : RegInfo :=
  ⟨"CAL_CNT", 0xa00028, 0x0, 1, 0x0, 1, 8, 0x0,
   [F.CAL_CNT_EXCH_SKIPPED, F.CAL_CNT_DIVERGED, F.CAL_CNT_UPDATES]⟩
/-- `CAL_STORE_CTRL`. -/
def G.CAL_STORE_CTRL : RegInfo :=
  ⟨"CAL_STORE_CTRL", 0xa00030, 0x0, 1, 0x0, 1, 4, 0x9c,
   [F.CAL_STORE_CTRL_KEY, F.CAL_STORE_CTRL_SAVE]⟩
/-- `CAL_STORE_STAT`. -/
def G.CAL_STORE_STAT : RegInfo :=
  ⟨"CAL_STORE_STAT", 0xa00038, 0x0, 1, 0x0, 1, 8, 0x0,
   [F.CAL_STORE_STAT_WRITES, F.CAL_STORE_STAT_LAST_STATUS, F.CAL_STORE_STAT_FORMAT, F.CAL_STORE_STAT_ORIGIN, F.CAL_STORE_STAT_AREA, F.CAL_STORE_STAT_ERASE_PEND, F.CAL_STORE_STAT_ENABLE_PENDING, F.CAL_STORE_STAT_BUSY]⟩
/-- `CAL_STORE_DIGEST`. -/
def G.CAL_STORE_DIGEST : RegInfo :=
  ⟨"CAL_STORE_DIGEST", 0xa00040, 0x8, 6, 0x0, 1, 8, 0x0,
   [F.CAL_STORE_DIGEST_DIGEST]⟩
/-- `CAL_ULREF_MAP`. -/
def G.CAL_ULREF_MAP : RegInfo :=
  ⟨"CAL_ULREF_MAP", 0xa00100, 0x4, 32, 0x0, 1, 4, 0xbe,
   [F.CAL_ULREF_MAP_MAP]⟩
/-- `CAL_ANT_STAT`. -/
def G.CAL_ANT_STAT : RegInfo :=
  ⟨"CAL_ANT_STAT", 0xa10000, 0x8, 256, 0x0, 1, 8, 0x0,
   [F.CAL_ANT_STAT_RES_PH, F.CAL_ANT_STAT_RES_AMP, F.CAL_ANT_STAT_AGE_MS, F.CAL_ANT_STAT_NO_STORE, F.CAL_ANT_STAT_DIVERGED, F.CAL_ANT_STAT_OBS_OK, F.CAL_ANT_STAT_CONVERGED]⟩
/-- `CAL_COEF`. -/
def G.CAL_COEF : RegInfo :=
  ⟨"CAL_COEF", 0xa40000, 0x200, 256, 0x8, 64, 8, 0x86,
   [F.CAL_COEF_TX, F.CAL_COEF_RX]⟩
/-- `CLU_CC_CTRL`. -/
def G.CLU_CC_CTRL : RegInfo :=
  ⟨"CLU_CC_CTRL", 0x4000000, 0x100000, 16, 0x0, 1, 4, 0xd8,
   [F.CLU_CC_CTRL_CNT_CLR, F.CLU_CC_CTRL_CLEAN_ALL]⟩
/-- `CLU_CC_STAT`. -/
def G.CLU_CC_STAT : RegInfo :=
  ⟨"CLU_CC_STAT", 0x4000008, 0x100000, 16, 0x0, 1, 8, 0x0,
   [F.CLU_CC_STAT_MISSES, F.CLU_CC_STAT_WB_FAIL]⟩
/-- `CLU_ENG_CTRL`. -/
def G.CLU_ENG_CTRL : RegInfo :=
  ⟨"CLU_ENG_CTRL", 0x4010000, 0x100000, 16, 0x100, 16, 4, 0x80,
   [F.CLU_ENG_CTRL_STEP, F.CLU_ENG_CTRL_RESUME, F.CLU_ENG_CTRL_HALT]⟩
/-- `CLU_ENG_STAT`. -/
def G.CLU_ENG_STAT : RegInfo :=
  ⟨"CLU_ENG_STAT", 0x4010008, 0x100000, 16, 0x100, 16, 4, 0x0,
   [F.CLU_ENG_STAT_LAST_CAUSE, F.CLU_ENG_STAT_LAST_STATUS, F.CLU_ENG_STAT_PHYS, F.CLU_ENG_STAT_STATE]⟩
/-- `CLU_ENG_FAULT`. -/
def G.CLU_ENG_FAULT : RegInfo :=
  ⟨"CLU_ENG_FAULT", 0x4010010, 0x100000, 16, 0x100, 16, 8, 0x0,
   [F.CLU_ENG_FAULT_SLOT, F.CLU_ENG_FAULT_PC, F.CLU_ENG_FAULT_ADDR]⟩
/-- `CLU_ENG_MBOX`. -/
def G.CLU_ENG_MBOX : RegInfo :=
  ⟨"CLU_ENG_MBOX", 0x4010018, 0x100000, 16, 0x100, 16, 4, 0xd8,
   [F.CLU_ENG_MBOX_VALUE]⟩
/-- `SCHED_CFG`. -/
def G.SCHED_CFG : RegInfo :=
  ⟨"SCHED_CFG", 0x200000, 0x0, 1, 0x0, 1, 4, 0xbe,
   [F.SCHED_CFG_HANG, F.SCHED_CFG_RESERVE]⟩
/-- `SCHED_STAT`. -/
def G.SCHED_STAT : RegInfo :=
  ⟨"SCHED_STAT", 0x200008, 0x0, 1, 0x0, 1, 8, 0x0,
   [F.SCHED_STAT_REJECTS, F.SCHED_STAT_LAST_REJECT, F.SCHED_STAT_S5_HALT, F.SCHED_STAT_S2_SUSP, F.SCHED_STAT_INTAKE, F.SCHED_STAT_READY, F.SCHED_STAT_FREE]⟩
/-- `SCHED_EPOCH`. -/
def G.SCHED_EPOCH : RegInfo :=
  ⟨"SCHED_EPOCH", 0x200010, 0x0, 1, 0x0, 1, 4, 0x0,
   [F.SCHED_EPOCH_EPOCH]⟩
/-- `SCHED_READMIT`. -/
def G.SCHED_READMIT : RegInfo :=
  ⟨"SCHED_READMIT", 0x200018, 0x0, 1, 0x0, 1, 4, 0xfe,
   [F.SCHED_READMIT_OP, F.SCHED_READMIT_UNIT]⟩
/-- `SCHED_SLOT_MAP`. -/
def G.SCHED_SLOT_MAP : RegInfo :=
  ⟨"SCHED_SLOT_MAP", 0x200020, 0x8, 2, 0x0, 1, 4, 0x6,
   [F.SCHED_SLOT_MAP_FLOW, F.SCHED_SLOT_MAP_TARGET]⟩
/-- `SCHED_CMD_AREA`. -/
def G.SCHED_CMD_AREA : RegInfo :=
  ⟨"SCHED_CMD_AREA", 0x200030, 0x0, 1, 0x0, 1, 8, 0x6,
   [F.SCHED_CMD_AREA_BASE]⟩
/-- `SCHED_BUNDLE_LOAD`. -/
def G.SCHED_BUNDLE_LOAD : RegInfo :=
  ⟨"SCHED_BUNDLE_LOAD", 0x200040, 0x0, 1, 0x0, 1, 8, 0xbe,
   [F.SCHED_BUNDLE_LOAD_OP, F.SCHED_BUNDLE_LOAD_INDEX, F.SCHED_BUNDLE_LOAD_ADDR]⟩
/-- `SCHED_BUNDLE_STAT`. -/
def G.SCHED_BUNDLE_STAT : RegInfo :=
  ⟨"SCHED_BUNDLE_STAT", 0x200048, 0x0, 1, 0x0, 1, 4, 0x0,
   [F.SCHED_BUNDLE_STAT_LAST_STATUS, F.SCHED_BUNDLE_STAT_BUSY]⟩
/-- `SCHED_CL_SUBMIT`. -/
def G.SCHED_CL_SUBMIT : RegInfo :=
  ⟨"SCHED_CL_SUBMIT", 0x200050, 0x0, 1, 0x0, 1, 8, 0xfc,
   [F.SCHED_CL_SUBMIT_COUNT_M1, F.SCHED_CL_SUBMIT_ADDR]⟩
/-- `SCHED_CL_CANCEL`. -/
def G.SCHED_CL_CANCEL : RegInfo :=
  ⟨"SCHED_CL_CANCEL", 0x200058, 0x0, 1, 0x0, 1, 8, 0xfc,
   [F.SCHED_CL_CANCEL_LISTS]⟩
/-- `SCHED_CL_STAT`. -/
def G.SCHED_CL_STAT : RegInfo :=
  ⟨"SCHED_CL_STAT", 0x200060, 0x0, 1, 0x0, 1, 8, 0x0,
   [F.SCHED_CL_STAT_BATCH_FREE, F.SCHED_CL_STAT_FREE]⟩
/-- `SCHED_CL_CNT`. -/
def G.SCHED_CL_CNT : RegInfo :=
  ⟨"SCHED_CL_CNT", 0x200068, 0x0, 1, 0x0, 1, 8, 0x0,
   [F.SCHED_CL_CNT_SLIP, F.SCHED_CL_CNT_LATE, F.SCHED_CL_CNT_BATCH_DROP, F.SCHED_CL_CNT_FULL_DROP, F.SCHED_CL_CNT_BAD]⟩
/-- `SCHED_SPARE`. -/
def G.SCHED_SPARE : RegInfo :=
  ⟨"SCHED_SPARE", 0x200070, 0x0, 1, 0x0, 1, 4, 0x0,
   [F.SCHED_SPARE_PRESS_FREE, F.SCHED_SPARE_ENGINE_FREE]⟩
/-- `SCHED_BUNDLE_VALID`. -/
def G.SCHED_BUNDLE_VALID : RegInfo :=
  ⟨"SCHED_BUNDLE_VALID", 0x200100, 0x8, 16, 0x0, 1, 8, 0x0,
   [F.SCHED_BUNDLE_VALID_VALID]⟩
/-- `SCHED_SQ_CFG`. -/
def G.SCHED_SQ_CFG : RegInfo :=
  ⟨"SCHED_SQ_CFG", 0x210000, 0x20, 288, 0x0, 1, 8, 0xfe,
   [F.SCHED_SQ_CFG_EN, F.SCHED_SQ_CFG_LOG2, F.SCHED_SQ_CFG_BASE]⟩
/-- `SCHED_SQ_DB`. -/
def G.SCHED_SQ_DB : RegInfo :=
  ⟨"SCHED_SQ_DB", 0x210008, 0x20, 288, 0x0, 1, 8, 0xfe,
   [F.SCHED_SQ_DB_COUNT]⟩
/-- `SCHED_SQ_PTR`. -/
def G.SCHED_SQ_PTR : RegInfo :=
  ⟨"SCHED_SQ_PTR", 0x210010, 0x20, 288, 0x0, 1, 8, 0x0,
   [F.SCHED_SQ_PTR_HALTED, F.SCHED_SQ_PTR_PROD, F.SCHED_SQ_PTR_CONS]⟩
/-- `SCHED_FLOW_CFG`. -/
def G.SCHED_FLOW_CFG : RegInfo :=
  ⟨"SCHED_FLOW_CFG", 0x220000, 0x20, 4096, 0x0, 1, 8, 0xfe,
   [F.SCHED_FLOW_CFG_EN, F.SCHED_FLOW_CFG_LOG2, F.SCHED_FLOW_CFG_MAX_OUT, F.SCHED_FLOW_CFG_BASE]⟩
/-- `SCHED_FLOW_PTR`. -/
def G.SCHED_FLOW_PTR : RegInfo :=
  ⟨"SCHED_FLOW_PTR", 0x220008, 0x20, 4096, 0x0, 1, 8, 0xfe,
   [F.SCHED_FLOW_PTR_REL_WR, F.SCHED_FLOW_PTR_REL_RD]⟩
/-- `SCHED_FLOW_STAT`. -/
def G.SCHED_FLOW_STAT : RegInfo :=
  ⟨"SCHED_FLOW_STAT", 0x220010, 0x20, 4096, 0x0, 1, 8, 0x0,
   [F.SCHED_FLOW_STAT_NEXT_SEQ, F.SCHED_FLOW_STAT_REL_NEXT, F.SCHED_FLOW_STAT_OUT, F.SCHED_FLOW_STAT_REC_FAIL]⟩
/-- `SCHED_UNIT_STAT`. -/
def G.SCHED_UNIT_STAT : RegInfo :=
  ⟨"SCHED_UNIT_STAT", 0x240000, 0x8, 320, 0x0, 1, 8, 0x0,
   [F.SCHED_UNIT_STAT_ADMIT_EPOCH, F.SCHED_UNIT_STAT_LAST_STATUS, F.SCHED_UNIT_STAT_HELD, F.SCHED_UNIT_STAT_SPARE_FAIL, F.SCHED_UNIT_STAT_LEAVE_CAUSE, F.SCHED_UNIT_STAT_ENABLE_PENDING, F.SCHED_UNIT_STAT_STATE]⟩
/-- `FAB_CFG`. -/
def G.FAB_CFG : RegInfo :=
  ⟨"FAB_CFG", 0x300000, 0x0, 1, 0x0, 1, 4, 0x0,
   [F.FAB_CFG_MERGED]⟩
/-- `FAB_ROUTE_GEN`. -/
def G.FAB_ROUTE_GEN : RegInfo :=
  ⟨"FAB_ROUTE_GEN", 0x300008, 0x0, 1, 0x0, 1, 4, 0xfe,
   [F.FAB_ROUTE_GEN_BUSY, F.FAB_ROUTE_GEN_LAST_STATUS, F.FAB_ROUTE_GEN_GEN]⟩
/-- `FAB_RECFG_TIMEOUT`. -/
def G.FAB_RECFG_TIMEOUT : RegInfo :=
  ⟨"FAB_RECFG_TIMEOUT", 0x300010, 0x0, 1, 0x0, 1, 4, 0xfe,
   [F.FAB_RECFG_TIMEOUT_COUNT, F.FAB_RECFG_TIMEOUT_LAST_GEN, F.FAB_RECFG_TIMEOUT_SET]⟩
/-- `FAB_READMIT`. -/
def G.FAB_READMIT : RegInfo :=
  ⟨"FAB_READMIT", 0x300018, 0x0, 1, 0x0, 1, 4, 0xd8,
   [F.FAB_READMIT_LAST_STATUS, F.FAB_READMIT_GO, F.FAB_READMIT_PORT]⟩
/-- `FAB_ERR_CNT`. -/
def G.FAB_ERR_CNT : RegInfo :=
  ⟨"FAB_ERR_CNT", 0x300020, 0x0, 1, 0x0, 1, 8, 0x0,
   [F.FAB_ERR_CNT_REPLAY, F.FAB_ERR_CNT_ISOLATIONS, F.FAB_ERR_CNT_STUCK]⟩
/-- `FAB_RT_SHADOW`. -/
def G.FAB_RT_SHADOW : RegInfo :=
  ⟨"FAB_RT_SHADOW", 0x310000, 0x40, 80, 0x8, 5, 8, 0xfe,
   [F.FAB_RT_SHADOW_ENTRY]⟩
/-- `FAB_RT_CUR`. -/
def G.FAB_RT_CUR : RegInfo :=
  ⟨"FAB_RT_CUR", 0x320000, 0x40, 80, 0x8, 5, 8, 0x0,
   [F.FAB_RT_CUR_ENTRY]⟩
/-- `FAB_PORT_STAT`. -/
def G.FAB_PORT_STAT : RegInfo :=
  ⟨"FAB_PORT_STAT", 0x330000, 0x8, 320, 0x0, 1, 8, 0x0,
   [F.FAB_PORT_STAT_LATE_RSP, F.FAB_PORT_STAT_ABSORBED, F.FAB_PORT_STAT_WAKES, F.FAB_PORT_STAT_ANTEROOM, F.FAB_PORT_STAT_PRESENT, F.FAB_PORT_STAT_ISOLATED]⟩
/-- `MEM_STAT`. -/
def G.MEM_STAT : RegInfo :=
  ⟨"MEM_STAT", 0x400000, 0x0, 1, 0x0, 1, 8, 0x0,
   [F.MEM_STAT_NOT_OWNER, F.MEM_STAT_BUSY, F.MEM_STAT_NARROW, F.MEM_STAT_REPLAY]⟩
/-- `MEM_CTRL`. -/
def G.MEM_CTRL : RegInfo :=
  ⟨"MEM_CTRL", 0x400008, 0x0, 1, 0x0, 1, 4, 0xfe,
   [F.MEM_CTRL_CNT_CLR]⟩
/-- `MEM_CNT`. -/
def G.MEM_CNT : RegInfo :=
  ⟨"MEM_CNT", 0x400010, 0x0, 1, 0x0, 1, 8, 0x0,
   [F.MEM_CNT_RET_WAKES, F.MEM_CNT_HANDOVERS, F.MEM_CNT_HANDOVER_FAIL]⟩
/-- `MEM_HBM_STAT`. -/
def G.MEM_HBM_STAT : RegInfo :=
  ⟨"MEM_HBM_STAT", 0x400020, 0x8, 2, 0x0, 1, 4, 0x0,
   [F.MEM_HBM_STAT_TEMP, F.MEM_HBM_STAT_FILL_PCT, F.MEM_HBM_STAT_REFRESH, F.MEM_HBM_STAT_STATE]⟩
/-- `MEM_POOL_RET`. -/
def G.MEM_POOL_RET : RegInfo :=
  ⟨"MEM_POOL_RET", 0x400100, 0x0, 1, 0x0, 1, 8, 0xfe,
   [F.MEM_POOL_RET_REQ]⟩
/-- `MEM_POOL_RET_STAT`. -/
def G.MEM_POOL_RET_STAT : RegInfo :=
  ⟨"MEM_POOL_RET_STAT", 0x400108, 0x0, 1, 0x0, 1, 8, 0x0,
   [F.MEM_POOL_RET_STAT_STATE]⟩
/-- `MEM_CLU_RET`. -/
def G.MEM_CLU_RET : RegInfo :=
  ⟨"MEM_CLU_RET", 0x400200, 0x8, 16, 0x0, 1, 8, 0xfe,
   [F.MEM_CLU_RET_STATE, F.MEM_CLU_RET_REQ]⟩
/-- `MEM_BANK_OWN`. -/
def G.MEM_BANK_OWN : RegInfo :=
  ⟨"MEM_BANK_OWN", 0x410000, 0x100, 16, 0x8, 32, 8, 0xfe,
   [F.MEM_BANK_OWN_EXPECT, F.MEM_BANK_OWN_PORT_SEL, F.MEM_BANK_OWN_LAST_STATUS, F.MEM_BANK_OWN_OWN_B, F.MEM_BANK_OWN_OWN_A]⟩
/-- `INTEG_CTRL`. -/
def G.INTEG_CTRL : RegInfo :=
  ⟨"INTEG_CTRL", 0x500000, 0x0, 1, 0x0, 1, 4, 0xfe,
   [F.INTEG_CTRL_UE_WEIGHT, F.INTEG_CTRL_CNT_CLR, F.INTEG_CTRL_DARNER_EN, F.INTEG_CTRL_REPAIR_EN]⟩
/-- `INTEG_STAT`. -/
def G.INTEG_STAT : RegInfo :=
  ⟨"INTEG_STAT", 0x500008, 0x0, 1, 0x0, 1, 8, 0x0,
   [F.INTEG_STAT_REPAIRS, F.INTEG_STAT_REPAIR_DROP, F.INTEG_STAT_UE_TOTAL, F.INTEG_STAT_CE_TOTAL]⟩
/-- `INTEG_UE_LOG`. -/
def G.INTEG_UE_LOG : RegInfo :=
  ⟨"INTEG_UE_LOG", 0x500010, 0x0, 1, 0x0, 1, 8, 0x0,
   [F.INTEG_UE_LOG_BUCKET, F.INTEG_UE_LOG_VALID, F.INTEG_UE_LOG_ADDR]⟩
/-- `INTEG_TMR_FIX`. -/
def G.INTEG_TMR_FIX : RegInfo :=
  ⟨"INTEG_TMR_FIX", 0x500018, 0x0, 1, 0x0, 1, 4, 0xfe,
   [F.INTEG_TMR_FIX_FIXES, F.INTEG_TMR_FIX_LAST_WORD, F.INTEG_TMR_FIX_SEEN]⟩
/-- `INTEG_DARNER_CFG`. -/
def G.INTEG_DARNER_CFG : RegInfo :=
  ⟨"INTEG_DARNER_CFG", 0x500020, 0x0, 1, 0x0, 1, 4, 0xbe,
   [F.INTEG_DARNER_CFG_PERIOD_MIN]⟩
/-- `INTEG_DARNER_STAT`. -/
def G.INTEG_DARNER_STAT : RegInfo :=
  ⟨"INTEG_DARNER_STAT", 0x500028, 0x0, 1, 0x0, 1, 8, 0x0,
   [F.INTEG_DARNER_STAT_PASSES, F.INTEG_DARNER_STAT_LAG, F.INTEG_DARNER_STAT_PROGRESS, F.INTEG_DARNER_STAT_STATE]⟩
/-- `INTEG_INJECT`. -/
def G.INTEG_INJECT : RegInfo :=
  ⟨"INTEG_INJECT", 0x500030, 0x0, 1, 0x0, 1, 8, 0xfe,
   [F.INTEG_INJECT_BIT_B, F.INTEG_INJECT_BIT_A, F.INTEG_INJECT_ADDR, F.INTEG_INJECT_KIND]⟩
/-- `INTEG_BUCKET_CFG`. -/
def G.INTEG_BUCKET_CFG : RegInfo :=
  ⟨"INTEG_BUCKET_CFG", 0x510000, 0x10, 128, 0x0, 1, 4, 0xfe,
   [F.INTEG_BUCKET_CFG_THRESHOLD, F.INTEG_BUCKET_CFG_LEAK_MS]⟩
/-- `INTEG_BUCKET_STAT`. -/
def G.INTEG_BUCKET_STAT : RegInfo :=
  ⟨"INTEG_BUCKET_STAT", 0x510008, 0x10, 128, 0x0, 1, 8, 0x0,
   [F.INTEG_BUCKET_STAT_CE, F.INTEG_BUCKET_STAT_UE, F.INTEG_BUCKET_STAT_OVF, F.INTEG_BUCKET_STAT_LEVEL]⟩
/-- `PLR_STAT`. -/
def G.PLR_STAT : RegInfo :=
  ⟨"PLR_STAT", 0xd00000, 0x0, 1, 0x0, 1, 8, 0x0,
   [F.PLR_STAT_BAD_DONE, F.PLR_STAT_BAD_STATUS, F.PLR_STAT_LOADED, F.PLR_STAT_FENCED]⟩
/-- `PLR_CTRL`. -/
def G.PLR_CTRL : RegInfo :=
  ⟨"PLR_CTRL", 0xd00008, 0x0, 1, 0x0, 1, 4, 0xfe,
   [F.PLR_CTRL_CNT_CLR]⟩
/-- `PLR_REGION_CTRL`. -/
def G.PLR_REGION_CTRL : RegInfo :=
  ⟨"PLR_REGION_CTRL", 0xd00100, 0x10, 8, 0x0, 1, 4, 0xfe,
   [F.PLR_REGION_CTRL_UNLOAD, F.PLR_REGION_CTRL_AUTO_READMIT]⟩
/-- `PLR_REGION_STAT`. -/
def G.PLR_REGION_STAT : RegInfo :=
  ⟨"PLR_REGION_STAT", 0xd00108, 0x10, 8, 0x0, 1, 8, 0x0,
   [F.PLR_REGION_STAT_IMAGE_ID, F.PLR_REGION_STAT_LAST_STATUS, F.PLR_REGION_STAT_LOAD_ERR, F.PLR_REGION_STAT_ERR_FRAME, F.PLR_REGION_STAT_PEND, F.PLR_REGION_STAT_HELD, F.PLR_REGION_STAT_STATE]⟩
/-- `PLR_BANK_CFG`. -/
def G.PLR_BANK_CFG : RegInfo :=
  ⟨"PLR_BANK_CFG", 0xd00200, 0x10, 6, 0x0, 1, 4, 0x6,
   [F.PLR_BANK_CFG_VMEAS, F.PLR_BANK_CFG_SUPPLY_OK, F.PLR_BANK_CFG_VMISMATCH, F.PLR_BANK_CFG_VOLT]⟩
/-- `PLR_BANK_SAFE`. -/
def G.PLR_BANK_SAFE : RegInfo :=
  ⟨"PLR_BANK_SAFE", 0xd00208, 0x10, 6, 0x0, 1, 8, 0xfe,
   [F.PLR_BANK_SAFE_SAFE]⟩
/-- `PLR_PIN_CFG`. -/
def G.PLR_PIN_CFG : RegInfo :=
  ⟨"PLR_PIN_CFG", 0xd01000, 0x8, 144, 0x0, 1, 4, 0xfe,
   [F.PLR_PIN_CFG_REGION, F.PLR_PIN_CFG_IOSTD, F.PLR_PIN_CFG_DIR, F.PLR_PIN_CFG_DRIVE, F.PLR_PIN_CFG_DRIVE_CAP, F.PLR_PIN_CFG_SLOW_ONLY, F.PLR_PIN_CFG_SLEW, F.PLR_PIN_CFG_SLEW_IMG, F.PLR_PIN_CFG_IRQ_EN, F.PLR_PIN_CFG_LEVEL, F.PLR_PIN_CFG_ACTIVE_LOW, F.PLR_PIN_CFG_WAKE]⟩
/-- `PLR_IRQ_STAT`. -/
def G.PLR_IRQ_STAT : RegInfo :=
  ⟨"PLR_IRQ_STAT", 0xd02000, 0x8, 3, 0x0, 1, 8, 0xfe,
   [F.PLR_IRQ_STAT_FIRED]⟩
/-- `PLR_STORM`. -/
def G.PLR_STORM : RegInfo :=
  ⟨"PLR_STORM", 0xd02020, 0x8, 3, 0x0, 1, 8, 0xfe,
   [F.PLR_STORM_MASKED]⟩
/-- `ETH_CFG`. -/
def G.ETH_CFG : RegInfo :=
  ⟨"ETH_CFG", 0xe00000, 0x0, 1, 0x0, 1, 4, 0x6,
   [F.ETH_CFG_MODE]⟩
/-- `ETH_PORT_CFG`. -/
def G.ETH_PORT_CFG : RegInfo :=
  ⟨"ETH_PORT_CFG", 0xe00100, 0x40, 16, 0x0, 1, 8, 0x6,
   [F.ETH_PORT_CFG_MAC, F.ETH_PORT_CFG_ROLE_SYNCE, F.ETH_PORT_CFG_ROLE_PTP, F.ETH_PORT_CFG_ROLE_FH]⟩
/-- `ETH_PORT_STAT`. -/
def G.ETH_PORT_STAT : RegInfo :=
  ⟨"ETH_PORT_STAT", 0xe00108, 0x40, 16, 0x0, 1, 8, 0x0,
   [F.ETH_PORT_STAT_RX_DROP, F.ETH_PORT_STAT_FEC_UNCORR, F.ETH_PORT_STAT_SPEED, F.ETH_PORT_STAT_LINK_UP]⟩
/-- `ETH_RU_CFG`. -/
def G.ETH_RU_CFG : RegInfo :=
  ⟨"ETH_RU_CFG", 0xe10000, 0x40, 32, 0x0, 1, 8, 0xbe,
   [F.ETH_RU_CFG_EN, F.ETH_RU_CFG_STATIC_COMP, F.ETH_RU_CFG_JUMBO, F.ETH_RU_CFG_PORT, F.ETH_RU_CFG_CELL, F.ETH_RU_CFG_TYPE, F.ETH_RU_CFG_SCS, F.ETH_RU_CFG_CP_EXT, F.ETH_RU_CFG_N_RB, F.ETH_RU_CFG_N_PORT_M1, F.ETH_RU_CFG_MANT, F.ETH_RU_CFG_RU_BITS, F.ETH_RU_CFG_EAXC_BASE]⟩
/-- `ETH_RU_ADDR`. -/
def G.ETH_RU_ADDR : RegInfo :=
  ⟨"ETH_RU_ADDR", 0xe10008, 0x40, 32, 0x0, 1, 8, 0xbe,
   [F.ETH_RU_ADDR_VLAN_EN, F.ETH_RU_ADDR_PCP, F.ETH_RU_ADDR_VLAN_ID, F.ETH_RU_ADDR_RU_MAC]⟩
/-- `ETH_RU_POOL`. -/
def G.ETH_RU_POOL : RegInfo :=
  ⟨"ETH_RU_POOL", 0xe10010, 0x40, 32, 0x0, 1, 8, 0xbe,
   [F.ETH_RU_POOL_N_BUF, F.ETH_RU_POOL_UL_OFF, F.ETH_RU_POOL_DL_OFF, F.ETH_RU_POOL_STRIDE]⟩
/-- `ETH_RU_WIN`. -/
def G.ETH_RU_WIN : RegInfo :=
  ⟨"ETH_RU_WIN", 0xe10018, 0x40, 32, 0x0, 1, 8, 0xbe,
   [F.ETH_RU_WIN_TA4_MAX, F.ETH_RU_WIN_T1A_UP, F.ETH_RU_WIN_TCP_ADV_DL, F.ETH_RU_WIN_TCP_ADV_UL]⟩
/-- `ETH_RU_PRACH`. -/
def G.ETH_RU_PRACH : RegInfo :=
  ⟨"ETH_RU_PRACH", 0xe10020, 0x40, 32, 0x0, 1, 8, 0xbe,
   [F.ETH_RU_PRACH_EN, F.ETH_RU_PRACH_PERIOD, F.ETH_RU_PRACH_SLOT_OFF, F.ETH_RU_PRACH_START_SYM, F.ETH_RU_PRACH_N_SYM_M1, F.ETH_RU_PRACH_N_PRBC, F.ETH_RU_PRACH_PSTRIDE]⟩
/-- `ETH_RU_PRACH2`. -/
def G.ETH_RU_PRACH2 : RegInfo :=
  ⟨"ETH_RU_PRACH2", 0xe10028, 0x40, 32, 0x0, 1, 8, 0xbe,
   [F.ETH_RU_PRACH2_FILTER_IDX, F.ETH_RU_PRACH2_PRACH_OFF, F.ETH_RU_PRACH2_FS_SCS, F.ETH_RU_PRACH2_FFT, F.ETH_RU_PRACH2_PRACH_BASE]⟩
/-- `ETH_RU_CNT`. -/
def G.ETH_RU_CNT : RegInfo :=
  ⟨"ETH_RU_CNT", 0xe10030, 0x40, 32, 0x0, 1, 8, 0x0,
   [F.ETH_RU_CNT_LATE, F.ETH_RU_CNT_DISCARD, F.ETH_RU_CNT_SEQ_ERR, F.ETH_RU_CNT_ZEROED]⟩
/-- `ETH_RU_OWD`. -/
def G.ETH_RU_OWD : RegInfo :=
  ⟨"ETH_RU_OWD", 0xe10038, 0x40, 32, 0x0, 1, 8, 0xd8,
   [F.ETH_RU_OWD_GO, F.ETH_RU_OWD_VALID, F.ETH_RU_OWD_DELAY_NS]⟩
/-- `TIME_CTRL`. -/
def G.TIME_CTRL : RegInfo :=
  ⟨"TIME_CTRL", 0x800000, 0x0, 1, 0x0, 1, 8, 0xfe,
   [F.TIME_CTRL_TE_LIMIT, F.TIME_CTRL_SLEW_PPB, F.TIME_CTRL_HOLD_PPB, F.TIME_CTRL_PPS_OFFSET, F.TIME_CTRL_WIDTH, F.TIME_CTRL_WTR_S, F.TIME_CTRL_REVERT, F.TIME_CTRL_PPS_IN_EN, F.TIME_CTRL_PPS_OUT_EN]⟩
/-- `TIME_SRC_CFG`. -/
def G.TIME_SRC_CFG : RegInfo :=
  ⟨"TIME_SRC_CFG", 0x800008, 0x0, 1, 0x0, 1, 4, 0x6,
   [F.TIME_SRC_CFG_SYNCE_PORT, F.TIME_SRC_CFG_ROLE, F.TIME_SRC_CFG_PRIO_10M, F.TIME_SRC_CFG_PRIO_SYNCE, F.TIME_SRC_CFG_PRIO_RING, F.TIME_SRC_CFG_PRIO_PPS, F.TIME_SRC_CFG_PRIO_PTP]⟩
/-- `TIME_STAT`. -/
def G.TIME_STAT : RegInfo :=
  ⟨"TIME_STAT", 0x800010, 0x0, 1, 0x0, 1, 8, 0xfe,
   [F.TIME_STAT_TE_EST, F.TIME_STAT_PPS_DROP, F.TIME_STAT_ALARM_SEEN, F.TIME_STAT_ALARM, F.TIME_STAT_FREQ_SRC, F.TIME_STAT_PHASE_SRC, F.TIME_STAT_STATE]⟩
/-- `TIME_TOD`. -/
def G.TIME_TOD : RegInfo :=
  ⟨"TIME_TOD", 0x800018, 0x0, 1, 0x0, 1, 8, 0xfe,
   [F.TIME_TOD_TOD]⟩
/-- `TIME_PTP_CFG`. -/
def G.TIME_PTP_CFG : RegInfo :=
  ⟨"TIME_PTP_CFG", 0x800020, 0x0, 1, 0x0, 1, 4, 0x6,
   [F.TIME_PTP_CFG_DOMAIN, F.TIME_PTP_CFG_PRIORITY2, F.TIME_PTP_CFG_TSC, F.TIME_PTP_CFG_PROFILE]⟩
/-- `TIME_PTP_PORT`. -/
def G.TIME_PTP_PORT : RegInfo :=
  ⟨"TIME_PTP_PORT", 0x800100, 0x10, 16, 0x0, 1, 8, 0x6,
   [F.TIME_PTP_PORT_LOCAL_PRIO, F.TIME_PTP_PORT_NOT_SLAVE, F.TIME_PTP_PORT_MCAST_ALT, F.TIME_PTP_PORT_ASYM, F.TIME_PTP_PORT_PORT_STATE]⟩
/-- `TIME_PTP_IP`. -/
def G.TIME_PTP_IP : RegInfo :=
  ⟨"TIME_PTP_IP", 0x800108, 0x10, 16, 0x0, 1, 8, 0x6,
   [F.TIME_PTP_IP_OWN, F.TIME_PTP_IP_MASTER]⟩
/-- `TIME_FRAME_CFG`. -/
def G.TIME_FRAME_CFG : RegInfo :=
  ⟨"TIME_FRAME_CFG", 0x800200, 0x0, 1, 0x0, 1, 8, 0x6,
   [F.TIME_FRAME_CFG_ORIGIN, F.TIME_FRAME_CFG_OFFSET, F.TIME_FRAME_CFG_MODE]⟩
/-- `TIME_FRAME_STAT`. -/
def G.TIME_FRAME_STAT : RegInfo :=
  ⟨"TIME_FRAME_STAT", 0x800208, 0x0, 1, 0x0, 1, 8, 0x0,
   [F.TIME_FRAME_STAT_SFN0_TICK, F.TIME_FRAME_STAT_SFN]⟩
/-- `TIME_TICK`. -/
def G.TIME_TICK : RegInfo :=
  ⟨"TIME_TICK", 0x800210, 0x0, 1, 0x0, 1, 4, 0x0,
   [F.TIME_TICK_TICK]⟩
/-- `TIME_RING_STAT`. -/
def G.TIME_RING_STAT : RegInfo :=
  ⟨"TIME_RING_STAT", 0x800218, 0x0, 1, 0x0, 1, 4, 0x0,
   [F.TIME_RING_STAT_HOLD, F.TIME_RING_STAT_UP_VALID, F.TIME_RING_STAT_UPSTREAM, F.TIME_RING_STAT_DIST, F.TIME_RING_STAT_DIST_W, F.TIME_RING_STAT_DIST_E]⟩
/-- `PWR_CFG`. -/
def G.PWR_CFG : RegInfo :=
  ⟨"PWR_CFG", 0x600000, 0x0, 1, 0x0, 1, 4, 0xbe,
   [F.PWR_CFG_IDLE_TMO, F.PWR_CFG_SOAK_LEAD]⟩
/-- `PWR_MANGLE_STAT`. -/
def G.PWR_MANGLE_STAT : RegInfo :=
  ⟨"PWR_MANGLE_STAT", 0x600008, 0x0, 1, 0x0, 1, 8, 0x0,
   [F.PWR_MANGLE_STAT_RAMPS, F.PWR_MANGLE_STAT_QUEUE, F.PWR_MANGLE_STAT_I_EST]⟩
/-- `PWR_SHED_STAGE`. -/
def G.PWR_SHED_STAGE : RegInfo :=
  ⟨"PWR_SHED_STAGE", 0x600010, 0x0, 1, 0x0, 1, 4, 0xfe,
   [F.PWR_SHED_STAGE_VMEAS, F.PWR_SHED_STAGE_VMIN, F.PWR_SHED_STAGE_CLR, F.PWR_SHED_STAGE_WARN, F.PWR_SHED_STAGE_PEAK, F.PWR_SHED_STAGE_STAGE]⟩
/-- `PWR_SHED_CNT`. -/
def G.PWR_SHED_CNT : RegInfo :=
  ⟨"PWR_SHED_CNT", 0x600018, 0x0, 1, 0x0, 1, 8, 0x0,
   [F.PWR_SHED_CNT_ENTRIES]⟩
/-- `PWR_WAKE_CFG`. -/
def G.PWR_WAKE_CFG : RegInfo :=
  ⟨"PWR_WAKE_CFG", 0x600020, 0x0, 1, 0x0, 1, 8, 0x8e,
   [F.PWR_WAKE_CFG_LINK, F.PWR_WAKE_CFG_MAX_SLEEP_S, F.PWR_WAKE_CFG_MGMT, F.PWR_WAKE_CFG_PLR, F.PWR_WAKE_CFG_BRX]⟩
/-- `PWR_WAKE_STAT`. -/
def G.PWR_WAKE_STAT : RegInfo :=
  ⟨"PWR_WAKE_STAT", 0x600028, 0x0, 1, 0x0, 1, 8, 0xfe,
   [F.PWR_WAKE_STAT_SOAK_WAKES, F.PWR_WAKE_STAT_LAST_LINK, F.PWR_WAKE_STAT_LATCHED, F.PWR_WAKE_STAT_LAST_SRC]⟩
/-- `PWR_SOAK_TX`. -/
def G.PWR_SOAK_TX : RegInfo :=
  ⟨"PWR_SOAK_TX", 0x600040, 0x8, 4, 0x0, 1, 8, 0x8e,
   [F.PWR_SOAK_TX_EN, F.PWR_SOAK_TX_CC, F.PWR_SOAK_TX_PERIOD, F.PWR_SOAK_TX_N_SYM_M1, F.PWR_SOAK_TX_ORIGIN]⟩
/-- `PWR_DOM_REQ`. -/
def G.PWR_DOM_REQ : RegInfo :=
  ⟨"PWR_DOM_REQ", 0x610000, 0x20, 64, 0x0, 1, 4, 0xfc,
   [F.PWR_DOM_REQ_STATE]⟩
/-- `PWR_DOM_STAT`. -/
def G.PWR_DOM_STAT : RegInfo :=
  ⟨"PWR_DOM_STAT", 0x610008, 0x20, 64, 0x0, 1, 4, 0x0,
   [F.PWR_DOM_STAT_SAVE_SKIP, F.PWR_DOM_STAT_LAST_STATUS, F.PWR_DOM_STAT_LOCK_SRC, F.PWR_DOM_STAT_ENABLE_PENDING, F.PWR_DOM_STAT_IDLE_WAIT, F.PWR_DOM_STAT_TARGET, F.PWR_DOM_STAT_IN_TRANSITION, F.PWR_DOM_STAT_STATE]⟩
/-- `PWR_DOM_PEND`. -/
def G.PWR_DOM_PEND : RegInfo :=
  ⟨"PWR_DOM_PEND", 0x610010, 0x20, 64, 0x0, 1, 4, 0xfc,
   [F.PWR_DOM_PEND_SUPERSEDED_CNT, F.PWR_DOM_PEND_LAST_REJECT_STATUS, F.PWR_DOM_PEND_LAST_REJECT_STATE, F.PWR_DOM_PEND_LAST_SUPERSEDED, F.PWR_DOM_PEND_CNT_CLR, F.PWR_DOM_PEND_CANCEL, F.PWR_DOM_PEND_HW_PEND, F.PWR_DOM_PEND_PEND_VALID, F.PWR_DOM_PEND_PEND_STATE]⟩
/-- `PWR_DOM_CFG`. -/
def G.PWR_DOM_CFG : RegInfo :=
  ⟨"PWR_DOM_CFG", 0x610018, 0x20, 64, 0x0, 1, 8, 0x6,
   [F.PWR_DOM_CFG_STEP, F.PWR_DOM_CFG_SAVE_BASE, F.PWR_DOM_CFG_SAVE_LEN, F.PWR_DOM_CFG_SVC_SET, F.PWR_DOM_CFG_POLICY_LOCK, F.PWR_DOM_CFG_SOAK_STATE]⟩
/-- `TRUST_STATUS`. -/
def G.TRUST_STATUS : RegInfo :=
  ⟨"TRUST_STATUS", 0x900000, 0x0, 1, 0x0, 1, 8, 0x0,
   [F.TRUST_STATUS_LAST_FAIL_STATUS, F.TRUST_STATUS_LAST_FAIL_CHECK, F.TRUST_STATUS_LAST_FAIL_TARGET, F.TRUST_STATUS_LAST_FAIL_TYPE, F.TRUST_STATUS_TOKEN_PERMS, F.TRUST_STATUS_TOKEN_OK, F.TRUST_STATUS_FALLBACK, F.TRUST_STATUS_BOOT_FROM, F.TRUST_STATUS_VALID_A, F.TRUST_STATUS_VALID_B, F.TRUST_STATUS_STAGED, F.TRUST_STATUS_FLASH_BUSY, F.TRUST_STATUS_BUSY]⟩
/-- `TRUST_CTRL`. -/
def G.TRUST_CTRL : RegInfo :=
  ⟨"TRUST_CTRL", 0x900008, 0x0, 1, 0x0, 1, 4, 0xbe,
   [F.TRUST_CTRL_HOST_DONE, F.TRUST_CTRL_NEW_NONCE]⟩
/-- `TRUST_NONCE`. -/
def G.TRUST_NONCE : RegInfo :=
  ⟨"TRUST_NONCE", 0x900010, 0x8, 2, 0x0, 1, 8, 0x0,
   [F.TRUST_NONCE_NONCE]⟩
/-- `TRUST_FUSE`. -/
def G.TRUST_FUSE : RegInfo :=
  ⟨"TRUST_FUSE", 0x900020, 0x0, 1, 0x0, 1, 4, 0x0,
   [F.TRUST_FUSE_SVN, F.TRUST_FUSE_REV_SLH, F.TRUST_FUSE_REV_RSA, F.TRUST_FUSE_PROG_SLH, F.TRUST_FUSE_PROG_RSA]⟩
/-- `TRUST_DEV_ID`. -/
def G.TRUST_DEV_ID : RegInfo :=
  ⟨"TRUST_DEV_ID", 0x900028, 0x0, 1, 0x0, 1, 8, 0x0,
   [F.TRUST_DEV_ID_DEV_ID]⟩
/-- `TRUST_SEQ`. -/
def G.TRUST_SEQ : RegInfo :=
  ⟨"TRUST_SEQ", 0x900030, 0x0, 1, 0x0, 1, 8, 0x0,
   [F.TRUST_SEQ_SEQ_B, F.TRUST_SEQ_SEQ_A]⟩
/-- `TRUST_MEAS`. -/
def G.TRUST_MEAS : RegInfo :=
  ⟨"TRUST_MEAS", 0x901000, 0x40, 11, 0x8, 6, 8, 0x0,
   [F.TRUST_MEAS_DIGEST]⟩
/-- `TRUST_MEAS_INFO`. -/
def G.TRUST_MEAS_INFO : RegInfo :=
  ⟨"TRUST_MEAS_INFO", 0x901030, 0x40, 11, 0x0, 1, 8, 0x0,
   [F.TRUST_MEAS_INFO_IMAGE_ID, F.TRUST_MEAS_INFO_SVN, F.TRUST_MEAS_INFO_VALID]⟩
/-- `CLK_REF_CFG`. -/
def G.CLK_REF_CFG : RegInfo :=
  ⟨"CLK_REF_CFG", 0x700000, 0x0, 1, 0x0, 1, 4, 0x6,
   [F.CLK_REF_CFG_USING_B, F.CLK_REF_CFG_REF_B_OK, F.CLK_REF_CFG_REF_A_OK, F.CLK_REF_CFG_B_FREQ, F.CLK_REF_CFG_A_FREQ]⟩
/-- `CLK_PLL_STAT`. -/
def G.CLK_PLL_STAT : RegInfo :=
  ⟨"CLK_PLL_STAT", 0x700008, 0x0, 1, 0x0, 1, 4, 0xfe,
   [F.CLK_PLL_STAT_LOL_SEEN, F.CLK_PLL_STAT_LOCK]⟩
/-- `CLK_PLR`. -/
def G.CLK_PLR : RegInfo :=
  ⟨"CLK_PLR", 0x700020, 0x8, 4, 0x0, 1, 4, 0x6,
   [F.CLK_PLR_DIV]⟩
/-- `SENS_STAT`. -/
def G.SENS_STAT : RegInfo :=
  ⟨"SENS_STAT", 0xf00000, 0x0, 1, 0x0, 1, 4, 0x0,
   [F.SENS_STAT_MAX_TEMP, F.SENS_STAT_HOT, F.SENS_STAT_THROTTLE, F.SENS_STAT_FAILED]⟩
/-- `SENS_ALERT`. -/
def G.SENS_ALERT : RegInfo :=
  ⟨"SENS_ALERT", 0xf00008, 0x0, 1, 0x0, 1, 4, 0x0,
   [F.SENS_ALERT_AVS, F.SENS_ALERT_SENSOR, F.SENS_ALERT_PLL, F.SENS_ALERT_THROTTLE, F.SENS_ALERT_TIME]⟩
/-- `SENS_TEMP`. -/
def G.SENS_TEMP : RegInfo :=
  ⟨"SENS_TEMP", 0xf01000, 0x8, 64, 0x0, 1, 4, 0x0,
   [F.SENS_TEMP_FAILED, F.SENS_TEMP_TEMP]⟩
/-- `SENS_VOLT`. -/
def G.SENS_VOLT : RegInfo :=
  ⟨"SENS_VOLT", 0xf02000, 0x8, 16, 0x0, 1, 4, 0x0,
   [F.SENS_VOLT_MIN, F.SENS_VOLT_VOLT]⟩
/-- `SENS_AGE`. -/
def G.SENS_AGE : RegInfo :=
  ⟨"SENS_AGE", 0xf03000, 0x8, 32, 0x0, 1, 4, 0x0,
   [F.SENS_AGE_COUNT]⟩
/-- `SENS_AVS`. -/
def G.SENS_AVS : RegInfo :=
  ⟨"SENS_AVS", 0xf00010, 0x0, 1, 0x0, 1, 8, 0x0,
   [F.SENS_AVS_SLOW, F.SENS_AVS_BASE, F.SENS_AVS_TARGET, F.SENS_AVS_REDUCED, F.SENS_AVS_AT_LIMIT]⟩

/-- Part 0 of the register map. -/
def regMap0 : List RegInfo :=
  [G.DEV_STRAPS, G.DEV_MODE, G.DEV_MODE_REQ, G.DEV_MODE_PEND, G.DEV_MODE_CFG, G.DEV_RESET_CAUSE, G.DEV_RESET_CTRL, G.HIF_VERSION, G.RING_BASE, G.RING_CFG, G.RING_PTR, G.RING_STAT, G.HIF_FN_CTRL, G.HIF_FN_STAT, G.HIF_FN_CELLS, G.HIF_LINK_STAT, G.ECV_LINK_STAT, G.ECV_LINK_CTRL, G.ECV_CAPS_PARTNER, G.ECV_SAMPLE_CFG]
/-- Part 1 of the register map. -/
def regMap1 : List RegInfo :=
  [G.ECV_LP_CTRL, G.ECV_ERR_CNT, G.ECV_TT, G.ECV_TT_ASYM, G.ECV_RING_STAT, G.ACH_CTRL, G.ACH_STAT, G.ACH_COMMIT, G.ACH_CC_CFG, G.ACH_CC_POOL, G.ACH_GAIN_CFG, G.ACH_GAIN_STAT, G.ACH_GAIN_COMP, G.ACH_TDD_CFG, G.ACH_TDD_WIN, G.ACH_RAMP_CFG, G.ACH_CFR_CFG, G.ACH_IQ_CFG, G.ACH_DC_CFG, G.ACH_CNT]
/-- Part 2 of the register map. -/
def regMap2 : List RegInfo :=
  [G.BRX_GEOM, G.BRX_SUPERSEDE, G.BRX_SOAK_CFG, G.BRX_STAT, G.BRX_CNT_CLR, G.BRn_CFG, G.BRn_OCC, G.BRn_THR, G.BRn_RING, G.BRn_PTR, G.BRn_STAT, G.AE_CTRL, G.AE_STAT, G.AE_TILE_CFG, G.AE_RES_CNT, G.AE_FAULT, G.AE_CMD_CNT, G.AE_MAP, G.AE_JD_CFG, G.AE_JD_MAP]
/-- Part 3 of the register map. -/
def regMap3 : List RegInfo :=
  [G.AE_JD_RX, G.AE_JD_STAT, G.AE_MASK_SNAP, G.AE_MASK_TICK, G.CODE_CTRL, G.CODE_HARQ_TBL, G.CODE_HARQ_SLAB, G.CODE_HARQ_CNT, G.CODE_HARQ_TTL, G.CODE_HARQ_STAT, G.CODE_ENG_STAT, G.CODE_CNT, G.CAL_CTRL, G.CAL_INJ_CFG, G.CAL_EXCH_CFG, G.CAL_CONV_CFG, G.CAL_STAT, G.CAL_CNT, G.CAL_STORE_CTRL, G.CAL_STORE_STAT]
/-- Part 4 of the register map. -/
def regMap4 : List RegInfo :=
  [G.CAL_STORE_DIGEST, G.CAL_ULREF_MAP, G.CAL_ANT_STAT, G.CAL_COEF, G.CLU_CC_CTRL, G.CLU_CC_STAT, G.CLU_ENG_CTRL, G.CLU_ENG_STAT, G.CLU_ENG_FAULT, G.CLU_ENG_MBOX, G.SCHED_CFG, G.SCHED_STAT, G.SCHED_EPOCH, G.SCHED_READMIT, G.SCHED_SLOT_MAP, G.SCHED_CMD_AREA, G.SCHED_BUNDLE_LOAD, G.SCHED_BUNDLE_STAT, G.SCHED_CL_SUBMIT, G.SCHED_CL_CANCEL]
/-- Part 5 of the register map. -/
def regMap5 : List RegInfo :=
  [G.SCHED_CL_STAT, G.SCHED_CL_CNT, G.SCHED_SPARE, G.SCHED_BUNDLE_VALID, G.SCHED_SQ_CFG, G.SCHED_SQ_DB, G.SCHED_SQ_PTR, G.SCHED_FLOW_CFG, G.SCHED_FLOW_PTR, G.SCHED_FLOW_STAT, G.SCHED_UNIT_STAT, G.FAB_CFG, G.FAB_ROUTE_GEN, G.FAB_RECFG_TIMEOUT, G.FAB_READMIT, G.FAB_ERR_CNT, G.FAB_RT_SHADOW, G.FAB_RT_CUR, G.FAB_PORT_STAT, G.MEM_STAT]
/-- Part 6 of the register map. -/
def regMap6 : List RegInfo :=
  [G.MEM_CTRL, G.MEM_CNT, G.MEM_HBM_STAT, G.MEM_POOL_RET, G.MEM_POOL_RET_STAT, G.MEM_CLU_RET, G.MEM_BANK_OWN, G.INTEG_CTRL, G.INTEG_STAT, G.INTEG_UE_LOG, G.INTEG_TMR_FIX, G.INTEG_DARNER_CFG, G.INTEG_DARNER_STAT, G.INTEG_INJECT, G.INTEG_BUCKET_CFG, G.INTEG_BUCKET_STAT, G.PLR_STAT, G.PLR_CTRL, G.PLR_REGION_CTRL, G.PLR_REGION_STAT]
/-- Part 7 of the register map. -/
def regMap7 : List RegInfo :=
  [G.PLR_BANK_CFG, G.PLR_BANK_SAFE, G.PLR_PIN_CFG, G.PLR_IRQ_STAT, G.PLR_STORM, G.ETH_CFG, G.ETH_PORT_CFG, G.ETH_PORT_STAT, G.ETH_RU_CFG, G.ETH_RU_ADDR, G.ETH_RU_POOL, G.ETH_RU_WIN, G.ETH_RU_PRACH, G.ETH_RU_PRACH2, G.ETH_RU_CNT, G.ETH_RU_OWD, G.TIME_CTRL, G.TIME_SRC_CFG, G.TIME_STAT, G.TIME_TOD]
/-- Part 8 of the register map. -/
def regMap8 : List RegInfo :=
  [G.TIME_PTP_CFG, G.TIME_PTP_PORT, G.TIME_PTP_IP, G.TIME_FRAME_CFG, G.TIME_FRAME_STAT, G.TIME_TICK, G.TIME_RING_STAT, G.PWR_CFG, G.PWR_MANGLE_STAT, G.PWR_SHED_STAGE, G.PWR_SHED_CNT, G.PWR_WAKE_CFG, G.PWR_WAKE_STAT, G.PWR_SOAK_TX, G.PWR_DOM_REQ, G.PWR_DOM_STAT, G.PWR_DOM_PEND, G.PWR_DOM_CFG, G.TRUST_STATUS, G.TRUST_CTRL]
/-- Part 9 of the register map. -/
def regMap9 : List RegInfo :=
  [G.TRUST_NONCE, G.TRUST_FUSE, G.TRUST_DEV_ID, G.TRUST_SEQ, G.TRUST_MEAS, G.TRUST_MEAS_INFO, G.CLK_REF_CFG, G.CLK_PLL_STAT, G.CLK_PLR, G.SENS_STAT, G.SENS_ALERT, G.SENS_TEMP, G.SENS_VOLT, G.SENS_AGE, G.SENS_AVS]
/-- Every register of control space. -/
def regMap : List RegInfo :=
  regMap0 ++ regMap1 ++ regMap2 ++ regMap3 ++ regMap4 ++ regMap5 ++ regMap6 ++ regMap7 ++ regMap8 ++ regMap9

end Sys2Proof.Machine
end

