-- ==== Sys2Proof/Machine/Operands.lean ====
section
/-! DEFINITION. The operand forms of control-space accesses: who may make them, their width, alignment and mode checks
(R15, R16), and the access codes of the fields they write (R17–R19). -/
namespace Sys2Proof.Machine

/-- Every mode except BYPASS. -/
abbrev modesAll : Nat := 0xFE

/-- The requester reaches the whole of control space: a virtual function reaches only its own function page (R33), no
function anything during a warm reset (R52), and JTAG only in TEST with a debug token that permits it (R507). -/
def Chip.reachesAll (c : Chip) (p : Port) : Bool :=
  match p with
  | .host fn => fn == 0 && !c.inWarm
  | .jtag => c.mode == mTest && bit (c.rd F.TRUST_STATUS_TOKEN_PERMS) 1 && c.port.tap == .debug
  | _ => true

/-- The requester reaches the function page of function `f`: the PF every page, a VF its own (R77). -/
def Chip.reachesFn (c : Chip) (p : Port) (f : Nat) : Bool :=
  match p with
  | .host fn => (fn == 0 || fn == f) && !c.inWarm
  | q => c.reachesAll q

/-- A write made in a mode outside its register's write modes, or by a requester that cannot reach the register, is
dropped and reported with ACCESS_DENIED (R16, R29). -/
def Chip.guarded (c : Chip) (p : Port) (modes : Nat) (f : Chip → Chip) : Chip :=
  if c.modeIn modes && c.reachesAll p then f c else c.report p .accessDenied

/-- As `guarded`, for the registers of function page `fn`. -/
def Chip.guardedFn (c : Chip) (p : Port) (fn : Nat) (modes : Nat) (f : Chip → Chip) : Chip :=
  if c.modeIn modes && c.reachesFn p fn then f c else c.report p .accessDenied

/-- An action bit written in a mode its register allows: the action is taken and the write reports OK. -/
def Chip.action (c : Chip) (p : Port) (modes : Nat) (f : Chip → Chip) : Chip :=
  c.guarded p modes fun c => (f c).report p .ok

/-! ## Action bits that run for a while -/

/-- Set an action bit of R18 (W1S): it starts the action, or makes it start once more after it completes. -/
def Chip.w1sStart (c : Chip) (f : Fld) (i j : Nat) (act : Chip → Chip) : Chip :=
  if c.flag f i j then
    (if c.again.contains (f.key i j) then c else c.withAgain (c.again ++ [f.key i j]))
  else act (c.wr f 1 i j)

/-- The action of a bit completes: hardware clears it, or starts the action once more. -/
def Chip.w1sEnd (c : Chip) (f : Fld) (i j : Nat) (act : Chip → Chip) : Chip :=
  let c1 := c.wr f 0 i j
  if c.again.contains (f.key i j) then
    act ((c1.withAgain (c1.again.filter (· != f.key i j))).wr f 1 i j)
  else c1

/-! ## Fields of a register -/

/-- The part of a write value that falls on a field. -/
def Fld.of (f : Fld) (v : Nat) : Nat := v / 2 ^ f.lo % 2 ^ f.w

/-- Write one field of a register under its access code (R18, R19); the flag says that a locked LCK field would have
changed. Action bits (WO, W1S) are taken by the register's own action, not here. -/
def Chip.wrField (c : Chip) (f : Fld) (v : Nat) (i j : Nat) : Chip × Bool :=
  match f.acc with
  | .ro => (c, false)
  | .wo => (c, false)
  | .w1s => (c, false)
  | .rw => (c.wr f (f.of v) i j, false)
  | .rwv => (c.wr f (f.of v) i j, false)
  | .w1c => (c.wr f (c.rd f i j - (c.rd f i j &&& f.of v)) i j, false)
  | .lck =>
    if f.of v = c.rd f i j then (c, false)
    else if c.dev.lckOpen then (c.wr f (f.of v) i j, false)
    else (c, true)

/-- Write the fields of a register one by one (R16, R17); reserved bits are ignored. The status is ACCESS_DENIED when a
locked LCK field would have changed, and the other fields are applied all the same (R19). -/
def Chip.wrFields (c : Chip) (fs : List Fld) (v : Nat) (i j : Nat) : Chip × Status :=
  match fs with
  | [] => (c, .ok)
  | f :: r =>
    let (c1, denied) := c.wrField f v i j
    let (c2, st) := c1.wrFields r v i j
    (c2, if denied then .accessDenied else st)

/-- The register at a control-space address with the indices of the instance, none where the address is reserved. -/
def RegInfo.at_ (r : RegInfo) (addr : Nat) : Option (Nat × Nat) :=
  if addr < r.base then none
  else
    let d := addr - r.base
    let i := if r.stride1 = 0 then 0 else d / r.stride1
    let d1 := if r.stride1 = 0 then d else d % r.stride1
    let j := if r.stride2 = 0 then 0 else d1 / r.stride2
    let d2 := if r.stride2 = 0 then d1 else d1 % r.stride2
    if d2 = 0 && i < r.count1 && j < r.count2 then some (i, j) else none

/-- The register exists in an instance: ECV_RING_STAT on ring ports only (R144). -/
def RegInfo.here (r : RegInfo) (i : Nat) : Bool := r.base != G.ECV_RING_STAT.base || 16 ≤ i

/-- Look a register up by its address. -/
def regFind (rs : List RegInfo) (addr : Nat) : Option (RegInfo × Nat × Nat) :=
  match rs with
  | [] => none
  | r :: t =>
    match r.at_ addr with
    | some (i, j) => if r.here i then some (r, i, j) else regFind t addr
    | none => regFind t addr

/-- The address of a register instance. -/
def RegInfo.addr (r : RegInfo) (i j : Nat) : Nat := r.base + r.stride1 * i + r.stride2 * j

/-- Put the fields of a register together as its value, reserved bits 0 (R17), WO fields 0 (R18). -/
def Chip.rdFields (c : Chip) (fs : List Fld) (i j : Nat) : Nat :=
  match fs with
  | [] => 0
  | f :: r => (if f.acc == .wo then 0 else c.rd f i j * 2 ^ f.lo) + c.rdFields r i j

/-- Function, and offset in its page, of a control-space address. -/
def fnPage (a : Nat) : Option (Nat × Nat) :=
  if 0x180000 ≤ a && a < 0x200000 then some ((a - 0x180000) / 0x2000, (a - 0x180000) % 0x2000) else none

/-- Offsets of the MSI-X structures. -/
def isMsix (off : Nat) : Bool := (0x1000 ≤ off && off < 0x1200) || (0x1800 ≤ off && off < 0x1808)

/-- A control-space address at which no register begins nor continues (R29). -/
def ctlReserved (a : Nat) : Bool :=
  !(match fnPage a with | some (_, off) => isMsix off | none => false)
    && (regFind regMap (a / 4 * 4)).isNone
    && !(match regFind regMap (a / 8 * 8) with | some (r, _, _) => r.bytes == 8 | none => false)

/-- The kind of consumption of a poisoned write to a register (R402, R406, R408): 4 for a triplicated word that requests may
write (bank owners, the route generation, the power-domain locks), else 9, a control-space datum. -/
def poisonKind (a : Nat) : Nat :=
  match regFind regMap (a / 8 * 8) with
  | some (r, _, _) => if [G.MEM_BANK_OWN.name, G.FAB_ROUTE_GEN.name, G.PWR_DOM_CFG.name].contains r.name then 4 else 9
  | none => 9

end Sys2Proof.Machine
end

