-- ==== Sys2Proof/Machine/Events.lean ====
section
/-! DEFINITION. Bytes of memory and of the host, the event rings and the interrupts of the host interface
(spec/03_host_rings.md R90–R97): every block posts its events through these. -/
namespace Sys2Proof.Machine

/-! ## Bytes -/

/-- One byte at an internal address; what an unlisted address reads as is 0 (log entry 5). -/
def Chip.rdByte (c : Chip) (a : Nat) : Byte := Tbl.get c.mem a 0

/-- Store bytes from an address on. -/
def Chip.wrBytes (c : Chip) (a : Nat) (l : List Byte) : Chip :=
  match l with
  | [] => c
  | b :: r => (c.withMem (Tbl.set c.mem a b 0)).wrBytes (a + 1) r

/-- `n` bytes from an address on, as a little-endian value. -/
def Chip.rdBytes (c : Chip) (a n : Nat) : Nat :=
  match n with
  | 0 => 0
  | m + 1 => (c.rdByte a).toNat + 256 * c.rdBytes (a + 1) m

/-- Internal address of host bus address 0 (R29). -/
def hostBase : Nat := 0x100000000000

/-- First host bus address the device cannot reach (R31). -/
def hostTop : Nat := 0xF00000000000

/-! ## Fields of a command entry (R84) -/

/-- OPCODE of a command. -/
def HostCmd.op (h : HostCmd) : Nat := bits h.w0 7 0
/-- CELL. -/
def HostCmd.cell (h : HostCmd) : Nat := bits h.w0 36 32
/-- SLOT. -/
def HostCmd.slotNo (h : HostCmd) : Nat := bits h.w0 55 50
/-- SLOT_START. -/
def HostCmd.start (h : HostCmd) : Nat := bits h.w0 95 64
/-- DEADLINE. -/
def HostCmd.deadline (h : HostCmd) : Nat := bits h.w0 127 96
/-- ITEM_ADDR. -/
def HostCmd.itemAddr (h : HostCmd) : Nat := bits h.w1 63 0
/-- N_ITEMS. -/
def HostCmd.items (h : HostCmd) : Nat := bits h.w1 74 64
/-- UL_SLOT or DL_SLOT. -/
def HostCmd.isSlot (h : HostCmd) : Bool := h.op == 1 || h.op == 2
/-- The command's place in its ring. -/
def HostCmd.ref (h : HostCmd) : CmdRef := (h.fn, h.ring, h.count)

/-- Word `k` of item `i` of a command, as its item table was read (R86). -/
def HostCmd.itemWord (h : HostCmd) (i k : Nat) : Nat := h.table.getD (4 * i + k) 0

/-- Items of a command whose table has been read. -/
def HostCmd.nRead (h : HostCmd) : Nat := h.table.length / 4

/-- `n` bytes at a host bus address meet a RESULT word of the command or, in an uplink command, a transport-block
buffer. -/
def HostCmd.writesAt (h : HostCmd) (a n : Nat) : Bool :=
  (List.range h.nRead).any fun i =>
    let res := h.w1 % 2 ^ 64 + 64 * i + 48
    let buf := h.itemWord i 1 / 2 ^ 64
    (res < a + n && a < res + 16)
      || (h.w0 % 256 == 1 && buf < a + n && a < buf + h.itemWord i 2 % 2 ^ 32)

/-- A write to host memory is discarded: after a PCIe reset, while its drain runs; and where it is the result or the
uplink buffer of a command whose ring has been reset (R56, R99). -/
def Chip.hostDrops (c : Chip) (a n : Nat) : Bool :=
  c.dev.pcieDiscard || c.hif.inflight.any fun h => h.discard && h.writesAt a n

/-- Write to host memory at a bus address; nothing is written at or above the top of the window (R31), nor what a reset
discards. -/
def Chip.hostWrite (c : Chip) (a : Nat) (l : List Byte) : Chip :=
  if a + l.length ≤ hostTop && !c.hostDrops a l.length then c.wrBytes (hostBase + a) l else c

/-- Read host memory at a bus address. -/
def Chip.hostRead (c : Chip) (a n : Nat) : Nat := c.rdBytes (hostBase + a) n

/-! ## Answers to packets -/

/-- The answer to a request of a PLR region's fabric master, while the region is LOADED or DRAINING (R415, R418): status,
data and poison wires. -/
def Chip.plrAnswer (c : Chip) (r : Nat) (st : Status) (data poison : Nat) : Chip :=
  if c.rd F.PLR_REGION_STAT_STATE r = 4 || c.rd F.PLR_REGION_STAT_STATE r = 1 then
    ((c.emit (.plr r "M_STATUS" st.code)).emit (.plr r "M_DATA" data)).emit (.plr r "M_POISON" poison)
  else c

/-- A request packet is answered: by a response packet, or at the requester whose access went as a packet; a message is not
answered (R361). A Clothesline entry whose write is refused is counted (R347); the management port's read returns on I²C
(R506). -/
def Chip.answer (c : Chip) (k : Pkt) (st : Status) (data poison : Nat) : Chip :=
  match k.op, k.by_ with
  | .rd, some (.plr r) => c.plrAnswer r st data poison
  | .wr, some (.plr r) => c.plrAnswer r st 0 0
  | .wr, some .clothesline => c.when (st != .ok) fun c => c.incSat F.SCHED_CL_CNT_BAD
  | .rd, some .mgmt => (c.emit (.i2c st.code data poison)).withPort { c.port with i2cLast := st }
  | .rd, some q =>
    if c.hostShut q then c.emit (.tlp "unsupported request") else c.emit (.readData q data st poison)
  | .wr, some q => c.report q st
  | .rd, none => c.withFab { c.fab with rsp := c.fab.rsp ++ [⟨k.src, k.txn, st, data, poison⟩] }
  | .wr, none => c.withFab { c.fab with rsp := c.fab.rsp ++ [⟨k.src, k.txn, st, 0, 0⟩] }
  | _, _ => c

/-- A request the router answers itself (R29, R368, R369): a read gets a poisoned zero word. -/
def Chip.absorb (c : Chip) (k : Pkt) (st : Status) : Chip := c.answer k st 0 0xFF

/-! ## Rings of the host interface -/

/-- Ring numbers within a function: command 0–7, completion 8–15, event 16 (R95). -/
abbrev cplRing (n : Nat) : Nat := 8 + n
abbrev evRing : Nat := 16

/-- Extra state of a ring. -/
def Chip.ringX (c : Chip) (f r : Nat) : RingX := Tbl.get c.hif.rings (f * 32 + r) {}

/-- Set the extra state of a ring. -/
def Chip.setRingX (c : Chip) (f r : Nat) (x : RingX) : Chip :=
  c.withHif { c.hif with rings := Tbl.set c.hif.rings (f * 32 + r) x {} }

/-- Entries of a ring (R80). -/
def Chip.ringSize (c : Chip) (f r : Nat) : Nat := 2 ^ c.rd F.RING_CFG_LOG2_SIZE f r

/-- Host bus address of entry `n` of a ring whose entries are `bytes` long. -/
def Chip.ringEntry (c : Chip) (f r n bytes : Nat) : Nat :=
  c.rd F.RING_BASE_BASE f r * 4096 + n % c.ringSize f r * bytes

/-- PHASE of the entry written at count `n`: 1 in the first pass, alternating (R91). -/
def Chip.ringPhase (c : Chip) (f r n : Nat) : Nat := (n / c.ringSize f r + 1) % 2

/-- Entries written and not yet consumed, for completion and event rings. -/
def Chip.ringUsed (c : Chip) (f r : Nat) : Nat :=
  cntSub (c.rd F.RING_PTR_DEV_COUNT f r) (c.rd F.RING_PTR_HOST_COUNT f r)

/-- An MSI-X vector fires: its pending bit while it is masked, else the message (R97). -/
def Chip.fireVector (c : Chip) (f v : Nat) : Chip :=
  let m := Tbl.get c.hif.msix (f * 32 + v) {}
  if m.masked then c.withHif { c.hif with msix := Tbl.set c.hif.msix (f * 32 + v) { m with pending := true } {} }
  else c.emit (.msix f v)

/-- One entry counted towards a ring's interrupt (R97): the window starts at the first, and the vector fires when
COAL_COUNT of them (0 acting as 1) have been written. -/
def Chip.coalesce (c : Chip) (f r : Nat) : Chip :=
  let x := c.ringX f r
  let n := x.coalN + 1
  if max 1 (c.rd F.RING_CFG_COAL_COUNT f r) ≤ n then
    (c.setRingX f r { x with coalN := 0, coalTick := 0 }).fireVector f (c.rd F.RING_CFG_VECTOR f r)
  else c.setRingX f r { x with coalN := n, coalTick := if x.coalN = 0 then c.tick else x.coalTick }

/-- Write an entry of 32 bytes to a completion or event ring and advance its count (R91). -/
def Chip.writeEntry (c : Chip) (f r : Nat) (word0 word1 : Nat) : Chip :=
  let n := c.rd F.RING_PTR_DEV_COUNT f r
  let c := c.hostWrite (c.ringEntry f r n 32) (toBytes 16 (word0 + c.ringPhase f r n * 256) ++ toBytes 16 word1)
  c.incMod F.RING_PTR_DEV_COUNT f r

/-! ## Events -/

/-- Event types of R95. -/
abbrev evMode : Nat := 1
abbrev evRingError : Nat := 2
abbrev evLost : Nat := 3
abbrev evBucket : Nat := 4
abbrev evPoison : Nat := 5
abbrev evIsolated : Nat := 6
abbrev evLink : Nat := 7
abbrev evStorm : Nat := 8
abbrev evShedStage : Nat := 9
abbrev evThermal : Nat := 10
abbrev evCal : Nat := 11
abbrev evAccess : Nat := 12

/-- Sources of R95: control-window index of the reporting block. -/
abbrev srcDev : Nat := 0
abbrev srcHif : Nat := 1
abbrev srcSched : Nat := 2
abbrev srcFab : Nat := 3
abbrev srcMem : Nat := 4
abbrev srcInteg : Nat := 5
abbrev srcPwr : Nat := 6
abbrev srcCal : Nat := 10
abbrev srcBrx : Nat := 11
abbrev srcCode : Nat := 12
abbrev srcPlr : Nat := 13
abbrev srcEth : Nat := 14
abbrev srcSens : Nat := 15
abbrev srcAch : Nat := 0x10
abbrev srcEcv : Nat := 0x20
abbrev srcAe : Nat := 0x30
abbrev srcClu : Nat := 0x40

/-- Word 0 of an event entry without its PHASE bit (R95). -/
def eventWord (st : Status) (src type tick detail : Nat) : Nat :=
  st.code + 1 * 2 ^ 12 + src * 2 ^ 16 + type * 2 ^ 24 + tick % tickMod * 2 ^ 32 + detail % 2 ^ 64 * 2 ^ 64

/-- Write EVENTS_LOST into a free entry of an event ring that lost events (R96). -/
def Chip.postLost (c : Chip) (f : Nat) : Chip :=
  let x := c.ringX f evRing
  if x.lost ≠ 0 && c.flag F.RING_CFG_ENABLE f evRing && c.ringUsed f evRing < c.ringSize f evRing then
    let c := c.writeEntry f evRing (eventWord .ok srcHif evLost c.tick (x.lost % 2 ^ 32)) 0
    (c.setRingX f evRing { c.ringX f evRing with lost := 0 }).coalesce f evRing
  else c

/-- Post an event with a tick of its own on one function's event ring (R95, R96): it never waits; one that finds the
ring full is lost and counted. -/
def Chip.postTick (c : Chip) (f : Nat) (st : Status) (src type tick detail detail2 : Nat) : Chip :=
  if !c.flag F.RING_CFG_ENABLE f evRing then c
  else
    let c := c.postLost f
    if c.ringUsed f evRing < c.ringSize f evRing then
      (c.writeEntry f evRing (eventWord st src type tick detail) (detail2 % 2 ^ 64)).coalesce f evRing
    else
      let x := c.ringX f evRing
      ((c.incSat F.RING_STAT_LOST f evRing).wr F.RING_STAT_OVERFLOW 1 f evRing).setRingX f evRing
        { x with lost := x.lost + 1 }

/-- Post an event that happens now. -/
def Chip.postTo (c : Chip) (f : Nat) (st : Status) (src type detail detail2 : Nat) : Chip :=
  c.postTick f st src type c.tick detail detail2

/-- Post an event on the PF event ring, where every type other than MODE and the ring events goes (R95). -/
def Chip.post (c : Chip) (st : Status) (src type detail detail2 : Nat) : Chip := c.postTo 0 st src type detail detail2

/-- Post an event to every function with an enabled event ring, as MODE events are (R95). -/
def Chip.postAll (c : Chip) (st : Status) (src type detail detail2 : Nat) : Chip :=
  (List.range 64).foldl (fun c f => c.postTo f st src type detail detail2) c

/-- The MODE event (R95): mode after the event, mode of the request, whether hardware asked, TRANS_COUNT. -/
def Chip.postMode (c : Chip) (st : Status) (reqMode : Nat) (hw : Bool) : Chip :=
  c.postAll st srcDev evMode
    (c.mode + reqMode * 8 + b2n hw * 64 + c.rd F.DEV_MODE_TRANS_COUNT * 256) 0

/-- The POISON_CONSUMED event (R408): unit (0x7FF for a block that is no unit), block index, kind, address. -/
def Chip.postPoison (c : Chip) (unit src kind addr : Nat) : Chip :=
  c.post .poisoned src evPoison (unit % 2 ^ 11 + src * 2 ^ 16 + kind * 2 ^ 24) (addr % 2 ^ 48)

/-- A service command ends with a status (R89–R92). -/
def Chip.finishCmd (c : Chip) (ref : Option CmdRef) (s : Status) : Chip :=
  match ref with
  | none => c
  | some (f, r, n) =>
    c.withHif { c.hif with
      inflight := c.hif.inflight.map fun (h : HostCmd) =>
        if h.fn = f ∧ h.ring = r ∧ h.count = n then { h with stage := .finished, status := s, cond := s.mask } else h }

end Sys2Proof.Machine
end

