-- ==== Sys2Proof/Machine/Power.lean ====
section
/-! DEFINITION. Power domains (spec/18_power.md R448–R459): locks, requests, transitions and the pending slot, and the
queue of Mangle ramps. The commands of the power controller are in Machine/PowerCmds.lean. -/
namespace Sys2Proof.Machine

/-- Power-domain states of R449 by code. -/
abbrev dOn : Nat := 0
abbrev dGated : Nat := 1
abbrev dRetain : Nat := 2
abbrev dOff : Nat := 3

/-- State of domain `d`. -/
def Chip.domState (c : Chip) (d : Nat) : Nat := c.rd F.PWR_DOM_STAT_STATE d

/-- PLL that feeds a domain's clocks (R493). -/
def pllOf (d : Nat) : Nat :=
  if d < 8 then 2 else if d < 16 then 3 else if d < 25 then 4 else if d < 33 then 1 else if d < 37 then 5
  else if d < 39 then 1 else if d < 47 then 5 else if d < 49 then 6 else if d < 53 then 9 else if d < 61 then 11
  else if d = 61 then 7 else if d = 62 then 10 else 5

/-- A domain's clocks run: it is ON and its PLL is locked (R449, R495). -/
def Chip.domRuns (c : Chip) (d : Nat) : Bool := c.domState d == dOn && bit (c.rd F.CLK_PLL_STAT_LOCK) (pllOf d)

/-- Extra state of domain `d`. -/
def Chip.domX (c : Chip) (d : Nat) : DomX := Tbl.get c.pwr.doms d {}

/-- Set the extra state of domain `d`. -/
def Chip.setDomX (c : Chip) (d : Nat) (x : DomX) : Chip :=
  c.withPwr { c.pwr with doms := Tbl.set c.pwr.doms d x {} }

/-- Domains that stage S5 locks (R456, R463). -/
def shedLockable (d : Nat) : Bool := d ≤ 36 || d == 38

/-- The lock in force on a domain by the precedence of R456: 3 fuse, 2 policy, 1 shed, 0 none. A policy lock on domains
61–63 has no effect (R451). -/
def Chip.lockWanted (c : Chip) (d : Nat) : Nat :=
  if bit c.pwr.fuseOff d && d < 61 then 3
  else if c.flag F.PWR_DOM_CFG_POLICY_LOCK d && d < 61 then 2
  else if c.flag F.SCHED_STAT_S5_HALT && shedLockable d && c.rd F.PWR_SHED_STAGE_STAGE == 5 && !c.pwr.lockWait then 1
  else 0

/-- The state a lock holds a domain in (R456). -/
def lockState (src cur : Nat) : Nat := if src = 1 then (if cur ≤ dGated then dGated else cur) else dOff

/-- The domain is locked. -/
def Chip.domLocked (c : Chip) (d : Nat) : Bool := c.rd F.PWR_DOM_STAT_LOCK_SRC d != 0

/-- Queue a ramp; the queue holds 128 (R459). -/
def Chip.queueRamp (c : Chip) (r : Ramp) : Chip := c.withPwr { c.pwr with ramps := c.pwr.ramps ++ [r] }

/-- Record a held request for a domain (R454, R455); the software request it displaces is counted, with its state. -/
def Chip.domHold (c : Chip) (d st : Nat) (hw : Bool) : Chip :=
  let c := c.when (c.flag F.PWR_DOM_PEND_PEND_VALID d && !c.flag F.PWR_DOM_PEND_HW_PEND d) fun c =>
    (c.incSat F.PWR_DOM_PEND_SUPERSEDED_CNT d).wr F.PWR_DOM_PEND_LAST_SUPERSEDED (c.rd F.PWR_DOM_PEND_PEND_STATE d) d
  let c := c.wr F.PWR_DOM_PEND_PEND_VALID 1 d
  let c := c.setFlag F.PWR_DOM_PEND_HW_PEND hw d
  let c := c.wr F.PWR_DOM_PEND_PEND_STATE st d
  c.setFlag F.PWR_DOM_STAT_ENABLE_PENDING (st == dOn && c.rd F.PWR_DOM_STAT_TARGET d != dOn) d

/-- Record a rejected request for a domain. -/
def Chip.domReject (c : Chip) (d st : Nat) (s : Status) : Chip :=
  (c.wr F.PWR_DOM_PEND_LAST_REJECT_STATUS s.code d).wr F.PWR_DOM_PEND_LAST_REJECT_STATE st d

/-- Send the two links of front-end group `g` into low power (R462). -/
def Chip.linksToLp (c : Chip) (d : Nat) : Chip :=
  if 25 ≤ d && d ≤ 32 then
    [2 * (d - 25), 2 * (d - 25) + 1].foldl (fun c l =>
      (c.withEcv { c.ecv with lpReq := (c.ecv.lpReq.filter (· != l)) ++ [l] })) c
  else c

/-- Start a transition of domain `d` to state `st` (R453). Leaving ON for a lower state first waits for idle unless
`now`; going to a shallower state other than ON is a wake to ON followed by the entry. -/
def Chip.domStart (c : Chip) (d st : Nat) (now : Bool) : Chip :=
  let cur := c.domState d
  let c := (c.wr F.PWR_DOM_STAT_TARGET st d).wr F.PWR_DOM_STAT_IN_TRANSITION 1 d
  if st < cur then
    let c := c.setDomX d { c.domX d with ramped := false, next := if st = dOn then none else some st }
    c.queueRamp ⟨some d, true⟩
  else if cur = dOn && !now then
    ((c.setDomX d { c.domX d with ramped := false, next := none }).wr F.PWR_DOM_STAT_IDLE_WAIT 1 d).linksToLp d
  else
    (c.setDomX d { c.domX d with ramped := false, next := none }).queueRamp ⟨some d, false⟩

/-- A request for domain `d` to take state `st`, from hardware or software (R451, R453–R456); the status says how it was
taken. -/
def Chip.domReq (c : Chip) (d st : Nat) (hw : Bool) : Chip × Status :=
  if c.domLocked d then (c.domReject d st .domainOff, .domainOff)
  else if 61 ≤ d && st ≠ dOn then (c.domReject d st .accessDenied, .accessDenied)
  else if !hw && c.flag F.PWR_DOM_PEND_PEND_VALID d && c.flag F.PWR_DOM_PEND_HW_PEND d then
    (c.domReject d st .accessDenied, .accessDenied)
  else if c.flag F.PWR_DOM_STAT_IN_TRANSITION d then (c.domHold d st hw, .ok)
  else if st = c.domState d then (c.wr F.PWR_DOM_STAT_LAST_STATUS 0 d, .ok)
  else if 128 ≤ c.pwr.ramps.length then (c.domHold d st hw, .ok)
  else (c.domStart d st false, .ok)

/-- A hardware wake of domain `d` (R455); nothing where the domain is ON and stays so. Made during a transition, whatever
its target, it takes the pending slot. -/
def Chip.hwWake (c : Chip) (d : Nat) : Chip :=
  if c.domState d = dOn && !c.flag F.PWR_DOM_STAT_IN_TRANSITION d then c
  else if c.domLocked d then c
  else (c.domReq d dOn true).1

/-- Bring the lock of a domain up to date (R456): a lock that takes effect rejects the held request and takes the domain
to its lock state at once, without idle wait, or when the transition in progress completes; a released shed lock gives
the domain back the state it held. -/
def Chip.domRelock (c : Chip) (d : Nat) : Chip :=
  let want := c.lockWanted d
  let have_ := c.rd F.PWR_DOM_STAT_LOCK_SRC d
  if want = have_ then c
  else if want = 0 then
    let c := c.wr F.PWR_DOM_STAT_LOCK_SRC 0 d
    match (c.domX d).saved with
    | none => c
    | some st =>
      let c := c.setDomX d { c.domX d with saved := none }
      if c.flag F.PWR_DOM_STAT_IN_TRANSITION d then c.domHold d st true
      else if c.domState d = st then c else c.domStart d st true
  else if c.flag F.PWR_DOM_STAT_IN_TRANSITION d && !c.flag F.PWR_DOM_STAT_IDLE_WAIT d then c
  else
    let cur := c.domState d
    let c := c.wr F.PWR_DOM_STAT_IDLE_WAIT 0 d
    let c := c.wr F.PWR_DOM_STAT_IN_TRANSITION 0 d
    let c := c.wr F.PWR_DOM_STAT_TARGET cur d
    let c := c.when (c.flag F.PWR_DOM_PEND_PEND_VALID d) fun c =>
      ((c.domReject d (c.rd F.PWR_DOM_PEND_PEND_STATE d) .domainOff).wr F.PWR_DOM_PEND_PEND_VALID 0 d).wr
        F.PWR_DOM_STAT_ENABLE_PENDING 0 d
    let c := c.when (want == 1 && have_ == 0) fun c => c.setDomX d { c.domX d with saved := some cur }
    let c := c.wr F.PWR_DOM_STAT_LOCK_SRC want d
    let st := lockState want cur
    if st = cur then c else c.domStart d st true

/-- Evaluate the held request of a domain after a transition (R454). -/
def Chip.domEval (c : Chip) (d : Nat) : Chip :=
  let c := c.domRelock d
  if c.flag F.PWR_DOM_PEND_PEND_VALID d && !c.flag F.PWR_DOM_STAT_IN_TRANSITION d then
    let st := c.rd F.PWR_DOM_PEND_PEND_STATE d
    let hw := c.flag F.PWR_DOM_PEND_HW_PEND d
    let c := (c.clrFields [F.PWR_DOM_PEND_PEND_VALID, F.PWR_DOM_PEND_HW_PEND, F.PWR_DOM_PEND_PEND_STATE] d).wr
      F.PWR_DOM_STAT_ENABLE_PENDING 0 d
    (c.domReq d st hw).1
  else c

/-- A transition of domain `d` ends in state `st` with a status (R453, R454). -/
def Chip.domEnd (c : Chip) (d st : Nat) (s : Status) : Chip :=
  let c := (c.wr F.PWR_DOM_STAT_STATE st d).wr F.PWR_DOM_STAT_TARGET st d
  let c := (c.wr F.PWR_DOM_STAT_IN_TRANSITION 0 d).wr F.PWR_DOM_STAT_IDLE_WAIT 0 d
  let c := c.wr F.PWR_DOM_STAT_LAST_STATUS s.code d
  c.setDomX d { c.domX d with ramped := false, next := none }

/-- Domain of a unit address (R25, R448): `phys` gives the physical Press of a logical one, `region` the region of a PLR
task port. -/
def unitDomain (phys region : Nat → Nat) (u : Nat) : Nat :=
  if u < 256 then u / 16
  else if u < 0x110 then 16 + phys (u - 0x100)
  else if u < 0x114 then 33
  else if u < 0x118 then 34
  else if u < 0x11A then 35
  else if u < 0x11C then 36
  else 53 + region (u - 0x120)

end Sys2Proof.Machine
end

