-- ==== Sys2Proof/Machine/Signal.lean ====
section
/-! DEFINITION. Arithmetic of complex samples (spec/00_scope.md R9–R12; R111, R145, R161, R165, R166): products with rounding
and saturation, block-floating-point groups, attenuation in decibels, ramp weights, the pseudo-random generators. -/
namespace Sys2Proof.Machine

/-! ## Complex values -/

/-- A complex value: real part, imaginary part. -/
abbrev Cx := Int × Int

/-- Sum. -/
def cxAdd (a b : Cx) : Cx := (a.1 + b.1, a.2 + b.2)

/-- Difference. -/
def cxSub (a b : Cx) : Cx := (a.1 - b.1, a.2 - b.2)

/-- Conjugate. -/
def cxConj (a : Cx) : Cx := (a.1, -a.2)

/-- Exact product. -/
def cxProd (a b : Cx) : Cx := (a.1 * b.1 - a.2 * b.2, a.1 * b.2 + a.2 * b.1)

/-- Both parts saturated to `w` bits (R12). -/
def cxSat (w : Nat) (a : Cx) : Cx := (satS w a.1, satS w a.2)

/-- `n` fraction bits dropped from both parts, rounding half up (R11). -/
def cxRound (n : Nat) (a : Cx) : Cx := (roundDrop n a.1, roundDrop n a.2)

/-- Product with a factor of `n` fraction bits as an internal sample, ce24 (R145). -/
def cxScale (n : Nat) (a b : Cx) : Cx := cxSat 24 (cxRound n (cxProd a b))

/-- Squared magnitude. -/
def cxMag (a : Cx) : Nat := (a.1 * a.1 + a.2 * a.2).toNat

/-- The complex value in `2w` bits: real part in the lower half. -/
def cxOf (w v : Nat) : Cx := (sx w v, sx w (v / 2 ^ w))

/-- A complex value in `2w` bits. -/
def cxBits (w : Nat) (a : Cx) : Nat := toBits w a.1 + toBits w a.2 * 2 ^ w

/-- Four ce16 values in each word. -/
def packWords (n : Nat) (f : Nat → Nat) : List Nat :=
  (List.range ((n + 3) / 4)).map fun k =>
    (List.range 4).foldr (fun j acc => acc * 2 ^ 32 + (if 4 * k + j < n then f (4 * k + j) % 2 ^ 32 else 0)) 0

/-- The first `n` ce16 values of a list of words. -/
def unpackWords (n : Nat) (ws : List Nat) : List Cx :=
  (List.range n).map fun k => cxOf 16 (ws.getD (k / 4) 0 / 2 ^ (32 * (k % 4)))

/-- The corrections of R166: x + β × conj(x), β in Q1.15, rounded once. -/
def iqCorrect (beta : Nat) (x : Cx) : Cx :=
  cxSat 24 (cxRound 15 (cxAdd (x.1 * 2 ^ 15, x.2 * 2 ^ 15) (cxProd (cxOf 16 beta) (cxConj x))))

/-! ## Sample groups (R111) -/

/-- Bits of one antenna in a group. -/
def antBits (mant : Nat) : Nat := if mant = 0 then 512 else 4 + 32 * mant

/-- Bits of a group at a mantissa width. -/
def groupBits (mant : Nat) : Nat := if mant = 0 then 8192 else 16 * (4 + 32 * mant)

/-- Sample `k` of antenna `ant` of a group: mantissa × 2^E, or 16-bit values without an exponent. -/
def groupSample (mant data ant k : Nat) : Cx :=
  let v := data / 2 ^ (antBits mant * ant)
  if mant = 0 then cxOf 16 (v / 2 ^ (32 * k))
  else
    let a := cxOf mant (v / 2 ^ (4 + 2 * mant * k))
    (a.1 * 2 ^ (v % 16), a.2 * 2 ^ (v % 16))

/-- The smallest exponent, up to 15, at which every part of some samples, rounded, fits `mant` bits: the spec states how a
group is read, not which exponent a sender chooses (DESIGN CHOICE, log entry 75). -/
def groupExp (mant : Nat) (xs : List Cx) : Nat :=
  ((List.range 15).find? fun e => xs.all fun x => cxSat mant (cxRound e x) == cxRound e x).getD 15

/-- One antenna of a group: its exponent and 16 mantissa pairs, or 16-bit values. -/
def antGroup (mant : Nat) (xs : List Cx) : Nat :=
  let put (w : Nat) (l : List Cx) : Nat := l.foldr (fun x acc => cxBits w x + acc * 2 ^ (2 * w)) 0
  if mant = 0 then put 16 (xs.map (cxSat 16))
  else
    let e := groupExp mant xs
    e + 16 * put mant (xs.map fun x => cxSat mant (cxRound e x))

/-- A group of sixteen antennas, antenna 0 lowest. -/
def groupOf (mant : Nat) (ants : List (List Cx)) : Nat :=
  ants.foldr (fun xs acc => antGroup mant xs + acc * 2 ^ antBits mant) 0

/-! ## Decibels -/

/-- `y` − ½ is at most (`strict`: below) `x` × 10^(−a / 200). -/
def attFits (strict : Bool) (a : Int) (x y : Nat) : Bool :=
  let l := (2 * y - 1) ^ 200 * 10 ^ a.toNat
  let r := (2 * x) ^ 200 * 10 ^ (-a).toNat
  if strict then l < r else l ≤ r

/-- The largest `y` below `acc` + 2^`n` for which `attFits` holds. -/
def attSearch (strict : Bool) (a : Int) (x acc n : Nat) : Nat :=
  match n with
  | 0 => acc
  | m + 1 => attSearch strict a x (if attFits strict a x (acc + 2 ^ m) then acc + 2 ^ m else acc) m

/-- A value attenuated by `a` tenths of a decibel, amplified for a negative `a`, rounded half up (R11, R145, R177). -/
def attenuate (a : Int) (x : Int) : Int :=
  if a = 0 then x
  else if 0 ≤ x then attSearch false a x.toNat 0 44 else -(attSearch true a (-x).toNat 0 44 : Int)

/-- `m` − ½ is at most 80 × log10 (num / den). -/
def dbFits (num den : Nat) (m : Int) : Bool :=
  den ^ 160 * 10 ^ (2 * m - 1).toNat ≤ num ^ 160 * 10 ^ (1 - 2 * m).toNat

/-- The largest `m` below `acc` + 2^`n` for which `dbFits` holds. -/
def dbSearch (num den : Nat) (acc : Int) (n : Nat) : Int :=
  match n with
  | 0 => acc
  | k + 1 => dbSearch num den (if dbFits num den (acc + 2 ^ k) then acc + 2 ^ k else acc) k

/-- A ratio of powers in eighths of a decibel, rounded half up, as 16 bits hold it; what the logarithm of 0 gives is not
stated. -/
def dbEighths (num den : Nat) : Int :=
  if num = 0 || den = 0 then (Config.levelOfZero).toInt else satS 16 (dbSearch num den (-32769) 17)

/-- A magnitude is more than full scale, 32,767, less `d` tenths of a decibel, exactly: |x|² × 10^(d / 100) > 32,767². -/
def overLevel (d : Int) (x : Cx) : Bool :=
  if 0 ≤ d then 32767 ^ 200 < cxMag x ^ 100 * 10 ^ d.toNat else 32767 ^ 200 * 10 ^ (-d).toNat < cxMag x ^ 100

/-- A value at most full scale less `d` tenths of a decibel: itself, or attenuated by the least number of tenths that takes
it there. -/
def heldTo (d : Int) (x : Cx) : Cx :=
  ((List.range 2048).map fun (a : Nat) => (attenuate a x.1, attenuate a x.2)).find? (fun y => !overLevel d y) |>.getD (0, 0)

/-! ## Ramps (R161) -/

/-- π in units of 2^-64. -/
abbrev piFix : Nat := 57952155664616982739

/-- Terms of the series of the cosine from `k` on, in units of 2^-64; `t` is the term before, `x2` the squared angle. -/
def cosTail (n k : Nat) (t x2 : Int) : Int :=
  match n with
  | 0 => 0
  | m + 1 =>
    let u := -(t * x2 / 2 ^ 64) / ((2 * k - 1) * (2 * k) : Nat)
    u + cosTail m (k + 1) u x2

/-- Cosine of an angle in units of 2^-64. -/
def cosFix (x : Nat) : Int := 2 ^ 64 + cosTail 24 1 (2 ^ 64) ((x * x : Nat) / 2 ^ 64)

/-- Cosine of `q` / 32 of a turn, in units of 2^-64. -/
def cosTurn (q : Nat) : Int := cosFix (piFix * (let r := q % 32; if r ≤ 16 then r else 32 - r) / 16)

/-- exp(−j2π q / 32), in units of 2^-64. -/
def turnBack (q : Nat) : Cx := (cosTurn q, -cosTurn (q + 24))

/-- Weight `n` of a ramp of `len` samples, Q1.15: 0.5 × (1 − cos(π(n + 0.5) / len)), rounded half up; a weight that rounds to
1.0, which Q1.15 does not hold, is the largest value it holds (DESIGN CHOICE, log entry 77). -/
def rampWeight (len n : Nat) : Int := satS 16 (roundDrop 50 (2 ^ 64 - cosFix (piFix * (2 * n + 1) / (2 * len))))

/-- A sample times a ramp weight. -/
def rampScale (w : Int) (x : Cx) : Cx := cxRound 15 (x.1 * w, x.2 * w)

/-! ## Generators -/

/-- The generator x^15 + x^14 + 1 from state `st`: `n` bits, first bit lowest (R128, R241; log entry 76). -/
def prbs15 (n st : Nat) : Nat :=
  match n with
  | 0 => 0
  | m + 1 =>
    let o := (st / 2 ^ 14 + st / 2 ^ 13) % 2
    o + 2 * prbs15 m (st * 2 % 2 ^ 15 + o)

/-- `n` bits of alternating 0 and 1, first bit lowest (R128). -/
def alternating (n : Nat) : Nat := (List.range n).foldl (fun acc k => if k % 2 = 1 then acc + 2 ^ k else acc) 0

end Sys2Proof.Machine
end

