-- ==== Sys2Proof/Machine/Time.lean ====
section
/-! DEFINITION. The timing unit (spec/17_ethernet_timing.md R439–R447): valid sources and their selection, steps of the
tick counter, distance in the ring. The commands are in Machine/TimeCmds.lean. -/
namespace Sys2Proof.Machine

/-! ## Sources (R439, R443) -/

/-- The Ethernet port exists in the configuration (R427). -/
def Chip.ethPort (c : Chip) (q : Nat) : Bool := q < 4 || (q < 16 && c.rd F.ETH_CFG_MODE == 1)

/-- Power domain of a port's group. -/
def Chip.ethDomain (c : Chip) (q : Nat) : Nat := 49 + (if c.rd F.ETH_CFG_MODE = 1 then q / 4 else q)

/-- The port runs: out of BYPASS, its group's clocks running, its link up (R429). -/
def Chip.ethRuns (c : Chip) (q : Nat) : Bool :=
  c.mode != mBypass && c.ethPort q && c.domRuns (c.ethDomain q) && c.flag F.ETH_PORT_STAT_LINK_UP q

/-- PTP is a valid source: a port is in state SLAVE. -/
def Chip.ptpValid (c : Chip) : Bool :=
  (c.rd F.TIME_PTP_CFG_PROFILE == 1 || c.rd F.TIME_PTP_CFG_PROFILE == 2)
    && (List.range 16).any fun q =>
      c.flag F.ETH_PORT_CFG_ROLE_PTP q && c.rd F.TIME_PTP_PORT_PORT_STATE q == 9 && c.ethRuns q

/-- PPS_IN is a valid source. -/
def Chip.ppsValid (c : Chip) : Bool := c.flag F.TIME_CTRL_PPS_IN_EN && c.time.ppsOk

/-- The member is a follower of its ring. -/
def Chip.follower (c : Chip) : Bool := c.rd F.TIME_SRC_CFG_ROLE == 2

/-- The ring is a valid source (R446). -/
def Chip.ringValid (c : Chip) : Bool := c.follower && c.rd F.TIME_RING_STAT_DIST < 31

/-- A phase source is valid: 1 PTP, 2 PPS_IN, 3 ring, the codes of PHASE_SRC. -/
def Chip.srcValid (c : Chip) (k : Nat) : Bool :=
  match k with | 1 => c.ptpValid | 2 => c.ppsValid | 3 => c.ringValid | _ => false

/-- Priority of a phase source; 0 is off. -/
def Chip.srcPrio (c : Chip) (k : Nat) : Nat :=
  match k with
  | 1 => c.rd F.TIME_SRC_CFG_PRIO_PTP | 2 => c.rd F.TIME_SRC_CFG_PRIO_PPS | 3 => c.rd F.TIME_SRC_CFG_PRIO_RING | _ => 0

/-- The phase source may be used: valid, with a priority. -/
def Chip.srcUsable (c : Chip) (k : Nat) : Bool := c.srcValid k && c.srcPrio k != 0

/-- The usable source of the highest priority, PTP before PPS_IN before the ring; 0 for none. -/
def Chip.bestSrc (c : Chip) : Nat :=
  ([1, 2, 3].filter c.srcUsable).foldl (fun b k => if b = 0 || c.srcPrio k < c.srcPrio b then k else b) 0

/-- The SyncE clock can be used (R439, R441): its QL is known and is not DNU. -/
def Chip.synceUsable (c : Chip) : Bool :=
  let q := c.rd F.TIME_SRC_CFG_SYNCE_PORT
  let ql := Tbl.get c.eth.ql q 0
  c.rd F.TIME_SRC_CFG_PRIO_SYNCE != 0 && c.flag F.ETH_PORT_CFG_ROLE_SYNCE q && c.ethRuns q && ql != 0 && ql != 16

/-- FREQ_SRC (R439). -/
def Chip.freqSrc (c : Chip) : Nat :=
  let osc := c.rd F.TIME_SRC_CFG_PRIO_10M != 0 && c.time.osc10m
  match c.rd F.TIME_STAT_PHASE_SRC with
  | 1 => if c.synceUsable then 3 else 5
  | 2 => if osc then 2 else 6
  | 3 => 4
  | _ => if c.rd F.TIME_STAT_STATE = 3 then (if osc then 2 else 1) else 0

/-- A phase source is selected; 0 for none. A loss from LOCKED is the entry to HOLDOVER, as is any later loss once a source
has been locked; before that it is the return to FREERUN. -/
def Chip.srcSelect (c : Chip) (k : Nat) : Chip :=
  let c := c.wr F.TIME_STAT_PHASE_SRC k
  if k ≠ 0 then c.wr F.TIME_STAT_STATE 1
  else if c.time.locked then
    if c.rd F.TIME_STAT_STATE = 3 then c
    else (c.wr F.TIME_STAT_STATE 3).withTime { c.time with holdBase := c.time.offset, holdTicks := 0 }
  else c.wr F.TIME_STAT_STATE 0

/-- The selection after a change of validity (R443): the source in use stays until it becomes invalid. -/
def Chip.timeEval (c : Chip) : Chip :=
  let cur := c.rd F.TIME_STAT_PHASE_SRC
  let c := if cur ≠ 0 && c.srcUsable cur then c
    else if cur = 0 && c.bestSrc = 0 then c
    else c.srcSelect c.bestSrc
  c.wr F.TIME_STAT_FREQ_SRC c.freqSrc

/-! ## Steering (R444) -/

/-- Ticks in an offset of nanoseconds, rounded (R11). -/
def nsTicks (ns : Int) : Int := roundDiv (ns * 3072) 100000

/-- Nanoseconds in 2^-10 ticks, rounded (R11). -/
def unitNs (u : Int) : Int := roundDiv (u * 100000) 3145728

/-! ## Time of day and frames (R445) -/

/-- TAI seconds at the GPS epoch, 1980-01-06 00:00:19 TAI. -/
abbrev gpsEpoch : Int := 315964819

/-- Ticks of a second and of a frame. -/
abbrev tickRate : Int := 30720000
abbrev frameLen : Int := 307200

/-- A time of day as 1/3,072 ns since the GPS epoch; a tick is 100,000 of them. -/
def sinceEpoch (sec ns : Nat) : Int := (((sec : Int) - gpsEpoch) * 1000000000 + ns) * 3072

/-- The ticks that the tick count goes beyond a time of day, at most half the count's range away from it. -/
def Chip.ticksPast (c : Chip) (sec ns : Nat) : Int := tickDiff c.tick (toBits 32 (sinceEpoch sec ns / 100000))

/-- Own time less a source's time of day in ns, the own tick having run `half` half nanoseconds (R442, R445). -/
def Chip.srcOffset (c : Chip) (sec ns half : Nat) : Int :=
  roundDiv ((c.ticksPast sec ns * 100000 - sinceEpoch sec ns % 100000) * 2 + half * 3072) 6144

/-- A source of time of day is taken: the tick count is continued beyond its 32 bits (R445). -/
def Chip.withTai (c : Chip) (sec ns : Nat) : Chip :=
  c.withTime { c.time with
    epoch := some ((sinceEpoch sec ns / 100000 + c.ticksPast sec ns - (c.tick : Int)) / (tickMod : Int)) }

/-- Ticks since the GPS epoch, where the time of day is known. -/
def Chip.taiTicks (c : Chip) : Option Int := c.time.epoch.map fun e => e * (tickMod : Int) + (c.tick : Int)

/-- TAI seconds now, where the time of day is known. -/
def Chip.taiSec (c : Chip) : Option Nat := c.taiTicks.map fun n => (gpsEpoch + n / tickRate).toNat

/-- The SFN of a frame that begins now (R445): in MODE 0 frames begin 307,200 ticks apart from the GPS epoch, in MODE 1 from
ORIGIN, and after its first frame the unit counts them itself; none where no frame begins. MODE 0 without a time of day
counts on from the present frame (log entry 82). -/
def Chip.sfnHere (c : Chip) : Option Nat :=
  let d : Option Int :=
    if c.rd F.TIME_FRAME_CFG_MODE = 1 then
      some (if c.time.counting then tickDiff c.tick c.ach.frameTick + c.rd F.TIME_FRAME_STAT_SFN * frameLen
        else tickDiff c.tick (c.rd F.TIME_FRAME_CFG_ORIGIN))
    else c.taiTicks.map fun n => n - sx 16 (c.rd F.TIME_FRAME_CFG_OFFSET)
  match d with
  | none => some ((c.rd F.TIME_FRAME_STAT_SFN + 1) % 1024)
  | some n => if n % frameLen = 0 then some (n / frameLen % 1024).toNat else none

/-- The tick counter is stepped by `d` ticks in one master cycle: Clothesline entries passed over become due and are counted
LATE, and every stamp taken before moves with the counter. -/
def Chip.tickStep (c : Chip) (d : Int) : Chip :=
  if d = 0 then c
  else
    let old := c.tick
    let shift (t : Nat) : Nat := toBits 32 ((t : Int) + d)
    let later (t : Nat) : Bool := 0 < d && 0 < tickDiff t old && tickDiff t old ≤ d
    let hit := (c.sched.cl.filter fun (e : ClEntry) => !e.due && later e.tick).length
    let hold := c.mode == mVerify || c.mode == mSoak
    let c := c.incSat F.SCHED_CL_CNT_LATE 0 0 hit
    let c := c.withTick (shift old)
    let c := c.withSched { c.sched with
      cl := c.sched.cl.map fun (e : ClEntry) =>
        if !e.due && later e.tick then { e with due := true, held := hold && e.kind == 0 && e.list < 48 } else e }
    let c := c.withEcv { c.ecv with
      links := c.ecv.links.map fun (e : Nat × LinkX) => (e.1, { e.2 with
        t1 := e.2.t1.map fun (p : Nat × Nat) => (p.1, toBits 32 ((p.2 : Int) + d * 1024))
        t4 := e.2.t4.map fun (p : Nat × Nat) => (p.1, toBits 32 ((p.2 : Int) + d * 1024))
        exch := e.2.exch.map fun (p : Int × Nat) => (p.1 - d * 1024, p.2) }) }
    c.withTime { c.time with
      ppsTick := c.time.ppsTick.map shift
      epoch := c.time.epoch.map fun e => e + ((old : Int) + d) / (tickMod : Int) }

/-- A new servo offset in ns, the own time less the source's: in RELAY and VERIFY one above 1 µs is stepped away. -/
def Chip.servo (c : Chip) (off : Int) : Chip :=
  if (c.mode == mRelay || c.mode == mVerify) && 1000 < off.natAbs then
    let d := nsTicks off
    (c.tickStep (-d)).withTime { (c.tickStep (-d)).time with offset := off - roundDiv (d * 100000) 3072 }
  else c.withTime { c.time with offset := off }

/-! ## Distance in the ring (R446) -/

/-- DIST of a ring port (0 ELW, 1 ELE) that counts: the last value below 31 seen in 4 messages in a row, while TT_VALID;
31 for none. -/
def Chip.distOf (c : Chip) (p : Nat) : Nat :=
  if c.flag F.ECV_RING_STAT_TT_VALID (16 + p) then min 31 (Tbl.get c.time.dist p (31, 0, 31)).2.2 else 31

/-- Own DIST. -/
def Chip.distOwn (c : Chip) : Nat :=
  match c.rd F.TIME_SRC_CFG_ROLE with
  | 1 => if c.rd F.TIME_STAT_STATE = 2 || c.rd F.TIME_STAT_STATE = 3 then 0 else 31
  | 2 => if c.flag F.TIME_RING_STAT_HOLD then 31 else min 31 (1 + min (c.distOf 0) (c.distOf 1))
  | _ => 31

/-- A follower without an upstream port selects one: the smaller distance, ELW on a tie. -/
def Chip.upSelect (c : Chip) : Chip :=
  let w := c.distOf 0
  let e := c.distOf 1
  if w = 31 && e = 31 then c
  else (c.wr F.TIME_RING_STAT_UP_VALID 1).wr F.TIME_RING_STAT_UPSTREAM (b2n (e < w))

/-- The ring after a change of TT_VALID, of a received distance or of the own state. -/
def Chip.ringEval (c : Chip) : Chip :=
  let up := c.rd F.TIME_RING_STAT_UPSTREAM
  let c :=
    if !c.follower || c.flag F.TIME_RING_STAT_HOLD then c.wr F.TIME_RING_STAT_UP_VALID 0
    else if c.flag F.TIME_RING_STAT_UP_VALID then
      if c.distOf up = 31 then (c.wr F.TIME_RING_STAT_UP_VALID 0).wr F.TIME_RING_STAT_HOLD 1
      else if c.distOf (1 - up) + 2 ≤ c.distOf up then c.wr F.TIME_RING_STAT_UPSTREAM (1 - up)
      else c
    else c.upSelect
  let c := c.wr F.TIME_RING_STAT_DIST c.distOwn
  let c := c.timeEval
  c.wr F.TIME_RING_STAT_DIST c.distOwn

/-- EXT of a TT_TICK sent on a link: 0 on a radio link; on a ring port the distance, 31 towards the upstream port, and in
bit 5 whether the root is in HOLDOVER. -/
def Chip.ttExt (c : Chip) (l : Nat) : Nat :=
  if l < 16 then 0
  else
    let up := c.follower && c.flag F.TIME_RING_STAT_UP_VALID
    let p := c.rd F.TIME_RING_STAT_UPSTREAM
    let d := if up && l = 16 + p then 31 else c.distOwn
    let hold := if c.rd F.TIME_SRC_CFG_ROLE = 1 then c.rd F.TIME_STAT_STATE == 3 else up && c.time.rootHold.contains p
    d + 32 * b2n hold

/-- A TT_TICK's EXT arrives on ring port `p`. -/
def Chip.ttDist (c : Chip) (p ext : Nat) : Chip :=
  let v := ext % 32
  let (last, n, acc) := Tbl.get c.time.dist p (31, 0, 31)
  let n := if v = last then min 4 (n + 1) else 1
  let acc := if v = 31 then 31 else if 4 ≤ n then v else acc
  let c := c.withTime { c.time with
    dist := Tbl.set c.time.dist p (v, n, acc) (31, 0, 31)
    rootHold := (c.time.rootHold.filter (· != p)) ++ (if bit ext 5 then [p] else []) }
  (if p = 0 then c.wr F.TIME_RING_STAT_DIST_W v else c.wr F.TIME_RING_STAT_DIST_E v).ringEval

/-- TT_VALID of a link is lost. -/
def Chip.ttLost (c : Chip) (l : Nat) : Chip :=
  let c := c.wr F.ECV_RING_STAT_TT_VALID 0 l
  if l < 16 then c
  else
    let c := c.withTime { c.time with dist := Tbl.erase c.time.dist (l - 16) }
    c.ringEval

/-- The link brings the time: a follower locks to the ring and this is its upstream port. -/
def Chip.ttMaster (c : Chip) (l : Nat) : Bool :=
  c.rd F.TIME_STAT_PHASE_SRC == 3 && c.flag F.TIME_RING_STAT_UP_VALID && l == 16 + c.rd F.TIME_RING_STAT_UPSTREAM

/-- Whole ticks from the upstream neighbour (R139, R447): its count at its last time-transfer frame against the own stamp
of that frame, which resolves the ticks beyond the 2^22 of the stamps. -/
def Chip.ttWhole (c : Chip) (l partner : Nat) : Chip :=
  match (Tbl.get c.ecv.links l {}).t4 with
  | some (_, stamp) =>
    let rx := tickAdd c.tick (tickMod - (c.tick + 2 ^ 22 - stamp / 1024 % 2 ^ 22) % 2 ^ 22)
    let k := (tickDiff rx partner + 2 ^ 21) / 2 ^ 22
    if c.ttMaster l && (c.mode == mRelay || c.mode == mVerify) && k ≠ 0 then c.tickStep (-(k * 2 ^ 22)) else c
  | none => c

end Sys2Proof.Machine
end

