-- ==== Sys2Proof/Machine/Ecv.lean ====
section
/-! DEFINITION. Ecrov links (spec/04_ecrov_links.md): frames, sideband messages, capability words, low power. The commands
of the links are in Machine/EcvCmds.lean. -/
namespace Sys2Proof.Machine

/-! ## Link state -/

/-- Link state beside the registers. -/
def Chip.link (c : Chip) (l : Nat) : LinkX := Tbl.get c.ecv.links l {}

/-- Set it. -/
def Chip.setLink (c : Chip) (l : Nat) (x : LinkX) : Chip :=
  c.withEcv { c.ecv with links := Tbl.set c.ecv.links l x {} }

/-- Change it. -/
def Chip.updLink (c : Chip) (l : Nat) (f : LinkX → LinkX) : Chip := c.setLink l (f (c.link l))

/-- Training states (R103). -/
abbrev lkOff : Nat := 0
abbrev lkDetect : Nat := 1
abbrev lkClkLock : Nat := 2
abbrev lkBitLock : Nat := 3
abbrev lkAlign : Nat := 4
abbrev lkCaps : Nat := 5
abbrev lkRateUp : Nat := 6
abbrev lkActive : Nat := 7
abbrev lkEidle : Nat := 8
abbrev lkSleep : Nat := 9
abbrev lkRetrain : Nat := 10
abbrev lkListen : Nat := 11
abbrev lkHold : Nat := 12

/-- Training state of a link. -/
def Chip.lkState (c : Chip) (l : Nat) : Nat := c.rd F.ECV_LINK_STAT_STATE l

/-- Set it. -/
def Chip.setLk (c : Chip) (l st : Nat) : Chip := c.wr F.ECV_LINK_STAT_STATE st l

/-- ACTIVE, or low power entered from it. -/
def Chip.lkUp (c : Chip) (l : Nat) : Bool := 7 ≤ c.lkState l && c.lkState l ≤ 9

/-- A radio link; ELW is 16, ELE 17 (R23). -/
def isRadio (l : Nat) : Bool := l < 16

/-- Power domain of a link: its front-end group, or the ring ports' domain (R448). -/
def linkDomain (l : Nat) : Nat := if l < 16 then 25 + l / 2 else 61

/-- A LINK event (R144). -/
def Chip.linkEvent (c : Chip) (l cause : Nat) (st : Status) (first last : Nat) : Chip :=
  c.post st srcEcv evLink
    (l + c.lkState l * 2 ^ 8 + c.rd F.ECV_LINK_STAT_VERSION l * 2 ^ 12 + c.rd F.ECV_LINK_STAT_WIDTH l * 2 ^ 16
      + cause * 2 ^ 20)
    (first % 2 ^ 32 + last % 2 ^ 32 * 2 ^ 32)

/-! ## Frames (R108–R110) -/

/-- Bits of payload of a lane in a frame. -/
abbrev laneBits : Nat := 8064

/-- The additive scrambler x^23 + x^18 + 1 on `n` bits, first bit lowest (R108; log entry 30). -/
def scramble (n v st : Nat) : Nat :=
  match n with
  | 0 => 0
  | m + 1 =>
    let o := st / 2 ^ 22 % 2
    let fb := (o + st / 2 ^ 17) % 2
    (v + o) % 2 + 2 * scramble m (v / 2) (st * 2 % 2 ^ 23 + fb)

/-- Payload of lane `lane` unscrambled. -/
def unscramble (lane v : Nat) : Nat := scramble laneBits v (0x555555 ^^^ lane)

/-- CRC-32 of IEEE 802.3 on `n` bits, first bit lowest, from a running remainder (log entry 30). -/
def crc32Run (n v r : Nat) : Nat :=
  match n with
  | 0 => r
  | m + 1 =>
    let x := (r + v) % 2
    crc32Run m (v / 2) (if x = 1 then r / 2 ^^^ 0xEDB88320 else r / 2)

/-- CRC-32 of `n` bits. -/
def crc32 (n v : Nat) : Nat := crc32Run n v 0xFFFFFFFF ^^^ 0xFFFFFFFF

/-- CRC-8 with polynomial 0x07 and initial value 0 over `n` bytes, lowest byte first, each from its high bit (log
entry 30). -/
def crc8Run (n v r : Nat) : Nat :=
  match n with
  | 0 => r
  | m + 1 =>
    let x := r ^^^ (v % 256)
    let step (a : Nat) : Nat := if bit a 7 then a * 2 % 256 ^^^ 7 else a * 2
    crc8Run m (v / 256) (step (step (step (step (step (step (step (step x))))))))

/-- CRC8 of a sideband message (R116). -/
def sbCrc (msg : Nat) : Nat := crc8Run 7 (msg % 2 ^ 56) 0

/-! ## Marker fields (R109) -/

/-- SYNC of every marker. -/
abbrev mkSync : Nat := 0x6D2B
/-- LANE of a marker. -/
def mkLane (m : Nat) : Nat := bits m 18 16
/-- ZF of a marker. -/
def mkZf (m : Nat) : Bool := bit m 19
/-- FRAME_SEQ of a marker. -/
def mkSeq (m : Nat) : Nat := bits m 31 20
/-- SB of a marker. -/
def mkSb (m : Nat) : Nat := bits m 63 32
/-- GROUP_SEQ of a marker. -/
def mkGroup (m : Nat) : Nat := bits m 75 64
/-- N_GROUPS of a marker. -/
def mkN (m : Nat) : Nat := bits m 79 76
/-- GROUP_OFFSET of a marker. -/
def mkOff (m : Nat) : Nat := bits m 95 80
/-- CRC of a marker. -/
def mkCrc (m : Nat) : Nat := bits m 127 96

/-- A marker put together from its fields. -/
def marker (lane : Nat) (zf : Bool) (seq sb group n off crc : Nat) : Nat :=
  mkSync + lane % 8 * 2 ^ 16 + b2n zf * 2 ^ 19 + seq % 2 ^ 12 * 2 ^ 20 + sb % 2 ^ 32 * 2 ^ 32 + group % 2 ^ 12 * 2 ^ 64
    + n % 16 * 2 ^ 76 + off % 2 ^ 16 * 2 ^ 80 + crc % 2 ^ 32 * 2 ^ 96

/-! ## Sideband messages (R116–R118) -/

/-- A message without SEQ and CRC8. -/
def sbMsg (cmd ant arg ext : Nat) : Nat :=
  cmd % 2 ^ 8 + ant % 2 ^ 4 * 2 ^ 12 + arg % 2 ^ 32 * 2 ^ 16 + ext % 2 ^ 8 * 2 ^ 48

/-- CMD of a message. -/
def sbCmd (m : Nat) : Nat := bits m 7 0
/-- SEQ of a message. -/
def sbSeq (m : Nat) : Nat := bits m 11 8
/-- ANT of a message. -/
def sbAnt (m : Nat) : Nat := bits m 15 12
/-- ARG of a message. -/
def sbArg (m : Nat) : Nat := bits m 47 16
/-- EXT of a message. -/
def sbExt (m : Nat) : Nat := bits m 55 48

/-- Commands that are acknowledged (R117). -/
def sbAcked (m : Nat) : Bool := (0x10 ≤ sbCmd m && sbCmd m ≤ 0x14) || sbCmd m == 0x16

/-- Timed commands: ARG is the tick at which they take effect (R117). -/
def sbTimed (m : Nat) : Bool :=
  sbCmd m == 0x10 || sbCmd m == 0x11 || sbCmd m == 0x13 || (sbCmd m == 0x12 && bit (sbExt m) 1)

/-- Place of a waiting command: timed ones first, earliest tick first, the others in the order queued (R118). -/
def sbInsert (q : List Nat) (m : Nat) : List Nat :=
  match q with
  | [] => [m]
  | h :: t =>
    if sbTimed m && (!sbTimed h || tickLater (sbArg h) (sbArg m)) then m :: h :: t else h :: sbInsert t m

/-- Rank of a message in the order of R118: ACK and NAK, timed commands, every other. -/
def sbRank (m : Nat) : Nat := if sbCmd m = 3 || sbCmd m = 4 then 0 else if sbTimed m then 1 else 2

/-- Place of a message among those that wait to be sent (R118). -/
def sbOrder (q : List Nat) (m : Nat) : List Nat :=
  match q with
  | [] => [m]
  | h :: t =>
    if sbRank m < sbRank h || (sbRank m = 1 && sbRank h = 1 && tickLater (sbArg h) (sbArg m)) then m :: h :: t
    else h :: sbOrder t m

/-- Put a message on the link: it is queued for the frames of the own direction. -/
def Chip.sbEmit (c : Chip) (l m : Nat) : Chip :=
  let v := m % 2 ^ 56 + sbCrc m * 2 ^ 56
  (c.updLink l fun x => { x with txSb := sbOrder x.txSb v }).emit (.sideband l v)

/-- STATE of a link that is up: EIDLE or SLEEP only when both directions are in low power. -/
def Chip.lkShow (c : Chip) (l : Nat) : Chip :=
  if c.lkUp l then
    let t := c.rd F.ECV_LINK_STAT_TX_LP l
    let r := c.rd F.ECV_LINK_STAT_RX_LP l
    c.setLk l (if t = 0 || r = 0 then lkActive else if t = 2 && r = 2 then lkSleep else lkEidle)
  else c

/-! ## Frames of the own direction (R108, R109, R112, R116) -/

/-- The groups that begin in a frame of `cap` payload bits, from bit `at_` on, at most 15; `size` bits each. -/
def groupsFit (gs : List TxGroup) (at_ size cap n : Nat) : List TxGroup :=
  match n, gs with
  | m + 1, g :: r => if at_ < cap then g :: groupsFit r (at_ + size) size cap m else []
  | _, _ => []

/-- Groups one after another as bits. -/
def groupStream (gs : List TxGroup) (size : Nat) : Nat :=
  gs.foldr (fun g acc => (if g.zf then 0 else g.data % 2 ^ size) + acc * 2 ^ size) 0

/-- Payload of lane `j` of `w` out of a payload stream (R108). -/
def lanePayload (w j st : Nat) : Nat :=
  (List.range 63).foldr (fun q acc => st / 2 ^ (128 * (q * w + j)) % 2 ^ 128 + acc * 2 ^ 128) 0

/-- The 32-bit halves of the sideband stream that a frame of `n` lanes takes: what is left of a message, messages, IDLE. -/
def sbHalves (half msgs : List Nat) (n : Nat) : List Nat × List Nat × List Nat :=
  match n with
  | 0 => ([], half, msgs)
  | k + 1 =>
    match half with
    | h :: r => let (a, b, q) := sbHalves r msgs k; (h :: a, b, q)
    | [] =>
      match msgs with
      | m :: t => let (a, b, q) := sbHalves [m / 2 ^ 32] t k; (m % 2 ^ 32 :: a, b, q)
      | [] => let (a, b, q) := sbHalves [0] [] k; (0 :: a, b, q)

/-- The next frame of the own direction leaves on the trained width: the rest of a group begun before, the groups that begin
in it, zeros; on a ring port the words of ring messages, one to a payload block, zeros where there are none (log
entry 73). -/
def Chip.frameSend (c : Chip) (l : Nat) : Chip :=
  let x := c.link l
  let w := c.rd F.ECV_LINK_STAT_WIDTH l
  let cap := w * laneBits
  let size := groupBits (c.rd F.ECV_SAMPLE_CFG_MANT l)
  let gs := if isRadio l then groupsFit x.txGroups x.txRestLen size cap 15 else []
  let ring := if isRadio l then [] else x.txRing.take (63 * w)
  let st := if isRadio l then x.txRest + groupStream gs size * 2 ^ x.txRestLen
    else ring.foldr (fun v acc => v % 2 ^ 128 + acc * 2 ^ 128) 0
  let stop := x.txRestLen + gs.length * size
  let pay := (List.range w).map fun j => lanePayload w j (st % 2 ^ cap)
  let (sb, half, msgs) := sbHalves x.txHalf x.txSb w
  let lanes := (List.range w).map fun j =>
    let first := j == 0 && isRadio l
    marker j (j == 0 && gs.any (·.zf)) x.txSeq (sb.getD j 0)
      (if first then (match gs with | g :: _ => g.num | [] => 0) else 0) (if first then gs.length else 0)
      (if first then (if gs.isEmpty then 0xFFFF else x.txRestLen) else 0) (crc32 laneBits (x.txPrev.getD j 0))
      + unscramble j (pay.getD j 0) * 2 ^ 128
  (c.setLink l { x with
    txSeq := (x.txSeq + 1) % 4096, txSb := msgs, txHalf := half, txGroups := x.txGroups.drop gs.length
    txRing := x.txRing.drop ring.length, txRest := st / 2 ^ cap, txRestLen := stop - min stop cap
    txPrev := pay }).emit (.frame l x.txSeq lanes)

/-- The own direction sends frames: from ALIGN on, but for RATE_UP, LISTEN and HOLD, on a trained width (R103; log
entry 73). -/
def Chip.framing (c : Chip) (l : Nat) : Bool :=
  [4, 5, 7, 8, 9, 10].contains (c.lkState l) && c.rd F.ECV_LINK_STAT_WIDTH l != 0 && !(c.link l).shutting

/-- Sixths of a UI in a tick: 16.0 or 32.0 Gb/s (R101, R102). -/
def Chip.tickUi (c : Chip) (l : Nat) : Nat :=
  if c.rd F.ECV_LINK_STAT_VERSION l = 3 && 7 ≤ c.lkState l then 6250 else 3125

/-- Sixths of a UI in a frame. -/
abbrev frameUi : Nat := 49152

/-- The bits of the fast-exit burst on a lane (R128). -/
def burstBits (lane : Nat) : Nat := alternating 256 + prbs15 768 (0x5A00 + lane) * 2 ^ 256

/-- The transmit direction leaves low power (R127, R128): wake pattern out of SLEEP, the burst on every lane, and a frame,
whose FRAME_SEQ goes on as if frames had been sent throughout; an exit asked for while entry is in progress is held
(R129). -/
def Chip.lpExit (c : Chip) (l : Nat) : Chip :=
  if (c.link l).entering.isSome then c.wr F.ECV_LINK_STAT_ENABLE_PENDING 1 l
  else if c.rd F.ECV_LINK_STAT_TX_LP l = 0 then c
  else
    let c := c.when (c.rd F.ECV_LINK_STAT_TX_LP l == 2) fun c => c.emit (.linkAct l "wake pattern" 16)
    let c := c.emit (.burst l ((List.range (c.rd F.ECV_LINK_STAT_WIDTH l)).map burstBits))
    let c := (c.wr F.ECV_LINK_STAT_TX_LP 0 l).lkShow l
    (c.updLink l fun x => { x with txUi := 0 }).frameSend l

/-- A ring message, or one forwarded, goes out on a ring port: its words wait for the frames of the own direction (R108,
R138). -/
def Chip.ringPut (c : Chip) (l : Nat) (forwarded : Bool) (words : List Nat) : Chip :=
  (c.updLink l fun x => { x with txRing := x.txRing ++ words }).emit
    (if forwarded then .ringFwd l words else .ringMsg l words)

/-- Send the first waiting command if fewer than 8 are outstanding (R118). -/
def Chip.sbNext (c : Chip) (l : Nat) : Chip :=
  let x := c.link l
  match x.queue with
  | [] => c
  | m :: t =>
    if c.lkUp l && x.sent.length < 8 then
      let m := m + x.seqNext * 2 ^ 8
      (c.setLink l { x with queue := t, sent := x.sent ++ [⟨m, 0⟩], seqNext := (x.seqNext + 1) % 16 }).sbEmit l m
    else c

/-- Send what may be sent. -/
def Chip.sbFlush (c : Chip) (l : Nat) : Chip := (List.range 8).foldl (fun c _ => c.sbNext l) c

/-- Queue a sideband message. One that is not acknowledged goes out at once; a link in low power leaves it (R126). -/
def Chip.sbSend (c : Chip) (l m : Nat) : Chip :=
  let c := c.when (c.lkUp l) fun c => c.lpExit l
  if sbAcked m then (c.updLink l fun x => { x with queue := sbInsert x.queue m }).sbFlush l
  else c.sbEmit l m

/-- ACK of a SEQ. -/
def Chip.sbAck (c : Chip) (l seq : Nat) : Chip := c.sbSend l (sbMsg 3 0 seq 0)

/-- NAK of a SEQ with a reason. -/
def Chip.sbNak (c : Chip) (l seq reason : Nat) : Chip := c.sbSend l (sbMsg 4 0 seq reason)

/-- The transmit direction announces low power and enters it at the next frame boundary (R126). -/
def Chip.lpEnter (c : Chip) (l : Nat) : Chip :=
  let x := c.link l
  if c.lkUp l && 2 ≤ c.rd F.ECV_LINK_STAT_VERSION l && c.rd F.ECV_LINK_STAT_TX_LP l == 0 && x.entering.isNone
      && x.sent.isEmpty && x.queue.isEmpty then
    let form := if 4 ≤ c.rd F.ECV_LINK_STAT_WIDTH l then 1 else 2
    (c.sbEmit l (sbMsg 0x15 0 0 (form + c.rd F.ECV_LP_CTRL_FOLLOW l * 128))).setLink l { x with entering := some form }
  else c

/-- The frame boundary at which low power is entered; a held exit follows at once (R126, R129). -/
def Chip.lpEntered (c : Chip) (l : Nat) : Chip :=
  match (c.link l).entering with
  | none => c
  | some form =>
    let c := ((c.updLink l fun x => { x with entering := none }).wr F.ECV_LINK_STAT_TX_LP form l).lkShow l
    if c.flag F.ECV_LINK_STAT_ENABLE_PENDING l then (c.wr F.ECV_LINK_STAT_ENABLE_PENDING 0 l).lpExit l else c

/-- One tick of the own direction: a frame that ends in it is followed by the next; in low power frames are only counted
(R128), and the entry to low power happens at a frame boundary (R126). -/
def Chip.frameTick (c : Chip) (l : Nat) : Chip :=
  if !c.framing l then c.lpEntered l
  else
    let u := (c.link l).txUi + c.tickUi l
    if u < frameUi then c.updLink l fun x => { x with txUi := u }
    else
      let c := (c.updLink l fun x => { x with txUi := u - frameUi }).lpEntered l
      if c.rd F.ECV_LINK_STAT_TX_LP l = 0 then c.frameSend l
      else c.updLink l fun x => { x with txSeq := (x.txSeq + 1) % 4096 }

/-! ## Capability words (R104–R106) -/

/-- MAX_VER as it acts: 0 as 1. -/
def Chip.cfgVer (c : Chip) (l : Nat) : Nat := max 1 (c.rd F.ECV_LINK_CTRL_MAX_VER l)

/-- MAX_WIDTH as it acts: other values as 8. -/
def Chip.cfgWid (c : Chip) (l : Nat) : Nat :=
  let w := c.rd F.ECV_LINK_CTRL_MAX_WIDTH l
  if w = 1 || w = 2 || w = 4 then w else 8

/-- Highest version offered in the training under way, capped at 1.1 after a failed RATE_UP (R103, R144). -/
def Chip.maxVer (c : Chip) (l : Nat) : Nat :=
  if (c.link l).capped then min (c.link l).offVer 2 else (c.link l).offVer

/-- Widest width offered in the training under way (R144). -/
def Chip.maxWidth (c : Chip) (l : Nat) : Nat := (c.link l).offWid

/-- LANES bits for every width up to `w`. -/
def lanesUpTo (w : Nat) : Nat := if w = 1 then 1 else if w = 2 then 3 else if w = 4 then 7 else 15

/-- The capability word the device sends (R105). -/
def Chip.ownCaps (c : Chip) (l : Nat) : Nat :=
  let ring := !isRadio l
  1 + (if ring then 2 else 0) * 2 ^ 4 + (2 ^ c.maxVer l - 1) * 2 ^ 8 + lanesUpTo (c.maxWidth l) * 2 ^ 12
    + (if ring then 0 else 0x1F) * 2 ^ 16 + (if ring then 0 else 1) * 2 ^ 21
    + (if ring then c.rd F.ECV_RING_STAT_LOCAL_ID l else 0xFF) * 2 ^ 24 + c.rd F.TRUST_DEV_ID_DEV_ID % 2 ^ 16 * 2 ^ 32

/-- The device sends its capability word three times. -/
def Chip.sendCaps (c : Chip) (l : Nat) : Chip :=
  let w := c.ownCaps l
  (List.range 3).foldl (fun c _ => (c.sbEmit l (sbMsg 1 0 (w % 2 ^ 32) 0)).sbEmit l (sbMsg 2 0 (w / 2 ^ 32) 0)) c

/-- Highest common version, 0 for none (R106). -/
def commonVersion (a b : Nat) : Nat :=
  let v := bits a 10 8 &&& bits b 10 8
  if bit v 2 then 3 else if bit v 1 then 2 else if bit v 0 then 1 else 0

/-- Widest width of at most `w` lanes that a LANES field offers, 0 for none (R104). -/
def widestOf (lanes w : Nat) : Nat :=
  if 8 ≤ w && bit lanes 3 then 8 else if 4 ≤ w && bit lanes 2 then 4 else if 2 ≤ w && bit lanes 1 then 2
  else if 1 ≤ w && bit lanes 0 then 1 else 0

/-- Why a partner's word sends the link to HOLD (R106). -/
def Chip.capsHold (c : Chip) (l word : Nat) : Option Status :=
  if commonVersion (c.ownCaps l) word = 0 || bits word 3 0 = 0 then some .versionMismatch
  else if isRadio l && (bits word 7 4 != 1 || bits word 55 48 != 16) then some .badDescriptor
  else if !isRadio l && bits word 7 4 != 2 then some .badDescriptor
  else none

/-! ## Sample groups and formats (R111–R114) -/

/-- A mantissa code exists. -/
def mantOk (m : Nat) : Bool := m == 0 || m == 8 || m == 9 || m == 12 || m == 14

/-- The partner offers a format (MANT_SUP) and a rate (RATE_FULL). -/
def offers (word mant rate : Nat) : Bool :=
  (if mant = 0 then bit word 20 else if mant = 8 then bit word 16 else if mant = 9 then bit word 17
    else if mant = 12 then bit word 18 else bit word 19)
  && (rate != 0 || bit word 21)

/-- A format and rate fit the usable payload at a version and width (R113): groups per second times bits per group
against 31.5 Gb/s per lane at 2.0 and half of it at 1.x. -/
def payloadFits (mant rate version width : Nat) : Bool :=
  (if rate = 0 then 3072 else 1536) * groupBits mant ≤ width * (if version = 3 then 3150000 else 1575000)

/-- The statuses that speak against a sample configuration on a link as it is trained (R113). -/
def Chip.cfgFaults (c : Chip) (l mant rate : Nat) : List Status :=
  let v := c.rd F.ECV_LINK_STAT_VERSION l
  let w := c.rd F.ECV_LINK_STAT_WIDTH l
  if v = 0 then []
  else
    (if rate = 0 && v < 3 then [.versionMismatch] else [])
      ++ (if offers (c.rd F.ECV_CAPS_PARTNER_CAPS l) mant rate then [] else [.badDescriptor])
      ++ (if payloadFits mant rate v w then [] else [.badDescriptor])

/-- Ticks in a group. -/
def Chip.groupTicks (c : Chip) (l : Nat) : Nat := if c.rd F.ECV_SAMPLE_CFG_RATE l = 0 then 1 else 2

/-- First tick of the group with a 12-bit GROUP_SEQ, taken nearest to the present (R112). -/
def Chip.groupTick (c : Chip) (l seq : Nat) : Nat :=
  let n := c.groupTicks l
  let d := sx 12 (seq + 4096 - c.tick / n % 4096)
  toBits 32 ((c.tick / n * n : Nat) + d * n)

/-- Ticks in 16 µs, the lead of a timed command (R118). -/
abbrev leadTicks : Nat := 492

/-- The FORMAT command of a link (R113): the first group at least 16 µs ahead (log entry 36). -/
def Chip.sendFormat (c : Chip) (l : Nat) : Chip :=
  let n := c.groupTicks l
  c.sbSend l (sbMsg 0x16 0xF ((c.tick + leadTicks + n - 1) / n)
    (c.rd F.ECV_SAMPLE_CFG_MANT l + c.rd F.ECV_SAMPLE_CFG_RATE l * 16))

/-! ## Leaving ACTIVE -/

/-- Receive-side state that a training starts anew. -/
def LinkX.fresh (x : LinkX) : LinkX :=
  { x with
    capCnt := 0, sbCarry := none, sbRx := [], prev := [], crcHist := [], part := none, entering := none,
    rateGo := false, peerNext := none, txSb := [], txHalf := [], txGroups := [], txRing := [], txRest := 0,
    txRestLen := 0, txPrev := [], t2 := none }

/-- The loss of a link that was up is noted (R122, R124). -/
def Chip.linkLost (c : Chip) (l cause : Nat) : Chip :=
  let new := c.lkUp l && (c.link l).lossTick.isNone
  let c := c.updLink l fun x => { x.fresh with
    lossTick := if new then some c.tick else x.lossTick,
    lossCause := if new then cause else x.lossCause }
  (c.wr F.ECV_LINK_STAT_TX_LP 0 l).wr F.ECV_LINK_STAT_RX_LP 0 l

/-- RETRAIN (R121): counted, and the partner's capability word is read again. The loss of a radio link is reported when it is
back (R123); a ring port's loss of lock or CRC burst is reported at once, since its messages leave no GAP (log
entry 74). -/
def Chip.linkRetrain (c : Chip) (l cause : Nat) : Chip :=
  let c := (((c.linkLost l cause).incSat F.ECV_ERR_CNT_RETRAINS l).setLk l lkRetrain).sendCaps l
  c.when (!isRadio l && (cause == 3 || cause == 4)) fun c => c.linkEvent l cause .ok 0 0

/-- A ring port has lost its partner: it has no peer from the next slot boundary on (R137). -/
def Chip.peerLost (c : Chip) (l : Nat) : Chip :=
  if isRadio l then c
  else (c.wr F.ECV_RING_STAT_PARTNER_ID 0 l).updLink l fun x => { x with peerNext := some (false, 0, 0) }

/-- The link is not trained: no width, no version, no partner's word (R144). -/
def Chip.untrained (c : Chip) (l : Nat) : Chip :=
  let c := (c.wr F.ECV_LINK_STAT_WIDTH 0 l).wr F.ECV_LINK_STAT_VERSION 0 l
  (c.wr F.ECV_CAPS_PARTNER_CAPS 0 l).peerLost l

/-- A training starts: what ECV_LINK_CTRL offers is taken for the whole of it (R144), and PRBS-15 goes out on every lane up to
the widest (R103). -/
def Chip.trainStart (c : Chip) (l : Nat) : Chip :=
  let v := c.cfgVer l
  let w := c.cfgWid l
  (c.updLink l fun x => { x with retraining := false, offVer := v, offWid := w }).emit (.linkAct l "PRBS-15" w)

/-- Back to DETECT: nothing agreed, every version offered again unless RATE_UP has just failed. -/
def Chip.linkDetect (c : Chip) (l cause : Nat) : Chip :=
  let c := ((c.linkLost l cause).trainStart l).untrained l
  let c := (c.wr F.ECV_LINK_STAT_PARTNER_ROLE 0 l).ttLost l
  c.setLk l lkDetect

/-- Seam (R131): DEV_MODE.SEAM_OPEN shows it. -/
def Chip.setSeam (c : Chip) (isOpen : Bool) : Chip :=
  if c.flag F.DEV_MODE_SEAM_OPEN == isOpen then c
  else (c.setFlag F.DEV_MODE_SEAM_OPEN isOpen).emit (.pin "SEAM" (b2n isOpen))

/-- A ring port enters LISTEN, its transmitter training into the loopback (R133). -/
def Chip.linkListen (c : Chip) (l : Nat) : Chip :=
  ((c.linkDetect l 0).setLk l lkListen).updLink l fun x => { x with noSignal := false }

/-- Training starts on a link that is enabled and whose domain is ON: a radio link in DETECT; a ring port, if the strap lets
the ring ports run and both are enabled, in LISTEN while the Seam is closed, and with it the other port, which has no line of
its own while the Seam is closed (R103, R131, R133). -/
def Chip.linkStart (c : Chip) (l : Nat) : Chip :=
  if c.lkState l != lkOff || !c.flag F.ECV_LINK_CTRL_ENABLE l || c.domState (linkDomain l) != dOn
      || (c.link l).shutting then c
  else if isRadio l then c.linkDetect l 0
  else if !c.flag F.DEV_STRAPS_RING_EN then c
  else if c.flag F.DEV_MODE_SEAM_OPEN then c.linkDetect l 0
  else if c.flag F.ECV_LINK_CTRL_ENABLE 16 && c.flag F.ECV_LINK_CTRL_ENABLE 17 then
    let o := 33 - l
    let c := c.linkListen l
    if c.lkState o = lkOff || c.lkState o = lkListen || (c.link o).shutting then c else c.linkListen o
  else c

/-- A link goes OFF: not trained, lanes idle. -/
def Chip.linkOff (c : Chip) (l : Nat) : Chip :=
  ((c.linkDetect l 0).setLk l lkOff).updLink l fun x =>
    { x with shutting := false, sent := [], queue := [], muted := true, was := false }

end Sys2Proof.Machine
end

