-- ==== Sys2Proof/Machine/Secded.lean ====
section
/-! DEFINITION. The stored word (spec/15_integrity.md R392–R394): 128 data bits, the poison flag and nine check bits,
their SECDED code and its decoding. -/
namespace Sys2Proof.Machine

/-- Columns H0–H47 of R393. -/
def secdedColsA : List Nat :=
  [0x007, 0x00B, 0x00D, 0x00E, 0x013, 0x015, 0x016, 0x019, 0x01A, 0x01C, 0x023, 0x025, 0x026, 0x029, 0x02A, 0x02C,
   0x031, 0x032, 0x034, 0x038, 0x043, 0x045, 0x046, 0x049, 0x04A, 0x04C, 0x051, 0x052, 0x054, 0x058, 0x061, 0x062,
   0x064, 0x068, 0x070, 0x083, 0x085, 0x086, 0x089, 0x08A, 0x08C, 0x091, 0x092, 0x094, 0x098, 0x0A1, 0x0A2, 0x0A4]

/-- Columns H48–H95 of R393. -/
def secdedColsB : List Nat :=
  [0x0A8, 0x0B0, 0x0C1, 0x0C2, 0x0C4, 0x0C8, 0x0D0, 0x0E0, 0x103, 0x105, 0x106, 0x109, 0x10A, 0x10C, 0x111, 0x112,
   0x114, 0x118, 0x121, 0x122, 0x124, 0x128, 0x130, 0x141, 0x142, 0x144, 0x148, 0x150, 0x160, 0x181, 0x182, 0x184,
   0x188, 0x190, 0x1A0, 0x1C0, 0x01F, 0x02F, 0x037, 0x03B, 0x03D, 0x03E, 0x04F, 0x057, 0x05B, 0x05D, 0x05E, 0x067]

/-- Columns H96–H128 of R393; H128 is the column of the poison flag. -/
def secdedColsC : List Nat :=
  [0x06B, 0x06D, 0x06E, 0x073, 0x075, 0x076, 0x079, 0x07A, 0x07C, 0x08F, 0x097, 0x09B, 0x09D, 0x09E, 0x0A7, 0x0AB,
   0x0AD, 0x0AE, 0x0B3, 0x0B5, 0x0B6, 0x0B9, 0x0BA, 0x0BC, 0x0C7, 0x0CB, 0x0CD, 0x0CE, 0x0D3, 0x0D5, 0x0D6, 0x0D9,
   0x0DA]

/-- The 129 columns of the code (R393). -/
def secdedCols : List Nat := secdedColsA ++ secdedColsB ++ secdedColsC

/-- XOR of the columns whose bit is set in `d`, bit 0 going with the head of the list. -/
def secdedFold (cols : List Nat) (d : Nat) : Nat :=
  match cols with
  | [] => 0
  | h :: t => (if d % 2 = 1 then h else 0) ^^^ secdedFold t (d / 2)

/-- The check bits of the 129 bits d0–d128 (R393). -/
def secdedCheck (d : Nat) : Nat := secdedFold secdedCols d

/-- The 138 stored bits of a word with its poison flag: data 127:0, poison 128, check bits 137:129 (R392). -/
def secdedEncode (data : Nat) (poison : Bool) : Nat :=
  let d := data % 2 ^ 128 + b2n poison * 2 ^ 128
  d + secdedCheck d * 2 ^ 129

/-- What a syndrome says (R394). -/
inductive Syndrome | clean | correctable | uncorrectable
  deriving DecidableEq, Repr

/-- A decoded word: data and poison flag as delivered, and what was found. -/
structure Decoded where
  data : Nat
  poison : Bool
  found : Syndrome
  deriving DecidableEq, Repr

/-- The delivered form of 129 bits. -/
def Decoded.mk129 (d : Nat) (s : Syndrome) : Decoded := ⟨d % 2 ^ 128, d / 2 ^ 128 % 2 == 1, s⟩

/-- The nine columns of the check bits. -/
def secdedCheckCols : List Nat := [1, 2, 4, 8, 16, 32, 64, 128, 256]

/-- Decode 138 stored bits (R394, R396): a syndrome equal to a column inverts that bit, one equal to a check bit's column
leaves the data, any other value delivers the stored data bits with the poison flag set. -/
def secdedDecode (w : Nat) : Decoded :=
  let d := w % 2 ^ 129
  let s := w / 2 ^ 129 % 2 ^ 9 ^^^ secdedCheck d
  if s = 0 then .mk129 d .clean
  else
    match secdedCols.findIdx? (· == s) with
    | some j => .mk129 (d ^^^ 2 ^ j) .correctable
    | none => if s ∈ secdedCheckCols then .mk129 d .correctable else ⟨d % 2 ^ 128, true, .uncorrectable⟩

end Sys2Proof.Machine
end

