-- ==== Sys2Proof/Machine/Memory.lean ====
section
/-! DEFINITION. The memories (spec/01_panel_and_slot.md R29, spec/14_memories.md, spec/15_integrity.md R392–R397): where
an address lies, who may reach it, reading and writing a stored word, and what a read that finds an error does. -/
namespace Sys2Proof.Machine

/-! ## The address map -/

/-- Where an internal address lies (R29). -/
inductive Region
  | control
  | cluster (n off : Nat)
  | press (n off : Nat)
  | pool (off : Nat)
  | aon (off : Nat)
  | hbm (off : Nat)
  | host (bus : Nat)
  | reserved
  deriving DecidableEq, Repr

/-- The region of an internal address; addresses wrap at 2^48 (R31). -/
def regionOf (addr : Nat) : Region :=
  let a := addr % 2 ^ 48
  if a < 0x10000000 then .control
  else if 0x100000000 ≤ a && a < 0x110000000 then
    (if a % 0x1000000 < 0x400000 then .cluster ((a - 0x100000000) / 0x1000000) (a % 0x1000000) else .reserved)
  else if 0x200000000 ≤ a && a < 0x208000000 then
    (if a % 0x1000000 < 0x800000 then .press ((a - 0x200000000) / 0x1000000) (a % 0x1000000) else .reserved)
  else if 0x300000000 ≤ a && a < 0x308000000 then .pool (a - 0x300000000)
  else if 0x3F0000000 ≤ a && a < 0x3F0010000 then .aon (a - 0x3F0000000)
  else if 0x4000000000 ≤ a && a < 0x4C00000000 then .hbm (a - 0x4000000000)
  else if hostBase ≤ a then .host (a - hostBase)
  else .reserved

/-- The address lies in memory space on the device. -/
def onDevice (addr : Nat) : Bool :=
  match regionOf addr with
  | .cluster _ _ | .press _ _ | .pool _ | .aon _ | .hbm _ => true
  | _ => false

/-- The address lies wholly in HBM over `n` bytes. -/
def inHbm (addr n : Nat) : Bool := 0x4000000000 ≤ addr && addr + n ≤ 0x4C00000000

/-- The address lies wholly in the pool over `n` bytes. -/
def inPool (addr n : Nat) : Bool := 0x300000000 ≤ addr && addr + n ≤ 0x308000000

/-- Physical Press that serves logical Press `n` (AE_MAP). -/
def Chip.pressPhys (c : Chip) (n : Nat) : Nat := bits (c.rd F.AE_MAP_PHYS) (4 * n + 3) (4 * n)

/-- Power domain of a memory address; none for always-on memory and reserved addresses. -/
def Chip.memDomain (c : Chip) (addr : Nat) : Option Nat :=
  match regionOf addr with
  | .cluster n _ => some n
  | .press n _ => some (16 + c.pressPhys n)
  | .pool off => some (39 + off / 0x200000 / 8)
  | .hbm off => some (if off < 0x600000000 then 47 else 48)
  | .host _ => some 62
  | _ => none

/-- Bucket of the memory instance that holds an address (R403). -/
def Chip.memBucket (c : Chip) (addr : Nat) : Nat :=
  match regionOf addr with
  | .cluster n _ => n
  | .press n _ => 48 + c.pressPhys n
  | .pool off => 66 + off / 128 % 16
  | .hbm off => 82 + (if off < 0x600000000 then 0 else 8) + off / 256 % 8
  | .aon _ => 98
  | _ => 121

/-- Endpoint port of a cluster, a pool port, a physical Press, a front-end group and a coding engine (R357, R526). -/
def portCluster (n : Nat) : Nat := 4 * (if n < 8 then 8 + n else 64 + (n - 8))
def portPool (p : Nat) : Nat := 4 * (if p < 8 then 16 + p else 56 + (p - 8))
def portPress (n : Nat) : Nat :=
  if n < 4 then 4 * (24 + 2 * n) else if n < 8 then 4 * (48 + 2 * (n - 4)) else 4 * 75 + 1
def portFeg (g : Nat) : Nat := if g < 4 then 4 * (25 + 2 * g) else 4 * (49 + 2 * (g - 4))
def portCe (k : Nat) : Nat :=
  if k < 8 then 4 * (72 + k) else if k = 8 then 4 * 72 + 1 else if k = 9 then 4 * 74 + 1
  else if k = 10 then 4 * 77 + 1 else 4 * 79 + 1

/-- Endpoint port a unit is reached through. -/
def Chip.portUnit (c : Chip) (u : Nat) : Nat :=
  if u < 256 then portCluster (u / 16) else if u < 0x110 then portPress (c.pressPhys (u - 0x100))
  else if u < 0x120 then portCe (u - 0x110) else 24

/-- Endpoint port of a control-space address (R358, R526); none where the address decodes to no block. -/
def Chip.portControl (c : Chip) (a : Nat) : Option Nat :=
  let b := a / 0x100000
  if b = 1 then some 12 else if b = 2 then some 20 else if b = 8 then some 10 else if b = 10 then some 29
  else if b = 11 then some 28 else if b = 13 then some 24 else if b = 14 then some 4
  else if b < 16 then some 0
  else if a < 0x2000000 then some (portFeg ((a - 0x1000000) / 0x200000))
  else if a < 0x2100000 then some (portFeg ((a - 0x2000000) / 0x20000))
  else if a < 0x2120000 then some (4 * 76 + 1)
  else if 0x3000000 ≤ a && a < 0x3800000 then
    some (portPress (c.pressPhys (if 0x3080000 ≤ a && a < 0x3100000 then 0 else (a - 0x3000000) / 0x100000)))
  else if 0x4000000 ≤ a && a < 0x5000000 then some (portCluster ((a - 0x4000000) / 0x100000))
  else none

/-- Endpoint port of an internal address (R358). -/
def Chip.destPort (c : Chip) (addr : Nat) : Option Nat :=
  match regionOf addr with
  | .control => c.portControl (addr % 2 ^ 48)
  | .cluster n _ => some (portCluster n)
  | .press n _ => some (portPress (c.pressPhys n))
  | .pool off => some (portPool (off / 128 % 16))
  | .aon _ => some 0
  | .hbm off => some (4 * ((if off < 0x600000000 then 32 else 40) + off / 256 % 8))
  | .host bus => some (4 * (if bit bus 12 then 4 else 3) + b2n (bit bus 13))
  | .reserved => none

/-- Power domain of a control-space address: the domain of the block it addresses (R367, R448). -/
def Chip.ctlDomain (c : Chip) (a : Nat) : Option Nat :=
  let b := a / 0x100000
  if b = 1 then some 62 else if b = 2 || b = 3 || b = 8 || b = 13 || b = 14 then some 63
  else if b = 10 then some 38 else if b = 11 then some 37
  else if b < 16 then none
  else if a < 0x2000000 then some (25 + (a - 0x1000000) / 0x200000)
  else if a < 0x2100000 then some (25 + (a - 0x2000000) / 0x20000)
  else if a < 0x2120000 then some 61
  else if 0x3000000 ≤ a && a < 0x3800000 then
    some (16 + c.pressPhys (if 0x3080000 ≤ a && a < 0x3100000 then 0 else (a - 0x3000000) / 0x100000))
  else if 0x4000000 ≤ a && a < 0x5000000 then some ((a - 0x4000000) / 0x100000)
  else none

/-- Power domain of an internal address. -/
def Chip.addrDomain (c : Chip) (addr : Nat) : Option Nat :=
  match regionOf addr with
  | .control => c.ctlDomain (addr % 2 ^ 48)
  | _ => c.memDomain addr

/-! ## Buckets and repair -/

/-- One increment of a bucket in the current millisecond (R404). -/
def Chip.bucketAdd (c : Chip) (b weight kind addr : Nat) : Chip :=
  let x := Tbl.get c.integ.adds b {}
  c.withInteg { c.integ with adds := Tbl.set c.integ.adds b ⟨x.weight + weight, kind, addr⟩ {} }

/-- Put a word's address into the repair queue of its instance (R395): 8 entries, no address twice. -/
def Chip.queueRepair (c : Chip) (b addr : Nat) : Chip :=
  let q := Tbl.get c.integ.repair b []
  if q.contains addr then c
  else if 8 ≤ q.length then c.incSat F.INTEG_STAT_REPAIR_DROP
  else c.withInteg { c.integ with repair := Tbl.set c.integ.repair b (q ++ [addr]) [] }

/-- The weight of an uncorrectable error; 0 acts as 1. -/
def Chip.ueWeight (c : Chip) : Nat := max 1 (c.rd F.INTEG_CTRL_UE_WEIGHT)

/-- Count an error found in instance `b` at an address (R395, R396, R398). -/
def Chip.countError (c : Chip) (b addr : Nat) (s : Syndrome) : Chip :=
  match s with
  | .clean => c
  | .correctable =>
    ((c.bucketAdd b 1 1 addr).incSat F.INTEG_BUCKET_STAT_CE b).incSat F.INTEG_STAT_CE_TOTAL
  | .uncorrectable =>
    let c := ((c.bucketAdd b c.ueWeight 2 addr).incSat F.INTEG_BUCKET_STAT_UE b).incSat F.INTEG_STAT_UE_TOTAL
    ((c.wr F.INTEG_UE_LOG_BUCKET b).wr F.INTEG_UE_LOG_VALID 1).wr F.INTEG_UE_LOG_ADDR addr

/-! ## Stored words -/

/-- The address of the word that holds a byte (R8). -/
def wordAddr (a : Nat) : Nat := a / 16 * 16

/-- The 138 bits stored for the word at an address. -/
def Chip.stored (c : Chip) (a : Nat) : Nat :=
  secdedEncode (c.rdBytes a 16) (Tbl.get c.poison (a / 16) false) ^^^ Tbl.get c.upset (a / 16) 0

/-- The word as the code delivers it (R394). A word without any stored error is delivered as it was written. -/
def Chip.decodeAt (c : Chip) (a : Nat) : Decoded :=
  if Tbl.get c.upset (a / 16) 0 = 0 then ⟨c.rdBytes a 16, Tbl.get c.poison (a / 16) false, .clean⟩
  else secdedDecode (c.stored a)

/-- Read the word at a device address (R395, R396): what it delivers, and the error it counts and queues. -/
def Chip.readStored (c : Chip) (a : Nat) : Chip × Decoded :=
  let d := c.decodeAt a
  match d.found with
  | .clean => (c, d)
  | s => ((c.countError (c.memBucket a) a s).queueRepair (c.memBucket a) a, d)

/-- Write the whole word at a device address with fresh check bits; an armed injection at the word inverts its bits
after the check bits have been computed (R411). -/
def Chip.writeStored (c : Chip) (a data : Nat) (poison : Bool) : Chip :=
  let c := c.wrBytes a (toBytes 16 data)
  let c := c.withPoison (Tbl.set c.poison (a / 16) poison false)
  let k := c.rd F.INTEG_INJECT_KIND
  if k ≠ 0 && c.rd F.INTEG_INJECT_ADDR = a / 16 then
    let m := 2 ^ c.rd F.INTEG_INJECT_BIT_A ^^^ (if k = 2 then 2 ^ c.rd F.INTEG_INJECT_BIT_B else 0)
    (c.withUpset (Tbl.set c.upset (a / 16) m 0)).wr F.INTEG_INJECT_KIND 0
  else c.withUpset (Tbl.set c.upset (a / 16) 0 0)

/-! ## Who may reach a word -/

/-- The unit or block that makes an access, as the ownership check of R375 sees it. -/
inductive Who
  /-- A logical engine's load and store path. -/
  | engine (e : Nat)
  /-- The stream port of a logical Press. -/
  | pressStream (p : Nat)
  /-- A coding engine's fabric requests. -/
  | coding (k : Nat)
  /-- Fabric requests from a physical Press's port. -/
  | pressFabric
  /-- Fabric requests from every other port. -/
  | fabric
  deriving DecidableEq, Repr

/-- The bank of an offset in a cluster memory (R374). -/
def bankOf (off : Nat) : Nat := off / 0x2000 % 32

/-- The owner code an access goes under; none where it passes no ownership check. -/
def Who.code (w : Who) (cluster : Nat) : Option Nat :=
  match w with
  | .engine e => some (if e / 16 = cluster then e else 0x7FE)
  | .pressStream p => some (0x100 + p)
  | .coding k => some (0x110 + k)
  | .pressFabric => none
  | .fabric => some 0x7FE

/-- The ownership check at bank `b` of cluster `n`: which ports of the bank the access may use (R375). -/
def Chip.bankPorts (c : Chip) (w : Who) (n b : Nat) : Bool × Bool :=
  match w.code n with
  | none => (false, false)
  | some k => (c.rd F.MEM_BANK_OWN_OWN_A n b == k, b < 2 && c.rd F.MEM_BANK_OWN_OWN_B n b == k)

/-- The access may use the bank that holds the offset. -/
def Chip.owns (c : Chip) (w : Who) (n off : Nat) : Bool :=
  let p := c.bankPorts w n (bankOf off)
  p.1 || p.2

/-- The access goes by the fabric, not by a local path or a stream port (R375). -/
def Who.byFabric (w : Who) (addr : Nat) : Bool :=
  match w, regionOf addr with
  | .engine e, .cluster n _ => e / 16 != n
  | .pressStream _, .cluster _ _ => false
  | _, _ => true

/-- What stops an access to a memory word before it reaches the word, by the precedence of R36: a reserved address
(R29), an isolated port (R369), a locked domain (R368) or HBM in RELAY (R389), an owner's bank (R376). Host memory is
reached through the ports of the host interface, as any other target is through its port (R22). -/
def Chip.accessStatus (c : Chip) (w : Who) (addr : Nat) : Status :=
  match regionOf addr with
  | .control => .accessDenied
  | .reserved => .accessDenied
  | r =>
    if w.byFabric addr && (match c.destPort addr with
        | some p => c.flag F.FAB_PORT_STAT_ISOLATED p | none => false) then .targetIsolated
    else if (match c.memDomain addr with | some d => c.domLocked d | none => false) then .domainOff
    else
      match r with
      | .hbm _ => if c.mode = mRelay then .domainOff else .ok
      | .cluster n off => if c.owns w n off then .ok else .notOwner
      | _ => .ok

/-- Note what an access of the stage under way has to wait for (R38). -/
def Chip.meet (c : Chip) (k : Nat) : Chip :=
  if c.mems.asleep.contains k then c else c.withMems { c.mems with asleep := c.mems.asleep ++ [k] }

/-- A hardware wake for the domain of an address whose clocks do not run (R455, R367), and a note of it for the stage that
makes the access (R38). -/
def Chip.wakeFor (c : Chip) (addr : Nat) : Chip :=
  match c.addrDomain addr with
  | some d =>
    if c.domRuns d then c
    else
      (c.when (c.domState d != dOn) fun c => c.hwWake d).meet d
  | none => c

/-- Retention phase of bank 32·c + b or pool group 512 + g. -/
def Chip.retPhase (c : Chip) (k : Nat) : RetPhase := Tbl.get c.mems.ret k .on

/-- Set a retention phase; the STATE bit shows a bank in RETAIN or entering it (R387). -/
def Chip.setRetPhase (c : Chip) (k : Nat) (p : RetPhase) : Chip :=
  let c := c.withMems { c.mems with ret := Tbl.set c.mems.ret k p .on }
  let b := p == .entering || p == .retained
  if k < 512 then c.wr F.MEM_CLU_RET_STATE (setBit (c.rd F.MEM_CLU_RET_STATE (k / 32)) (k % 32) b) (k / 32)
  else c.wr F.MEM_POOL_RET_STAT_STATE (setBit (c.rd F.MEM_POOL_RET_STAT_STATE) (k - 512) b)

/-- The request bit of a bank or pool group. -/
def Chip.retReq (c : Chip) (k : Nat) : Bool :=
  if k < 512 then bit (c.rd F.MEM_CLU_RET_REQ (k / 32)) (k % 32) else bit (c.rd F.MEM_POOL_RET_REQ) (k - 512)

/-- Clear the request bit of a bank or pool group. -/
def Chip.clrRetReq (c : Chip) (k : Nat) : Chip :=
  if k < 512 then c.wr F.MEM_CLU_RET_REQ (setBit (c.rd F.MEM_CLU_RET_REQ (k / 32)) (k % 32) false) (k / 32)
  else c.wr F.MEM_POOL_RET_REQ (setBit (c.rd F.MEM_POOL_RET_REQ) (k - 512) false)

/-- A retained bank whose request bit is 0 begins to leave RETAIN (R387). -/
def Chip.retLeave (c : Chip) (k : Nat) : Chip :=
  if c.retPhase k == .retained && !c.retReq k then c.setRetPhase k .leaving else c

/-- Bank or pool group of a memory address. -/
def retIndex (addr : Nat) : Option Nat :=
  match regionOf addr with
  | .cluster n off => some (32 * n + bankOf off)
  | .pool off => some (512 + off / 0x200000)
  | _ => none

/-- An access wakes a bank or pool group in RETAIN or entering it: its request bit is cleared, and the wake is counted
(R387). -/
def Chip.retRouse (c : Chip) (k : Nat) : Chip :=
  if (c.retPhase k == .entering || c.retPhase k == .retained) && c.retReq k then
    ((c.clrRetReq k).incMod F.MEM_CNT_RET_WAKES).retLeave k
  else c

/-- The access waits at a bank or pool group that is not ON (R386, R387). -/
def Chip.retWake (c : Chip) (addr : Nat) : Chip :=
  match retIndex addr with
  | none => c
  | some k => if c.retPhase k == .on then c else (c.retRouse k).meet (64 + k)

/-- Ticks a fill takes: 25.8 ms, rounded up to a tick (R390). -/
abbrev fillTicks : Nat := 792576

/-- Bytes of a stack that its running fill has passed. -/
def Chip.fillPassed (c : Chip) (s : Nat) : Nat :=
  cntSub c.tick (Tbl.get c.mems.fillTick s 0) * 0x600000000 / fillTicks

/-- The fill of the stack has not yet passed the words of a request (R390). -/
def Chip.behindFill (c : Chip) (addr n : Nat) : Bool :=
  match regionOf addr with
  | .hbm off =>
    let s := if off < 0x600000000 then 0 else 1
    c.mems.filling.contains s && c.fillPassed s < off - s * 0x600000000 + n
  | _ => false

/-- The access waits for a running fill to pass its word (R390). -/
def Chip.fillWait (c : Chip) (addr : Nat) : Chip := if c.behindFill addr 16 then c.meet 640 else c

/-- Wake what an access waits for: power domain `k` below 64, then bank or pool group `k - 64`; a fill needs no wake. -/
def Chip.rouse (c : Chip) (k : Nat) : Chip :=
  if k < 64 then c.when (c.domState k != dOn) fun c => c.hwWake k
  else if k < 640 then c.retRouse (k - 64)
  else c

/-- A stage of a unit (R38, R367, R386, R390): where one of its accesses meets a domain that is not ON, a bank in RETAIN or a
word that a fill has not passed, the access waits there and the stage with it. Nothing of the stage has then happened but the
wakes, and it runs when it is tried again; no deadline is extended. -/
def Chip.heldStage (c : Chip) (f : Chip → Chip) : Chip :=
  let d := f c.noneAsleep
  d.mems.asleep.foldl Chip.rouse (if d.mems.asleep.isEmpty then d else c)

/-- The outcome of a command that is a stage of a unit. -/
def State.stage (s : State) (f : Chip → Chip) : Host.Outcome State Fault Refusal := s.run fun c => c.heldStage f

/-- A word read: its data, its poison flag and its status. -/
structure WordRead where
  data : Nat
  poison : Bool
  status : Status
  deriving DecidableEq, Repr

/-- A poisoned zero word with the status that refused the access (R29, R368, R369, R376). -/
def WordRead.refused (s : Status) : WordRead := ⟨0, true, s⟩

/-- Count an access answered NOT_OWNER (R376). -/
def Chip.countRefusal (c : Chip) (s : Status) : Chip := c.when (s == .notOwner) (·.incSat F.MEM_STAT_NOT_OWNER)

/-- Read one word of memory space (R376, R394–R396). A sleeping domain is woken for the access (R367). -/
def Chip.readWord (c : Chip) (w : Who) (addr : Nat) : Chip × WordRead :=
  match c.accessStatus w addr with
  | .ok =>
    match regionOf addr with
    | .host _ => (c, ⟨c.rdBytes (wordAddr (addr % 2 ^ 48)) 16, Tbl.get c.poison (addr % 2 ^ 48 / 16) false,
        if Tbl.get c.poison (addr % 2 ^ 48 / 16) false then .poisoned else .ok⟩)
    | _ =>
      let a := wordAddr (addr % 2 ^ 48)
      let (c, d) := (((c.wakeFor a).retWake a).fillWait a).readStored a
      (c, ⟨d.data, d.poison, if d.poison then .poisoned else .ok⟩)
  | s => (c.countRefusal s, .refused s)

/-- Poisoned data leaves for the host as a poisoned TLP, and its consumption is reported (R100, R408). -/
def Chip.hostPoison (c : Chip) (bus : Nat) (poison : Bool) : Chip :=
  c.when poison fun c => (c.postPoison 0x7FF srcHif 5 0).emit (.poisonedTlp bus)

/-- A word of host memory as the device writes it. -/
def Chip.wrHostWord (c : Chip) (a data : Nat) (poison : Bool) : Chip :=
  (c.wrBytes a (toBytes 16 data)).withPoison (Tbl.set c.poison (a / 16) poison false)

/-- Write one whole word of memory space (R376, R383). -/
def Chip.writeWord (c : Chip) (w : Who) (addr data : Nat) (poison : Bool) : Chip × Status :=
  match c.accessStatus w addr with
  | .ok =>
    let a := wordAddr (addr % 2 ^ 48)
    match regionOf addr with
    | .host bus =>
      if c.hostDrops bus 16 then (c, .ok) else ((c.hostPoison bus poison).wrHostWord a data poison, .ok)
    | _ => ((((c.wakeFor a).retWake a).fillWait a).writeStored a data poison, .ok)
  | s => (c.countRefusal s, s)

/-- Read `n` words from an address on. -/
def Chip.readWords (c : Chip) (w : Who) (addr n : Nat) : Chip × List WordRead :=
  match n with
  | 0 => (c, [])
  | m + 1 =>
    let (c, x) := c.readWord w addr
    let (c, xs) := c.readWords w (addr + 16) m
    (c, x :: xs)

/-- Write words from an address on; the status is the highest of the words' (R36). -/
def Chip.writeWords (c : Chip) (w : Who) (addr : Nat) (ws : List Nat) (poison : Bool) : Chip × Status :=
  match ws with
  | [] => (c, .ok)
  | x :: r =>
    let (c, s) := c.writeWord w addr x poison
    let (c, s') := c.writeWords w (addr + 16) r poison
    (c, s.worst s')

/-- Remove everything stored in an address range: the contents of an SRAM whose domain is OFF, or of HBM (R386, R390);
its words then read as zero, not poisoned, with valid check bits. -/
def Chip.clearRange (c : Chip) (a n : Nat) : Chip :=
  let c := c.withMem (Tbl.eraseIf c.mem fun k => a ≤ k && k < a + n)
  let c := c.withPoison (Tbl.eraseIf c.poison fun k => a / 16 ≤ k && k < (a + n) / 16)
  c.withUpset (Tbl.eraseIf c.upset fun k => a / 16 ≤ k && k < (a + n) / 16)

/-- The logical Press a physical Press serves, none for the spare. -/
def Chip.pressLogical (c : Chip) (phys : Nat) : Option Nat := (List.range 8).find? fun n => c.pressPhys n == phys

/-- The memory of a domain is lost when the domain goes OFF (R386, R389). -/
def Chip.loseDomain (c : Chip) (d : Nat) : Chip :=
  let c := if d < 16 then c.clearRange (0x100000000 + d * 0x1000000) 0x400000
    else if d < 25 then
      (match c.pressLogical (d - 16) with
       | some n => c.clearRange (0x200000000 + n * 0x1000000) 0x800000
       | none => c)
    else if 39 ≤ d && d < 47 then c.clearRange (0x300000000 + (d - 39) * 0x1000000) 0x1000000
    else if d = 47 then c.clearRange 0x4000000000 0x600000000
    else if d = 48 then c.clearRange 0x4600000000 0x600000000
    else c
  c

/-- Discard the repair-queue entries of a domain that leaves ON (R399); bucket 112 + r is that of domain 53 + r. -/
def Chip.dropRepairs (c : Chip) (d : Nat) : Chip :=
  c.withInteg { c.integ with repair :=
      (c.integ.repair.map fun e => (e.1, e.2.filter fun a =>
        (if 112 ≤ e.1 && e.1 < 120 then some (e.1 - 59) else c.memDomain a) != some d)).filter fun e => e.2 != [] }

end Sys2Proof.Machine
end

