-- ==== Sys2Proof/Machine/Ach.lean ====
section
/-! DEFINITION. Antenna channels (spec/05_antenna_channels.md): carriers and their symbols, the checks of a commit, service
states, the gain loop, transmit windows. The commands of the channels are in Machine/AchCmds.lean. -/
namespace Sys2Proof.Machine

/-- Channel state beside the registers. -/
def Chip.achX (c : Chip) (n : Nat) : AchX := Tbl.get c.ach.chans n {}

/-- Set it. -/
def Chip.setAch (c : Chip) (n : Nat) (x : AchX) : Chip :=
  c.withAch { c.ach with chans := Tbl.set c.ach.chans n x {} }

/-- Change it. -/
def Chip.updAch (c : Chip) (n : Nat) (f : AchX → AchX) : Chip := c.setAch n (f (c.achX n))

/-- Link of a channel (R23). -/
def achLink (n : Nat) : Nat := n / 16

/-- Channels of a radio link. -/
def linkChans (l : Nat) : List Nat := (List.range 16).map (16 * l + ·)

/-! ## Carriers and numerology (R148–R151) -/

/-- TYPE of a carrier word. -/
def ccType (w : Nat) : Nat := bits w 63 61
/-- SCS. -/
def ccScs (w : Nat) : Nat := bits w 60 59
/-- CP_EXT. -/
def ccExt (w : Nat) : Bool := bit w 58
/-- CELL. -/
def ccCell (w : Nat) : Nat := bits w 57 53
/-- HOST_CC. -/
def ccHost (w : Nat) : Nat := bits w 52 50
/-- N_RB. -/
def ccRb (w : Nat) : Nat := bits w 37 29
/-- BW in 100 kHz. -/
def ccBw (w : Nat) : Nat := bits w 28 18
/-- CF_OFFSET in 5 kHz. -/
def ccCf (w : Nat) : Int := sx 18 w
/-- Lower and upper edge in 5 kHz units. -/
def ccLo (w : Nat) : Int := ccCf w - 10 * ccBw w
/-- Upper edge. -/
def ccHi (w : Nat) : Int := ccCf w + 10 * ccBw w
/-- N_BUF of a pool word. -/
def cpBuf (w : Nat) : Nat := bits w 63 58
/-- UL_OFF. -/
def cpUl (w : Nat) : Nat := bits w 55 36
/-- DL_OFF. -/
def cpDl (w : Nat) : Nat := bits w 35 16
/-- STRIDE. -/
def cpStride (w : Nat) : Nat := bits w 15 0

/-- Subcarrier spacing in units of 3.75 kHz. -/
def scsUnits (scs : Nat) : Nat := if scs = 3 then 1 else 4 * 2 ^ scs

/-- Occupied subcarriers. -/
def ccSc (w : Nat) : Nat := 12 * ccRb w

/-- Smallest power of two, `a` or a doubling of it, that is at least 1.2 × N_SC. -/
def fftFit (fuel a nsc : Nat) : Nat :=
  match fuel with
  | 0 => a
  | n + 1 => if 6 * nsc ≤ 5 * a then a else fftFit n (2 * a) nsc

/-- FFT size (R150). -/
def ccFft (w : Nat) : Nat :=
  if ccType w = 3 then (if ccScs w = 3 then 512 else 128)
  else fftFit (if ccType w = 2 then 4 else 5) 128 (ccSc w)

/-- TYPE, SCS, N_RB and CP_EXT lie in the numerology table and the resource blocks in BW (R148, first row). -/
def ccOk (w : Nat) : Bool :=
  let rb := ccRb w
  (match ccType w with
    | 0 => true
    | 1 =>
      (ccScs w == 0 && 1 ≤ rb && rb ≤ 270 && !ccExt w) || (ccScs w == 1 && 1 ≤ rb && rb ≤ 273 && !ccExt w)
        || (ccScs w == 2 && 1 ≤ rb && rb ≤ 135)
    | 2 => ccScs w == 0 && 6 ≤ rb && rb ≤ 100
    | 3 => (ccScs w == 0 || ccScs w == 3) && rb == 1 && !ccExt w
    | _ => false)
  && (ccType w == 0 || ccSc w * scsUnits (ccScs w) * 375 ≤ ccBw w * 10000)

/-- Symbols in a slot (R150). -/
def ccSlotSyms (w : Nat) : Nat :=
  if ccType w = 1 then (if ccExt w then 12 else 14) else if ccType w = 2 && ccExt w then 6 else 7

/-- Ticks in a slot. -/
def ccSlotTicks (w : Nat) : Nat :=
  if ccType w = 1 then 30720 / 2 ^ ccScs w else if ccType w = 3 && ccScs w = 3 then 61440 else 15360

/-- Ticks in a frame (R445). -/
abbrev frameTicks : Nat := 307200

/-- Symbols in a frame. -/
def ccSyms (w : Nat) : Nat := frameTicks / ccSlotTicks w * ccSlotSyms w

/-- Ticks from the frame boundary to the start of symbol `s` of the frame (R150): one tick is one sample at
30.72 Msps. -/
def symStart (w s : Nat) : Nat :=
  if ccType w = 1 then
    if ccExt w then s * (2560 / 2 ^ ccScs w)
    else s * (2192 / 2 ^ ccScs w) + 16 * ((s + 7 * 2 ^ ccScs w - 1) / (7 * 2 ^ ccScs w))
  else if ccType w = 3 && ccScs w = 3 then s * 8448 + s / 7 * 2304
  else if ccExt w then s * 2560
  else s * 2192 + 16 * ((s + 6) / 7)

/-- Ticks in symbol `s`. -/
def symTicks (w s : Nat) : Nat :=
  if ccType w = 3 && ccScs w = 3 then 8448 else symStart w (s + 1) - symStart w s

/-- Ticks in the normal cyclic prefix of a carrier's type and spacing, which R161 compares with the ramp, on a carrier with
extended prefixes too. -/
def ccCp (w : Nat) : Nat :=
  if ccType w = 3 && ccScs w = 3 then 256 else 144 / 2 ^ (if ccType w = 1 then ccScs w else 0)

/-- The word of a carrier's downlink: that of an NB-IoT carrier has 15 kHz, whatever SCS says of its uplink (R150). -/
def dlWord (w : Nat) : Nat := if ccType w = 3 && ccScs w = 3 then w - 3 * 2 ^ 59 else w

/-- Bytes in a symbol buffer (R151). -/
def symBufBytes (w : Nat) : Nat := 16 * ((ccSc w + 3) / 4) + 16

/-! ## Checks of a commit (R148, R160, R161) -/

/-- Carriers in use. -/
def AchCfg.used (g : AchCfg) : List (Nat × Nat × Nat) :=
  (g.cc.filter fun (e : Nat × Nat × Nat) => ccType e.2.1 != 0)

/-- Carrier word `n`. -/
def AchCfg.ccw (g : AchCfg) (n : Nat) : Nat := (Tbl.get g.cc n (0, 0)).1

/-- Pool word `n`. -/
def AchCfg.pool (g : AchCfg) (n : Nat) : Nat := (Tbl.get g.cc n (0, 0)).2

/-- NR and LTE carriers. -/
def isMain (w : Nat) : Bool := ccType w == 1 || ccType w == 2

/-- Every two of a list satisfy a relation. -/
def pairsAll {α : Type} (p : α → α → Bool) (l : List α) : Bool :=
  match l with
  | [] => true
  | a :: r => r.all (p a) && pairsAll p r

/-- An NB-IoT carrier's host is an LTE carrier of the set and its band lies inside the host or within 200 kHz of its
edge: read as a gap of at most 200 kHz between the host's band and the carrier's, so that a band across the edge passes too
(DESIGN CHOICE, log entry 65). -/
def AchCfg.nbOk (g : AchCfg) (w : Nat) : Bool :=
  let h := g.ccw (ccHost w)
  ccType h == 2 && ccLo h - 40 ≤ ccHi w && ccLo w ≤ ccHi h + 40

/-- A carrier's symbol rings are well placed (R148, last row). -/
def poolOk (w p : Nat) : Bool :=
  cpBuf p != 0 && ccSyms w % cpBuf p == 0 && symBufBytes w ≤ 128 * cpStride p
    && inPool (0x300000000 + 128 * cpUl p) ((cpBuf p - 1) * 128 * cpStride p + symBufBytes w)
    && inPool (0x300000000 + 128 * cpDl p) ((cpBuf p - 1) * 128 * cpStride p + symBufBytes w - 16)

/-- Lowest and highest edge of the set, in 5 kHz units. -/
def AchCfg.span (g : AchCfg) : Int × Int :=
  g.used.foldl (fun (a : Int × Int) e => (min a.1 (ccLo e.2.1), max a.2 (ccHi e.2.1)))
    (match g.used with | [] => (0, 0) | e :: _ => (ccLo e.2.1, ccHi e.2.1))

/-- The statuses that speak against a carrier set on a link at a rate (R148). -/
def AchCfg.ccFaults (g : AchCfg) (rate version : Nat) : List Status :=
  let ws := g.used.map fun (e : Nat × Nat × Nat) => e.2.1
  let lim : Int := if rate = 0 then 40000 else 20000
  let bad := !(g.cc.all fun (e : Nat × Nat × Nat) => ccOk e.2.1)
    || !pairsAll (fun a b => !(isMain a && isMain b && ccLo a < ccHi b && ccLo b < ccHi a)) ws
    || !pairsAll (fun a b => ccCell a != ccCell b) ws
    || !(ws.all fun w => ccType w != 3 || g.nbOk w)
    || !(ws.all fun w => -lim ≤ ccLo w && ccHi w ≤ lim)
    || 133120 < ws.foldl (fun n w => n + ccFft w * scsUnits (ccScs w)) 0
    || !(g.used.all fun (e : Nat × Nat × Nat) => poolOk e.2.1 e.2.2)
  (if bad then [.badDescriptor] else [])
    ++ (if (version = 1 || version = 2) && 40000 < (g.span.2 - g.span.1) then [.versionMismatch] else [])

/-- Tick of a window's PA enable and PA disable edges, relative to the period (R162). -/
def AchCfg.paOn (g : AchCfg) (w : Nat × Nat) : Int := (w.1 : Int) - g.lead
/-- PA disable edge. -/
def AchCfg.paOff (g : AchCfg) (w : Nat × Nat) : Int := w.2 + g.ramp + g.lag

/-- The windows follow one another without overlap, PA edges in order (R160). -/
def AchCfg.winsOk (g : AchCfg) : Bool :=
  let ws := g.wins.map fun (e : Nat × Nat × Nat) => e.2
  ws.all (fun (w : Nat × Nat) => w.1 < w.2 && w.2 ≤ g.period)
    && (List.zip ws (ws.drop 1)).all (fun (p : (Nat × Nat) × (Nat × Nat)) =>
      p.1.2 ≤ p.2.1 && g.paOff p.1 < g.paOn p.2)
    && (match ws.head?, ws.getLast? with
      | some a, some z => g.paOff z < g.paOn a + g.period
      | _, _ => true)

/-- The ramp rule (R161). -/
def AchCfg.rampOk (g : AchCfg) : Bool :=
  1 ≤ g.ramp && g.ramp ≤ 64 && g.used.all fun (e : Nat × Nat × Nat) => g.ramp ≤ ccCp e.2.1

/-- The shadow registers of a channel as a configuration (R152). -/
def Chip.shadowCfg (c : Chip) (n : Nat) : AchCfg :=
  { cc := (List.range 8).filterMap fun k =>
      let w := c.rdFields G.ACH_CC_CFG.fields n k
      let p := c.rdFields G.ACH_CC_POOL.fields n k
      if w = 0 && p = 0 then none else some (k, w, p)
    origin := c.rd F.ACH_TDD_CFG_ORIGIN n
    period := c.rd F.ACH_TDD_CFG_PERIOD n
    wins := (List.range 8).filterMap fun w =>
      if c.flag F.ACH_TDD_WIN_EN n w then some (w, c.rd F.ACH_TDD_WIN_START n w, c.rd F.ACH_TDD_WIN_END n w) else none
    lead := c.rd F.ACH_RAMP_CFG_PA_LEAD n
    lag := c.rd F.ACH_RAMP_CFG_PA_LAG n
    ramp := c.rd F.ACH_RAMP_CFG_RAMP_TICKS n
    emerg := c.rd F.ACH_RAMP_CFG_EMERG_TICKS n
    thr := c.rd F.ACH_CFR_CFG_THR n
    iter := c.rd F.ACH_CFR_CFG_ITER n }

/-- The set in force of a channel does not fit its link as trained: the statuses (R113, R114, R148). -/
def Chip.fitFaults (c : Chip) (n : Nat) : List Status :=
  let l := achLink n
  let rate := c.rd F.ECV_SAMPLE_CFG_RATE l
  c.cfgFaults l (c.rd F.ECV_SAMPLE_CFG_MANT l) rate
    ++ (c.achX n).cfg.ccFaults rate (c.rd F.ECV_LINK_STAT_VERSION l)

/-- The link is up and the set in force fits it. -/
def Chip.achFits (c : Chip) (n : Nat) : Bool := c.lkUp (achLink n) && (c.fitFaults n).isEmpty

/-! ## Frames and symbols -/

/-- The first frame boundary at or after a tick. -/
def Chip.frameAt (c : Chip) (t : Nat) : Nat :=
  let d := tickDiff t c.tick + cntSub c.tick c.ach.frameTick
  if d ≤ 0 then c.ach.frameTick
  else tickAdd c.ach.frameTick ((d.toNat + frameTicks - 1) / frameTicks * frameTicks)

/-- The first symbol of a carrier that begins at or after a tick. -/
def Chip.symAt (c : Chip) (w t : Nat) : Nat :=
  let d := (tickDiff t c.ach.frameTick).toNat
  let r := d % frameTicks
  let s := ((List.range (ccSyms w)).find? fun s => r ≤ symStart w s).getD (ccSyms w)
  let off := if s = ccSyms w then frameTicks else symStart w s
  tickAdd c.ach.frameTick (d / frameTicks * frameTicks + off)

/-- Reference carrier (R154): REF_CC if it is NR or LTE, else the lowest NR or LTE carrier. -/
def Chip.refCarrier (c : Chip) (n : Nat) : Option Nat :=
  let g := (c.achX n).cfg
  let w := g.ccw (c.rd F.ACH_GAIN_CFG_REF_CC n)
  if isMain w then some w else (g.used.map fun (e : Nat × Nat × Nat) => e.2.1).find? isMain

/-! ## Gain (R153–R158) -/

/-- Code limits of a channel. -/
def Chip.clampCode (c : Chip) (n code : Nat) : Nat :=
  let lo := c.rd F.ACH_GAIN_CFG_MIN_CODE n
  min (max lo (c.rd F.ACH_GAIN_CFG_MAX_CODE n)) (max lo code)

/-- Issue a step to a code, decided at instant `e` (R156): the step tick, the GAIN_SET, STEP_PEND. -/
def Chip.gainStep (c : Chip) (n code e : Nat) : Chip :=
  match c.refCarrier n with
  | none => c
  | some w =>
    let l := achLink n
    let s := c.symAt w (tickAdd e 523)
    let t := if c.rd F.ECV_SAMPLE_CFG_RATE l = 0 then s else tickAdd s (s % 2)
    let c := c.updAch n fun x => { x with step := some (code, t), dnRun := 0 }
    (c.wr F.ACH_GAIN_STAT_STEP_PEND 1 n).sbSend l (sbMsg 0x10 (n % 16) t code)

/-- Peak against a threshold in quarters of a dB below full scale, exactly: 20·log10 (peak / 32,767) ≥ thr / 4. -/
def peakAtLeast (peak : Nat) (thr : Int) : Bool :=
  if 0 ≤ thr then 32767 ^ 80 * 10 ^ thr.toNat ≤ peak ^ 80 else 32767 ^ 80 ≤ peak ^ 80 * 10 ^ (-thr).toNat

/-- The decision of R155 on a measured peak: the new code and the DN_HOLD run. -/
def Chip.gainDecide (c : Chip) (n peak : Nat) : Nat × Nat :=
  let code := c.rd F.ACH_GAIN_STAT_CODE n
  let lo := c.rd F.ACH_GAIN_CFG_MIN_CODE n
  let hi := max lo (c.rd F.ACH_GAIN_CFG_MAX_CODE n)
  let up := sx 8 (c.rd F.ACH_GAIN_CFG_UP_THR n)
  let dn := min (sx 8 (c.rd F.ACH_GAIN_CFG_DN_THR n)) (up - 24)
  let run := (c.achX n).dnRun
  if c.flag F.ACH_GAIN_CFG_FREEZE n then (code, run)
  else if 32767 ≤ peak then (min hi (code + 2), 0)
  else if peakAtLeast peak up then (min hi (code + 1), 0)
  else if !peakAtLeast peak dn then
    if max 1 (c.rd F.ACH_GAIN_CFG_DN_HOLD n) ≤ run + 1 then (max lo (code - 1), 0) else (code, run + 1)
  else (code, 0)

/-! ## Service states (R167–R171) and transmission (R159–R164) -/

/-- Service states. -/
abbrev acOut : Nat := 0
abbrev acLeaving : Nat := 1
abbrev acConv : Nat := 2
abbrev acIn : Nat := 3

/-- Service state of a channel. -/
def Chip.svc (c : Chip) (n : Nat) : Nat := c.rd F.ACH_STAT_SVC_STATE n

/-- The untimed MUTE of a link (R163), which disables every PA of it. It is released when the link has trained again and on
the return to SERVICE (R123, R164); at the re-admission of the one channel it was sent for the spec asks for no release, and
none is sent (DESIGN CHOICE, log entry 39). -/
def Chip.muteLink (c : Chip) (l : Nat) : Chip :=
  (c.sbSend l (sbMsg 0x12 0xF 0 1)).updLink l fun x => { x with muted := true, leave := none }

/-- A transmit window of a channel is open: one that has begun, or with PERIOD 0 the continuous one, unless the tile is
muted (R159). -/
def Chip.onAir (c : Chip) (n : Nat) : Bool :=
  let x := c.achX n
  x.win.isSome || (x.cfg.period == 0 && c.svc n != acOut && !(c.link (achLink n)).muted)

/-- The emergency ramp starts; a channel with no open window mutes without one (R163). -/
def Chip.emergRamp (c : Chip) (n : Nat) : Chip :=
  let x := c.achX n
  if x.emer then c
  else if c.onAir n then
    (c.setAch n { x with emer := true, down := some (c.tick, max 1 x.cfg.emerg) }).emit
      (.radio n "emergency ramp" c.tick [max 1 x.cfg.emerg])
  else if (c.link (achLink n)).muted then c else c.muteLink (achLink n)

/-- The open window of a channel ends with its normal ramp, and its PA is disabled PA_LAG after it; with `mute` the tile is
muted from the same tick (R66, R161, R162, R164). The commands are queued at least 16 µs ahead (R118). -/
def Chip.rampClose (c : Chip) (mute : Bool) (n : Nat) : Chip :=
  let x := c.achX n
  let t := tickAdd c.tick (max leadTicks (x.cfg.ramp + x.cfg.lag))
  let c := c.when (c.onAir n && !x.emer) fun c =>
    (c.setAch n { x with win := none, down := some (c.tick, x.cfg.ramp) }).emit (.radio n "ramp down" c.tick [16 * x.cfg.ramp])
  let c := c.when x.pa fun c => (c.updAch n fun x => { x with pa := false }).sbSend (achLink n) (sbMsg 0x11 (n % 16) t 0)
  c.when (mute && !(c.link (achLink n)).muted) fun c =>
    (c.sbSend (achLink n) (sbMsg 0x12 0xF t 3)).updLink (achLink n) fun x => { x with muted := true, leave := none }

/-- A channel reaches OUT with a cause (R168). -/
def Chip.achOut (c : Chip) (n cause : Nat) : Chip :=
  if c.svc n = acOut then c
  else
    let c := c.emergRamp n
    let c := (c.wr F.ACH_STAT_SVC_STATE acOut n).wr F.ACH_STAT_LEAVE_CAUSE cause n
    let c := (c.wr F.ACH_CTRL_LEAVE 0 n).wr F.CAL_ANT_STAT_CONVERGED 0 n
    let t := c.tick
    (c.updAch n fun x => { x with convTick := none, step := none, dnRun := 0, outTick := some t }).wr
      F.ACH_GAIN_STAT_STEP_PEND 0 n

/-- The channels of a link leave service (R114, R124). -/
def Chip.chansOut (c : Chip) (l cause : Nat) : Chip := (linkChans l).foldl (fun c n => c.achOut n cause) c

/-- CONVERGING is entered (R169, step 2). -/
def Chip.achConverge (c : Chip) (n : Nat) : Chip :=
  let c := (c.wr F.ACH_STAT_SVC_STATE acConv n).wr F.ACH_STAT_ENABLE_PENDING 0 n
  let c := (c.wr F.ACH_CTRL_READMIT 0 n).wr F.CAL_ANT_STAT_CONVERGED 0 n
  let a := Tbl.get c.cal.ants n {}
  let c := c.withCal { c.cal with
    since := if c.cal.cut && !c.cal.since.contains n then n :: c.cal.since else c.cal.since
    ants := Tbl.set c.cal.ants n { a with periods := 0, pairOk := false, sweepOk := false, lost := false } {} }
  c.updAch n fun x => { x with convTick := some c.tick, loadCoef := true, dnRun := 0 }

/-- Re-admission may start: SERVICE or SHED, the link up, the set fitting (R169). -/
def Chip.achMayStart (c : Chip) (n : Nat) : Bool := (c.mode == mService || c.mode == mShed) && c.achFits n

/-- A held READMIT starts if it may. -/
def Chip.achHeld (c : Chip) (n : Nat) : Chip :=
  if c.flag F.ACH_STAT_ENABLE_PENDING n && c.svc n == acOut && c.achMayStart n then c.achConverge n else c

/-- A MUTE release timed for the first symbol boundary at least 16 µs ahead (R123, R164). -/
def Chip.releaseMute (c : Chip) (l : Nat) : Chip :=
  let t := tickAdd c.tick leadTicks
  let at_ := match (linkChans l).findSome? fun n => c.refCarrier n with
    | some w => c.symAt w t
    | none => t
  let c := (linkChans l).foldl (fun c n => c.updAch n fun x => if x.win.isNone && !x.emer then { x with up := none, down := none }
    else x) c
  (c.sbSend l (sbMsg 0x12 0xF at_ 2)).updLink l fun x => { x with muted := false, leave := some at_ }

/-- A link's tile has left MUTE: its release has been sent and has taken effect (R62, R123). -/
def Chip.leftMute (c : Chip) (l : Nat) : Bool :=
  !(c.link l).muted && (match (c.link l).leave with | some t => !tickLater t c.tick | none => true)

/-- GAIN_SET and PA_EN state of a link's sixteen antennas sent again (R123). -/
def Chip.resendState (c : Chip) (l : Nat) : Chip :=
  (linkChans l).foldl (fun c n =>
    let t := tickAdd c.tick leadTicks
    (c.sbSend l (sbMsg 0x10 (n % 16) t (c.rd F.ACH_GAIN_STAT_CODE n))).sbSend l
      (sbMsg 0x11 (n % 16) t (b2n (c.achX n).pa))) c

/-- The tick of the next edge of a window, at `off` from the period start (R159, R162). -/
def Chip.nextEdge (c : Chip) (g : AchCfg) (off : Int) : Nat :=
  let p : Int := max 1 g.period
  let d := (tickDiff g.origin c.tick + off) % p
  tickAdd c.tick d.toNat

end Sys2Proof.Machine
end

