-- ==== Sys2Proof/Machine/Cal.lean ====
section
/-! DEFINITION. The calibration store and the coefficients of the Steamer (spec/09_live_calibration.md): the bytes of an
area, loading a channel's entry, the sets a save or an import writes, updates within the step limit. -/
namespace Sys2Proof.Machine

/-! ## The store (R255–R257) -/

/-- Bytes in the store. -/
abbrev storeBytes : Nat := 0x100000

/-- Byte of the set written at manufacture: header, unit coefficients, no valid entry (R255, R257; log entry 41). -/
def Chip.factoryByte (c : Chip) (off : Nat) : Nat :=
  if off < 4 then 0x4C435453 / 256 ^ off % 256
  else if off = 4 then 1
  else if off = 6 then 0x3F
  else if 16 ≤ off && off < 24 then c.rd F.TRUST_DEV_ID_DEV_ID / 256 ^ (off - 16) % 256
  else if 0x20000 ≤ off && off < 0x40000 && off % 4 = 1 then 0x40
  else 0

/-- Area `k` of the store flash. -/
def Chip.area (c : Chip) (k : Nat) : StoreArea := Tbl.get c.cal.areas k {}

/-- A byte of an area. -/
def Chip.areaByte (c : Chip) (a : StoreArea) (off : Nat) : Nat :=
  (Tbl.get a.bytes off (BitVec.ofNat 8 (if a.factory then c.factoryByte off else 0))).toNat

/-- `n` bytes of an area as a little-endian value. -/
def Chip.areaVal (c : Chip) (a : StoreArea) (off n : Nat) : Nat :=
  match n with
  | 0 => 0
  | m + 1 => c.areaByte a off + 256 * c.areaVal a (off + 1) m

/-- The area the calibration-store pointer names (CAL_STORE_STAT.AREA). -/
def Chip.storeIn (c : Chip) : StoreArea := c.area (c.rd F.CAL_STORE_STAT_AREA)

/-- Digest of an area: SHA-384 of the whole, the digest's own bytes taken as zero (R257). -/
def Chip.storeDigest (c : Chip) (a : StoreArea) : Nat :=
  (Config.sha384 ((List.range storeBytes).map fun k =>
    BitVec.ofNat 8 (if 64 ≤ k && k < 112 then 0 else c.areaByte a k))).toNat

/-- CAL_STORE_STAT as the set in force has it. -/
def Chip.showStore (c : Chip) : Chip :=
  let a := c.storeIn
  let c := (c.wr F.CAL_STORE_STAT_WRITES (c.areaVal a 8 4)).wr F.CAL_STORE_STAT_FORMAT (c.areaByte a 4)
  c.wr F.CAL_STORE_STAT_ORIGIN (c.areaByte a 5)

/-- The CAL_STORE_DIGEST registers as the set in force has them. -/
def Chip.showDigest (c : Chip) : Chip :=
  let d := c.storeDigest c.storeIn
  (List.range 6).foldl (fun c k => c.wr F.CAL_STORE_DIGEST_DIGEST (d / 2 ^ (64 * k)) k) c

/-- The check at entry to VERIFY (R258). -/
def Chip.storeCheck (c : Chip) : Chip :=
  let a := c.storeIn
  let bad := c.areaVal a 0 4 != 0x4C435453 || c.areaByte a 4 != 1
    || c.areaVal a 16 8 != c.rd F.TRUST_DEV_ID_DEV_ID || !a.intact
  if bad then
    let st := if c.areaVal a 0 4 = 0x4C435453 && c.areaByte a 4 ≠ 1 then Status.versionMismatch else .badDescriptor
    let c := c.withCal { c.cal with checked := false }
    (c.wr F.CAL_STAT_STORE_BAD 1).post st srcCal evCal (5 + 0x1FF * 2 ^ 8) 0
  else
    ((c.withCal { c.cal with checked := true }).wr F.CAL_STAT_STORE_BAD 0).showStore.showDigest

/-! ## Loading an entry (R254) -/

/-- One component of a coefficient moved by its slope: Q2.14 plus slope (2^-20 per °C) times eighths of a degree. -/
def slopeAdd (v slope : Nat) (dt : Int) : Nat := toBits 16 (satS 16 (roundDrop 9 (sx 16 v * 512 + sx 16 slope * dt)))

/-- A coefficient moved by its slope. -/
def coefMove (v slope : Nat) (dt : Int) : Nat := slopeAdd v slope dt + slopeAdd (v / 2 ^ 16) (slope / 2 ^ 16) dt * 2 ^ 16

/-- Steamer state of an antenna. -/
def Chip.calAnt (c : Chip) (n : Nat) : CalAnt := Tbl.get c.cal.ants n {}

/-- Set it. -/
def Chip.setCalAnt (c : Chip) (n : Nat) (a : CalAnt) : Chip :=
  c.withCal { c.cal with ants := Tbl.set c.cal.ants n a {} }

/-- Coefficients 1.0 and nominal gain factors for a channel. -/
def Chip.unitCoefs (c : Chip) (n : Nat) : Chip :=
  c.withRegs (Tbl.eraseIf c.regs fun k =>
    let f := k / 2 ^ 32
    k / 2 ^ 16 % 2 ^ 16 == n
      && (f == F.CAL_COEF_TX.id || f == F.CAL_COEF_RX.id || f == F.ACH_GAIN_COMP_FACTOR.id))

/-- Slope of antenna `n` in subband `k`, 8 bytes in the layout of CAL_COEF: in force, else as stored. -/
def Chip.slope (c : Chip) (n k : Nat) : Nat :=
  Tbl.get c.cal.slopes (64 * n + k) (if c.cal.checked then c.areaVal c.storeIn (0x40000 + 0x200 * n + 8 * k) 8 else 0)

/-- Every coefficient of a channel moved by its slope over `dt` eighths of a degree. -/
def Chip.moveCoefs (c : Chip) (n : Nat) (dt : Int) : Chip :=
  (List.range 64).foldl (fun c k =>
    let s := c.slope n k
    if s = 0 then c
    else
      (c.wr F.CAL_COEF_RX (coefMove (c.rd F.CAL_COEF_RX n k) s dt) n k).wr F.CAL_COEF_TX
        (coefMove (c.rd F.CAL_COEF_TX n k) (s / 2 ^ 32) dt) n k) c

/-- Nothing more is to be reached for a channel, and no sweep's reference counts for it. -/
def Chip.dropWants (c : Chip) (n : Nat) : Chip :=
  let mine (k : Nat) : Bool := k / 64 == n
  c.withCal { c.cal with
    wantTx := Tbl.eraseIf c.cal.wantTx mine, wantRx := Tbl.eraseIf c.cal.wantRx mine, tRef := Tbl.eraseIf c.cal.tRef mine }

/-- A channel loads its stored entry, adjusted to the tile's temperature; one that is not valid gives unit coefficients,
nominal gain factors and NO_STORE (R254). -/
def Chip.calLoad (c : Chip) (n : Nat) : Chip :=
  let a := c.storeIn
  let e := c.areaVal a (0x10000 + 16 * n) 8
  let c := c.unitCoefs n
  let c := c.dropWants n
  let now := (c.calAnt n).temp
  let c := c.setCalAnt n { c.calAnt n with tempUsed := now }
  if c.cal.checked && bit e 0 then
    let c := (List.range 64).foldl (fun c k =>
      let v := c.areaVal a (0x20000 + 0x200 * n + 8 * k) 8
      (c.wr F.CAL_COEF_RX v n k).wr F.CAL_COEF_TX (v / 2 ^ 32) n k) c
    let c := c.moveCoefs n (now - sx 16 (e / 2 ^ 16))
    let c := (List.range 16).foldl (fun c k =>
      c.wr F.ACH_GAIN_COMP_FACTOR (c.areaVal a (0x60000 + 0x40 * n + 4 * k) 4) n k) c
    let iq := c.areaVal a (0x64000 + 16 * n) 8
    ((c.wr F.ACH_IQ_CFG_RX_BETA iq n).wr F.ACH_IQ_CFG_TX_BETA (iq / 2 ^ 32) n).wr F.CAL_ANT_STAT_NO_STORE 0 n
  else c.wr F.CAL_ANT_STAT_NO_STORE 1 n

/-! ## Writing a set (R259, R263) -/

/-- Bytes of an area from an offset on. -/
def putBytes (t : Tbl Byte) (off : Nat) (l : List Byte) : Tbl Byte :=
  match l with
  | [] => t
  | b :: r => putBytes (Tbl.set t off b 0) (off + 1) r

/-- The section of an offset (R257): 0 trims, 1 entries, coefficients and slopes, 2 gain, 3 IQ, 4 ratios, 5 user. -/
def sectionOf (off : Nat) : Nat :=
  if off < 0x10000 then 0 else if off < 0x60000 then 1 else if off < 0x64000 then 2 else if off < 0x65000 then 3
  else if off < 0x80000 then 4 else 5

/-- The values in force of a channel written into a set (R259, step 1). -/
def Chip.snapshot (c : Chip) (t : Tbl Byte) (n : Nat) : Tbl Byte :=
  let e := 1 + toBits 16 (c.calAnt n).temp * 2 ^ 16 + c.tick * 2 ^ 32
  let t := putBytes t (0x10000 + 16 * n) (toBytes 16 e)
  let t := (List.range 64).foldl (fun t k =>
    let t := putBytes t (0x20000 + 0x200 * n + 8 * k) (toBytes 8 (c.rd F.CAL_COEF_RX n k + c.rd F.CAL_COEF_TX n k * 2 ^ 32))
    let t := putBytes t (0x40000 + 0x200 * n + 8 * k) (toBytes 8 (c.slope n k))
    putBytes t (0x70000 + 0x100 * n + 4 * k) (toBytes 4 (Tbl.get c.cal.rho (64 * n + k) 0))) t
  let t := (List.range 16).foldl (fun t k =>
    putBytes t (0x60000 + 0x40 * n + 4 * k) (toBytes 4 (c.rd F.ACH_GAIN_COMP_FACTOR n k))) t
  putBytes t (0x64000 + 16 * n) (toBytes 16 (c.rd F.ACH_IQ_CFG_RX_BETA n + c.rd F.ACH_IQ_CFG_TX_BETA n * 2 ^ 32))

/-- The set in force as plain bytes. -/
def Chip.storeTable (c : Chip) : Tbl Byte :=
  let a := c.storeIn
  if a.factory then
    (List.range storeBytes).filterMap fun k =>
      let v := c.areaByte a k
      if v = 0 then none else some (k, BitVec.ofNat 8 v)
  else a.bytes

/-- The set that a save or an import writes, without its digest (R257, R259, R263). -/
def Chip.newSet (c : Chip) (o : StoreOp) : Tbl Byte :=
  let cur := (List.range 256).foldl (fun t n => if c.svc n = acIn then c.snapshot t n else t) c.storeTable
  let t := match o with
    | .save => cur
    | .import_ img sec _ =>
      (cur.filter fun (e : Nat × Byte) => !bit sec (sectionOf e.1)) |>.foldl (fun t (e : Nat × Byte) => Tbl.set t e.1 e.2 0)
        (img.filter fun (e : Nat × Byte) => 0x1000 ≤ e.1 && bit sec (sectionOf e.1))
  let t := Tbl.eraseIf t (· < 0x1000)
  putBytes t 0 (toBytes 4 0x4C435453 ++ toBytes 4 (1 + 1 * 2 ^ 8 + 0x3F * 2 ^ 16)
    ++ toBytes 8 (c.areaVal c.storeIn 8 8 + 1) ++ toBytes 8 (c.rd F.TRUST_DEV_ID_DEV_ID)
    ++ toBytes 8 (c.taiSec.getD (c.rd F.TIME_TOD_TOD)))

/-- A store operation starts, or is held while another runs or a flash action does (R261, R487); a save held already is
not held twice (R18). -/
def Chip.storeStart (c : Chip) (o : StoreOp) : Chip :=
  if c.cal.op.isSome || c.rd F.CAL_STORE_STAT_BUSY != 0 || c.flag F.TRUST_STATUS_FLASH_BUSY then
    let c := c.wr F.CAL_STORE_STAT_ENABLE_PENDING 1
    if o = .save && c.cal.held.contains .save then c
    else c.withCal { c.cal with held := c.cal.held ++ [o] }
  else
    let c := c.wr F.CAL_STORE_STAT_BUSY (match o with | .save => 1 | .import_ _ _ _ => 2)
    c.withCal { c.cal with op := some (o, c.newSet o) }

/-- Write the set in force to the buffer of an export command, unless its outputs are discarded (R56, R99, R262). -/
def Chip.storeExport (c : Chip) (h : HostCmd) : Chip :=
  if h.discard || c.dev.pcieDiscard then c
  else
  let t := c.storeTable
  let lo := hostBase + h.w1 % 2 ^ 64
  let c := c.withMem (Tbl.eraseIf c.mem fun k => lo ≤ k && k < lo + storeBytes)
  let c := t.foldl (fun c (e : Nat × Byte) => c.wrBytes (lo + e.1) [e.2]) c
  c.wrBytes (lo + 64) (toBytes 48 (c.storeDigest c.storeIn))

/-! ## Updates within the step limit (R240) -/

/-- Squared magnitude of a ce16. -/
def magSq (v : Nat) : Int := sx 16 v * sx 16 v + sx 16 (v / 2 ^ 16) * sx 16 (v / 2 ^ 16)

/-- An update changes a coefficient by no more than 0.05 dB in magnitude and 0.25° in phase: squared magnitudes within a
factor 1.011579, and the squared sine of the angle within 1.9038 × 10^-5. -/
def stepOk (old new : Nat) : Bool :=
  let a := magSq old
  let b := magSq new
  let dot := sx 16 old * sx 16 new + sx 16 (old / 2 ^ 16) * sx 16 (new / 2 ^ 16)
  let crs := sx 16 old * sx 16 (new / 2 ^ 16) - sx 16 (old / 2 ^ 16) * sx 16 new
  b * 1000000 ≤ a * 1011579 && a * 1000000 ≤ b * 1011579 && 0 < dot && crs * crs * 10000000 ≤ a * b * 190

/-- A coefficient `1 / 2 ^ j` of the way to another. -/
def partWay (j old new : Nat) : Nat :=
  cxBits 16 (cxAdd (cxOf 16 old) (cxRound j (cxSub (cxOf 16 new) (cxOf 16 old))))

/-- The coefficient that one update reaches: the one wanted, for a channel in CONVERGING or OUT in full; for one in IN or LEAVING
the greatest of the whole, a half, a quarter and so on of the way that the limit allows (R240; DESIGN CHOICE, log entry 80). -/
def stepTo (limit : Bool) (old new : Nat) : Nat :=
  if !limit then new
  else match (List.range 16).find? fun j => stepOk old (partWay j old new) with
    | some j => partWay j old new
    | none => old

/-- Some carrier of a channel overlaps a subband (R240): subband k from −40,000 + 1,250 k, in 5 kHz units. -/
def AchCfg.inBand (g : AchCfg) (k : Nat) : Bool :=
  g.used.any fun (e : Nat × Nat × Nat) =>
    ccLo e.2.1 < -40000 + 1250 * (k + 1 : Int) && -40000 + 1250 * (k : Int) < ccHi e.2.1

/-- A subband carries samples: every one at RATE 0, 16 to 47 at RATE 1 (R240). -/
def Chip.bandUsed (c : Chip) (n k : Nat) : Bool :=
  (c.rd F.ECV_SAMPLE_CFG_RATE (achLink n) == 0 || (16 ≤ k && k ≤ 47)) && (c.achX n).cfg.inBand k

/-- The transmit coefficient in force, or the one to be reached. -/
def Chip.goalTx (c : Chip) (n k : Nat) : Nat := (Tbl.get c.cal.wantTx (64 * n + k) none).getD (c.rd F.CAL_COEF_TX n k)
/-- The receive coefficient in force, or the one to be reached. -/
def Chip.goalRx (c : Chip) (n k : Nat) : Nat := (Tbl.get c.cal.wantRx (64 * n + k) none).getD (c.rd F.CAL_COEF_RX n k)

/-- Ask for a transmit coefficient. -/
def Chip.askTx (c : Chip) (n k v : Nat) : Chip :=
  c.withCal { c.cal with wantTx := Tbl.set c.cal.wantTx (64 * n + k) (some v) none }
/-- Ask for a receive coefficient. -/
def Chip.askRx (c : Chip) (n k v : Nat) : Chip :=
  c.withCal { c.cal with wantRx := Tbl.set c.cal.wantRx (64 * n + k) (some v) none }

/-- A Q2.14 value times a quotient of complex values, rounded half up and saturated (R11, R12); none where the divisor is 0. -/
def coefTimes (v : Cx) (num den : Cx) : Option Nat :=
  let d := (cxMag den : Int)
  if d = 0 then none
  else
    let y := cxProd (cxProd v num) (cxConj den)
    some (cxBits 16 (cxSat 16 (roundDiv y.1 d, roundDiv y.2 d)))

/-- Every coefficient of a channel is to move by its slope over `dt` eighths of a degree (R249), within the step limit. -/
def Chip.askMove (c : Chip) (n : Nat) (dt : Int) : Chip :=
  (List.range 64).foldl (fun c k =>
    let s := c.slope n k
    if s = 0 then c
    else (c.askRx n k (coefMove (c.goalRx n k) s dt)).askTx n k (coefMove (c.goalTx n k) (s / 2 ^ 32) dt)) c

/-- A mode change or a change of the shed stage cuts the despread periods short (R243). -/
def Chip.calCut (c : Chip) : Chip := c.withCal { c.cal with cut := true, since := [] }

/-- The last CAL_SW code of some antennas of a link. -/
def Chip.noteSw (c : Chip) (l ant code : Nat) : Chip :=
  (linkChans l).foldl (fun c n =>
    if ant = 15 || n % 16 = ant then c.setCalAnt n { c.calAnt n with sw := code } else c) c

/-- The Steamer stops: it sends NORMAL to every antenna that is not in it (R253). -/
def Chip.calHalt (c : Chip) : Chip :=
  ((List.range 256).foldl (fun c n =>
    if (c.calAnt n).sw = 0 then c
    else
      let c := c.setCalAnt n { c.calAnt n with sw := 0 }
      if c.lkUp (achLink n) then c.sbSend (achLink n) (sbMsg 0x13 (n % 16) (tickAdd c.tick leadTicks) 0) else c) c).calCut

/-- The shed stage. -/
def Chip.stage (c : Chip) : Nat := c.rd F.PWR_SHED_STAGE_STAGE

/-- The Steamer runs fully; it tracks the uplink (R253). -/
def Chip.calRun (c : Chip) : Bool := c.mode == mService && c.stage == 0
/-- Uplink tracking runs. -/
def Chip.calTrack (c : Chip) : Bool := c.mode == mService && c.stage ≤ 3

/-- CAL_STAT.STATE (R253). -/
def Chip.calState (c : Chip) : Nat :=
  if c.mode = mService then (if c.stage = 0 then 2 else if c.stage ≤ 3 then 3 else 4)
  else if c.mode = mShed || c.mode = mSoak || c.mode = mQuiesce then 4
  else if c.mode = mVerify && c.flag F.DEV_MODE_IN_TRANSITION && c.rd F.DEV_MODE_TARGET_MODE = mService then 1
  else 0

/-- Ticks in 200 ms (R169, R250). -/
abbrev convTicks : Nat := 6144000

/-- At the first symbol boundary of a slot of its reference carrier the coefficients of a channel go on to what they are to reach,
all of them together (R240); while the Steamer is held to uplink tracking the receive coefficients alone (R253). -/
def Chip.coefStep (c : Chip) (n : Nat) : Chip :=
  if !c.calTrack then c
  else
    let limit := c.svc n == acIn || c.svc n == acLeaving
    let before := c.regs
    let c := (List.range 64).foldl (fun c k =>
      let c := match Tbl.get c.cal.wantRx (64 * n + k) none with
        | some w =>
          let v := stepTo limit (c.rd F.CAL_COEF_RX n k) w
          let c := c.wr F.CAL_COEF_RX v n k
          c.when (v == w) fun c => c.withCal { c.cal with wantRx := Tbl.erase c.cal.wantRx (64 * n + k) }
        | none => c
      match c.calRun, Tbl.get c.cal.wantTx (64 * n + k) none with
      | true, some w =>
        let v := stepTo limit (c.rd F.CAL_COEF_TX n k) w
        let c := c.wr F.CAL_COEF_TX v n k
        c.when (v == w) fun c => c.withCal { c.cal with wantTx := Tbl.erase c.cal.wantTx (64 * n + k) }
      | _, _ => c) c
    c.when (before != c.regs) fun c => c.incMod F.CAL_CNT_UPDATES

/-- A channel converges (R250). -/
def Chip.calConverge (c : Chip) (n : Nat) : Chip :=
  let x := c.achX n
  let a := c.calAnt n
  let fdd := x.cfg.period == 0
  let mapped := match c.refCarrier n with
    | some w => c.rd F.CAL_ULREF_MAP_MAP (ccCell w) != 0
    | none => false
  match x.convTick with
  | none => c
  | some t =>
    if c.svc n == acConv && !c.flag F.CAL_ANT_STAT_CONVERGED n && (convTicks : Int) ≤ tickDiff c.tick t && a.pairOk
        && (if fdd then mapped else a.sweepOk) then
      (c.wr F.CAL_ANT_STAT_CONVERGED 1 n).post .ok srcCal evCal (1 + n * 2 ^ 8)
        (c.rd F.CAL_ANT_STAT_RES_PH n + c.rd F.CAL_ANT_STAT_RES_AMP n * 2 ^ 16)
    else c

end Sys2Proof.Machine
end

