-- ==== Sys2Proof/Machine/Chain.lean ====
section
/-! DEFINITION. The signal path of an antenna channel (R145): the receive steps that run as sample groups arrive, those of a
symbol, and the transmit steps down to the groups of a link. -/
namespace Sys2Proof.Machine

/-! ## Carriers in frequency (R146, R240) -/

/-- Twice the frequency in Hz of subcarrier `k` of a carrier from the channel's centre: the occupied subcarriers lie around
the carrier's centre, the lowest first (R150; log entry 40). -/
def scFreq2 (w k : Nat) : Int := 10000 * ccCf w + ((2 * k + 1 : Nat) - (ccSc w : Int)) * (3750 * scsUnits (ccScs w) : Nat)

/-- Subband of a subcarrier (R240). -/
def scBand (w k : Nat) : Nat := ((scFreq2 w k + 400000000) / 12500000).toNat

/-- The response of a carrier's channel filter at an offset in Hz from its centre, both directions alike: at most 0.05 dB of
ripple over the occupied subcarriers, 80 dB down from 0.5 MHz beyond the edge on, and free in between (R146). -/
def chanGain (w : Nat) (f : Int) : Nat :=
  let v := (Config.filterGain w f).toNat
  let a := f.natAbs
  if 2 * a ≤ ccSc w * 3750 * scsUnits (ccScs w) then 10 ^ 12 + v % (5773 * 10 ^ 6)
  else if 50000 * ccBw w + 500000 < a then v % 10 ^ 8
  else v

/-! ## Receive steps 1 to 5 -/

/-- The gain code in effect at a tick: a step under way takes effect at its step tick (R157). -/
def Chip.codeAt (c : Chip) (n t : Nat) : Nat :=
  let x := c.achX n
  let before (s : Option Nat) : Bool := match s with | some s => tickLater s t | none => false
  match x.step with
  | some (code, s) => if !tickLater s t then code else c.rd F.ACH_GAIN_STAT_CODE n
  | none => if before x.lastStep then x.prevCode else c.rd F.ACH_GAIN_STAT_CODE n

/-- A step takes effect within a span of ticks, its first one included (R151, R156). -/
def Chip.stepIn (c : Chip) (n t len : Nat) : Bool :=
  let x := c.achX n
  let in_ (s : Nat) : Bool := 0 ≤ tickDiff s t && tickDiff s t < len
  (match x.step with | some s => in_ s.2 | none => false) || (match x.lastStep with | some s => in_ s | none => false)

/-- DC removal over samples (R166): the estimate goes on and is taken off each sample while DC_EN is set. -/
def dcRemove (on : Bool) (tc : Nat) (d : Cx) (xs : List Cx) : Cx × List Cx :=
  match xs with
  | [] => (d, [])
  | x :: r =>
    let (e, ys) := dcRemove on tc (Config.dcNext tc d x) r
    (e, (if on then cxSat 24 (cxSub x d) else x) :: ys)

/-- The larger part of a sample without its sign. -/
def cxPeak (x : Cx) : Nat := max x.1.natAbs x.2.natAbs

/-- The sixteen samples of a channel out of a group through receive steps 1 to 5 (R145): at 245.76 Msps they give two
ticks. -/
def Chip.rxAnt (c : Chip) (l t data n : Nat) : Chip :=
  let mant := c.rd F.ECV_SAMPLE_CFG_MANT l
  let x := c.achX n
  let raw := (List.range 16).map (groupSample mant data (n % 16))
  let full := c.groupTicks l = 1
  let xs := if full then raw else (List.range 32).map (Config.interp2 x.last raw)
  let code := c.codeAt n t
  let f : Cx := (((Tbl.get x.comp code (nominalGain code) : Nat) : Int), 0)
  let (d, ys) := dcRemove (c.flag F.ACH_DC_CFG_DC_EN n) (c.rd F.ACH_DC_CFG_DC_TC n) x.dc
    (xs.map fun v => cxScale 24 f (cxSat 24 v))
  let zs := ys.map (iqCorrect x.rxBeta)
  let peak := raw.foldl (fun m v => max m (cxPeak v)) 0
  let new := if full then [⟨t, peak, zs⟩] else [⟨tickAdd t 1, peak, zs.drop 16⟩, ⟨t, peak, zs.take 16⟩]
  c.setAch n { x with
    dc := d, last := raw, taps := new ++ x.taps.filter fun e => tickDiff c.tick e.tick < frameTicks }

/-- A group that arrived intact goes through the chains of its sixteen channels. -/
def Chip.rxGroup (c : Chip) (l t data : Nat) : Chip := (linkChans l).foldl (fun c n => c.rxAnt l t data n) c

/-- Samples of a channel from a tick on become GAP (R158). -/
def Chip.tapsGap (c : Chip) (n t : Nat) : Chip :=
  c.updAch n fun x => { x with taps := x.taps.filter fun e => tickLater t e.tick }

/-- The ticks of a span that have samples. -/
def Chip.tapsIn (c : Chip) (n t len : Nat) : List TapTick :=
  (c.achX n).taps.filter fun e => 0 ≤ tickDiff e.tick t && tickDiff e.tick t < len

/-- Some sample of a span of ticks of a channel is GAP: it has not come intact (R122, R151). -/
def Chip.gapIn (c : Chip) (n t len : Nat) : Bool := (c.tapsIn n t len).length < len

/-- The samples of a span of ticks, zeros for GAP (R151). -/
def Chip.tapSamples (c : Chip) (n t len : Nat) : List Cx :=
  let have_ := c.tapsIn n t len
  (List.range len).flatMap fun k =>
    match have_.find? fun e => e.tick == tickAdd t k with
    | some e => e.x
    | none => List.replicate 16 (0, 0)

/-! ## Receive steps 6 to 9 -/

/-- A subcarrier of a symbol after receive steps 6 to 8: shift, filter and FFT, then the coefficient of its subband. -/
def Chip.rxSub (c : Chip) (n w : Nat) (xs : List Cx) (k : Nat) : Cx :=
  cxScale 14 (cxOf 16 (c.rd F.CAL_COEF_RX n (scBand w k))) (cxSat 24 (Config.rxBin w (chanGain w) xs k))

/-- The value written for a subcarrier, and whether it saturated (R147). -/
def fdScale (w : Nat) (x : Cx) : Nat × Bool :=
  let y := cxRound (bits w 49 46) x
  (cxBits 16 (cxSat 16 y), cxSat 16 y != y)

/-! ## Symbols of a carrier -/

/-- The configuration that governs a symbol that begins at a tick (R152, step 3). -/
def AchX.cfgAt (x : AchX) (t : Nat) : AchCfg :=
  match x.cfgTick with
  | some b => if tickLater b t then x.prevCfg else x.cfg
  | none => x.cfg

/-- The symbol of the frame during which a tick lies, for a carrier, and its first tick. -/
def Chip.symOf (c : Chip) (w t : Nat) : Nat × Nat :=
  let r := (tickDiff t c.ach.frameTick % (frameTicks : Int)).toNat
  let s := ((List.range (ccSyms w)).filter fun s => symStart w s ≤ r).length - 1
  (s, tickAdd t (tickMod - (r - symStart w s)))

/-- First tick of the slot of a symbol. -/
def slotTick (w s t : Nat) : Nat :=
  tickAdd t (tickMod - (symStart w s - symStart w (s / max 1 (ccSlotSyms w) * ccSlotSyms w)))

/-! ## Transmit steps 1 and 2 -/

/-- Words of the transmit buffer of a symbol (R151). -/
def Chip.txWords (c : Chip) (g : AchCfg) (cc sym : Nat) : Chip × List WordRead :=
  let p := g.pool cc
  c.readWords .fabric (0x300000000 + 128 * cpDl p + sym % max 1 (cpBuf p) * 128 * cpStride p) ((ccSc (g.ccw cc) + 3) / 4)

/-- Subcarriers of a symbol after the coefficients and TX_ATT (R145, transmit step 2). -/
def Chip.txBins (c : Chip) (n w : Nat) (ws : List Nat) : List Cx :=
  ((unpackWords (ccSc w) ws).zipIdx).map fun (e : Cx × Nat) =>
    let y := cxScale 14 (cxOf 16 (c.rd F.CAL_COEF_TX n (scBand w e.2))) e.1
    (attenuate (bits w 45 38) y.1, attenuate (bits w 45 38) y.2)

/-- A symbol of a carrier goes into the transmit chain for the ticks from `t` on: its buffer; zeros where its data is not
there (R41), or is poisoned (R115: the consumption is reported, and its groups go as zeros with ZF). -/
def Chip.txSend (c : Chip) (g : AchCfg) (n cc sym t : Nat) (ready : Bool) : Chip :=
  let w := dlWord (g.ccw cc)
  let (c, ws) := c.txWords g cc sym
  let zf := ready && ws.any (·.poison)
  let c := c.when zf fun c => c.postPoison 0x7FF srcAch 6 (0x300000000 + 128 * cpDl (g.pool cc)
    + sym % max 1 (cpBuf (g.pool cc)) * 128 * cpStride (g.pool cc)
    + 16 * ((List.range ws.length).find? fun k => (ws.getD k ⟨0, false, .ok⟩).poison).getD 0)
  let data := ws.map fun x => if zf || !ready then 0 else x.data
  let sent : TxSym := { cc := cc, w := w, sym := sym, tick := t, len := symTicks w sym, bins := c.txBins n w data, zf := zf }
  let now := c.tick
  (c.updAch n fun x => { x with
    tx := (x.tx.filter fun e => tickDiff now (tickAdd e.tick e.len) < 256) ++ [sent] }).emit
      (.radio n "symbol" t ((sym + b2n zf * 2 ^ 16) :: data))

/-! ## Transmit steps 3 to 10 -/

/-- The symbol of carrier `cc` that supplies a tick: the one during which it lies; after the window's end, while the ramp
runs, the last one before, continued cyclically (R161). -/
def AchX.symAt (x : AchX) (cc t : Nat) : Option TxSym :=
  let mine := x.tx.filter fun e => e.cc == cc && 0 ≤ tickDiff t e.tick
  match mine.find? fun e => tickDiff t e.tick < e.len with
  | some e => some e
  | none =>
    match x.down with
    | some (d, len) =>
      if 0 ≤ tickDiff t d && tickDiff t d < len then
        mine.find? fun e => mine.all fun e' => tickDiff e'.tick e.tick ≤ 0
      else none
    | none => none

/-- Symbols during which a tick lies. -/
def AchX.during (x : AchX) (t : Nat) : List TxSym :=
  x.tx.filter fun e => 0 ≤ tickDiff t e.tick && tickDiff t e.tick < e.len

/-- Sum of carriers, sample `i` of a tick (R145, steps 3 to 5). A symbol that R41 takes off the air is zeros on every antenna
of its carrier. -/
def Chip.txSum (c : Chip) (x : AchX) (t i : Nat) : Cx :=
  cxSat 24 ((List.range 8).foldl (fun a cc =>
    match x.symAt cc t with
    | some e =>
      if c.ach.zeroed.contains (ccCell e.w, e.tick) then a
      else cxAdd a (cxSat 24 (Config.txTime e.w (chanGain e.w) e.bins (16 * (tickDiff t e.tick).toNat + i)))
    | none => a) (0, 0))

/-- Crest-factor reduction of a tick (R165): `on` says that some sample of its symbols so far has been clipped; what then comes
out is not stated but for the bound of ITER 3 (log entry 61). -/
def cfr (g : AchCfg) (on : Bool) (xs : List Cx) : List Cx :=
  if g.iter = 0 then xs.map (cxSat 16)
  else if !on then xs
  else (List.range xs.length).map fun k =>
    let y := cxSat 24 (Config.cfrSample g.iter g.thr (g.used.map fun (e : Nat × Nat × Nat) => e.2.1) xs k)
    if g.iter = 3 then heldTo ((g.thr : Int) - 5) y else y

/-- A tick holds a sample over the clip level. -/
def cfrClips (g : AchCfg) (xs : List Cx) : Bool := g.iter != 0 && xs.any (overLevel g.thr)

/-- Injection runs for a channel: CAL_SW is sent for its windows (R241, R253). -/
def Chip.injRuns (c : Chip) : Bool := c.calRun && c.flag F.CAL_CTRL_INJ_EN

/-- Grid points of 7.5 kHz that carry a tone of antenna `n` in its injected symbol `m`: inside an NR or LTE carrier, outside
every NB-IoT carrier (R241). -/
def injTones (g : AchCfg) (n m : Nat) : List Int :=
  let ws := g.used.map fun (e : Nat × Nat × Nat) => e.2.1
  let within (w : Nat) (p : Int) : Bool := 2 * ccLo w ≤ 3 * p && 3 * p ≤ 2 * ccHi w
  ((List.range 53335).map fun k => (k : Int) - 26667).filter fun p =>
    p % 64 == (((27 * m + n) % 64 : Nat) : Int) && ws.any (fun w => isMain w && within w p)
      && !ws.any fun w => ccType w == 3 && within w p

/-- Chip of tone `k` of antenna `n` in injected symbol `m`, a quarter turn each: two bits of the generator, seeded anew for
each symbol, and half a turn more where the length-4 Walsh cover is −1 (R241; log entry 76). -/
def injChip (n m k : Nat) : Nat :=
  let walsh := (bitsSet (n / 64 &&& m % 4) 2).length % 2
  (prbs15 (2 * k + 2) (n + 1) / 2 ^ (2 * k) + 2 * walsh) % 4

/-- Injection into sample `i` of a tick (R241): in the symbols of the reference carrier whose number has the channel's
remainder by SYM_DIV. -/
def Chip.injSample (c : Chip) (n t i : Nat) : Cx :=
  let x := c.achX n
  match c.refCarrier n with
  | some w =>
    let (s, b) := c.symOf w t
    let div := max 8 (c.rd F.CAL_INJ_CFG_SYM_DIV)
    if c.injRuns && s % div = n % div then
      let tones := injTones (x.cfgAt b) n (s / div)
      cxSat 24 (Config.injTime (c.rd F.CAL_INJ_CFG_LEVEL) ((tones.zipIdx).map fun (e : Int × Nat) => (e.1, injChip n (s / div) e.2))
        ((x.during t).filter (fun e => isMain e.w) |>.map (·.bins)) (16 * (tickDiff t b).toNat + i))
    else (0, 0)
  | none => (0, 0)

/-- Windows may open for a channel (R47, R164, R167): in SERVICE and TEST, in QUIESCE while a downlink slot that has started
runs, where the channel is not OUT and no emergency ramp runs. In SOAK its periodic transmissions open their own
(`Chip.soakWindow`). -/
def Chip.txOpenOk (c : Chip) (n : Nat) : Bool :=
  (c.mode == mService || c.mode == mTest
      || (c.mode == mQuiesce && c.hif.inflight.any fun h => h.op == 2 && h.stage == .started && !h.discard))
    && c.svc n != acOut && !(c.achX n).emer

/-- Weight of a sample in Q1.15, none for 1 (R161, R163): zero outside the window, the ramps at its edges. -/
def Chip.txWeight (c : Chip) (n t i : Nat) : Option Int :=
  let x := c.achX n
  let after (s : Nat) : Int := tickDiff t s
  let at_ (s : Nat) : Nat := 16 * (after s).toNat + i
  let down := match x.down with
    | some (d, len) => if after d < 0 then none else some (if at_ d < 16 * len then rampWeight (16 * len) (16 * len - 1 - at_ d) else 0)
    | none => none
  match down with
  | some v => some v
  | none =>
    match x.up with
    | some u =>
      if after u < 0 then some 0
      else if at_ u < 16 * x.cfg.ramp then some (rampWeight (16 * x.cfg.ramp) (at_ u))
      else none
    | none => if x.cfg.period = 0 && c.txOpenOk n then none else some 0

/-- The burst of a guard-period exchange in sample `i` of a tick, for an antenna of the exchange's group, with 16-tick ramps (R161,
R245). -/
def Chip.burstSample (c : Chip) (n t i : Nat) : Cx :=
  match c.cal.exch with
  | some (s, len) =>
    let k := 16 * (tickDiff t s).toNat + i
    if !c.cal.exchOn || n % 16 ≠ (c.cal.group + 15) % 16 || c.svc n = acOut || tickDiff t s < 0 || 16 * len ≤ k then (0, 0)
    else
      let v := cxSat 24 (Config.burst (c.rd F.CAL_EXCH_CFG_EXCH_ATT) (achLink n) k)
      if k < 256 then rampScale (rampWeight 256 k) v
      else if 16 * len < k + 257 then rampScale (rampWeight 256 (16 * len - 1 - k)) v
      else v
  | none => (0, 0)

/-- The sixteen samples of a channel's tick at the end of transmit step 9, from those after step 6. A burst is not data, and no
window stops it (R159, R245). -/
def Chip.txShape (c : Chip) (n t : Nat) (xs : List Cx) : List Cx :=
  (xs.zipIdx).map fun (e : Cx × Nat) =>
    let v := cxSat 24 (cxAdd e.1 (c.injSample n t e.2))
    let v := match c.txWeight n t e.2 with | some r => rampScale r v | none => v
    iqCorrect (c.achX n).txBeta (cxSat 24 (cxAdd v (c.burstSample n t e.2)))

/-- A channel's tick through transmit steps 3 to 9; each of its symbols in which something is clipped for the first time is
counted (R165). -/
def Chip.txTick (c : Chip) (n t : Nat) : Chip × List Cx :=
  let x := c.achX n
  let g := x.cfgAt t
  let sum := (List.range 16).map fun i => c.txSum x t i
  let hit := cfrClips g sum
  let new := if hit then (x.during t).filter fun e => !e.clipped else []
  let c := c.when (!new.isEmpty) fun c =>
    (c.setAch n { x with tx := x.tx.map fun e => if new.contains e then { e with clipped := true } else e }).incSat
      F.ACH_CNT_CFR_CLIP n 0 new.length
  (c, c.txShape n t (cfr g (hit || (x.during t).any (·.clipped)) sum))

/-- The group numbered by a tick is composed from its channels (R111, R112); one with a poisoned source goes as zeros for every
antenna, with ZF (R115). -/
def Chip.txGroup (c : Chip) (l t : Nat) : Chip :=
  let full := c.groupTicks l = 1
  let (c, ants) := (linkChans l).foldl (fun (a : Chip × List (List Cx)) n =>
    let (c, xs) := a.1.txTick n t
    if full then (c, a.2 ++ [xs])
    else
      let (c, ys) := c.txTick n (tickAdd t 1)
      (c, a.2 ++ [(List.range 16).map (Config.decim2 (xs ++ ys))])) (c, [])
  let zf := (linkChans l).any fun n => ((c.achX n).during t).any (·.zf)
  let g : TxGroup := ⟨t / c.groupTicks l, groupOf (c.rd F.ECV_SAMPLE_CFG_MANT l) ants, zf⟩
  c.updLink l fun x => { x with txGroups := x.txGroups ++ [g] }

/-- One tick of a link: the group that its number names is ready, and the frames go on (log entry 73). -/
def Chip.airTick (c : Chip) (l : Nat) : Chip :=
  let c := c.when (isRadio l && c.lkState l == lkActive && c.framing l && c.tick % c.groupTicks l == 0) fun c => c.txGroup l c.tick
  c.frameTick l

end Sys2Proof.Machine
end

