-- ==== Sys2Proof/Machine/AchCmds.lean ====
section
/-! DEFINITION. The commands of the antenna channels (spec/05_antenna_channels.md R145–R171), but for
RX_SYMBOL_DONE and ACH_TX_STAGE_START, which reach the slot commands of the host (Machine/AirCmds.lean). -/
namespace Sys2Proof.Machine

/-! ## Boundaries -/

/-- A channel's slot boundary: LEAVING ends in OUT, a converged channel enters IN (R167–R170). The mask of the slot that
begins holds the channels that were IN; one that enters IN now joins the masks of later slots (R202). The coefficients go on
to what they are to reach (R240). -/
def Chip.achSlot (c : Chip) (n : Nat) : Chip :=
  let c := (c.updAch n fun x => { x with hist := ((c.tick, c.svc n == acIn) :: x.hist).take 4 }).coefStep n
  if c.svc n = acLeaving then (c.achOut n 1).achHeld n
  else if c.svc n = acConv && c.flag F.CAL_ANT_STAT_CONVERGED n then
    (c.wr F.ACH_STAT_SVC_STATE acIn n).updAch n fun x => { x with convTick := none }
  else c

/-- SLOT_BOUNDARY (R167): of the channel's reference carrier. -/
def execSlotBoundary (n : Fin 256) (s : State) : Host.Outcome State Fault Refusal :=
  s.run fun c => c.achSlot n

/-- SYMBOL_BOUNDARY (R155, R166, R169): held corrections take effect, stored coefficients are applied, MODE 0 steps to
MAN_CODE: the next symbol boundary of the reference carrier is taken as the first eligible boundary of R155 (DESIGN CHOICE,
log entry 38). -/
def execSymbolBoundary (n : Fin 256) (s : State) : Host.Outcome State Fault Refusal :=
  s.run fun c =>
    let c := if (c.achX n).loadCoef then (c.calLoad n).updAch n fun x => { x with loadCoef := false } else c
    let c := c.updAch n fun x => { x with
      rxBeta := c.rd F.ACH_IQ_CFG_RX_BETA n
      txBeta := c.rd F.ACH_IQ_CFG_TX_BETA n
      comp := (List.range 16).map fun k => (k, c.rd F.ACH_GAIN_COMP_FACTOR n k) }
    let code := c.clampCode n (c.rd F.ACH_GAIN_CFG_MAN_CODE n)
    if c.rd F.ACH_GAIN_CFG_MODE n != 1 && !c.flag F.ACH_GAIN_CFG_FREEZE n && c.svc n != acOut
        && (c.achX n).step.isNone && code != c.rd F.ACH_GAIN_STAT_CODE n then c.gainStep n code c.tick
    else c

/-- A pending commit takes effect (R152, steps 3 and 6). -/
def Chip.commitApply (c : Chip) (n : Nat) : Chip :=
  match (c.achX n).pend with
  | some (g, t) =>
    if tickDiff t c.tick ≤ 0 then
      let c := c.updAch n fun x => { x with cfg := g, prevCfg := x.cfg, cfgTick := some t, pend := none, skip := [] }
      ((c.wr F.ACH_STAT_COMMIT_STATUS 0 n).wr F.ACH_STAT_COMMIT_PEND 0 n).wr F.ACH_COMMIT_GO 0 n
    else c
  | none => c

/-- A frame with an SFN begins (R445, R152). -/
def Chip.frameBegin (c : Chip) (sfn : Nat) : Chip :=
  let c := (c.wr F.TIME_FRAME_STAT_SFN sfn).withAch { c.ach with frameTick := c.tick }
  let c := c.withTime { c.time with counting := true }
  let c := c.when (sfn == 0) fun c => c.wr F.TIME_FRAME_STAT_SFN0_TICK c.tick
  let c := c.withEth { c.eth with start := c.eth.start.filter fun (e : Nat × Nat) => tickLater e.2 c.tick }
  (List.range 256).foldl (fun c n => c.commitApply n) c

/-- FRAME_BOUNDARY: no effect at a tick at which R445 lets no frame begin. -/
def execFrameBoundary (s : State) : Host.Outcome State Fault Refusal :=
  s.run fun c =>
    match c.sfnHere with
    | some sfn => c.frameBegin sfn
    | none => c

/-- COMMIT_GO (R148, R152, R160, R161): `tick` is the TICK written with GO. -/
def execCommitGo (by_ : Port) (n : Fin 256) (tick : Nat) (s : State) : Host.Outcome State Fault Refusal :=
  s.run fun c => c.action by_ 0xBE fun c =>
    let c := (c.wr F.ACH_COMMIT_TICK tick n).wr F.ACH_COMMIT_GO 1 n
    let t := tick % tickMod
    let g := c.shadowCfg n
    let at_ := c.frameAt t
    let l := achLink n
    let faults := g.ccFaults (c.rd F.ECV_SAMPLE_CFG_RATE l) (c.rd F.ECV_LINK_STAT_VERSION l)
      ++ (if g.winsOk && g.rampOk then [] else [Status.badDescriptor])
      ++ (if tickDiff t c.tick < 0 || tickDiff at_ c.tick < 3072 then [Status.deadlineMissed] else [])
    let had := (c.achX n).pend.isSome
    match faults with
    | [] =>
      let c := c.updAch n fun x => { x with pend := some (g, at_) }
      (c.wr F.ACH_STAT_COMMIT_PEND 1 n).when had fun c => c.wr F.ACH_STAT_COMMIT_STATUS Status.superseded.code n
    | _ =>
      let c := c.updAch n fun x => { x with pend := none }
      ((c.wr F.ACH_STAT_COMMIT_STATUS (Status.worstOf faults).code n).wr F.ACH_STAT_COMMIT_PEND 0 n).wr
        F.ACH_COMMIT_GO 0 n

/-! ## Service state -/

/-- LEAVE (R168, R170). -/
def Chip.achLeave (c : Chip) (n : Nat) : Chip :=
  if c.svc n = acIn || c.svc n = acConv then
    let c := (c.wr F.ACH_STAT_SVC_STATE acLeaving n).wr F.ACH_CTRL_LEAVE 1 n
    (c.wr F.CAL_ANT_STAT_CONVERGED 0 n).updAch n fun x => { x with convTick := none }
  else c

/-- READMIT (R169, R170). -/
def Chip.achReadmit (c : Chip) (n : Nat) : Chip :=
  if c.svc n = acOut && c.achMayStart n then c.achConverge n
  else if c.svc n = acOut || c.svc n = acLeaving then
    (c.wr F.ACH_CTRL_READMIT 1 n).wr F.ACH_STAT_ENABLE_PENDING 1 n
  else c

/-- ACH_LEAVE (R168). -/
def execAchLeave (by_ : Port) (n : Fin 256) (s : State) : Host.Outcome State Fault Refusal :=
  s.run fun c => c.action by_ modesAll fun c => c.achLeave n

/-- ACH_READMIT (R169). -/
def execAchReadmit (by_ : Port) (n : Fin 256) (s : State) : Host.Outcome State Fault Refusal :=
  s.run fun c => c.action by_ modesAll fun c => c.achReadmit n

/-- ACH_READMIT_HELD_START (R169). -/
def execAchReadmitHeldStart (n : Fin 256) (s : State) : Host.Outcome State Fault Refusal :=
  s.run fun c => c.achHeld n

/-- ACH_CNT_CLR: ACH_CNT and ACH_GAIN_STAT.STEPS. -/
def execAchCntClr (by_ : Port) (n : Fin 256) (s : State) : Host.Outcome State Fault Refusal :=
  s.run fun c => c.action by_ modesAll fun c =>
    c.clrFields [F.ACH_CNT_FD_SAT, F.ACH_CNT_CFR_CLIP, F.ACH_CNT_TX_OUTSIDE, F.ACH_CNT_GAIN_LOST, F.ACH_GAIN_STAT_STEPS] n

/-! ## Gain (R155–R157) -/

/-- A span of ticks overlaps a PA-on span of a channel (R154, R162): of a window that is not skipped, in the period of the
span, the one before or the one after. -/
def Chip.paOver (c : Chip) (n t len : Nat) : Bool :=
  let x := c.achX n
  let g := x.cfg
  g.period != 0 &&
    (let rel := tickDiff t g.origin % (g.period : Int)
     g.wins.any fun (e : Nat × Nat × Nat) => !x.skip.contains e.1 &&
      [-(g.period : Int), 0, (g.period : Int)].any fun p =>
        decide (g.paOn e.2 + p < rel + len) && decide (rel < g.paOff e.2 + p))

/-- A span of ticks overlaps the last guard-period exchange (R154, R245). -/
def Chip.exchOver (c : Chip) (t len : Nat) : Bool :=
  match c.cal.exch with
  | some (a, n) => tickDiff a t < len && tickDiff t a < n
  | none => false

/-- GAIN_SYMBOL_MEASURED (R154, R155): the symbol of the reference carrier that has just ended is measured, unless it overlaps
a PA-on span or a guard-period exchange, or has GAP samples; until a step has taken effect and one full symbol has passed at
the new code nothing is decided. -/
def execGainSymbolMeasured (n : Fin 256) (s : State) : Host.Outcome State Fault Refusal :=
  s.run fun c =>
    let x := c.achX n
    match c.refCarrier n with
    | none => c
    | some w =>
      let (_, e) := c.symOf w c.tick
      let (k, t) := c.symOf w (tickAdd e (tickMod - 1))
      let len := symTicks w k
      let fresh := match x.lastStep with | some g => !tickLater g t | none => true
      if c.rd F.ACH_GAIN_CFG_MODE n != 1 || c.svc n == acOut || x.step.isSome || !fresh
          || c.paOver n t len || c.exchOver t len || c.gapIn n t len then c
      else
        let peak := (c.tapsIn n t len).foldl (fun m p => max m p.peak) 0
        let (code, run) := c.gainDecide n peak
        let c := c.updAch n fun x => { x with dnRun := run }
        if code = c.rd F.ACH_GAIN_STAT_CODE n then c else c.gainStep n code (tickAdd t len)

/-- GAIN_STEP_APPLY (R157). -/
def execGainStepApply (n : Fin 256) (s : State) : Host.Outcome State Fault Refusal :=
  s.run fun c =>
    let x := c.achX n
    match x.step with
    | some (code, t) =>
      let c := c.setAch n { x with
        step := none, prevCode := c.rd F.ACH_GAIN_STAT_CODE n, lastStep := some t, dnRun := 0 }
      ((c.wr F.ACH_GAIN_STAT_CODE code n).wr F.ACH_GAIN_STAT_STEP_PEND 0 n).incSat F.ACH_GAIN_STAT_STEPS n
    | none => c

/-! ## Transmit windows (R159–R164) -/

/-- Window `w` of the configuration in force. -/
def AchCfg.win (g : AchCfg) (w : Nat) : Option (Nat × Nat) := (g.wins.find? fun (e : Nat × Nat × Nat) => e.1 == w).map (·.2)

/-- TX_WINDOW_OPEN (R161, R162): unless it is skipped. -/
def execTxWindowOpen (n : Fin 256) (w : Fin 8) (s : State) : Host.Outcome State Fault Refusal :=
  s.run fun c =>
    let x := c.achX n
    if (x.cfg.win w).isSome && c.txOpenOk n && !x.skip.contains w.val && x.win.isNone then
      (c.setAch n { x with win := some w, up := some c.tick, down := none }).emit
        (.radio n "ramp up" c.tick [16 * x.cfg.ramp])
    else c

/-- TX_WINDOW_END (R161). -/
def execTxWindowEnd (n : Fin 256) (s : State) : Host.Outcome State Fault Refusal :=
  s.run fun c =>
    let x := c.achX n
    match x.win with
    | some _ =>
      if x.emer then c
      else (c.setAch n { x with win := none, down := some (c.tick, x.cfg.ramp) }).emit
        (.radio n "ramp down" c.tick [16 * x.cfg.ramp])
    | none => c

/-- The next edge of window `w` of channel `n`, where it has one. -/
def Chip.paEdgeTick (c : Chip) (n w : Nat) (on : Bool) : Option Nat :=
  let g := (c.achX n).cfg
  match g.win w with
  | some v => if g.period = 0 || c.svc n = acOut then none else some (c.nextEdge g (if on then g.paOn v else g.paOff v))
  | none => none

/-- All sixteen channels of a link have an edge of this kind at a tick (R162). -/
def Chip.sameEdge (c : Chip) (l t : Nat) (on : Bool) : Bool :=
  (linkChans l).all fun n => (List.range 8).any fun w => c.paEdgeTick n w on == some t

/-- PA_EDGE (R162, R241): the PA_EN of the next edge of a window is queued with the CAL_SW of the window, or the window is
skipped because its enable edge is less than 16 µs ahead. One command with ANT 0xF stands for all sixteen channels; it is
sent for the first of them. -/
def execPaEdge (n : Fin 256) (w : Fin 8) (on : Bool) (s : State) : Host.Outcome State Fault Refusal :=
  s.run fun c =>
    let x := c.achX n
    let l := achLink n
    match c.paEdgeTick n w on, x.cfg.win w with
    | some t, some v =>
      if on && !c.txOpenOk n then c
      else if on && tickDiff t c.tick < leadTicks then
        c.setAch n { x with skip := (x.skip.filter (· != w.val)) ++ [w.val] }
      else if !on && x.skip.contains w.val then c.setAch n { x with skip := x.skip.filter (· != w.val) }
      else
        let all := c.sameEdge l t on
        let c := c.setAch n { x with skip := x.skip.filter (· != w.val), pa := on }
        let ant := if all then 0xF else n.val % 16
        let send := !all || n.val % 16 == 0
        let c := c.when send fun c => c.sbSend l (sbMsg 0x11 ant t (b2n on))
        let c := c.when (send && c.injRuns) fun c =>
          let c := c.when on fun c => c.updLink l fun y => { y with calLost := false }
          (c.sbSend l (sbMsg 0x13 ant (c.nextEdge x.cfg (if on then v.1 else v.2)) (b2n on))).noteSw l ant (b2n on)
        if !on && c.mode = mQuiesce then
          (c.sbSend l (sbMsg 0x12 0xF t 3)).updLink l fun x => { x with muted := true, leave := none }
        else c
    | _, _ => c

/-- The emergency ramp of a channel ends (R163): MUTE, untimed. -/
def Chip.emergEnd (c : Chip) (n : Nat) : Chip :=
  let x := c.achX n
  if x.emer then (c.setAch n { x with emer := false, win := none, up := none, down := none, pa := false }).muteLink (achLink n) else c

end Sys2Proof.Machine
end

