-- ==== Sys2Proof/Machine/CalCmds.lean ====
section
/-! DEFINITION. The commands of the Steamer and the calibration store (spec/09_live_calibration.md R239–R264). The host
commands CAL_STORE_EXPORT and CAL_STORE_IMPORT stand in Machine/TrustCmds.lean. -/
namespace Sys2Proof.Machine

/-- The subbands of a channel that hold tones of its injection (R241, R243): inside an NR or LTE carrier, outside every NB-IoT
carrier. Every point of the grid carries a tone in one injected symbol of 64. -/
def Chip.tonesIn (c : Chip) (n k : Nat) : Bool :=
  let ws := (c.achX n).cfg.used.map fun (e : Nat × Nat × Nat) => e.2.1
  c.bandUsed n k && ws.any fun w => isMain w && (List.range 834).any fun j =>
    let p : Int := -26667 + (2500 * k : Nat) / 3 + j
    let p2 := 3 * p
    decide (-80000 + 2500 * (k : Int) ≤ p2) && decide (p2 < -80000 + 2500 * (k + 1 : Int))
      && decide (2 * ccLo w ≤ p2) && decide (p2 ≤ 2 * ccHi w)
      && !ws.any fun v => ccType v == 3 && decide (2 * ccLo v ≤ p2) && decide (p2 ≤ 2 * ccHi v)

/-- The estimates T of a period, free values, and the transmit coefficients that follow from them: the one that the last sweep set
times the inverse of the drift since then (R243; log entry 80). -/
def Chip.calDrift (c : Chip) (n : Nat) : Chip :=
  let (i, c) := c.fresh
  (List.range 64).foldl (fun c k =>
    if !c.tonesIn n k then c
    else
      let t := Config.calT i k
      let c := c.withCal { c.cal with tNow := Tbl.set c.cal.tNow (64 * n + k) t (0, 0) }
      match Tbl.get c.cal.tRef (64 * n + k) ((0, 0), 0) with
      | ((0, 0), _) => c
      | (t0, a) => match coefTimes (cxOf 16 a) t0 t with | some v => c.askTx n k v | none => c) c

/-- A cell's uplink reference symbols are named for a channel's reference carrier (R247). -/
def Chip.ulMapped (c : Chip) (n : Nat) : Bool :=
  match c.refCarrier n with | some w => c.rd F.CAL_ULREF_MAP_MAP (ccCell w) != 0 | none => false

/-- The receive coefficients follow the drift of the uplink statistics, a free value (R247; log entry 80); the phase is chained
from the reference antenna, which therefore keeps its own. -/
def Chip.calTrackRx (c : Chip) (n : Nat) : Chip :=
  let (i, c) := c.fresh
  (List.range 64).foldl (fun c k =>
    if !c.bandUsed n k then c
    else
      let g := cxOf 16 (Config.calUl i k).toNat
      let g : Cx := if n = c.rd F.CAL_CTRL_REF_ANT then (g.1, 0) else g
      match coefTimes (cxOf 16 (c.goalRx n k)) g (2 ^ 14, 0) with | some v => c.askRx n k v | none => c) c

/-- DESPREAD_PERIOD_END (R243, R244, R247, R250): for an antenna; `obs` says that its observation path returned the injection,
`same` that its estimates agree with those of the period before within the convergence limits. A period cut short is
discarded, and one in which a CAL_SW of its link was lost gives no estimate. -/
def execDespreadPeriodEnd (n : Fin 256) (obs same : Bool) (s : State) : Host.Outcome State Fault Refusal :=
  s.run fun c =>
    if c.svc n = acOut || !c.calTrack then c
    else
      let a := c.calAnt n
      let c := c.setCalAnt n { a with lost := false }
      if c.cal.cut && !c.cal.since.contains n.val then c.withCal { c.cal with since := n.val :: c.cal.since }
      else
        let c := c.setFlag F.CAL_ANT_STAT_OBS_OK (obs && c.injRuns) n
        let held := c.flag F.CAL_ANT_STAT_DIVERGED n
        let c := c.when (c.injRuns && obs && !held && !a.lost) fun c => c.calDrift n
        let c := c.when (c.flag F.CAL_CTRL_ULT_EN && !held && c.ulMapped n) fun c => c.calTrackRx n
        let a := c.calAnt n
        let c := c.setCalAnt n { a with periods := a.periods + 1, pairOk := a.pairOk || (1 ≤ a.periods && same) }
        c.calConverge n

/-- Channels the Steamer works on (R245). -/
def Chip.calChans (c : Chip) : List Nat := (List.range 256).filter fun n => c.svc n != acOut

/-- What one exchange received at code + 1 on half of the antennas gives: their gain factor of that code is brought up to date, by
no more than 0.05 dB (R248); a link that lost its CAL_SW took no part (R244). -/
def Chip.gainExchange (c : Chip) (odd : Bool) : Chip :=
  c.calChans.foldl (fun c n =>
    let u := c.rd F.ACH_GAIN_STAT_CODE n + 1
    let lo := c.rd F.ACH_GAIN_CFG_MIN_CODE n
    if n % 2 == b2n odd && lo ≤ u && u ≤ max lo (c.rd F.ACH_GAIN_CFG_MAX_CODE n) && u < 15
        && !(c.link (achLink n)).calLost then
      let (i, c) := c.fresh
      let old := c.rd F.ACH_GAIN_COMP_FACTOR n u
      let hi := old * 1005773 / 1000000
      let least := (old * 1000000 + 1005772) / 1005773
      c.wr F.ACH_GAIN_COMP_FACTOR (max least (min hi (Config.calGain i n).toNat)) n u
    else c) c

/-- The last exchange has ended: the links that lost a CAL_SW in it are noted, a gain-factor exchange gives its factors. -/
def Chip.exchEnd (c : Chip) : Chip :=
  if !c.cal.exchOn then c
  else
    let g := (c.cal.group + 15) % 16
    let c := c.withCal { c.cal with
      exchOn := false
      lost := c.cal.lost ++ ((List.range 16).filter fun l => (c.link l).calLost).map fun l => (g, l) }
    match c.cal.gcPend with
    | some odd => (c.gainExchange odd).withCal { (c.gainExchange odd).cal with gcPend := none }
    | none => c

/-- AGE_MS counts the milliseconds since the last sweep that fitted an antenna, up to the top of its width (R246). -/
def Chip.calAge (c : Chip) : Chip :=
  c.cal.ants.foldl (fun c e =>
    match e.2.ageTick with
    | some t =>
      if tickDiff c.tick t < 30720 then c
      else (c.incSat F.CAL_ANT_STAT_AGE_MS e.1).setCalAnt e.1 { e.2 with ageTick := some (tickAdd t 30720) }
    | none => c) c

/-- At a tick: the ages count, an exchange whose length has passed has ended. -/
def Chip.calTick (c : Chip) : Chip :=
  let c := c.calAge
  match c.cal.exch with
  | some (t, len) => c.when (c.cal.exchOn && (len : Int) ≤ tickDiff c.tick t) Chip.exchEnd
  | none => c

/-- GUARD_EXCHANGE (R245, R248): `clash` says that uplink symbols lie in its span. The exchange is queued for the PA
disable tick of REF_ANT's window EXCH_WIN. -/
def execGuardExchange (clash : Bool) (s : State) : Host.Outcome State Fault Refusal :=
  s.run fun c =>
    if !c.calRun || !c.flag F.CAL_CTRL_EXCH_EN then c
    else
      let ref := c.rd F.CAL_CTRL_REF_ANT
      let len := max 256 (c.rd F.CAL_EXCH_CFG_EXCH_TICKS)
      match c.paEdgeTick ref (c.rd F.CAL_EXCH_CFG_EXCH_WIN) false with
      | none => c.incSat F.CAL_CNT_EXCH_SKIPPED
      | some t =>
        let pa := c.calChans.any fun n => (List.range 8).any fun w =>
          match c.paEdgeTick n w true with
          | some e => 0 ≤ tickDiff e t && tickDiff e t ≤ len + 31
          | none => false
        if clash || pa then c.incSat F.CAL_CNT_EXCH_SKIPPED
        else
          let c := c.exchEnd
          let g := c.cal.group
          let c := c.when (g == 0) fun c => c.withCal { c.cal with ref := ref, lost := [] }
          let c := (List.range 16).foldl (fun c l => c.updLink l fun x => { x with calLost := false }) c
          let c := c.calChans.foldl (fun c n =>
            let l := achLink n
            (c.sbSend l (sbMsg 0x13 (n % 16) t (if n % 16 = g then 2 else 3))).sbSend l
              (sbMsg 0x13 (n % 16) (tickAdd t len) 0)) c
          let c := (c.calChans.filter fun n => n % 16 == g).foldl (fun c n =>
            c.emit (.radio n "exchange burst" t [len, c.rd F.CAL_EXCH_CFG_EXCH_ATT])) c
          let div := c.rd F.CAL_EXCH_CFG_GC_DIV
          let gc := div != 0 && div ≤ c.cal.gcSweeps
          let c := c.when gc fun c =>
            c.withCal { c.cal with gcSweeps := 0, gcOdd := !c.cal.gcOdd, gcPend := some c.cal.gcOdd }
          c.withCal { c.cal with
            exchOn := true
            exch := some (t, len)
            group := (g + 1) % 16
            sweepTick := if g = 0 then some c.tick else c.cal.sweepTick }

/-- Antennas that an antenna may form pairs with in the sweep (R244, R246): neither link lost a CAL_SW in either's exchange. -/
def Chip.sweepPairs (c : Chip) (n : Nat) : Nat :=
  let lost (g m : Nat) : Bool := c.cal.lost.contains (g, achLink m)
  (c.calChans.filter fun m => m != n && !lost (n % 16) n && !lost (n % 16) m && !lost (m % 16) n && !lost (m % 16) m).length

/-- The ratios and slopes that a sweep leaves an antenna (R246, R249): in a subband with at least three qualifying pairs the fitted
ratio, a free value, 1 for the reference antenna; the slopes where the temperatures of the last 64 sweeps span 5 °C. -/
def Chip.sweepFit (c : Chip) (n : Nat) : Chip :=
  let (i, c) := c.fresh
  let a := c.calAnt n
  let ts := (a.temp :: a.temps).take 64
  let wide := ts.any fun x => ts.any fun y => decide (40 ≤ x - y)
  let most := c.sweepPairs n
  c.withCal { c.cal with
    ants := Tbl.set c.cal.ants n { a with temps := ts } {}
    rho := (List.range 64).foldl (fun t k =>
      if n = c.cal.ref then Tbl.set t (64 * n + k) 0x4000 0
      else if 3 ≤ min most (Config.calPairs i k) then Tbl.set t (64 * n + k) (Config.calRho i k).toNat 0 else t) c.cal.rho
    slopes := if wide then (List.range 64).foldl (fun t k =>
      Tbl.insert (Tbl.erase t (64 * n + k)) (64 * n + k) (Config.calSlope i k).toNat) c.cal.slopes else c.cal.slopes }

/-- The transmit coefficients that make the reciprocity of R239 hold under the ratios of a sweep: with ρ the ratio of an antenna
relative to the reference antenna, a = b × (a of the reference / b of the reference) / ρ. They and the estimates T become the
references of the drift (R243, R246). -/
def Chip.sweepSet (c : Chip) (n : Nat) : Chip :=
  let m := c.cal.ref
  (List.range 64).foldl (fun c k =>
    let c := match coefTimes (cxProd (cxOf 16 (c.goalRx n k)) (cxOf 16 (c.goalTx m k))) (2 ^ 14, 0)
        (cxProd (cxOf 16 (c.goalRx m k)) (cxOf 16 (Tbl.get c.cal.rho (64 * n + k) 0))) with
      | some v => if c.bandUsed n k && n != m then c.askTx n k v else c
      | none => c
    c.withCal { c.cal with
      tRef := Tbl.set c.cal.tRef (64 * n + k) (Tbl.get c.cal.tNow (64 * n + k) (0, 0), c.goalTx n k) ((0, 0), 0) }) c

/-- One antenna's result of a sweep (R246, R251). -/
def Chip.sweepAnt (c : Chip) (began : Nat) (r : SweepRes) : Chip :=
  let n := r.ant
  if 256 ≤ n || c.svc n = acOut then c
  else
    let ph := r.ph % 2 ^ 16
    let amp := r.amp % 2 ^ 16
    let c := ((c.wr F.CAL_ANT_STAT_RES_PH ph n).wr F.CAL_ANT_STAT_RES_AMP amp n).wr F.CAL_ANT_STAT_AGE_MS 0 n
    let c := c.setCalAnt n { c.calAnt n with ageTick := some c.tick }
    if r.diverged && (c.svc n = acIn || c.svc n = acLeaving) then
      ((c.wr F.CAL_ANT_STAT_DIVERGED 1 n).incSat F.CAL_CNT_DIVERGED).post .ok srcCal evCal (2 + n * 2 ^ 8)
        (ph + amp * 2 ^ 16)
    else
      let c := ((c.wr F.CAL_ANT_STAT_DIVERGED 0 n).sweepFit n).sweepSet n
      let since := match (c.achX n).convTick with | some t => 0 ≤ tickDiff began t | none => false
      let ok := since && ph ≤ 5 * c.rd F.CAL_CONV_CFG_CONV_PH && amp ≤ 10 * c.rd F.CAL_CONV_CFG_CONV_AMP
      let c := c.setCalAnt n { c.calAnt n with sweepOk := (c.calAnt n).sweepOk || ok }
      c.calConverge n

/-- SWEEP_COMPLETE (R246, R251): `res` is what the sweep found, antenna by antenna. -/
def execSweepComplete (res : List SweepRes) (s : State) : Host.Outcome State Fault Refusal :=
  s.run fun c =>
    match c.cal.group, c.cal.sweepTick with
    | 0, some t =>
      if !c.calRun then c
      else
        let c := c.exchEnd.incMod F.CAL_STAT_SWEEPS
        let c := c.withCal { c.cal with sweepTick := none, gcSweeps := c.cal.gcSweeps + 1 }
        res.foldl (fun c r => c.sweepAnt t r) c
    | _, _ => c

/-- TEMP_READ_TIMER (R249, R253): the temperature of every tile is asked for, and in SERVICE below stage S1 the coefficients
of the channels in service follow the change since the last update. -/
def execTempReadTimer (s : State) : Host.Outcome State Fault Refusal :=
  s.run fun c =>
    let c := (List.range 16).foldl (fun c l => if c.lkUp l then c.sbSend l (sbMsg 0x14 0xF 0 3) else c) c
    if !c.calRun then c
    else c.calChans.foldl (fun c n =>
      let a := c.calAnt n
      if a.temp = a.tempUsed then c
      else (c.askMove n (a.temp - a.tempUsed)).setCalAnt n { a with tempUsed := a.temp }) c

/-- CAL_STORE_SAVE (R259, R261): `value` is the write, with its key. -/
def execCalStoreSave (by_ : Port) (value : Nat) (s : State) : Host.Outcome State Fault Refusal :=
  s.run fun c => c.guarded by_ 0x9C fun c =>
    if bits value 31 16 != 0x5356 then c.report by_ .accessDenied
    else if !bit value 0 then c.report by_ .ok
    else ((c.wr F.CAL_STORE_CTRL_SAVE 1).storeStart .save).report by_ .ok

/-- The next store operation held starts, if one is held. -/
def Chip.storeHeld (c : Chip) : Chip :=
  match c.cal.held with
  | [] => c.wr F.CAL_STORE_STAT_ENABLE_PENDING 0
  | o :: r =>
    ((c.withCal { c.cal with held := r }).setFlag F.CAL_STORE_STAT_ENABLE_PENDING (!r.isEmpty)).storeStart o

/-- Store operations and flash actions run one at a time, in the order they were asked for (R261, R487): the next
starts. -/
def Chip.storeNext (c : Chip) : Chip :=
  let c := c.wr F.CAL_STORE_STAT_BUSY 0
  match c.trust.wait with
  | some 0 => (c.withTrust { c.trust with wait := none }).wr F.TRUST_STATUS_FLASH_BUSY 1
  | some (k + 1) => (c.withTrust { c.trust with wait := some k }).storeHeld
  | none => c.storeHeld

/-- An export that waited for the operation reads the new set and completes (R261, R262). -/
def Chip.exportWaiting (c : Chip) : Chip :=
  let refs := c.cal.exports
  let c := c.withCal { c.cal with exports := [] }
  refs.foldl (fun c r =>
    match c.hif.inflight.find? fun h => h.fn == r.1 && h.ring == r.2.1 && h.count == r.2.2 with
    | some h => (c.storeExport h).finishCmd (some r) .ok
    | none => c) c

/-- CAL_STORE_WRITE_COMPLETE (R18, R259, R261, R263): read-back, pointer switch, erase of the old area. SAVE stays 1 while a save
asked for meanwhile is held. -/
def execCalStoreWriteComplete (s : State) : Host.Outcome State Fault Refusal :=
  s.run fun c =>
    match c.cal.op with
    | none => c
    | some (o, t) =>
      let old := c.rd F.CAL_STORE_STAT_AREA
      let c := c.withCal { c.cal with
        op := none
        areas := Tbl.set (Tbl.set c.cal.areas (1 - old) { bytes := t, intact := true } {}) old {} {} }
      let c := (c.wr F.CAL_STORE_STAT_AREA (1 - old)).showStore
      let c := c.wr F.CAL_STORE_STAT_LAST_STATUS 0
      let kind := match o with | .save => 3 | .import_ _ _ _ => 4
      let c := c.post .ok srcCal evCal (kind + 0x1FF * 2 ^ 8 + c.rd F.CAL_STORE_STAT_WRITES * 2 ^ 32) 0
      let c := c.showDigest
      let c := match o with
        | .save => if c.cal.held.contains .save then c else c.w1sEnd F.CAL_STORE_CTRL_SAVE 0 0 id
        | .import_ _ _ src => c.finishCmd src .ok
      c.exportWaiting.storeNext

/-- ERASE_LEFTOVER_DONE (R258). -/
def execEraseLeftoverDone (s : State) : Host.Outcome State Fault Refusal :=
  s.run fun c =>
    if c.flag F.CAL_STORE_STAT_ERASE_PEND then
      let k := 1 - c.rd F.CAL_STORE_STAT_AREA
      (c.wr F.CAL_STORE_STAT_ERASE_PEND 0).withCal { c.cal with areas := Tbl.set c.cal.areas k {} {} }
    else c

/-- CAL_CNT_CLR (R264). -/
def execCalCntClr (by_ : Port) (s : State) : Host.Outcome State Fault Refusal :=
  s.run fun c => c.action by_ modesAll fun c =>
    c.clrFields [F.CAL_CNT_EXCH_SKIPPED, F.CAL_CNT_DIVERGED, F.CAL_CNT_UPDATES]

end Sys2Proof.Machine
end

