-- ==== Sys2Proof/Machine/Sched.lean ====
section
/-! DEFINITION. The scheduler (spec/12_scheduler.md): acceptance of descriptors, ready lists and dispatch, bundles, the
Fold, and units leaving and entering service. The commands of the block are in Machine/SchedCmds.lean. -/
namespace Sys2Proof.Machine

/-! ## Units -/

/-- A unit address that names a unit (R25). -/
def isUnit (u : Nat) : Bool := u < 0x108 || (0x110 ≤ u && u < 0x11C) || (0x120 ≤ u && u < 0x140)

/-- A bundle address. -/
def isBundle (u : Nat) : Bool := 0x200 ≤ u && u < 0x600

/-- Tasks a unit can hold (R333). -/
def unitCapacity (u : Nat) : Nat := if u < 256 then 2 else 4

/-- Region of a PLR task port. -/
def portRegion (p : Nat) : Nat := p / 4

/-- Power domain of a unit. -/
def Chip.unitDom (c : Chip) (u : Nat) : Nat := unitDomain c.pressPhys portRegion u

/-- Unit states of SCHED_UNIT_STAT.STATE (R352). -/
abbrev uIn : Nat := 0
abbrev uDraining : Nat := 1
abbrev uOut : Nat := 2
abbrev uTesting : Nat := 3
abbrev uAdmitting : Nat := 4

/-- State of a unit. -/
def Chip.unitState (c : Chip) (u : Nat) : Nat := c.rd F.SCHED_UNIT_STAT_STATE u

/-- The task is held by the unit. -/
def Task.heldBy (t : Task) (u : Nat) : Bool := match t.state with | .held v _ => v == u | _ => false

/-- Order of a held task among those its unit holds. -/
def Task.ord (t : Task) : Nat := match t.state with | .held _ o => o | _ => 0

/-- Insert a task by dispatch order. -/
def insertByOrd (t : Task) (l : List Task) : List Task :=
  match l with
  | [] => [t]
  | x :: r => if t.ord < x.ord then t :: x :: r else x :: insertByOrd t r

/-- Tasks a unit holds, in dispatch order. -/
def Chip.heldTasks (c : Chip) (u : Nat) : List Task :=
  (c.sched.tasks.filter (·.heldBy u)).foldl (fun l t => insertByOrd t l) []

/-- Tasks a unit holds and has started. -/
def Chip.runningTasks (c : Chip) (u : Nat) : List Task := (c.heldTasks u).filter (·.ran)

/-- The current task of a logical engine (R335). -/
def Chip.currentTask (c : Chip) (e : Nat) : Option Task := (c.runningTasks e).head?

/-! ## Task entries -/

/-- Find a task entry. -/
def Chip.task (c : Chip) (id : Nat) : Option Task := c.sched.tasks.find? (·.id == id)

/-- Replace the entry of the same number. -/
def Chip.putTask (c : Chip) (t : Task) : Chip :=
  c.withSched { c.sched with
    tasks := c.sched.tasks.map fun x => if x.id = t.id then t else x }

/-- Free task entries (R332). -/
def Chip.freeEntries (c : Chip) : Nat := 16384 - c.sched.tasks.length

/-- An item of a flow has been released (R332). -/
def Chip.released (c : Chip) (flow seq : Nat) : Bool :=
  (c.rd F.SCHED_FLOW_STAT_REL_NEXT flow + 2 ^ 17 - seq % 2 ^ 16 - 1) % 2 ^ 16 < 2 ^ 15

/-- Most unreleased items of a flow; 0 means 16,384. -/
def Chip.maxOut (c : Chip) (flow : Nat) : Nat :=
  let m := c.rd F.SCHED_FLOW_CFG_MAX_OUT flow
  if m = 0 then 16384 else m

/-- A deadline has passed: it is not later than the current tick (R326, R88). -/
def Chip.deadlinePassed (c : Chip) (d : Option Nat) : Bool :=
  match d with
  | some t => !tickLater t c.tick
  | none => false

/-- The task becomes releasable with a status. -/
def Chip.taskEnd (c : Chip) (t : Task) (s : Status) (ran : Bool) (u : Nat) : Chip :=
  c.putTask { t with state := .done, status := s, ran := ran, unit := u }

/-- The task becomes a tombstone that never ran. -/
def Chip.tombstone (c : Chip) (t : Task) (s : Status) : Chip := c.taskEnd t s false 0x7FF

/-- Loaded bundle at a bundle address. -/
def Chip.bundle (c : Chip) (u : Nat) : Option Bundle :=
  (c.sched.bundles.find? fun e => e.1 == u - 0x200).map (·.2)

/-- A target a descriptor may name (R27). -/
def Chip.validTarget (c : Chip) (u : Nat) : Bool := isUnit u || (isBundle u && (c.bundle u).isSome)

/-- Shed stage rules in force at acceptance (R351). -/
def Chip.s5Halt (c : Chip) : Bool := c.flag F.SCHED_STAT_S5_HALT

/-- The status a descriptor is accepted with: OK for a task that may run (R326, R351). -/
def Chip.acceptStatus (c : Chip) (w0 w1 : Nat) (poison1 : Bool) : Status :=
  if bits w0 19 16 ≠ 1 then .versionMismatch
  else if bit w0 11 || bit w0 23 || bits w0 127 96 ≠ 0 || bits w1 127 80 ≠ 0 || !c.validTarget (bits w0 10 0)
      || (bit w0 22 && !c.flag F.SCHED_FLOW_CFG_EN (bits w0 47 36)) then .badDescriptor
  else if c.s5Halt then .shed
  else if poison1 then .poisoned
  else if bit w0 20 && c.deadlinePassed (some (bits w0 95 64)) then .deadlineMissed
  else .ok

/-- Count a descriptor discarded without a sequence number, or a refused request (R326). -/
def Chip.schedReject (c : Chip) (s : Status) : Chip :=
  (c.incSat F.SCHED_STAT_REJECTS).wr F.SCHED_STAT_LAST_REJECT s.code

/-- A dependency is met: there is none, or the position it names is released. -/
def Chip.depMet (c : Chip) (dep : Option (Nat × Nat)) : Bool :=
  match dep with
  | some (f, n) => c.released f n
  | none => true

/-- Accept or discard one descriptor (R326, R327); the number of the new entry, none where it was discarded. The words
come with their poison, a word whose read did not complete with OK counting as poisoned; `addr` is where they were
read. -/
def Chip.accept (c : Chip) (w0 w1 : Nat) (poison0 poison1 : Bool) (addr : Nat) : Chip × Option Nat :=
  if poison0 then ((c.postPoison 0x7FF srcSched 10 addr).schedReject .poisoned, none)
  else
    let flow := bits w0 35 24
    if !c.flag F.SCHED_FLOW_CFG_EN flow then (c.schedReject .badDescriptor, none)
    else
      let st := c.acceptStatus w0 w1 poison1
      let c := c.when poison1 fun c => c.postPoison 0x7FF srcSched 10 (addr + 16)
      let seq := c.rd F.SCHED_FLOW_STAT_NEXT_SEQ flow
      let dep := if bit w0 22 then some (bits w0 47 36, bits w0 63 48) else none
      let met := c.depMet dep
      let t : Task :=
        { id := c.sched.nextId, flow := flow, seq := seq, prio := bits w0 15 12, target := bits w0 10 0,
          deadline := if bit w0 20 then some (bits w0 95 64) else none, record := bit w0 21, dep := dep,
          arg := bits w1 63 0, tag := bits w1 79 64,
          state := if st != .ok then .done else if met then .ready else .waiting, status := st }
      let c := c.withSched { c.sched with tasks := c.sched.tasks ++ [t], nextId := c.sched.nextId + 1 }
      ((c.incMod F.SCHED_FLOW_STAT_NEXT_SEQ flow).incMod F.SCHED_FLOW_STAT_OUT flow, some t.id)

/-- Read a descriptor at an address and accept it (R326). -/
def Chip.acceptAt (c : Chip) (addr : Nat) : Chip × Option Nat :=
  let (c, r0) := c.readWord .fabric addr
  let (c, r1) := c.readWord .fabric (addr + 16)
  c.accept r0.data r1.data (r0.poison || r0.status != .ok) (r1.poison || r1.status != .ok) addr

/-! ## Eligibility and dispatch -/

/-- The scheduler dispatches to the unit's domain: not while the domain leaves ON or has a request to (R453). -/
def Chip.domDispatch (c : Chip) (d : Nat) : Bool :=
  !(c.flag F.PWR_DOM_STAT_IN_TRANSITION d && c.rd F.PWR_DOM_STAT_TARGET d != dOn)

/-- A unit is eligible for a task of a flow (R333, R355). -/
def Chip.unitEligible (c : Chip) (flow u : Nat) : Bool :=
  isUnit u && c.unitState u == uIn && (c.heldTasks u).length < unitCapacity u
    && !c.sched.bars.contains (u, flow) && c.domDispatch (c.unitDom u)

/-- A target is eligible: a unit, or a bundle that holds an eligible member, to the depth of the nesting (R333). -/
def Chip.eligible (c : Chip) (flow fuel u : Nat) : Bool :=
  match fuel with
  | 0 => false
  | n + 1 =>
    if isBundle u then
      match c.bundle u with
      | some b => b.members.any fun m => c.eligible flow n m.1
      | none => false
    else c.unitEligible flow u

/-- Depth to which bundles can nest: the loaded set has no cycle (R28). -/
def Chip.depth (c : Chip) : Nat := c.sched.bundles.length + 1

/-- Indices from `k` on, wrapping round. -/
def indicesFrom (k n : Nat) : List Nat := (List.range n).map fun i => (k + i) % n

/-- Weight of a member, 0 acting as 1 (R337). -/
def memberWeight (m : Nat × Nat) : Nat := if m.2 = 0 then 1 else m.2

/-- Index with the most credits among eligible members, the lower index on a tie. -/
def mostCredits (credits : List Nat) (elig : Nat → Bool) (n : Nat) : Option Nat :=
  (List.range n).foldl (fun best i =>
    if !elig i || credits.getD i 0 = 0 then best
    else match best with
      | none => some i
      | some j => if credits.getD j 0 < credits.getD i 0 then some i else best) none

/-- Choice of a member under the bundle's policy, and the policy state after it (R337). -/
def Bundle.choose (b : Bundle) (flow : Nat) (elig : Nat → Bool) : Option (Nat × Bundle) :=
  let n := b.members.length
  match b.policy with
  | 0 => ((List.range n).find? elig).map fun i => (i, b)
  | 1 => ((indicesFrom (b.last + 1) n).find? elig).map fun i => (i, { b with last := i })
  | 2 =>
    match mostCredits b.credits elig n with
    | some i => some (i, { b with credits := b.credits.set i (b.credits.getD i 0 - 1) })
    | none =>
      let full := b.members.map memberWeight
      (mostCredits full elig n).map fun i => (i, { b with credits := full.set i (full.getD i 0 - 1) })
  | _ => ((indicesFrom (flow % n) n).find? elig).map fun i => (i, b)

/-- Go from a target down to the leaf unit, keeping the policy state of every bundle on the way (R337). -/
def Chip.leafOf (c : Chip) (flow fuel u : Nat) : Chip × Option Nat :=
  match fuel with
  | 0 => (c, none)
  | n + 1 =>
    if isBundle u then
      match c.bundle u with
      | none => (c, none)
      | some b =>
        match b.choose flow (fun i => c.eligible flow n (b.members.getD i (0x7FF, 0)).1) with
        | none => (c, none)
        | some (i, b') =>
          let c := c.withSched { c.sched with
            bundles := c.sched.bundles.map fun (e : Nat × Bundle) => if e.1 = u - 0x200 then (e.1, b') else e }
          c.leafOf flow n (b.members.getD i (0x7FF, 0)).1
    else if c.unitEligible flow u then (c, some u) else (c, none)

/-- Task `a` goes before task `b` (R334): lower PRIO, then earlier deadline with tasks that have none after all that
have one, then acceptance order. -/
def Task.before (a b : Task) : Bool :=
  if a.prio ≠ b.prio then a.prio < b.prio
  else match a.deadline, b.deadline with
    | some x, some y => if x = y then a.id < b.id else tickLater y x
    | some _, none => true
    | none, some _ => false
    | none, none => a.id < b.id

/-- Stage S2 holds back bundle tasks of PRIO 12–15 (R351). -/
def Chip.s2Holds (c : Chip) (t : Task) : Bool := c.flag F.SCHED_STAT_S2_SUSP && 12 ≤ t.prio && isBundle t.target

/-- Modes in which tasks are dispatched (R349). -/
abbrev modesRun : Nat := 0xD8

/-- The task the next dispatch decision takes (R334, R349, R351). -/
def Chip.nextTask (c : Chip) : Option Task :=
  if !c.modeIn modesRun || c.s5Halt then none
  else (c.sched.tasks.filter fun t => t.state == .ready && !c.s2Holds t && c.eligible t.flow c.depth t.target).foldl
    (fun best t => match best with | none => some t | some b => if t.before b then some t else best) none

/-- An interrupt is pending and enabled by its mask (R302). -/
def Eng.irqWanted (x : Eng) : Bool := x.irqPend &&& bits x.ictrl 15 8 != 0

/-- An interrupt can be taken before the next group (R302). -/
def Eng.irqTakeable (x : Eng) : Bool := bit x.ictrl 0 && x.irqWanted && x.brLeft == 0 && x.depth == 0

/-- The interrupt is held off (R303). -/
def Eng.heldOff (x : Eng) : Bool := bit x.ictrl 0 && x.irqWanted && !(x.brLeft == 0 && x.depth == 0)

/-- Keep the hold-off measurement up to date (R303). -/
def Eng.holdTrack (x : Eng) (tick : Nat) : Eng :=
  if x.heldOff then { x with hoSince := some (x.hoSince.getD tick) } else { x with hoSince := none, hoArmed := false }

/-- Set bits of a logical engine's IRQ_PEND (R297, R335). -/
def Chip.engIrq (c : Chip) (e m : Nat) : Chip :=
  let x := Tbl.get c.clu.engs e {}
  let y := Eng.holdTrack { x with irqPend := x.irqPend ||| m } c.tick
  c.withClu { c.clu with engs := Tbl.set c.clu.engs e y {} }

/-- Tasks in the places of a PLR task port: place and task, where the port still holds the task (R418). -/
def Chip.portPlaces (c : Chip) (p : Nat) : List (Nat × Task) :=
  c.plr.places.filterMap fun e =>
    if e.1 = p then
      match c.task e.2.2 with
      | some t => if t.heldBy (0x120 + p) && t.ran then some (e.2.1, t) else none
      | none => none
    else none

/-- Drive a signal of a task port: the value carries the port in its low five bits. -/
def Chip.portOut (c : Chip) (p : Nat) (line : String) (v : Nat) : Chip := c.emit (.plr (portRegion p) line (p + 32 * v))

/-- T_DL of a task port: bit k = the deadline of the task in place k has passed (R418). -/
def Chip.portDl (c : Chip) (p : Nat) : Chip :=
  c.portOut p "T_DL" ((c.portPlaces p).foldl (fun m e => m ||| b2n e.2.late * 2 ^ e.1) 0)

/-- A task is offered at a task port, with what the task word gives it (R335, R418). -/
def Chip.portOffer (c : Chip) (p : Nat) (t : Task) : Chip :=
  (((((c.portOut p "T_VALID" 1).portOut p "T_ARG" t.arg).portOut p "T_TAG" t.tag).portOut p "T_FLOW" t.flow).portOut p
    "T_SEQ" t.seq).portOut p "T_PRIO" t.prio

/-- Place a task with a leaf unit (R334, R335): the domain is woken where it is not ON (R455); in a locked domain the
task completes with DOMAIN_OFF, or SHED under the shed lock (R456). -/
def Chip.placeTask (c : Chip) (t : Task) (u : Nat) : Chip :=
  let d := c.unitDom u
  if c.domLocked d then
    c.taskEnd t (if c.rd F.PWR_DOM_STAT_LOCK_SRC d = 1 then .shed else .domainOff) false u
  else
    let busy := (c.currentTask u).isSome
    let c := c.putTask { t with state := .held u c.sched.nextOrd, unit := u }
    let c := c.withSched { c.sched with nextOrd := c.sched.nextOrd + 1 }
    let c := c.when (c.domState d != dOn) (·.hwWake d)
    let c := c.when (u < 256 && busy) (·.engIrq u 1)
    c.when (0x120 ≤ u) (·.portOffer (u - 0x120) t)

/-- One dispatch decision (R334). -/
def Chip.dispatch (c : Chip) : Chip :=
  match c.nextTask with
  | none => c
  | some t =>
    match c.leafOf t.flow c.depth t.target with
    | (c, some u) => c.placeTask t u
    | (c, none) => c

/-! ## Completion and release -/

/-- A unit completes a task with a status (R336, R339): for an engine or a PLR task port whose deadline has passed the
status is DEADLINE_MISSED unless the unit's own ranks higher. -/
def Chip.taskDone (c : Chip) (t : Task) (s : Status) : Chip :=
  let late := c.deadlinePassed t.deadline && (t.unit < 256 || 0x120 ≤ t.unit)
  c.taskEnd t (if late then s.worst .deadlineMissed else s) true t.unit

/-- Waiting tasks whose dependency is now met become ready (R332). -/
def Chip.meetDeps (c : Chip) : Chip :=
  c.withSched { c.sched with
    tasks := c.sched.tasks.map fun t =>
      if t.state == .waiting && c.depMet t.dep
      then { t with state := .ready } else t }

/-- The release record of an item (R342). -/
def Chip.releaseRecord (c : Chip) (t : Task) : Nat :=
  t.status.code + b2n t.status.tomb * 2 ^ 8 + b2n t.ran * 2 ^ 9 + t.seq * 2 ^ 16 + t.flow * 2 ^ 32
    + (if t.ran then t.unit else 0x7FF) * 2 ^ 48 + t.tag * 2 ^ 64 + c.tick % tickMod * 2 ^ 96

/-- Bytes of a flow's release ring. -/
def Chip.relSize (c : Chip) (flow : Nat) : Nat := 2 ^ c.rd F.SCHED_FLOW_CFG_LOG2 flow

/-- The flow's next item, where it is releasable and the release ring has room (R339, R342). -/
def Chip.nextRelease (c : Chip) (flow : Nat) : Option Task :=
  if cntSub (c.rd F.SCHED_FLOW_PTR_REL_WR flow) (c.rd F.SCHED_FLOW_PTR_REL_RD flow) = c.relSize flow then none
  else c.sched.tasks.find? fun t =>
    t.flow == flow && t.seq == c.rd F.SCHED_FLOW_STAT_REL_NEXT flow && t.state == .done

/-- Write the release record of an item with REC set (R342). -/
def Chip.writeRecord (c : Chip) (t : Task) : Chip :=
  if t.record then
    let a := c.rd F.SCHED_FLOW_CFG_BASE t.flow * 16
      + c.rd F.SCHED_FLOW_PTR_REL_WR t.flow % c.relSize t.flow * 16
    let (c, s) := c.writeWord .fabric a (c.releaseRecord t) false
    (c.when (s != .ok) (·.incSat F.SCHED_FLOW_STAT_REC_FAIL t.flow)).incMod F.SCHED_FLOW_PTR_REL_WR t.flow
  else c

/-- Release the next item of a flow (R339): its record, REL_NEXT, its entry, OUT; the bars of the flow end when OUT
reaches 0 (R355), and the host command whose slot task it was learns the outcome (R330). -/
def Chip.foldRelease (c : Chip) (flow : Nat) : Chip :=
  match c.nextRelease flow with
  | none => c
  | some t =>
    let c := c.writeRecord t
    let c := c.incMod F.SCHED_FLOW_STAT_REL_NEXT flow
    let c := c.withSched { c.sched with tasks := c.sched.tasks.filter (·.id != t.id) }
    let c := c.wr F.SCHED_FLOW_STAT_OUT (c.rd F.SCHED_FLOW_STAT_OUT flow - 1) flow
    let c := c.when (c.rd F.SCHED_FLOW_STAT_OUT flow == 0) fun c =>
      c.withSched { c.sched with bars := c.sched.bars.filter (·.2 != flow) }
    let c := c.withHif { c.hif with
      inflight := c.hif.inflight.map fun (h : HostCmd) =>
        if h.task = some t.id then { h with stage := .finished, rel := some (t.status, t.ran) } else h }
    c.meetDeps

/-- Release every item that can be released, flow by flow, at most `fuel` of them. -/
def Chip.foldAll (c : Chip) (fuel : Nat) : Chip :=
  match fuel with
  | 0 => c
  | n + 1 =>
    match c.sched.tasks.find? (fun t => (c.nextRelease t.flow).isSome) with
    | some t => (c.foldRelease t.flow).foldAll n
    | none => c

/-! ## Leaving service and re-admission -/

/-- Move every bank port a unit owns to the unowned state (R353, R379). -/
def Chip.unownBanks (c : Chip) (u : Nat) : Chip :=
  (List.range 16).foldl (fun c n => (List.range 32).foldl (fun c b =>
    let c := c.when (c.rd F.MEM_BANK_OWN_OWN_A n b == u) (·.wr F.MEM_BANK_OWN_OWN_A 0x7FF n b)
    c.when (b < 2 && c.rd F.MEM_BANK_OWN_OWN_B n b == u) (·.wr F.MEM_BANK_OWN_OWN_B 0x7FF n b)) c) c

/-- Indices of a logical engine's registers: cluster and engine in the cluster. -/
def eC (e : Nat) : Nat := e / 16
def eJ (e : Nat) : Nat := e % 16

/-- Withdraw a held task to the ready lists (R352); one whose deadline has passed becomes a tombstone. -/
def Chip.withdraw (c : Chip) (t : Task) : Chip :=
  if c.deadlinePassed t.deadline then c.tombstone t .deadlineMissed
  else c.putTask { t with state := .ready, unit := 0x7FF, ran := false }

/-- The spare of a unit can be substituted (R354, R518). -/
def Chip.spareFree (c : Chip) (u : Nat) : Bool :=
  if u < 256 then bit (c.rd F.SCHED_SPARE_ENGINE_FREE) (u / 16) else c.flag F.AE_MAP_SPARE_FREE

/-- Take the spare of a unit. -/
def Chip.takeSpare (c : Chip) (u : Nat) : Chip :=
  if u < 256 then c.wr F.SCHED_SPARE_ENGINE_FREE (setBit (c.rd F.SCHED_SPARE_ENGINE_FREE) (u / 16) false)
  else c.wr F.AE_MAP_SPARE_FREE 0

/-- A request to a unit completes with a status; another request held for the unit stays held. -/
def Chip.unitStatus (c : Chip) (u : Nat) (s : Status) : Chip := c.wr F.SCHED_UNIT_STAT_LAST_STATUS s.code u

/-- Hold a request to a unit; a held request it replaces is reported SUPERSEDED (R356). -/
def Chip.unitHold (c : Chip) (u : Nat) (r : UnitReq) : Chip :=
  let had := c.sched.pend.any fun e => e.1 == u
  let c := c.when had (·.wr F.SCHED_UNIT_STAT_LAST_STATUS Status.superseded.code u)
  (c.withSched { c.sched with pend := Tbl.set c.sched.pend u r ⟨0, false⟩ }).wr
    F.SCHED_UNIT_STAT_ENABLE_PENDING 1 u

/-- Drop the held request of a unit. -/
def Chip.unitUnhold (c : Chip) (u : Nat) : Chip :=
  (c.withSched { c.sched with pend := Tbl.erase c.sched.pend u }).wr F.SCHED_UNIT_STAT_ENABLE_PENDING 0 u

/-- The image of a PLR task port's region is complete (R354). -/
def Chip.regionLoaded (c : Chip) (r : Nat) : Bool := c.rd F.PLR_REGION_STAT_STATE r == 4

/-- Steps 2 and 3 of R354 for a unit in OUT: hold, refuse, test the spare, or begin the admission. -/
def Chip.unitProceed (c : Chip) (u : Nat) (r : UnitReq) : Chip :=
  let d := c.unitDom u
  if !c.modeIn 0x98 then c.unitHold u r
  else if 0x120 ≤ u && !c.regionLoaded (portRegion (u - 0x120)) then c.unitHold u r
  else if c.rd F.PWR_DOM_STAT_LOCK_SRC d = 1 then c.unitHold u r
  else if c.domLocked d then (c.unitUnhold u).unitStatus u .domainOff
  else
    let c := (c.unitUnhold u).when (c.domState d != dOn) (·.hwWake d)
    if r.op = 3 then
      if c.spareFree u then
        let c := c.when (256 ≤ u) fun c => c.hwWake (16 + c.rd F.AE_MAP_SPARE_PHYS)
        (c.takeSpare u).wr F.SCHED_UNIT_STAT_STATE uTesting u
      else c.unitStatus u .accessDenied
    else c.wr F.SCHED_UNIT_STAT_STATE uAdmitting u

/-- The unit reaches OUT (R353): its banks become unowned, an engine shows OUT, a held READMIT or SUBST goes on. -/
def Chip.unitReachOut (c : Chip) (u : Nat) : Chip :=
  let c := (c.wr F.SCHED_UNIT_STAT_STATE uOut u).unownBanks u
  let c := c.when (u < 256) fun c => c.wr F.CLU_ENG_STAT_STATE 6 (eC u) (eJ u)
  match c.sched.pend.find? (fun (e : Nat × UnitReq) => e.1 == u) with
  | some (_, r) => if r.op = 1 then (c.unitUnhold u).unitStatus u .ok else c.unitProceed u r
  | none => c

/-- A unit leaves service for a cause of R352; `s` is the status of the running task for a double fault. -/
def Chip.unitDepart (c : Chip) (u cause : Nat) (s : Status) : Chip :=
  let c := c.wr F.SCHED_UNIT_STAT_LEAVE_CAUSE cause u
  let run := c.runningTasks u
  let wait := (c.heldTasks u).filter (!·.ran)
  if cause = 1 || cause = 5 then
    (wait.foldl Chip.withdraw c).wr F.SCHED_UNIT_STAT_STATE uDraining u
  else if cause = 3 then
    let c := run.foldl (fun c t => c.taskEnd t .targetIsolated true u) c
    (wait.foldl (fun c t => c.taskEnd t .targetIsolated false u) c).unitReachOut u
  else
    let st : Status := if cause = 2 then s else .deadlineMissed
    let c := run.foldl (fun c t => c.taskEnd t (if cause = 2 && c.deadlinePassed t.deadline
      then st.worst .deadlineMissed else st) true u) c
    (wait.foldl Chip.withdraw c).unitReachOut u

/-- Re-evaluate every held READMIT or SUBST of a unit in OUT: after a mode entry, a lock cleared or a region loaded. -/
def Chip.retryAdmits (c : Chip) : Chip :=
  c.sched.pend.foldl (fun c e => if c.unitState e.1 = uOut && e.2.op ≠ 1 then c.unitProceed e.1 e.2 else c) c

/-- A logical engine starts at its entry group (R267). -/
def Chip.engStart (c : Chip) (e : Nat) : Chip :=
  let k := Tbl.get c.clu.clus (eC e) {}
  let c := c.withClu { c.clu with engs := Tbl.set c.clu.engs e { pc := k.entry, evec := k.evec } {} }
  c.wr F.CLU_ENG_STAT_STATE 1 (eC e) (eJ e)

/-- Step 4 and 5 of R354: the epoch advances, the unit is barred from every flow with items out (R355), its port reopens
if it was isolated (R370), an engine starts, the unit is IN; a LEAVE held meanwhile is applied (R356). -/
def Chip.unitAdmit (c : Chip) (u : Nat) : Chip :=
  let c := c.incMod F.SCHED_EPOCH_EPOCH
  let c := c.wr F.SCHED_UNIT_STAT_ADMIT_EPOCH (c.rd F.SCHED_EPOCH_EPOCH) u
  let out := (List.range 4096).filter fun f => c.rd F.SCHED_FLOW_STAT_OUT f != 0
  let c := c.withSched { c.sched with
    bars := (c.sched.bars.filter fun (b : Nat × Nat) => b.1 != u) ++ out.map (fun f => (u, f)) }
  let c := c.wr F.FAB_PORT_STAT_ISOLATED 0 (c.portUnit u)
  let c := c.when (u < 256) (·.engStart u)
  let c := (c.wr F.SCHED_UNIT_STAT_STATE uIn u).wr F.SCHED_UNIT_STAT_LAST_STATUS 0 u
  match c.sched.pend.find? (fun (e : Nat × UnitReq) => e.1 == u) with
  | some (_, r) => if r.op = 1 then (c.unitUnhold u).unitDepart u 1 .ok else c
  | none => c

/-- A LEAVE, READMIT or SUBST written for a unit (R352, R354, R356). -/
def Chip.unitRequest (c : Chip) (u op : Nat) : Chip :=
  let st := c.unitState u
  match op with
  | 1 =>
    if st = uIn then (c.unitDepart u 1 .ok).unitStatus u .ok
    else if st = uDraining then c
    else if st = uOut then c.unitStatus u .ok
    else c.unitHold u ⟨1, false⟩
  | 2 =>
    if st = uIn then c.unitStatus u .ok
    else if st = uDraining then c.unitHold u ⟨2, false⟩
    else if st = uOut then c.unitProceed u ⟨2, false⟩
    else c
  | 3 =>
    if 0x110 ≤ u then c.unitStatus u .badDescriptor
    else if !c.spareFree u then c.unitStatus u .accessDenied
    else if st = uIn then (c.unitDepart u 5 .ok).unitHold u ⟨3, true⟩
    else if st = uDraining then c.unitHold u ⟨3, true⟩
    else if st = uOut then c.unitProceed u ⟨3, true⟩
    else c
  | _ => c

/-! ## Shed stage S5 and the end of a drain -/

/-- Every ready, waiting or held task completes with a status (R350, R351), but for those that are to go on. -/
def Chip.endAllTasks (c : Chip) (s : Status) (on : List Nat := []) : Chip :=
  c.withSched { c.sched with
    tasks := c.sched.tasks.map fun t =>
      if t.state == .done || on.contains t.id then t
      else { t with state := .done, status := s, unit := if t.ran then t.unit else 0x7FF } }

end Sys2Proof.Machine
end

