-- ==== Sys2Proof/Machine/Hif.lean ====
section
/-! DEFINITION. The host interface (spec/03_host_rings.md): ring errors, resets, the checks of a command entry and of its
item table, completions. The commands of the interface are in Machine/HifCmds.lean. -/
namespace Sys2Proof.Machine

/-! ## Rings (R80–R83, R98, R99) -/

/-- Bytes of an entry of ring `r`. -/
def ringEntryBytes (r : Nat) : Nat := if r < 8 then 64 else 32

/-- Enabled command rings of a function that post to completion ring `r` (8–15). -/
def Chip.feeders (c : Chip) (f r : Nat) : List Nat :=
  (List.range 8).filter fun n => c.flag F.RING_CFG_ENABLE f n && c.rd F.RING_CFG_CPL_RING f n == r - 8

/-- Every command ring that feeds completion ring `r`: enabled, halted by an error and not yet reset, or in reset. -/
def Chip.feedersAll (c : Chip) (f r : Nat) : List Nat :=
  (List.range 8).filter fun n =>
    (c.flag F.RING_CFG_ENABLE f n || (c.ringX f n).mustReset || (c.ringX f n).resetting)
      && c.rd F.RING_CFG_CPL_RING f n == r - 8

/-- Completion ring `q` has an entry free that no fetched command has reserved (R94). -/
def Chip.cplFree (c : Chip) (f q : Nat) : Bool :=
  c.flag F.RING_CFG_ENABLE f q && c.ringUsed f q + (c.ringX f q).reserved < c.ringSize f q

/-- CPL_STALL of every command ring that feeds completion ring `q` says whether that ring lacks a free entry (R94). -/
def Chip.stallUp (c : Chip) (f q : Nat) : Chip :=
  let stall := !c.cplFree f q
  (c.feeders f q).foldl (fun c n => c.setFlag F.RING_STAT_CPL_STALL stall f n) c

/-- Ring `r` stops on an error: ENABLE cleared, HALTED and ERR_STATUS set, RING_ERROR posted but for the event ring's own
error (R98). -/
def Chip.ringStop (c : Chip) (f r : Nat) (st : Status) : Chip :=
  let c := (c.wr F.RING_CFG_ENABLE 0 f r).wr F.RING_STAT_HALTED 1 f r
  let c := c.wr F.RING_STAT_ERR_STATUS st.code f r
  let c := c.setRingX f r { c.ringX f r with mustReset := true }
  if r = evRing then c
  else c.postTo f st srcHif evRingError (r + c.rd F.RING_PTR_DEV_COUNT f r % 2 ^ 16 * 2 ^ 16) 0

/-- Completions, results and buffer writes of a ring's commands in flight are discarded. -/
def Chip.discardRing (c : Chip) (f r : Nat) : Chip :=
  c.withHif { c.hif with
    inflight := c.hif.inflight.map fun (h : HostCmd) => if h.fn = f ∧ h.ring = r then { h with discard := true } else h }

/-- A ring error (R98); that of a completion ring halts its feeders too. Completions not yet written are discarded, since
the completion ring's ENABLE is 0 (`Chip.complete`); results and buffer writes go on. -/
def Chip.ringError (c : Chip) (f r : Nat) (st : Status) : Chip :=
  if 8 ≤ r && r < 16 then (c.feeders f r).foldl (fun c n => c.ringStop f n st) (c.ringStop f r st)
  else c.ringStop f r st

/-- A ring of a function is being reset. -/
def Chip.resetting (c : Chip) (f r : Nat) : Bool := (c.ringX f r).resetting

/-- Commands of a ring in flight, oldest first. -/
def Chip.ringCmds (c : Chip) (f r : Nat) : List HostCmd := c.hif.inflight.filter fun h => h.fn == f && h.ring == r

/-- Set a command in flight. -/
def Chip.putCmd (c : Chip) (x : HostCmd) : Chip :=
  c.withHif { c.hif with
    inflight := c.hif.inflight.map fun (h : HostCmd) =>
      if h.fn = x.fn ∧ h.ring = x.ring ∧ h.count = x.count then x else h }

/-- Remove a command from flight; its reserved completion entry is free again. -/
def Chip.dropCmd (c : Chip) (x : HostCmd) : Chip :=
  let c := c.withHif { c.hif with
    inflight := c.hif.inflight.filter fun h => !(h.fn == x.fn && h.ring == x.ring && h.count == x.count) }
  let q := cplRing (c.rd F.RING_CFG_CPL_RING x.fn x.ring)
  let y := c.ringX x.fn q
  ((c.setRingX x.fn q { y with reserved := y.reserved - 1 }).wr F.RING_STAT_IN_FLIGHT
    (c.rd F.RING_STAT_IN_FLIGHT x.fn x.ring - 1) x.fn x.ring).stallUp x.fn q

/-- RESET of one ring is requested (R81, R99). -/
def Chip.ringResetOne (c : Chip) (f r : Nat) : Chip :=
  let c := c.w1sStart F.RING_CFG_RESET f r id
  let c := c.setRingX f r { c.ringX f r with resetting := true }
  let c := (c.ringCmds f r).foldl (fun c h =>
    match h.stage with
    | .fetched => c.dropCmd h
    | .table => c.dropCmd h
    | _ => c) c
  c.discardRing f r

/-- RESET of a ring; that of a completion ring also resets the command rings that feed it (R99). -/
def Chip.ringReset (c : Chip) (f r : Nat) : Chip :=
  let fs := if 8 ≤ r && r < 16 then c.feedersAll f r else []
  fs.foldl (fun c n => c.ringResetOne f n) (c.ringResetOne f r)

/-- Nothing of a ring is in flight, nor of the rings that feed it. -/
def Chip.ringQuiet (c : Chip) (f r : Nat) : Bool :=
  if r < 8 then (c.ringCmds f r).isEmpty
  else if r < 16 then (c.feedersAll f r).isEmpty
  else true

/-- ENABLE, RING_PTR and RING_STAT of a ring read zero. -/
def Chip.ringZero (c : Chip) (f r : Nat) : Chip :=
  (c.clrFields [F.RING_CFG_ENABLE, F.RING_PTR_DEV_COUNT, F.RING_PTR_HOST_COUNT, F.RING_STAT_LOST,
    F.RING_STAT_IN_FLIGHT, F.RING_STAT_CPL_STALL, F.RING_STAT_OVERFLOW, F.RING_STAT_HALTED, F.RING_STAT_ERR_STATUS]
    f r).setRingX f r {}

/-- The reset of a ring completes, or runs once more if it was asked for again (R18); RESET_ALL of the function clears
when no ring is resetting (R99). -/
def Chip.ringResetEnd (c : Chip) (f r : Nat) : Chip :=
  if c.resetting f r && c.ringQuiet f r then
    let c := (c.ringZero f r).w1sEnd F.RING_CFG_RESET f r fun c => c.setRingX f r { c.ringX f r with resetting := true }
    if (List.range 17).any fun k => c.resetting f k then c else c.wr F.HIF_FN_CTRL_RESET_ALL 0 f
  else c

/-! ## Doorbells (R82, R83) -/

/-- Function-page ring of a BAR2 offset. -/
def doorbellRing (off : Nat) : Option Nat :=
  if off % 8 ≠ 0 then none
  else if off < 0x40 then some (off / 8)
  else if 0x100 ≤ off && off < 0x140 then some (8 + (off - 0x100) / 8)
  else if off = 0x180 then some evRing
  else none

/-- A doorbell is valid (R82). -/
def Chip.doorbellOk (c : Chip) (f r count : Nat) : Bool :=
  let dev := c.rd F.RING_PTR_DEV_COUNT f r
  let d := if r < 8 then cntSub count dev else cntSub dev count
  d ≤ c.ringSize f r && cntSub count (c.rd F.RING_PTR_HOST_COUNT f r) < 2 ^ 31

/-- What a read of BAR2 returns, at any offset of any function's page (R83). -/
def bar2Read : Nat := 0

/-- A BAR2 write: dropped and counted, invalid, or the new HOST_COUNT; the flag says that a valid doorbell was taken. -/
def Chip.doorbell (c : Chip) (f off bytes value : Nat) : Chip × Bool :=
  match doorbellRing off with
  | none => (c.incSat F.HIF_FN_STAT_DB_DROP f, false)
  | some r =>
    if bytes ≠ 8 || !c.flag F.RING_CFG_ENABLE f r || c.resetting f r then (c.incSat F.HIF_FN_STAT_DB_DROP f, false)
    else
      let count := value % 2 ^ 32
      if c.doorbellOk f r count then
        let c := c.wr F.RING_PTR_HOST_COUNT count f r
        (if 8 ≤ r && r < 16 then c.stallUp f r else c, true)
      else (c.ringError f r .badDescriptor, false)

/-! ## Command entries (R84–R88, R92) -/

/-- A listed opcode (R85). -/
def opListed (op : Nat) : Bool := op == 1 || op == 2 || op == 3 || (0x10 ≤ op && op ≤ 0x13)

/-- An RU entry's carrier as a carrier word (R432): type NR or LTE, spacing, prefix, resource blocks, cell. -/
def Chip.ruCarrier (c : Chip) (r : Nat) : Nat :=
  (1 + c.rd F.ETH_RU_CFG_TYPE r) * 2 ^ 61 + c.rd F.ETH_RU_CFG_SCS r * 2 ^ 59 + c.rd F.ETH_RU_CFG_CP_EXT r * 2 ^ 58
    + c.rd F.ETH_RU_CFG_CELL r * 2 ^ 53 + c.rd F.ETH_RU_CFG_N_RB r * 2 ^ 29

/-- The enabled RU entry that names a cell. -/
def Chip.ruOf (c : Chip) (cell : Nat) : Option Nat :=
  (List.range 32).find? fun r => c.flag F.ETH_RU_CFG_EN r && c.rd F.ETH_RU_CFG_CELL r == cell

/-- The carrier of a cell in the committed sets of the antenna channels. -/
def Chip.achOf (c : Chip) (cell : Nat) : Option Nat :=
  c.ach.chans.findSome? fun (e : Nat × AchX) =>
    (e.2.cfg.used.find? fun (k : Nat × Nat × Nat) => ccCell k.2.1 == cell).map fun k => k.2.1

/-- The carrier of a served cell and its layer limit for a direction (R87): channels or an RU entry serve it, not
both. -/
def Chip.cellCarrier (c : Chip) (cell : Nat) (dl : Bool) : Option (Nat × Nat) :=
  match c.achOf cell, c.ruOf cell with
  | some w, none => some (w, if dl then 64 else 32)
  | none, some r => some (c.ruCarrier r, c.rd F.ETH_RU_CFG_N_PORT_M1 r + 1)
  | _, _ => none

/-- Slot intake is closed for a drain (R66): QUIESCE, or a SERVICE-to-SOAK transition. -/
def Chip.intakeClosed (c : Chip) : Bool :=
  c.mode == mQuiesce || (c.mode == mService && c.flag F.DEV_MODE_IN_TRANSITION && c.rd F.DEV_MODE_TARGET_MODE == mSoak)

/-- Ticks from the start of a slot to its symbol `k`, `slot` the slot of the frame. -/
def symInSlot (w slot k : Nat) : Nat := symStart w (slot * ccSlotSyms w + k) - symStart w (slot * ccSlotSyms w)

/-- The rules of a slot command's own entry, with the mode and the order of SLOT_START (R78, R87, R92); its cell is held
and served as it was at the fetch. A downlink command in SHED mode counts as failing the check of the mode: it completes
with SHED before its item table is read (DESIGN CHOICE, log entry 67). -/
def Chip.slotEntryFaults (c : Chip) (h : HostCmd) : List Status :=
  let dl := h.op == 2
  let reserved := bits h.w0 15 14 != 0 || bits h.w0 39 37 != 0 || bits h.w0 63 56 != 0 || bits h.w1 127 75 != 0 || h.w2 != 0
    || h.itemAddr % 64 != 0 || h.items = 0 || 1024 < h.items || hostTop < h.itemAddr + 64 * h.items
    || (dl && h.deadline != 0)
  let served := match h.carrier with
    | some (w, _) => h.slotNo < frameTicks / ccSlotTicks w
    | none => false
  let early := match (c.ringX h.fn h.ring).lastStart with
    | some t => tickDiff h.start t < 0
    | none => false
  (if reserved || !served || early then [.badDescriptor] else [])
    ++ (if h.cellOk then [] else [.accessDenied])
    ++ (if c.mode == mRelay || c.mode == mVerify || c.mode == mTest then [.accessDenied] else [])
    ++ (if dl && c.mode == mShed then [.shed] else [])

/-- The rules every entry must meet: OPCODE, FMT_VER, FENCE under version 1.0. -/
def Chip.entryFaults (h : HostCmd) : List Status :=
  (if opListed h.op then [] else [.badDescriptor])
    ++ (if bits h.w0 11 8 = 1 then [] else [.versionMismatch])
    ++ (if bit h.w0 13 && h.minor = 0 then [.badDescriptor] else [])

/-- A command is finished with the statuses that hold and its counts. -/
def Chip.cmdEnd (c : Chip) (h : HostCmd) (sts : List Status) (nOk nFail : Nat) : Chip :=
  let cond := if sts.isEmpty then condAdd h.cond .ok else sts.foldl condAdd h.cond
  c.putCmd { h with stage := .finished, status := Status.worstOf sts, cond := cond, nOk := nOk, nFail := nFail }

/-- The oldest command of a ring that has been fetched and not yet taken up, if no FENCE holds it. -/
def Chip.nextFetched (c : Chip) (f r : Nat) : Option HostCmd :=
  match (c.ringCmds f r).find? fun h => h.stage == .fetched with
  | none => none
  | some h => if bit h.w0 13 && h.minor != 0 && (c.ringCmds f r).head?.map (·.count) != some h.count then none else some h

/-- A slot command is taken up (R66, R85, R88, R92): completed at once where its entry fails a check, else its item table
is read, with the status that keeps its items from being executed held. In SOAK it waits for SERVICE, and an uplink
command whose deadline has passed by then has missed it (R49). -/
def Chip.slotTake (c : Chip) (h : HostCmd) : Chip :=
  if c.mode = mSoak then c
  else
    let faults := Chip.entryFaults h ++ c.slotEntryFaults h
    let c := c.setRingX h.fn h.ring { c.ringX h.fn h.ring with lastStart := some h.start }
    match faults with
    | _ :: _ => c.cmdEnd h faults 0 0
    | [] =>
      let late := tickLater h.fetchTick h.start || (h.op == 1 && tickLater c.tick h.deadline)
      let short := h.op == 1 && (match h.carrier with
        | some (w, _) => tickDiff h.deadline h.start < symInSlot w h.slotNo 14
        | none => false)
      let held := (if c.intakeClosed then [Status.abortedByQuiesce] else [])
        ++ (if late || short then [Status.deadlineMissed] else [])
      c.putCmd { h with stage := .table, status := Status.worstOf held, cond := held.foldl condAdd 0 }

/-! ## Item tables (R86, R87, R89) -/

/-- The item table of a command as host memory holds it now (R86): it is read once. -/
def Chip.readTable (c : Chip) (h : HostCmd) : List Nat :=
  (List.range (4 * h.items)).map fun k => c.hostRead (h.itemAddr + 16 * k) 16

/-- An item keeps its own rules (R86, R87). -/
def HostCmd.itemOk (h : HostCmd) (i : Nat) : Bool :=
  let w0 := h.itemWord i 0
  let w1 := h.itemWord i 1
  let w2 := h.itemWord i 2
  let buf := bits w1 127 64
  let len := bits w2 31 0
  let prb := bits w0 120 112
  let lay := bits w0 51 48
  bits w0 19 17 == 0 && bits w0 31 28 == 0 && bits w0 34 32 < 6 && bits w0 47 36 == 0 && bits w0 63 52 == 0
    && bits w0 95 88 == 0 && bits w0 111 105 == 0 && bits w0 127 121 == 0 && bits w1 23 22 == 0 && bits w1 63 32 == 0
    && bits w2 127 32 == 0
    && bits w0 104 96 ≤ 272 && 1 ≤ prb && prb ≤ 273 && bits w1 3 0 ≤ 13 && 1 ≤ bits w1 7 4 && bits w1 7 4 ≤ 14
    && bits w1 3 0 + bits w1 7 4 ≤ 14 && lay ≤ 3
    && (h.op == 2 || bits w1 29 24 < 32)
    && bits w0 87 64 ≤ len && buf % 64 == 0 && buf + len ≤ hostTop
    && (match h.carrier with
      | some (w, layers) => bits w0 104 96 + prb ≤ ccRb w && bits w1 29 24 + lay + 1 ≤ layers
      | none => false)

/-- CTX, HARQ_PID and CW of an item. -/
def HostCmd.itemKey (h : HostCmd) (i : Nat) : Nat × Nat × Nat :=
  let w0 := h.itemWord i 0
  (bits w0 16 0, bits w0 23 20, bits w0 25 25)

/-- Every item keeps its rules, and no two name the same context, process and codeword (R87). -/
def HostCmd.itemsOk (h : HostCmd) : Bool :=
  (List.range h.items).all h.itemOk && pairsAll (fun a b => a != b) ((List.range h.items).map h.itemKey)

/-- Downlink items mapped above layer 15, which stage S3 sheds (R42, R463); they are those of the stage in force when the
item table is read (DESIGN CHOICE, log entry 68). -/
def Chip.shedItems (c : Chip) (h : HostCmd) : List Nat :=
  if h.op == 2 && 3 ≤ c.rd F.PWR_SHED_STAGE_STAGE then
    (List.range h.items).filter fun i => 16 ≤ bits (h.itemWord i 1) 29 24 + bits (h.itemWord i 0) 51 48
  else []

/-- The RESULT words of a list of items hold a status and nothing else (R89). -/
def Chip.resultsOf (c : Chip) (h : HostCmd) (st : Status) (l : List Nat) : Chip :=
  if h.discard then c
  else l.foldl (fun c i => c.hostWrite (h.itemAddr + 64 * i + 48) (toBytes 16 st.code)) c

/-- Every item's RESULT holds a status and nothing else. -/
def Chip.resultsAll (c : Chip) (h : HostCmd) (st : Status) : Chip := c.resultsOf h st (List.range h.items)

/-- The lowest free slot of the command area (R329). -/
def Chip.freeSlot (c : Chip) : Option Nat :=
  (List.range 512).find? fun k => !c.hif.inflight.any fun h => h.slot == some k

/-- Internal address of a slot of the command area. -/
def Chip.slotAddr (c : Chip) (k : Nat) : Nat := c.rd F.SCHED_CMD_AREA_BASE * 2 ^ 16 + k * 0x11000

/-- The copy of a command and its item table (R329). -/
def Chip.copyCmd (c : Chip) (h : HostCmd) (k : Nat) : Chip :=
  let a := c.slotAddr k
  let c := (c.writeWords .fabric a [h.w0, h.w1, h.w2, 0] false).1
  let c := (c.writeWord .fabric (a + 0x40) 0 false).1
  (c.writeWords .fabric (a + 0x80) h.table false).1

/-- The slot task of a command is submitted (R329, R330). -/
def Chip.slotSubmit (c : Chip) (h : HostCmd) (k : Nat) : Chip :=
  let c := c.copyCmd h k
  let ul := h.op == 1
  let q := if ul then 0 else 1
  let w0 := c.rd F.SCHED_SLOT_MAP_TARGET q + c.rd F.RING_CFG_PRIO h.fn h.ring * 2 ^ 12 + 1 * 2 ^ 16 + b2n ul * 2 ^ 20
    + c.rd F.SCHED_SLOT_MAP_FLOW q * 2 ^ 24 + (if ul then h.deadline else 0) * 2 ^ 64
  let w1 := c.slotAddr k + bits h.w0 31 16 * 2 ^ 64
  match c.accept w0 w1 false false (c.slotAddr k) with
  | (c, some t) => c.putCmd { h with stage := .started, slot := some k, task := some t }
  | (c, none) => (c.resultsAll h .badDescriptor).cmdEnd h [.badDescriptor] 0 h.items

/-! ## Completions (R89–R94, R330) -/

/-- The status, mask and counts a finished command is completed with; its shed items are SHED whatever its task made of
them (R42). -/
def Chip.outcomeOf (c : Chip) (h : HostCmd) : Chip × HostCmd :=
  let held := if h.status = .ok then [] else [h.status]
  match h.rel, h.slot with
  | some (st, true), some k =>
    let (c, r) := c.readWord .fabric (c.slotAddr k + 0x40)
    if r.poison || r.status != .ok then
      (c, { h with status := .poisoned, cond := condAdd h.cond .poisoned, nOk := 0, nFail := h.items })
    else
      let sum := Status.ofCode (bits r.data 7 0)
      let h := { h with
        status := Status.worstOf (held ++ [st, sum])
        cond := condAdd (bits r.data 23 8 ||| h.cond) st
        nOk := bits r.data 47 32
        nFail := bits r.data 63 48 }
      if h.shed.isEmpty then (c, h)
      else
        let n := min h.nOk (h.items - h.shed.length)
        (c.resultsOf h .shed h.shed, { h with
          status := h.status.worst .shed, cond := condAdd h.cond .shed, nOk := n, nFail := h.items - n })
  | some (st, false), some _ =>
    (c.resultsAll h st, { h with
      status := Status.worstOf (held ++ [st]), cond := condAdd h.cond st, nOk := 0, nFail := h.items })
  | _, _ =>
    if 0x10 ≤ h.op && h.op ≤ 0x13 then (c, { h with nOk := b2n (h.status == .ok), nFail := b2n (h.status != .ok) })
    else (c, h)

/-- Word 0 of a completion entry without PHASE (R90). -/
def Chip.cplWord (c : Chip) (h : HostCmd) : Nat :=
  h.status.code + 1 * 2 ^ 12 + bits h.w0 31 16 * 2 ^ 16 + h.count % c.ringSize h.fn h.ring * 2 ^ 32 + h.ring * 2 ^ 48
    + h.op * 2 ^ 56 + h.nOk % 2 ^ 16 * 2 ^ 64 + h.nFail % 2 ^ 16 * 2 ^ 80 + c.tick % tickMod * 2 ^ 96

/-- The completion of a command is written, or discarded where its ring was reset or its completion ring is not enabled
(R91–R94, R98, R99). -/
def Chip.complete (c : Chip) (h : HostCmd) : Chip :=
  let (c, h) := c.outcomeOf h
  let q := cplRing (c.rd F.RING_CFG_CPL_RING h.fn h.ring)
  let c := c.dropCmd h
  if h.discard || c.dev.pcieDiscard || !c.flag F.RING_CFG_ENABLE h.fn q then c
  else
    let c := (c.writeEntry h.fn q (c.cplWord h) (if h.minor = 0 then 0 else h.cond % 2 ^ 16)).stallUp h.fn q
    c.when (bit h.w0 12) fun c => c.coalesce h.fn q

/-- No completion that became postable earlier waits for the same completion ring (R93). -/
def Chip.postTurn (c : Chip) (h : HostCmd) : Bool :=
  let q := fun n => c.rd F.RING_CFG_CPL_RING h.fn n
  ((c.hif.post.takeWhile fun k => k != h.ref).all fun k => k.1 != h.fn || q k.2.1 != q h.ring) && c.hif.post.contains h.ref

/-! ## PCIe features (R76) -/

/-- Features a PCIe function can have. -/
inductive PcieFeature
  | gen3 | gen4 | gen5 | gen6 | x1 | x2 | x4 | x8 | x16 | flit | sriov | ari | msix | msi | intx | aer | poisonedTlp
  | relaxedOrdering | idOrdering
  deriving DecidableEq, Repr

/-- The features the interface implements; any other reads as absent in configuration space. -/
def pcieFeatures : List PcieFeature :=
  [.gen4, .gen5, .gen6, .x4, .x8, .x16, .flit, .sriov, .ari, .msix, .aer, .poisonedTlp]

/-- A feature reads as present in configuration space. -/
def pciePresent (f : PcieFeature) : Bool := pcieFeatures.contains f

/-- Payload sizes and read-request sizes the interface takes, in bytes; functions, MSI-X vectors of a function, tags. -/
def pcieMps : List Nat := [128, 256, 512]
def pcieMrrs : List Nat := [128, 256, 512, 1024, 2048, 4096]
def pcieVfs : Nat := 63
def pcieVectors : Nat := 32
def pcieTags : Nat := 768

/-- A rate, a width and a framing that a trained link can have: 6.0 in FLIT mode, 5.0 and 4.0 without. -/
def pcieLink (gen width : Nat) (flit : Bool) : Bool :=
  [4, 5, 6].contains gen && [4, 8, 16].contains width && flit == (gen == 6)

/-! ## Resets of the interface (R99) -/

/-- The ring descriptors of every function are zeroed. -/
def Chip.hifZeroRings (c : Chip) : Chip :=
  let c := c.withHif { c.hif with inflight := [], rings := [] }
  (List.range 64).foldl (fun c f => (List.range 17).foldl (fun c r =>
    ((c.resetReg G.RING_BASE f r).resetReg G.RING_CFG f r).ringZero f r) c) c

end Sys2Proof.Machine
end

