-- ==== Sys2Proof/Machine/Eth.lean ====
section
/-! DEFINITION. Third-party radio units (spec/17_ethernet_timing.md R430–R437): the checks of an entry, symbol times,
buffers, block floating-point. The commands are in Machine/EthCmds.lean. -/
namespace Sys2Proof.Machine

/-! ## Entries (R432) -/

/-- Modes in which RU entries exchange U-plane and C-plane (R429). -/
abbrev modesRu : Nat := 0xD8

/-- An RU entry as ETH_RU_CFG holds it. -/
structure RuCfg where
  port : Nat
  cell : Nat
  lte : Bool
  scs : Nat
  ext : Bool
  nRb : Nat
  ports : Nat
  mant : Nat
  ruBits : Nat
  base : Nat

/-- The fields of an ETH_RU_CFG value. -/
def ruCfgOf (v : Nat) : RuCfg :=
  { port := bits v 60 57
    cell := bits v 56 52
    lte := bit v 51
    scs := bits v 50 50
    ext := bit v 49
    nRb := bits v 48 40
    ports := bits v 39 37 + 1
    mant := bits v 36 33
    ruBits := bits v 32 29
    base := bits v 15 0 }

/-- The register's value. -/
def Chip.ruVal (c : Chip) (r : Nat) : Nat := c.rdFields G.ETH_RU_CFG.fields r 0

/-- eAxC IDs of an entry: data, and PRACH where it is enabled. -/
def Chip.ruIds (c : Chip) (r : Nat) (g : RuCfg) : List Nat :=
  let ids (b : Nat) : List Nat := (List.range g.ports).map fun p => b / 2 ^ g.ruBits * 2 ^ g.ruBits + p
  ids g.base ++ (if c.flag F.ETH_RU_PRACH_EN r then ids (c.rd F.ETH_RU_PRACH2_PRACH_BASE r) else [])

/-- Bytes of a PRACH occasion's buffer (R433). -/
def Chip.prachBytes (c : Chip) (r : Nat) : Nat :=
  (c.rd F.ETH_RU_PRACH_N_SYM_M1 r + 1) * c.rd F.ETH_RU_PRACH_N_PRBC r * 48 + 16

/-- The buffers of an entry lie in the shared pool. -/
def Chip.ruPoolOk (c : Chip) (r : Nat) (g : RuCfg) : Bool :=
  let n := c.rd F.ETH_RU_POOL_N_BUF r
  let stride := 128 * c.rd F.ETH_RU_POOL_STRIDE r
  let last := (g.ports * n - 1) * stride + 48 * g.nRb + 16
  let ps := 128 * c.rd F.ETH_RU_PRACH_PSTRIDE r
  n != 0 && inPool (0x300000000 + 128 * c.rd F.ETH_RU_POOL_UL_OFF r) last
    && inPool (0x300000000 + 128 * c.rd F.ETH_RU_POOL_DL_OFF r) last
    && (!c.flag F.ETH_RU_PRACH_EN r
      || inPool (0x300000000 + 128 * c.rd F.ETH_RU_PRACH2_PRACH_OFF r) ((4 * g.ports - 1) * ps + c.prachBytes r))

/-- The numerology lies within R431. -/
def RuCfg.formatOk (g : RuCfg) : Bool :=
  if g.lte then g.scs == 0 && 6 ≤ g.nRb && g.nRb ≤ 100 else !g.ext && 1 ≤ g.nRb && g.nRb ≤ 273

/-- The checks of R432 on an entry about to be enabled. -/
def Chip.ruOk (c : Chip) (r : Nat) (g : RuCfg) : Bool :=
  g.ports ≤ 2 ^ g.ruBits && g.base % 2 ^ g.ruBits == 0
    && (List.range 32).all (fun k =>
      k == r || !c.flag F.ETH_RU_CFG_EN k || (ruCfgOf (c.ruVal k)).port != g.port
        || (c.ruIds k (ruCfgOf (c.ruVal k))).all fun x => !(c.ruIds r g).contains x)
    && g.formatOk && c.ruPoolOk r g && [0, 8, 9, 12, 14].contains g.mant

/-- An entry is in effect. -/
def Chip.ruRuns (c : Chip) (r : Nat) : Bool :=
  c.flag F.ETH_RU_CFG_EN r && match c.eth.start.find? fun (e : Nat × Nat) => e.1 == r with
    | some e => !tickLater e.2 c.tick
    | none => true

/-- The first slot boundary of a carrier after now. -/
def Chip.slotNext (c : Chip) (w : Nat) : Nat :=
  let d := (tickDiff c.tick c.ach.frameTick).toNat
  tickAdd c.ach.frameTick ((d / ccSlotTicks w + 1) * ccSlotTicks w)

/-! ## Symbol times -/

/-- Air time of symbol `s` of the frame with an SFN, of which the low `n` bits are known. -/
def Chip.airOf (c : Chip) (w sfn n s : Nat) : Nat :=
  let d := sx n (sfn + 2 ^ n - c.rd F.TIME_FRAME_STAT_SFN % 2 ^ n)
  toBits 32 ((c.ach.frameTick : Int) + d * (frameTicks : Int) + (symStart w s : Int))

/-- SFN of the frame in which an air time lies. -/
def Chip.sfnAt (c : Chip) (t : Nat) : Nat :=
  ((c.rd F.TIME_FRAME_STAT_SFN + 1024 : Int) + tickDiff t c.ach.frameTick / (frameTicks : Int)).toNat % 1024

/-! ## Buffers (R433) -/

/-- Address of an uplink or downlink symbol buffer. -/
def Chip.ruBuf (c : Chip) (r p s : Nat) (dl : Bool) : Nat :=
  let n := max 1 (c.rd F.ETH_RU_POOL_N_BUF r)
  0x300000000 + 128 * ((if dl then c.rd F.ETH_RU_POOL_DL_OFF r else c.rd F.ETH_RU_POOL_UL_OFF r)
    + (p * n + s % n) * c.rd F.ETH_RU_POOL_STRIDE r)

/-- Address of the buffer of PRACH occasion `o`. -/
def Chip.prachBuf (c : Chip) (r p o : Nat) : Nat :=
  0x300000000 + 128 * (c.rd F.ETH_RU_PRACH2_PRACH_OFF r + (4 * p + o % 4) * c.rd F.ETH_RU_PRACH_PSTRIDE r)

/-- Resource elements of one PRB as three words of ce16. -/
def prbWords (vals : List Nat) : List Nat :=
  (List.range 3).map fun k => (List.range 8).foldr (fun j acc => acc * 2 ^ 16 + vals.getD (8 * k + j) 0 % 2 ^ 16) 0

/-- Receive status word of a buffer (R151). -/
def ruStatus (st : Status) (sat : Bool) (t sym sfn : Nat) : Nat :=
  st.code + b2n sat * 2 ^ 8 + t * 2 ^ 32 + sym * 2 ^ 64 + sfn * 2 ^ 80

/-! ## Block floating-point (R437) -/

/-- A value of a PRB after decompression, and whether it saturated (R435). -/
def bfpExpand (e : Nat) (m : Int) : Nat × Bool :=
  let v := m * (2 ^ e : Nat)
  (toBits 16 (satS 16 v), satS 16 v != v)

/-- The exponent of a PRB: the smallest at which every value fits. -/
def bfpExp (mant : Nat) (vals : List Int) : Nat :=
  ((List.range 16).find? fun e => vals.all fun v => satS mant (roundDrop e v) == roundDrop e v).getD 15

/-- Mantissas of a PRB. -/
def bfpMant (mant e : Nat) (vals : List Int) : List Nat := vals.map fun v => toBits mant (satS mant (roundDrop e v))

/-- Bytes of a PRB on the wire. -/
def prbBytes (mant : Nat) : Nat := if mant = 0 then 48 else 1 + 3 * mant

/-- PRBs that fit a frame: eCPRI header, U-plane header and one section header in 9,000 or 1,500 bytes of payload. -/
def Chip.prbsPerFrame (c : Chip) (r : Nat) : Nat :=
  let cap := if c.flag F.ETH_RU_CFG_JUMBO r then 9000 else 1500
  let head := 8 + (if c.flag F.ETH_RU_CFG_STATIC_COMP r then 4 else 6)
  (cap - head) / prbBytes (c.rd F.ETH_RU_CFG_MANT r)

/-- The next ecpriSeqid for an eAxC ID of an entry. -/
def Chip.seqNext (c : Chip) (r eaxc : Nat) : Chip × Nat :=
  let k := 65536 * r + eaxc
  let n := Tbl.get c.eth.seqTx k 0
  ((c.withEth { c.eth with seqTx := Tbl.set c.eth.seqTx k ((n + 1) % 256) 0 }), n)

/-! ## Send instants (R434) -/

/-- First symbol and the end of the last symbol among a command's items, in symbols of the slot. -/
def HostCmd.itemSpan (h : HostCmd) : Nat × Nat :=
  (List.range h.items).foldl (fun (a : Nat × Nat) i =>
    let w := h.itemWord i 1
    (min a.1 (bits w 3 0), max a.2 (bits w 3 0 + bits w 7 4))) (14, 0)

/-- Air times of the first symbol of a command's section and of the end of its last, for its RU carrier. -/
def HostCmd.cpTimes (h : HostCmd) (w : Nat) : Nat × Nat :=
  let (a, z) := h.itemSpan
  (tickAdd h.start (symInSlot w h.slotNo a), tickAdd h.start (symInSlot w h.slotNo z))

/-- The send instant of a command's C-plane. -/
def Chip.cpInstant (c : Chip) (h : HostCmd) (r w : Nat) : Nat :=
  let lead := if h.op = 2 then c.rd F.ETH_RU_WIN_T1A_UP r + c.rd F.ETH_RU_WIN_TCP_ADV_DL r
    else c.rd F.ETH_RU_WIN_TCP_ADV_UL r
  tickAdd (h.cpTimes w).1 (tickMod - lead)

/-- The command was fetched after a send instant for its RU had passed. -/
def Chip.cpMissed (c : Chip) (h : HostCmd) : Bool :=
  match c.ruOf h.cell with
  | some r => tickLater h.fetchTick (c.cpInstant h r (c.ruCarrier r))
  | none => false

end Sys2Proof.Machine
end

