-- ==== Sys2Proof/Machine/EcvCmds.lean ====
section
/-! DEFINITION. The commands of the Ecrov links (spec/04_ecrov_links.md R101–R144). WAKE_PATTERN_SEEN and
RING_MESSAGE_RECEIVE stand in Machine/AccessCmds.lean, since they reach other blocks. -/
namespace Sys2Proof.Machine

/-! ## Enable, disable, counters -/

/-- Modes in which ECV_LINK_CTRL is written. -/
abbrev modesLink : Nat := modesAll

/-- LINK_ENABLE (R103, R129): training starts, or the enable is held while a shutdown runs. -/
def execLinkEnable (by_ : Port) (l : Fin 18) (s : State) : Host.Outcome State Fault Refusal :=
  s.run fun c => c.action by_ modesLink fun c =>
    let c := c.wr F.ECV_LINK_CTRL_ENABLE 1 l
    if (c.link l).shutting then c.wr F.ECV_LINK_STAT_ENABLE_PENDING 1 l
    else if isRadio l then c.linkStart l
    else (c.linkStart l).linkStart (33 - l)

/-- LINK_DISABLE (R103, R131, R133): the lanes go to electrical idle, then OFF; for a ring port the Seam closes, and the other
port, which then has no line of its own, goes back to LISTEN. -/
def execLinkDisable (by_ : Port) (l : Fin 18) (s : State) : Host.Outcome State Fault Refusal :=
  s.run fun c => c.action by_ modesLink fun c =>
    let c := (c.wr F.ECV_LINK_CTRL_ENABLE 0 l).wr F.ECV_LINK_STAT_ENABLE_PENDING 0 l
    let o := 33 - l.val
    let c := c.when (!isRadio l) fun c => (c.setSeam false).when (c.lkUp o || c.lkState o == lkRetrain) fun c => c.linkListen o
    if c.lkState l = lkOff then c
    else ((c.linkLost l 0).updLink l fun x => { x with shutting := true }).emit (.linkAct l "electrical idle" 2)

/-- A shutdown ends: OFF, and a held enable starts training (R103, R129). -/
def Chip.linkShut (c : Chip) (l : Nat) : Chip :=
  if (c.link l).shutting then
    let c := c.linkOff l
    if c.flag F.ECV_LINK_STAT_ENABLE_PENDING l then (c.wr F.ECV_LINK_STAT_ENABLE_PENDING 0 l).linkStart l else c
  else c

/-- Shutdowns of all links end with the tick, and their frames go on (log entries 2, 73). -/
def Chip.linkTick (c : Chip) : Chip := (List.range 18).foldl (fun c l => (c.linkShut l).airTick l) c

/-- LINK_RETRAIN_REQ (R144): an ACTIVE link goes to DETECT. One in EIDLE or SLEEP, which was entered from ACTIVE and which the
table does not name, does so too (DESIGN CHOICE, log entry 33). -/
def execLinkRetrainReq (by_ : Port) (l : Fin 18) (s : State) : Host.Outcome State Fault Refusal :=
  s.run fun c => c.action by_ modesLink fun c => if c.lkUp l then c.linkDetect l 1 else c

/-- ECV_CNT_CLR (R144). -/
def execEcvCntClr (by_ : Port) (l : Fin 18) (s : State) : Host.Outcome State Fault Refusal :=
  s.run fun c => c.action by_ modesLink fun c =>
    c.clrFields [F.ECV_ERR_CNT_RETRAINS, F.ECV_ERR_CNT_CRC_ERR, F.ECV_ERR_CNT_GAP_GROUPS, F.ECV_RING_STAT_DISCARD] l

/-- LINK_STORM_CLEAR (R125). -/
def execLinkStormClear (by_ : Port) (l : Fin 18) (s : State) : Host.Outcome State Fault Refusal :=
  s.run fun c => c.action by_ modesLink fun c =>
    if c.flag F.ECV_LINK_STAT_STORM l then
      let c := (c.wr F.ECV_LINK_STAT_STORM 0 l).updLink l fun x => { x with edges := [] }
      if c.lkState l = lkHold then c.linkDetect l 0 else c
    else c

/-! ## Reaching ACTIVE (R114, R121–R123, R169) -/

/-- A link that has trained again no longer carries its configuration: its channels leave service, those that the loss has
taken OUT already included, and the event says why (R114). At a link's first training channels in service alone count. -/
def Chip.linkRefit (c : Chip) (l : Nat) : Chip :=
  let again := (c.link l).was
  let bad := (linkChans l).filter fun n => !(c.fitFaults n).isEmpty && (again || c.svc n != acOut)
  match bad with
  | [] => c
  | n :: _ =>
    let st := Status.worstOf (c.fitFaults n)
    (bad.foldl (fun c n => c.achOut n 3) c).linkEvent l 11 st 0 0

/-- A link reaches ACTIVE; `cause` 1 trained, 5 new partner, 0 back with the same one. -/
def Chip.linkActive (c : Chip) (l cause : Nat) : Chip :=
  let x := c.link l
  let c := c.setLk l lkActive
  let c := c.ttLost l
  let c := c.setLink l { x with
    retraining := false, capped := false, lossTick := none, gapFrom := none, exch := [], exchN := 0, t1 := [],
    t2 := none, t3 := none, t4 := none,
    queue := x.queue.filter fun m => !sbTimed m || tickLater (sbArg m) c.tick }
  if isRadio l then
    let c := match x.lossTick with
      | some t =>
        let first := match x.lastGrp with | some g => tickAdd g (c.groupTicks l) | none => t
        c.linkEvent l (if cause = 0 then x.lossCause else cause) .gap first c.tick
      | none => if cause = 0 then c else c.linkEvent l cause .ok 0 0
    let c := c.resendState l
    let toService := match c.dev.trans with | some t => c.mode == mVerify && t.target == mService | none => false
    let c := c.when (c.mode == mService || toService) fun c => c.releaseMute l
    let c := ((c.sendFormat l).linkRefit l).updLink l fun x => { x with was := true }
    (linkChans l).foldl (fun c n =>
      if c.svc n == acOut && c.flag F.ACH_CTRL_AUTO_READMIT n && c.achMayStart n then c.achConverge n else c) c
  else
    let w := c.rd F.ECV_CAPS_PARTNER_CAPS l
    let same := bits w 31 24 == c.rd F.ECV_RING_STAT_LOCAL_ID l
    let self := same && bits w 47 32 == c.rd F.TRUST_DEV_ID_DEV_ID % 2 ^ 16
    let c := c.wr F.ECV_RING_STAT_PARTNER_ID (bits w 31 24) l
    let c := c.setFlag F.ECV_LINK_STAT_PARTNER_SELF self l
    let c := c.setFlag F.ECV_RING_STAT_DUP_ID (same && !self) l
    let c := c.when (same && !self) fun c => c.linkEvent l 10 .badDescriptor 0 0
    (if cause = 0 then c else c.linkEvent l cause .ok 0 0).sbFlush l

/-- HOLD (R106): not trained, reported, and a radio link's channels leave service (R124). -/
def Chip.linkHold (c : Chip) (l cause : Nat) (st : Status) : Chip :=
  let c := (((c.linkLost l cause).untrained l).setLk l lkHold).linkEvent l cause st 0 0
  c.when (isRadio l) fun c => c.chansOut l 2

/-! ## Training (R103–R107) -/

/-- CLK_LANE_DETECTED (R103). -/
def execClkLaneDetected (l : Fin 18) (s : State) : Host.Outcome State Fault Refusal :=
  s.run fun c =>
    if c.lkState l = lkDetect && !c.flag F.ECV_LINK_STAT_LOS l && !(c.link l).shutting then c.setLk l lkClkLock else c

/-- CLK_LOCK_ACHIEVED (R103). -/
def execClkLockAchieved (l : Fin 18) (s : State) : Host.Outcome State Fault Refusal :=
  s.run fun c => if c.lkState l = lkClkLock then c.setLk l lkBitLock else c

/-- BIT_LOCK_DONE (R104): `lanes` are the lanes locked in both directions (bit k: lane k). -/
def execBitLockDone (l : Fin 18) (lanes : Fin 256) (s : State) : Host.Outcome State Fault Refusal :=
  s.run fun c =>
    if c.lkState l != lkBitLock then c
    else
      let run (w : Nat) : Bool := w ≤ c.maxWidth l && lanes.val % 2 ^ w == 2 ^ w - 1
      match [8, 4, 2, 1].find? run with
      | some w => (c.wr F.ECV_LINK_STAT_WIDTH w l).setLk l lkAlign
      | none => c.linkDetect l 0

/-- ALIGN_DONE (R103): the capability words are exchanged. -/
def execAlignDone (l : Fin 18) (s : State) : Host.Outcome State Fault Refusal :=
  s.run fun c =>
    if c.lkState l = lkAlign then
      ((c.updLink l fun x => { x with capCnt := 0, sbRx := [], sbCarry := none }).setLk l lkCaps).sendCaps l
    else c

/-- The capability words after a retrain (R121), of the width that both words offer (R104). -/
def Chip.retrainCaps (c : Chip) (l : Nat) : Chip :=
  let word := (c.link l).capSeen
  let old := c.rd F.ECV_CAPS_PARTNER_CAPS l
  let w := widestOf (bits word 15 12) (c.rd F.ECV_LINK_STAT_WIDTH l)
  match c.capsHold l word with
  | some st => c.linkHold l 6 st
  | none =>
    if w = 0 then c.linkDetect l 0
    else if commonVersion (c.ownCaps l) word != c.rd F.ECV_LINK_STAT_VERSION l then
      (c.updLink l fun x => { x.fresh with retraining := false }).setLk l lkClkLock
    else if word = old then (c.wr F.ECV_LINK_STAT_WIDTH w l).linkActive l 0
    else
      let c := (c.wr F.ECV_CAPS_PARTNER_CAPS word l).wr F.ECV_LINK_STAT_PARTNER_ROLE (bits word 7 4) l
      (c.wr F.ECV_LINK_STAT_WIDTH w l).linkActive l 5

/-- RATE_UP is entered (R107). -/
def Chip.rateUp (c : Chip) (l : Nat) : Chip :=
  ((c.updLink l fun x => { x with rateGo := false }).setLk l lkRateUp).emit (.linkAct l "32.0 Gb/s" 4)

/-- CAPS_COMPLETE (R106, R107): the version is agreed. R144 lists no cause for a HOLD taken for a wrong role, antenna count or
format: its LINK event carries 6, no common version, and the status of R106 tells the cases apart (DESIGN CHOICE, log
entry 33). With equal RING_IDs, for which R107 names no leader, both members lead (DESIGN CHOICE, log entry 32). -/
def execCapsComplete (l : Fin 18) (s : State) : Host.Outcome State Fault Refusal :=
  s.run fun c =>
    let x := c.link l
    if c.lkState l != lkCaps || x.capCnt < 3 then c
    else if x.retraining then c.retrainCaps l
    else
      let word := x.capSeen
      let w := widestOf (bits word 15 12) (c.rd F.ECV_LINK_STAT_WIDTH l)
      let v := commonVersion (c.ownCaps l) word
      let c := c.wr F.ECV_LINK_STAT_PARTNER_ROLE (bits word 7 4) l
      match c.capsHold l word with
      | some st => c.linkHold l 6 st
      | none =>
        if w = 0 then c.linkDetect l 0
        else
          let c := c.wr F.ECV_CAPS_PARTNER_CAPS word l
          let c := (c.wr F.ECV_LINK_STAT_WIDTH w l).wr F.ECV_LINK_STAT_VERSION v l
          if v < 3 then (c.when (!x.capped) fun c => c.wr F.ECV_LINK_STAT_DOWNGRADED 0 l).linkActive l 1
          else if isRadio l || c.rd F.ECV_RING_STAT_LOCAL_ID l ≤ bits word 31 24 then (c.sbEmit l (sbMsg 5 0 0 0)).rateUp l
          else if x.rateGo then c.rateUp l
          else c

/-- RATE_UP_DONE (R103). -/
def execRateUpDone (l : Fin 18) (s : State) : Host.Outcome State Fault Refusal :=
  s.run fun c =>
    if c.lkState l = lkRateUp then
      ((c.wr F.ECV_LINK_STAT_VERSION 3 l).wr F.ECV_LINK_STAT_DOWNGRADED 0 l).linkActive l 1
    else c

/-- RETRAIN_RELOCK_DONE (R121): the retrain has passed CAPS. -/
def execRetrainRelockDone (l : Fin 18) (s : State) : Host.Outcome State Fault Refusal :=
  s.run fun c => if c.lkState l = lkRetrain && 3 ≤ (c.link l).capCnt then c.retrainCaps l else c

/-- TRAIN_STATE_TIMEOUT (R103). -/
def execTrainStateTimeout (l : Fin 18) (s : State) : Host.Outcome State Fault Refusal :=
  s.run fun c =>
    let st := c.lkState l
    if st = lkClkLock || st = lkAlign || st = lkCaps then c.linkDetect l 0
    else if st = lkRateUp then
      ((c.linkDetect l 0).wr F.ECV_LINK_STAT_DOWNGRADED 1 l |>.updLink l fun x => { x with capped := true }).linkEvent
        l 8 .ok 0 0
    else if st = lkRetrain then (c.setLk l lkBitLock).updLink l fun x => { x with retraining := true }
    else c

/-- HOLD_RETRY_TIMER (R103). -/
def execHoldRetryTimer (l : Fin 18) (s : State) : Host.Outcome State Fault Refusal :=
  s.run fun c => if c.lkState l = lkHold && !c.flag F.ECV_LINK_STAT_STORM l then c.linkDetect l 0 else c

/-! ## Loss of signal and lock (R120–R125) -/

/-- LOS and LOL are expected: the receive direction is in SLEEP (R120). -/
def Chip.lossExpected (c : Chip) (l : Nat) : Bool := c.rd F.ECV_LINK_STAT_RX_LP l == 2

/-- LOS_ASSERT (R120, R121, R125). -/
def execLosAssert (l : Fin 18) (s : State) : Host.Outcome State Fault Refusal :=
  s.run fun c =>
    if c.flag F.ECV_LINK_STAT_LOS l then c
    else
      let quiet := c.lossExpected l || c.lkState l == lkOff
      let t := c.tick
      let c := (c.wr F.ECV_LINK_STAT_LOS 1 l).updLink l fun x =>
        { x with edges := t :: x.edges.filter fun e => tickDiff t e < 30720 }
      if quiet then c
      else
        let c := if c.lkUp l then c.linkRetrain l 2 else c
        let c := c.linkEvent l 2 .ok 0 0
        if 1024 < (c.link l).edges.length && !c.flag F.ECV_LINK_STAT_STORM l then
          (c.wr F.ECV_LINK_STAT_STORM 1 l).linkHold l 7 .storm
        else c

/-- LOS_DEASSERT (R120, R125). -/
def execLosDeassert (l : Fin 18) (s : State) : Host.Outcome State Fault Refusal :=
  s.run fun c => c.wr F.ECV_LINK_STAT_LOS 0 l

/-- Loss of lock (R120, R121). -/
def Chip.lolAssert (c : Chip) (l : Nat) : Chip :=
  let c := c.wr F.ECV_LINK_STAT_LOL 1 l
  if c.lkUp l && !c.lossExpected l then c.linkRetrain l 3 else c

/-- LOL_ASSERT (R120, R121). -/
def execLolAssert (l : Fin 18) (s : State) : Host.Outcome State Fault Refusal := s.run fun c => c.lolAssert l

/-- LOL_DEASSERT (R120). -/
def execLolDeassert (l : Fin 18) (s : State) : Host.Outcome State Fault Refusal :=
  s.run fun c => c.wr F.ECV_LINK_STAT_LOL 0 l

/-- LINK_LOSS_TIMEOUT (R124): 1 ms after a loss the link is not ACTIVE. -/
def execLinkLossTimeout (l : Fin 16) (s : State) : Host.Outcome State Fault Refusal :=
  s.run fun c => if (c.link l).lossTick.isSome && !c.lkUp l then c.chansOut l 2 else c

/-! ## Frames (R108–R112, R116, R122, R139) -/

/-- Payload blocks of a frame put together in order, from lanes whose payload is unscrambled (R108). -/
def frameStream (lanes : List Nat) : Nat :=
  let w := lanes.length
  (List.range (63 * w)).foldr (fun p acc => (lanes.getD (p % w) 0) / 2 ^ (128 * (p / w)) % 2 ^ 128 + acc * 2 ^ 128) 0

/-- Some block of the payload bits `a` to `b` − 1 travelled on a bad lane. -/
def spanBad (w : Nat) (bad : List Nat) (a b : Nat) : Bool :=
  b > a && ((List.range ((b - 1) / 128 + 1 - a / 128)).any fun k => bad.contains ((a / 128 + k) % w))

/-- Groups handed to the channels, joined to the last range where they follow it; ranges older than a frame are
dropped. -/
def Chip.groupsTo (c : Chip) (l tick n : Nat) (gap : Bool) : Chip :=
  if n = 0 then c
  else
    let g := c.groupTicks l
    let c := c.when gap fun c => c.incSat F.ECV_ERR_CNT_GAP_GROUPS l 0 n
    c.updLink l fun x =>
      let old := x.rx.filter fun r => tickDiff c.tick (r.tick + r.count * g) < frameTicks
      let rx := match old.getLast? with
        | some r =>
          if r.gap == gap && tickAdd r.tick (r.count * g) = tick then old.dropLast ++ [{ r with count := r.count + n }]
          else old ++ [⟨tick, n, gap⟩]
        | none => [⟨tick, n, gap⟩]
      { x with rx := rx, lastGrp := some (tickAdd tick ((n - 1) * g)) }

/-- Ranges of groups with everything from a tick on turned into GAP (R158). -/
def gapRanges (rx : List GroupRx) (t g : Nat) : List GroupRx :=
  rx.flatMap fun r =>
    let k := (tickDiff t r.tick).toNat / g
    if r.count ≤ k then [r]
    else if k = 0 then [{ r with gap := true }]
    else [{ r with count := k }, ⟨tickAdd r.tick (k * g), r.count - k, true⟩]

/-- Deliver one group: it goes through the chains of its channels if it is intact and not at or after a lost step tick; those
between the last delivered and it are GAP (R122, R158). -/
def Chip.groupDeliver (c : Chip) (l : Nat) (p : GroupPart) : Chip :=
  let g := c.groupTicks l
  let miss := match (c.link l).lastGrp with
    | some t => ((tickDiff p.tick t).toNat / g) - 1
    | none => 0
  let c := c.groupsTo l (tickAdd p.tick (tickMod - miss * g % tickMod)) miss true
  let lost := match (c.link l).gapFrom with | some t => !tickLater t p.tick | none => false
  let ok := p.ok && !lost
  (c.groupsTo l p.tick 1 (!ok)).when ok fun c => c.rxGroup l p.tick p.data

/-- The groups of one frame: the rest of a group begun before, then those that begin in it (R112). -/
def Chip.frameGroups (c : Chip) (l : Nat) (mk : Nat) (lanes : List Nat) (bad : List Nat) : Chip :=
  let w := lanes.length
  let total := w * laneBits
  let st := frameStream lanes
  let size := groupBits (c.rd F.ECV_SAMPLE_CFG_MANT l)
  let c := match (c.link l).part with
    | none => c
    | some p =>
      let take := min (size - p.len) total
      let p := { p with
        data := p.data + st % 2 ^ take * 2 ^ p.len, len := p.len + take, ok := p.ok && !spanBad w bad 0 take }
      if p.len < size then c.updLink l fun x => { x with part := some p }
      else (c.updLink l fun x => { x with part := none }).groupDeliver l p
  let g := c.groupTicks l
  let first := c.groupTick l (mkGroup mk)
  (List.range (mkN mk)).foldl (fun c i =>
    let a := mkOff mk + i * size
    let b := min (a + size) total
    let p : GroupPart := ⟨tickAdd first (i * g), st / 2 ^ a % 2 ^ (b - a), b - a, !spanBad w bad a b⟩
    if total ≤ a then c
    else if p.len < size then c.updLink l fun x => { x with part := some p }
    else c.groupDeliver l p) c

/-- The instant of a first UI as a stamp (R139): bits 21:0 of the tick counter and the fraction of the tick. -/
def Chip.stamp (c : Chip) (frac : Nat) : Nat := c.tick % 2 ^ 22 * 2 ^ 10 + frac % 2 ^ 10

/-- Offset and delay of one pair of frames (R140). -/
def ttCompute (t1 t2 t3 t4 : Nat) (asym : Int) : Int × Nat :=
  let a := tickDiff t2 t1
  let b := tickDiff t4 t3
  (halfUp (a - b - asym), toBits 32 (halfUp (a + b)))

/-- The mean of a list of integers, rounded half up (R11). -/
def meanOf (l : List Int) : Int := if l.isEmpty then 0 else (2 * l.foldl (· + ·) 0 + l.length) / (2 * l.length)

/-- An exchange of time transfer, once all four stamps of a pair of frames are there (R140, R141): the partner's report of an
own frame, the partner's stamp of its frame and the own stamp of the same frame, in whatever order they have come. -/
def Chip.ttExchange (c : Chip) (l : Nat) : Chip :=
  let x := c.link l
  match x.t2, x.t3, x.t4 with
  | some t2, some t3, some t4 =>
    match x.t1.find? (fun (e : Nat × Nat) => e.1 == t2.1) with
    | some t1 =>
      if t3.1 = t4.1 && c.lkUp l then
        let e := ttCompute t1.2 t2.2 t3.2 t4.2 (sx 16 (c.rd F.ECV_TT_ASYM_ASYM l))
        let ex := (x.exch ++ [e]).drop (x.exch.length + 1 - 256)
        let c := c.setLink l { x with exch := ex, exchN := x.exchN + 1, t2 := none, t3 := none }
        let c := c.wr F.ECV_TT_OFFSET (toBits 32 (meanOf (ex.map (·.1)))) l
        let c := c.wr F.ECV_TT_DELAY (meanOf (ex.map fun e => (e.2 : Int))).toNat l
        let c := c.when (256 ≤ x.exchN + 1 && !c.flag F.ECV_RING_STAT_TT_VALID l) fun c =>
          let c := c.wr F.ECV_RING_STAT_TT_VALID 1 l
          if isRadio l then c else c.ringEval
        c.when (c.ttMaster l) fun c => c.servo (unitNs (-(meanOf (ex.map (·.1)))))
      else c
    | none => c
  | _, _, _ => c

/-- Sideband slots of a frame (R116): IDLE is ignored, a message with a bad CRC8 is discarded and answered with NAK,
reason 1, where its CMD is not 0, any other waits to be processed. -/
def Chip.frameSideband (c : Chip) (l : Nat) (markers : List Nat) : Chip :=
  let even := match markers with | m :: _ => mkSeq m % 2 == 0 | [] => true
  let have_ := if even then [] else (c.link l).sbCarry.toList
  let words := have_ ++ markers.map mkSb
  let slots := (List.range (words.length / 2)).map fun k => words.getD (2 * k) 0 + words.getD (2 * k + 1) 0 * 2 ^ 32
  let rest := if words.length % 2 = 1 then words.getLast? else none
  let c := c.updLink l fun x => { x with sbCarry := rest }
  slots.foldl (fun c m =>
    if m = 0 || (sbCrc m = bits m 63 56 && sbCmd m = 0) then c
    else if sbCrc m = bits m 63 56 then c.updLink l fun x => { x with sbRx := x.sbRx ++ [m] }
    else if sbCmd m = 0 then c
    else c.sbNak l (sbSeq m) 1) c

/-- FRAME_RECEIVE (R110): `lanes` are the marker and the payload of each lane, lane 0 first; `frac` is the fraction of the tick
at which lane 0's marker reached the balls (R139). A frame without SYNC on lane 0 is none; the fourth in a row is a loss of
lock (R120). -/
def execFrameReceive (l : Fin 18) (lanes : List LaneFrame) (frac : Fin 1024) (s : State) :
    Host.Outcome State Fault Refusal :=
  s.run fun c =>
    let st := c.lkState l
    if lanes.isEmpty || st < lkCaps || st = lkHold || c.rd F.ECV_LINK_STAT_RX_LP l != 0 then c
    else if (lanes.map (·.marker)).getD 0 0 % 2 ^ 16 != mkSync then
      let k := (c.link l).noSync + 1
      let c := c.updLink l fun x => { x with noSync := k }
      if k = 4 then c.lolAssert l else c
    else
      let x := c.link l
      let mks := lanes.map (·.marker)
      let now := (lanes.zipIdx).map fun (e : LaneFrame × Nat) => { e.1 with payload := unscramble e.2 e.1.payload }
      let bad := if c.lkUp l then
          ((x.prev.zip mks).zipIdx).filterMap fun (e : (LaneFrame × Nat) × Nat) =>
            if crc32 laneBits e.1.1.payload = mkCrc e.1.2 then none else some e.2
        else []
      let hist := (List.range x.prev.length).foldl (fun (h : Tbl Nat) k =>
        Tbl.set h k (Tbl.get h k 0 * 2 % 2 ^ 16 + b2n (bad.contains k)) 0) x.crcHist
      let burst := (List.range x.prev.length).any fun k => 8 ≤ (bitsSet (Tbl.get hist k 0) 16).length
      let c := c.incSat F.ECV_ERR_CNT_CRC_ERR l 0 bad.length
      let c := if isRadio l && c.lkUp l && !x.prev.isEmpty then
          c.frameGroups l ((x.prev.map (·.marker)).getD 0 0) (x.prev.map (·.payload)) bad
        else c
      let c := c.updLink l fun x => { x with prev := (if c.lkUp l then now else []), crcHist := hist, noSync := 0 }
      let c := c.frameSideband l mks
      let seq := mkSeq (mks.getD 0 0)
      let c := if c.lkUp l && 2 ≤ c.rd F.ECV_LINK_STAT_VERSION l && seq % 16 = 0 then
          ((c.updLink l fun x => { x with t4 := some (seq / 16, c.stamp frac) }).sbSend l
            (sbMsg 0x31 0 (c.stamp frac) (seq / 16))).ttExchange l
        else c
      if c.lkUp l && burst then (c.linkRetrain l 4).updLink l fun x => { x with crcHist := [] } else c

/-! ## Sample configuration (R113) -/

/-- SAMPLE_CFG_WRITE (R113). -/
def execSampleCfgWrite (by_ : Port) (l : Fin 16) (value : Nat) (s : State) : Host.Outcome State Fault Refusal :=
  s.run fun c => c.guarded by_ 0xBE fun c =>
    let mant := bits value 3 0
    let rate := bits value 5 4
    let faults :=
      (if (linkChans l).any fun n => c.svc n != acOut then [Status.accessDenied] else [])
        ++ (if 1 < rate || !mantOk mant then [Status.badDescriptor] else c.cfgFaults l mant rate)
    match faults with
    | [] =>
      let c := (c.wr F.ECV_SAMPLE_CFG_MANT mant l).wr F.ECV_SAMPLE_CFG_RATE rate l
      (c.when (c.lkUp l) fun c => c.sendFormat l).report by_ .ok
    | _ => c.report by_ (Status.worstOf faults)

/-! ## Sideband messages received (R105, R117–R119, R126, R137, R140) -/

/-- Process the oldest received message of a link if it carries a command. -/
def Chip.sbTake (c : Chip) (l cmd : Nat) (f : Nat → Chip → Chip) : Chip :=
  match (c.link l).sbRx with
  | m :: t => if sbCmd m = cmd then f m (c.updLink l fun x => { x with sbRx := t }) else c
  | [] => c

/-- SB_CAPS_LO (R105). -/
def execSbCapsLo (l : Fin 18) (s : State) : Host.Outcome State Fault Refusal :=
  s.run fun c => c.sbTake l 1 fun m c => c.updLink l fun x => { x with capLo := sbArg m }

/-- SB_CAPS_HI (R105): a word received identically once more is counted. -/
def execSbCapsHi (l : Fin 18) (s : State) : Host.Outcome State Fault Refusal :=
  s.run fun c => c.sbTake l 2 fun m c => c.updLink l fun x =>
    let w := x.capLo + sbArg m * 2 ^ 32
    { x with capSeen := w, capCnt := if w = x.capSeen then x.capCnt + 1 else 1 }

/-- SB_ACK (R118). -/
def execSbAck (l : Fin 18) (s : State) : Host.Outcome State Fault Refusal :=
  s.run fun c => c.sbTake l 3 fun m c =>
    (c.updLink l fun x => { x with sent := x.sent.filter fun e => sbSeq e.msg != sbArg m % 16 }).sbFlush l

/-- A command of a link is lost or given up (R118, R119, R158, R244): LINK event with cause 12; a GAIN_SET is counted,
the compensation stays with the old code, and one given up sends the link to RETRAIN with its groups from the step tick on as
GAP. R144 lists no cause for that outage: its event carries 4 (DESIGN CHOICE, log entry 33). -/
def Chip.sbLost (c : Chip) (l m : Nat) (givenUp : Bool) : Chip :=
  let c := c.linkEvent l 12 .ok 0 0
  let c := c.when (sbCmd m == 0x13) fun c =>
    (linkChans l).foldl (fun c n => c.setCalAnt n { c.calAnt n with lost := true }) (c.updLink l fun x => { x with calLost := true })
  if sbCmd m = 0x10 && isRadio l then
    let n := 16 * l + sbAnt m
    let x := c.achX n
    let c := (c.incSat F.ACH_CNT_GAIN_LOST n).wr F.ACH_GAIN_STAT_STEP_PEND 0 n
    let c := c.when (!givenUp && x.step.isNone && x.lastStep == some (sbArg m)) fun c =>
      c.wr F.ACH_GAIN_STAT_CODE x.prevCode n
    let c := c.updAch n fun x => { x with step := none, dnRun := 0 }
    let c := c.when givenUp fun c => (linkChans l).foldl (fun c n => c.tapsGap n (sbArg m)) (c.updLink l fun x =>
      { x with gapFrom := some (sbArg m), rx := gapRanges x.rx (sbArg m) (c.groupTicks l) })
    if givenUp && c.lkUp l then c.linkRetrain l 4 else c
  else c

/-- An outstanding command is repeated, or given up after two repeats (R118). -/
def Chip.sbRepeat (c : Chip) (l seq : Nat) : Chip :=
  match (c.link l).sent.find? fun e => sbSeq e.msg == seq with
  | none => c
  | some e =>
    if e.repeats < 2 then
      (c.updLink l fun x => { x with
        sent := x.sent.map fun e' => if sbSeq e'.msg = seq then { e' with repeats := e'.repeats + 1 } else e' }).sbEmit l
          e.msg
    else
      ((c.updLink l fun x => { x with sent := x.sent.filter fun e' => sbSeq e'.msg != seq }).sbLost l e.msg true).sbFlush l

/-- SB_NAK (R118, R119, R249). -/
def execSbNak (l : Fin 18) (s : State) : Host.Outcome State Fault Refusal :=
  s.run fun c => c.sbTake l 4 fun m c =>
    let seq := sbArg m % 16
    match (c.link l).sent.find? fun e => sbSeq e.msg == seq with
    | none => c
    | some e =>
      if sbExt m = 1 then c.sbRepeat l seq
      else
        let c := c.updLink l fun x => { x with sent := x.sent.filter fun e' => sbSeq e'.msg != seq }
        let c := if sbExt m = 4 then
            (if sbCmd e.msg = 0x14 && sbExt e.msg = 3 && !c.flag F.CAL_STAT_TEMP_FALLBACK then
              (c.wr F.CAL_STAT_TEMP_FALLBACK 1).post .ok srcCal evCal (6 + (16 * l + sbAnt e.msg) * 2 ^ 8) 0
            else c)
          else c.sbLost l e.msg false
        c.sbFlush l

/-- SB_RATE_GO (R107): the follower enters RATE_UP once its CAPS are complete. -/
def execSbRateGo (l : Fin 18) (s : State) : Host.Outcome State Fault Refusal :=
  s.run fun c => c.sbTake l 5 fun _ c =>
    if isRadio l then c.sbNak l 0 3
    else if c.lkState l != lkCaps then c
    else if c.rd F.ECV_LINK_STAT_VERSION l = 3 then c.rateUp l
    else c.updLink l fun x => { x with rateGo := true }

/-- SB_LP_ENTER (R126). -/
def execSbLpEnter (l : Fin 18) (s : State) : Host.Outcome State Fault Refusal :=
  s.run fun c => c.sbTake l 0x15 fun m c =>
    if c.lkUp l && 2 ≤ c.rd F.ECV_LINK_STAT_VERSION l && (sbExt m % 4 = 1 || sbExt m % 4 = 2) then
      (c.wr F.ECV_LINK_STAT_RX_LP (sbExt m % 4) l).lkShow l
    else c

/-- SB_TELEM (R117, R249): item 0x03 is the tile's temperature. -/
def execSbTelem (l : Fin 18) (s : State) : Host.Outcome State Fault Refusal :=
  s.run fun c => c.sbTake l 0x20 fun m c =>
    let c := c.updLink l fun x => { x with telem := Tbl.set x.telem (256 * sbAnt m + sbExt m) (sbArg m) 0 }
    if sbExt m = 3 && isRadio l then
      (linkChans l).foldl (fun c n =>
        if sbAnt m = 0xF || sbAnt m = n % 16 then
          let a := Tbl.get c.cal.ants n {}
          c.withCal { c.cal with ants := Tbl.set c.cal.ants n { a with temp := sx 16 (sbArg m) } {} }
        else c) c
    else c

/-- SB_TILE_ALARM (R117). -/
def execSbTileAlarm (l : Fin 18) (s : State) : Host.Outcome State Fault Refusal :=
  s.run fun c => c.sbTake l 0x21 fun m c => c.updLink l fun x => { x with alarm := sbExt m }

/-- SB_TT_TX (R139, R140): the partner's transmit stamp of its frame. -/
def execSbTtTx (l : Fin 18) (s : State) : Host.Outcome State Fault Refusal :=
  s.run fun c => c.sbTake l 0x30 fun m c =>
    (c.updLink l fun x => { x with t3 := some (sbExt m, sbArg m) }).ttExchange l

/-- SB_TT_RX (R140, R141): the partner's receive stamp of an own frame. -/
def execSbTtRx (l : Fin 18) (s : State) : Host.Outcome State Fault Refusal :=
  s.run fun c => c.sbTake l 0x31 fun m c =>
    (c.updLink l fun x => { x with t2 := some (sbExt m, sbArg m) }).ttExchange l

/-- SB_TT_TICK (R139, R446): the partner's tick count; on ring ports its distance from the root. -/
def execSbTtTick (l : Fin 18) (s : State) : Host.Outcome State Fault Refusal :=
  s.run fun c => c.sbTake l 0x32 fun m c =>
    let c := c.updLink l fun x => { x with partnerTick := sbArg m }
    if isRadio l then c else (c.ttDist (l - 16) (sbExt m)).ttWhole l (sbArg m)

/-- The peer a port would have (R137): its partner if that runs joint detection, else the peer the partner reports at a
distance below 2. -/
def peerOf (arg ext : Nat) : Bool × Nat × Nat :=
  if bit arg 8 then (true, bits arg 4 0, 0)
  else if bit arg 14 && ext < 2 then (true, bits arg 13 9, ext + 1)
  else (false, 0, 0)

/-- SB_RING_STATE (R137). -/
def execSbRingState (l : Fin 18) (s : State) : Host.Outcome State Fault Refusal :=
  s.run fun c => c.sbTake l 0x40 fun m c =>
    if isRadio l then c.sbNak l 0 3
    else
      let p := peerOf (sbArg m) (sbExt m)
      (c.wr F.ECV_RING_STAT_PARTNER_ID (bits (sbArg m) 4 0) l).updLink l fun x =>
        { x with ringState := some (sbArg m, sbExt m), peerNext := some p }

/-- A command code the device takes on a link at its version (R117). -/
def Chip.sbAccepts (c : Chip) (l cmd : Nat) : Bool :=
  cmd ≤ 4 || (cmd == 5 && !isRadio l) || (cmd == 0x15 && 2 ≤ c.rd F.ECV_LINK_STAT_VERSION l)
    || ((cmd == 0x20 || cmd == 0x21) && isRadio l)
    || (0x30 ≤ cmd && cmd ≤ 0x32 && 2 ≤ c.rd F.ECV_LINK_STAT_VERSION l) || (cmd == 0x40 && !isRadio l)

/-- SB_UNSUPPORTED_CMD (R117): any other code is answered with NAK, reason 3. -/
def execSbUnsupportedCmd (l : Fin 18) (s : State) : Host.Outcome State Fault Refusal :=
  s.run fun c =>
    match (c.link l).sbRx with
    | m :: t =>
      if c.sbAccepts l (sbCmd m) then c
      else (c.updLink l fun x => { x with sbRx := t }).sbNak l (sbSeq m) 3
    | [] => c

/-- SB_ACK_TIMEOUT (R118): the command with a SEQ has not been acknowledged within 8 frames. -/
def execSbAckTimeout (l : Fin 18) (seq : Fin 16) (s : State) : Host.Outcome State Fault Refusal :=
  s.run fun c => c.sbRepeat l seq

/-- TT_FRAME_SEND (R139): the first UI of the own time-transfer frame leaves, at fraction `frac` of the tick; its FRAME_SEQ is
the multiple of 16 last reached. TT_TICK carries the ring distance on ring ports (R446). -/
def execTtFrameSend (l : Fin 18) (frac : Fin 1024) (s : State) : Host.Outcome State Fault Refusal :=
  s.run fun c =>
    if c.lkUp l && 2 ≤ c.rd F.ECV_LINK_STAT_VERSION l && c.rd F.ECV_LINK_STAT_TX_LP l = 0 then
      let seq := ((c.link l).txSeq + 4095) % 4096 / 16
      let t := c.stamp frac
      let c := c.updLink l fun x => { x with t1 := Tbl.insert (Tbl.erase x.t1 seq) seq t }
      (c.sbEmit l (sbMsg 0x30 0 t seq)).sbEmit l (sbMsg 0x32 0 c.tick (c.ttExt l))
    else c

/-! ## Low power (R126–R130) -/

/-- LP_TX_ENTER (R130, R462): nothing falls due for MIN_IDLE under policy 1, or the power controller asks. -/
def execLpTxEnter (l : Fin 18) (s : State) : Host.Outcome State Fault Refusal :=
  s.run fun c =>
    if (isRadio l && c.rd F.ECV_LP_CTRL_TX_POLICY l = 1) || c.ecv.lpReq.contains l.val then
      (c.withEcv { c.ecv with lpReq := c.ecv.lpReq.filter (· != l.val) }).lpEnter l
    else c

/-- LP_IDLE_NOW (R130): a write of ECV_LP_CTRL with TX_POLICY 2. -/
def execLpIdleNow (by_ : Port) (l : Fin 16) (value : Nat) (s : State) : Host.Outcome State Fault Refusal :=
  s.run fun c => c.action by_ 0xBE fun c =>
    let c := (c.wr F.ECV_LP_CTRL_MIN_IDLE (bits value 31 16) l).wr F.ECV_LP_CTRL_FOLLOW (bits value 2 2) l
    (c.wr F.ECV_LP_CTRL_TX_POLICY 2 l).lpEnter l

/-- LP_TX_EXIT (R128, R129). -/
def execLpTxExit (l : Fin 18) (s : State) : Host.Outcome State Fault Refusal :=
  s.run fun c => c.lpExit l

/-- LP_RX_EXIT (R128). -/
def execLpRxExit (l : Fin 18) (s : State) : Host.Outcome State Fault Refusal :=
  s.run fun c => (c.wr F.ECV_LINK_STAT_RX_LP 0 l).lkShow l

/-! ## The ring (R131–R137) -/

/-- LISTEN_NO_SIGNAL_TIMEOUT (R133, step 3). -/
def execListenNoSignalTimeout (p : Fin 2) (s : State) : Host.Outcome State Fault Refusal :=
  s.run fun c =>
    let l := 16 + p.val
    if c.lkState l = lkListen && c.flag F.ECV_LINK_STAT_LOS l then
      c.updLink l fun x => { x with noSignal := true }
    else c

/-- A ring port trains at the version its tap observed, as after a retrain that adapts again (R103, R133, step 2). -/
def Chip.linkJoin (c : Chip) (l v : Nat) : Chip :=
  let c := ((c.linkDetect l 0).wr F.ECV_LINK_STAT_VERSION v l).setLk l lkClkLock
  c.updLink l fun x => { x with retraining := true }

/-- LISTEN_COMPLETE (R133): every port has locked to its tap and passed the dwell, or has found no signal; the Seam opens.
With a signal on both taps both ports train at the versions observed, `vw` on ELW and `ve` on ELE; a member that has found
none on one is a seed, and both train from DETECT. -/
def execListenComplete (vw ve : Fin 4) (s : State) : Host.Outcome State Fault Refusal :=
  s.run fun c =>
    let ready (l : Nat) : Bool :=
      c.lkState l == lkListen && ((c.link l).noSignal || !c.flag F.ECV_LINK_STAT_LOS l)
    if ready 16 && ready 17 then
      let c := c.setSeam true
      if (c.link 16).noSignal || (c.link 17).noSignal || vw = 0 || ve = 0 then (c.linkDetect 16 0).linkDetect 17 0
      else (c.linkJoin 16 vw).linkJoin 17 ve
    else c

/-- A port takes part in joint detection as far as this member decides (R211): SERVICE, shed stage below S3, JD_EN, a
valid receive area, and no partner with the member's own RING_ID (R135). -/
def Chip.jdReady (c : Chip) (l : Nat) : Bool :=
  c.mode == mService && c.rd F.PWR_SHED_STAGE_STAGE < 3 && c.flag F.AE_JD_RX_VALID (l - 16)
    && !c.flag F.ECV_RING_STAT_DUP_ID l
    && (if l = 16 then c.flag F.AE_JD_CFG_JD_EN_W else c.flag F.AE_JD_CFG_JD_EN_E)

/-- Joint detection runs on a ring port (R211): with a valid peer. -/
def Chip.jdOn (c : Chip) (l : Nat) : Bool :=
  c.jdReady l && c.flag F.ECV_RING_STAT_PEER_VALID l

/-- This member runs joint detection, as its RING_STATE says; otherwise it forwards (R136, R137). The peer's own answer
is no part of it, or no two members could begin. -/
def Chip.jdRuns (c : Chip) : Bool := c.jdReady 16 || c.jdReady 17

/-- RING_STATE_TIMER (R137): each ring port that is up sends RING_STATE. -/
def execRingStateTimer (s : State) : Host.Outcome State Fault Refusal :=
  s.run fun c => [16, 17].foldl (fun c l =>
    if c.lkUp l then
      let o := 33 - l
      let arg := c.rd F.ECV_RING_STAT_LOCAL_ID l + c.mode * 2 ^ 5 + b2n c.jdRuns * 2 ^ 8
        + c.rd F.ECV_RING_STAT_PEER_ID o * 2 ^ 9 + c.rd F.ECV_RING_STAT_PEER_VALID o * 2 ^ 14
      c.sbSend l (sbMsg 0x40 0 arg (c.rd F.ECV_RING_STAT_PEER_HOPS o))
    else c) c

/-- The peer last reported on ring port `l` takes effect (R137). -/
def Chip.peerApply (c : Chip) (l : Nat) : Chip :=
  match (c.link l).peerNext with
  | none => c
  | some (v, id, hops) =>
    let c := c.updLink l fun x => { x with peerNext := none }
    ((c.setFlag F.ECV_RING_STAT_PEER_VALID v l).wr F.ECV_RING_STAT_PEER_ID id l).wr F.ECV_RING_STAT_PEER_HOPS hops l

/-- PEER_CHANGE_APPLY (R137): at a slot boundary, on both ring ports. -/
def execPeerChangeApply (s : State) : Host.Outcome State Fault Refusal := s.run fun c => (c.peerApply 16).peerApply 17

end Sys2Proof.Machine
end

