-- ==== Sys2Proof/Machine/Ae.lean ====
section
/-! DEFINITION. Presses (spec/07_presses.md): commands and their checks, the antenna mask, the arithmetic of a tile, the
joint-detection messages. The commands of the block are in Machine/AeCmds.lean. -/
namespace Sys2Proof.Machine

/-! ## Commands (R192, R193) -/

/-- Word `k` of a command. -/
def AeCmd.word (q : AeCmd) (k : Nat) : Nat := q.w.getD k 0
/-- OP. -/
def AeCmd.op (q : AeCmd) : Nat := bits (q.word 0) 7 0
/-- MASK_K. -/
def AeCmd.maskK (q : AeCmd) : Bool := bit (q.word 0) 12
/-- MASK_M. -/
def AeCmd.maskM (q : AeCmd) : Bool := bit (q.word 0) 13
/-- AUTO_SHIFT. -/
def AeCmd.auto (q : AeCmd) : Bool := bit (q.word 0) 14
/-- RING_ADD. -/
def AeCmd.ringAdd (q : AeCmd) : Bool := bit (q.word 0) 15
/-- CELL. -/
def AeCmd.cell (q : AeCmd) : Nat := bits (q.word 0) 20 16
/-- STAT_EN. -/
def AeCmd.statEn (q : AeCmd) : Bool := bit (q.word 0) 24
/-- M. -/
def AeCmd.m (q : AeCmd) : Nat := bits (q.word 0) 44 32
/-- K. -/
def AeCmd.k (q : AeCmd) : Nat := bits (q.word 0) 60 48
/-- N. -/
def AeCmd.n (q : AeCmd) : Nat := bits (q.word 0) 79 64
/-- OUT_SHIFT. -/
def AeCmd.shift (q : AeCmd) : Nat := bits (q.word 0) 85 80
/-- TILE_N. -/
def AeCmd.tileN (q : AeCmd) : Nat := bits (q.word 0) 105 96
/-- WGRAN. -/
def AeCmd.wgran (q : AeCmd) : Nat := bits (q.word 0) 127 112
/-- TICK. -/
def AeCmd.tick (q : AeCmd) : Nat := bits (q.word 4) 31 0
/-- SYMBOL. -/
def AeCmd.symbol (q : AeCmd) : Nat := bits (q.word 4) 35 32
/-- JD_CARRIER. -/
def AeCmd.carrier (q : AeCmd) : Nat := bits (q.word 4) 37 36
/-- PORT: 0 ELW, 1 ELE. -/
def AeCmd.port (q : AeCmd) : Nat := bits (q.word 4) 38 38
/-- SLOT_PAR. -/
def AeCmd.slotPar (q : AeCmd) : Nat := bits (q.word 4) 39 39
/-- KIND. -/
def AeCmd.kind (q : AeCmd) : Nat := bits (q.word 4) 42 40
/-- The loading added to each real diagonal element: DIAG × 2^DIAG_EXP. -/
def AeCmd.diag (q : AeCmd) : Nat := bits (q.word 4) 63 48 * 2 ^ bits (q.word 4) 68 64
/-- FIRST_SC. -/
def AeCmd.firstSc (q : AeCmd) : Nat := bits (q.word 4) 83 72
/-- SB_FIRST. -/
def AeCmd.sbFirst (q : AeCmd) : Nat := bits (q.word 4) 95 88
/-- Batch items. -/
def AeCmd.items (q : AeCmd) : Nat := bits (q.word 4) 105 96 + 1
/-- STAT_ADDR. -/
def AeCmd.statAddr (q : AeCmd) : Nat := bits (q.word 5) 47 0
/-- GRAM and JD_GRAM_SEND. -/
def AeCmd.gram (q : AeCmd) : Bool := q.op == 2 || q.op == 4
/-- The ring operations. -/
def AeCmd.ring (q : AeCmd) : Bool := 3 ≤ q.op && q.op ≤ 5

/-- A matrix descriptor: element (i, j) of set `s` at ADDR + 16·SET_STRIDE·s + i·RS + j·CS (R193). -/
structure AeMat where
  addr : Nat
  rs : Int
  cs : Nat
  fmt : Nat
  conj : Bool
  set : Nat
  deriving DecidableEq, Repr

/-- The descriptor of a word. -/
def aeMat (w : Nat) : AeMat := ⟨bits w 47 0, sx 32 (bits w 79 48), bits w 95 80, bits w 97 96, bit w 98, bits w 127 100⟩

/-- W, IN and OUT of a command. -/
def AeCmd.mW (q : AeCmd) : AeMat := aeMat (q.word 1)
/-- IN. -/
def AeCmd.mIn (q : AeCmd) : AeMat := aeMat (q.word 2)
/-- OUT. -/
def AeCmd.mOut (q : AeCmd) : AeMat := aeMat (q.word 3)

/-- Bytes of an element: ce16 4, ce32 8, ce8 2. -/
def fmtBytes (fmt : Nat) : Nat := if fmt = 0 then 4 else if fmt = 1 then 8 else 2

/-- Internal address of an element; addresses wrap at 2^48 (R31). -/
def AeMat.at_ (x : AeMat) (s i j : Nat) : Nat :=
  (((x.addr + 16 * x.set * s + j * x.cs : Nat) + i * x.rs : Int) % (2 ^ 48 : Nat)).toNat

/-- Weight sets of a command: one for each WGRAN columns, or one for each batch item. -/
def AeCmd.sets (q : AeCmd) : Nat := if q.wgran = 0 then q.items else (q.n + q.wgran - 1) / q.wgran

/-- Weight set of column `j` in batch item `b`. -/
def AeCmd.setOf (q : AeCmd) (b j : Nat) : Nat := if q.wgran = 0 then b else b + j / q.wgran

/-- The regions of R191: a Press's local memory, a cluster-memory bank, the pool, HBM. -/
def aeRegion (addr : Nat) : Option (Nat × Nat) :=
  match regionOf addr with
  | .press n _ => some (0, n)
  | .cluster n off => some (1, 32 * n + bankOf off)
  | .pool _ => some (2, 0)
  | .hbm _ => some (3, 0)
  | _ => none

/-- Every element of a matrix lies in one region, over its rows, columns and sets. -/
def AeMat.inOne (x : AeMat) (sets rows cols : Nat) : Bool :=
  match aeRegion (x.at_ 0 0 0) with
  | none => false
  | some r =>
    (List.range sets).all fun s => (List.range rows).all fun i => (List.range cols).all fun j =>
      let a := x.at_ s i j
      aeRegion a == some r && aeRegion (a + fmtBytes x.fmt - 1) == some r

/-- The reserved fields of a command are 0. -/
def AeCmd.reservedOk (q : AeCmd) : Bool :=
  bits (q.word 0) 23 21 == 0 && bits (q.word 0) 31 25 == 0 && bits (q.word 0) 47 45 == 0
    && bits (q.word 0) 63 61 == 0 && bits (q.word 0) 95 86 == 0 && bits (q.word 0) 111 106 == 0
    && bits (q.word 4) 47 43 == 0 && bits (q.word 4) 71 69 == 0 && bits (q.word 4) 87 84 == 0
    && bits (q.word 4) 127 106 == 0 && bits (q.word 5) 127 48 == 0 && q.word 6 == 0 && q.word 7 == 0
    && !bit (q.word 1) 99 && !bit (q.word 2) 99 && !bit (q.word 3) 99

/-- The fields of a command lie in their ranges (R192). -/
def AeCmd.rangesOk (q : AeCmd) : Bool :=
  1 ≤ q.m && q.m ≤ 4096 && 1 ≤ q.k && q.k ≤ 4096 && 1 ≤ q.n && q.shift ≤ 47 && 32 ≤ q.tileN && q.tileN ≤ 512
    && q.symbol ≤ 13 && bits (q.word 4) 68 64 ≤ 28 && q.statAddr % 16 == 0
    && (if q.op = 5 then q.kind == 0 || q.kind == 3 else q.kind == 0)

/-- SLOT_START of the slot a cell is in, and the ticks of its slots; none where no carrier serves the cell. -/
def Chip.cellSlot (c : Chip) (cell : Nat) : Option (Nat × Nat) :=
  (c.cellCarrier cell false).map fun (e : Nat × Nat) =>
    let n := ccSlotTicks e.1
    (tickAdd c.ach.frameTick ((tickDiff c.tick c.ach.frameTick).toNat / n * n), n)

/-- TICK names a slot more than two slots after the cell's current one. -/
def Chip.aeTooFar (c : Chip) (q : AeCmd) : Bool :=
  match c.cellSlot q.cell with
  | some (t, n) => 2 * (n : Int) < tickDiff q.tick t
  | none => false

/-- The matrices of a command are well placed and shaped (R195). OUT is checked where the operation writes it; of
JD_REQ_SEND, also the words from IN.ADDR. -/
def AeCmd.matsOk (q : AeCmd) : Bool :=
  let w := q.mW
  let i := q.mIn
  let o := q.mOut
  w.fmt == i.fmt && (w.fmt == 0 || w.fmt == 2) && (o.fmt == 0 || o.fmt == 1) && !i.conj && !o.conj
    && i.cs == fmtBytes i.fmt && i.addr % 16 == 0 && i.rs % 16 == 0
    && (q.items != 1 || (i.set == 0 && o.set == 0))
    && (if q.op = 5 then
          (match aeRegion i.addr with
           | none => false
           | some r => (List.range q.n).all fun k => aeRegion (i.addr + 16 * k) == some r)
        else true)
    && w.inOne q.sets q.m q.k && i.inOne q.items q.k q.n
    && (if q.ring then q.word 3 == 0
        else o.cs == fmtBytes o.fmt && o.addr % 16 == 0 && o.rs % 16 == 0 && o.inOne q.items q.m q.n)

/-- A command that BAD_DESCRIPTOR does not meet (R195). -/
def Chip.aeOk (c : Chip) (q : AeCmd) : Bool :=
  q.reservedOk && q.rangesOk && q.matsOk
    && !(q.maskK && q.k != 256) && !(q.maskM && q.m != 256) && !(q.gram && q.m != q.n)
    && !(q.items != 1 && (q.wgran != 0 || (q.ringAdd && q.op == 1)))
    && !(q.ring && 16 < q.m)
    && !((q.op == 3 || (q.op == 1 && q.ringAdd)) && q.tileN != 512)
    && !((q.op == 3 || q.op == 4) && !q.auto && 28 < q.shift)
    && !(q.op == 5 && 63 < q.n) && !c.aeTooFar q

/-! ## Press state -/

/-- State of a logical Press beside its registers. -/
def Chip.aeX (c : Chip) (n : Nat) : AeX := Tbl.get c.ae.press n {}

/-- Set it. -/
def Chip.setAe (c : Chip) (n : Nat) (x : AeX) : Chip :=
  c.withAe { c.ae with press := Tbl.set c.ae.press n x {} }

/-- The Press still holds a task. -/
def Chip.aeHolds (c : Chip) (n id : Nat) : Bool :=
  match c.task id with | some t => t.heldBy (0x100 + n) | none => false

/-- The command in execution. -/
def Chip.aeRun (c : Chip) (n : Nat) : Option AeRun := (c.aeX n).run.filter fun r => c.aeHolds n r.cmd.task

/-- The command read ahead. -/
def Chip.aeReady (c : Chip) (n : Nat) : Option AeCmd := (c.aeX n).ready.filter fun q => c.aeHolds n q.task

/-- The next dispatched command: the first task the Press holds that it has neither started nor read. -/
def Chip.aeNext (c : Chip) (n : Nat) : Option Task := (c.heldTasks (0x100 + n)).find? fun t => !t.ran

/-- The statuses of a condition mask (bit k: code k), highest first by R36; OK for none. -/
def maskWorst (m : Nat) : Status := Status.worstOf ((bitsSet m 16).map .ofCode)

/-- A command completes (R201): its status, the counts, the task. -/
def Chip.aeFinish (c : Chip) (n id : Nat) (s : Status) : Chip :=
  let c := (c.wr F.AE_STAT_LAST_STATUS s.code n).incMod F.AE_CMD_CNT_COMMANDS n
  match c.task id with
  | some t => if t.heldBy (0x100 + n) then c.taskDone t s else c
  | none => c

/-- Presses execute commands: SERVICE, SHED, QUIESCE, TEST, not at S5, not OUT, domain ON (R209, R453). -/
def Chip.aeRuns (c : Chip) (n : Nat) : Bool :=
  c.modeIn modesRun && !c.s5Halt && c.unitState (0x100 + n) != uOut && c.domRuns (16 + c.pressPhys n)

/-- AE_STAT.STATE as it reads. -/
def Chip.aeState (c : Chip) (n : Nat) : Nat :=
  if c.unitState (0x100 + n) = uOut then 5
  else match c.aeRun n with
    | some r => if r.waiting then 3 else if r.attempt ≠ 0 then 2 else 1
    | none => if c.s5Halt then 4 else 0

/-! ## The antenna mask (R202) -/

/-- The in-service mask of the slot that began at `t`, or of the current one less the channels in LEAVING. -/
def Chip.aeMaskOf (c : Chip) (t : Nat) : Nat :=
  (List.range 256).foldl (fun m n =>
    let h := (c.achX n).hist
    let in_ := if tickDiff c.tick t < 0 then
        (match h.head? with | some e => e.2 && c.svc n != acLeaving | none => false)
      else (match h.find? fun e => tickDiff e.1 t ≤ 0 with | some e => e.2 | none => false)
    if in_ then m + 2 ^ n else m) 0

/-- Insert a mask, latest slot first, four kept. -/
def maskInsert (l : List (Nat × Nat)) (t m : Nat) : List (Nat × Nat) :=
  match l with
  | [] => [(t, m)]
  | e :: r => if tickLater t e.1 then (t, m) :: e :: r else e :: maskInsert r t m

/-- The slot that began at `t` is older than the four boundaries that channels keep their states of. -/
def Chip.slotForgotten (c : Chip) (t : Nat) : Bool :=
  (List.range 256).any fun n =>
    let h := (c.achX n).hist
    4 ≤ h.length && h.all fun e => tickLater e.1 t

/-- P of a cell and slot, fixed by the first command that names it; none where the slot is older than the four most
recent. -/
def Chip.aeMask (c : Chip) (cell t : Nat) : Chip × Option Nat :=
  let l := Tbl.get c.ae.masks cell []
  match l.find? fun e => e.1 == t with
  | some e => (c, some e.2)
  | none =>
    if (4 ≤ l.length && l.all fun e => tickLater e.1 t) || c.slotForgotten t then (c, none)
    else
      let m := c.aeMaskOf t
      let c := c.withAe { c.ae with masks := Tbl.set c.ae.masks cell ((maskInsert l t m).take 4) [] }
      let c := (List.range 4).foldl (fun c q => c.wr F.AE_MASK_SNAP_MASK (m / 2 ^ (64 * q)) cell q) c
      (c.wr F.AE_MASK_TICK_SLOT_TICK t cell, some m)

/-! ## Ring messages (R138, R212–R216) -/

/-- CRC of a ring message: header bits 95:0 and the body. -/
def ringCrc (head : Nat) (body : List Nat) : Nat :=
  crc32 (96 + 128 * body.length) (head % 2 ^ 96 + 2 ^ 96 * body.foldr (fun w a => w % 2 ^ 128 + 2 ^ 128 * a) 0)

/-- A ring message: header and body. -/
def ringMsgOf (src dst hops zeroed tick : Nat) (body : List Nat) : List Nat :=
  let h := 1 + src * 2 ^ 8 + dst * 2 ^ 16 + hops * 2 ^ 24 + zeroed * 2 ^ 26 + body.length * 2 ^ 32
    + tick % tickMod * 2 ^ 64
  (h + ringCrc h body * 2 ^ 96) :: body

/-- A sub-header (R212). -/
def jdHead (kind carrier par symbol index layersM1 e reason nRe firstSc tick : Nat) : Nat :=
  kind + 1 * 2 ^ 4 + carrier * 2 ^ 8 + par * 2 ^ 10 + symbol * 2 ^ 12 + index % 2 ^ 8 * 2 ^ 16
    + layersM1 % 2 ^ 4 * 2 ^ 24 + e * 2 ^ 32 + reason * 2 ^ 40 + nRe % 2 ^ 10 * 2 ^ 48 + firstSc % 2 ^ 12 * 2 ^ 64
    + tick % tickMod * 2 ^ 96

/-- Receive-area base of a port. -/
def Chip.jdBase (c : Chip) (p : Nat) : Nat := c.rd F.AE_JD_RX_BASE p * 2 ^ 12

/-- Address of an MF, GRAM or REQUEST entry (R215). -/
def Chip.jdEntry (c : Chip) (p kind par symbol carrier index : Nat) : Nat :=
  c.jdBase p + (if kind = 1 then (((par * 14 + symbol) * 4 + carrier) * 8 + index) * 0x8400
    else if kind = 2 then 0x1CE0000 + ((par * 4 + carrier) * 256 + index) * 0x800
    else 0x20E0000 + (par * 4 + carrier) * 0x400)

/-- Tick of the symbol a message belongs to (R138): the slot's start, and for MF the start of the symbol in it on the
carrier that AE_JD_MAP names. -/
def Chip.jdTick (c : Chip) (q : AeCmd) : Nat :=
  if q.op ≠ 3 then q.tick
  else
    match c.achOf (c.rd F.AE_JD_MAP_CELL q.carrier) with
    | none => q.tick
    | some w =>
      let s := (tickDiff q.tick c.ach.frameTick % frameTicks).toNat / ccSlotTicks w * ccSlotSyms w
      tickAdd q.tick (symStart w (s + q.symbol) - symStart w s)

/-- Hand a message to a ring port (R214): sent while the port is up, else counted in UNSENT. -/
def Chip.jdSend (c : Chip) (p : Nat) (dst zeroed tick : Nat) (body : List Nat) : Chip :=
  let l := 16 + p
  if c.lkUp l then
    let c := c.lpExit l
    (c.ringPut l false (ringMsgOf (c.rd F.ECV_RING_STAT_LOCAL_ID l) dst 0 zeroed tick body)).incSat F.AE_JD_STAT_SENT p
  else c.incSat F.AE_JD_STAT_UNSENT p

/-- A DECLINE for the slot and carrier has been recorded on the port (R213, R216). -/
def Chip.jdDeclined (c : Chip) (p tick carrier : Nat) : Bool := (Tbl.get c.ae.declines p []).contains (tick, carrier)

/-! ## Tiles (R197, R198) -/

/-- Row blocks of an item. -/
def AeCmd.rowBlocks (q : AeCmd) : Nat := (q.m + 31) / 32
/-- Column blocks of a row block. -/
def AeCmd.colBlocks (q : AeCmd) : Nat := (q.n + q.tileN - 1) / q.tileN
/-- Tiles of a command. -/
def AeCmd.tiles (q : AeCmd) : Nat := q.items * q.rowBlocks * q.colBlocks

/-- A tile: batch item, first row, rows, column block, first column, columns, first column computed (R194, R197). -/
structure AeTile where
  item : Nat
  r0 : Nat
  rows : Nat
  cb : Nat
  c0 : Nat
  cols : Nat
  comp : Nat
  deriving DecidableEq, Repr

/-- Tile `t` of a command. -/
def AeCmd.tileOf (q : AeCmd) (t : Nat) : AeTile :=
  let cb := t % q.colBlocks
  let rb := t / q.colBlocks % q.rowBlocks
  let c0 := cb * q.tileN
  let cols := min q.tileN (q.n - c0)
  { item := t / (q.rowBlocks * q.colBlocks), r0 := 32 * rb, rows := min 32 (q.m - 32 * rb), cb := cb, c0 := c0,
    cols := cols, comp := if q.gram then min (c0 + cols) (max c0 (32 * rb)) else c0 }

/-- Columns a tile computes. -/
def AeTile.computed (x : AeTile) : Nat := x.c0 + x.cols - x.comp

/-- Widths of the segments of `n` columns from `a` on, cut at multiples of `g`; 0 cuts nowhere. -/
def segments (fuel a n g : Nat) : List Nat :=
  match fuel with
  | 0 => []
  | f + 1 =>
    if n = 0 then []
    else if g = 0 then [n]
    else
      let w := min n (g - a % g)
      w :: segments f (a + w) (n - w) g

/-- Array cycles of a tile (R198). -/
def AeCmd.cycles (q : AeCmd) (x : AeTile) : Nat :=
  if x.computed = 0 then 0
  else (q.k + 63) / 64 * (segments x.computed x.comp x.computed q.wgran).foldl (fun a w => a + max w 32) 0 + 40

/-! ## Operands -/

/-- Row `k` of IN and column `k` of W take part (R203). -/
def AeRun.kIn (r : AeRun) (k : Nat) : Bool := !r.cmd.maskK || bit r.mask k

/-- Row `m` of the output is computed and not masked to zero (R203). -/
def AeRun.mIn_ (r : AeRun) (m : Nat) : Bool := !r.cmd.maskM || bit r.mask m

/-- Addresses of the operand elements a tile reads. -/
def AeRun.operands (r : AeRun) (x : AeTile) : List (Nat × Nat) :=
  let q := r.cmd
  let ks := (List.range q.k).filter r.kIn
  let js := (List.range x.computed).map (x.comp + ·)
  let sets := js.foldl (fun (l : List Nat) j => if l.contains (q.setOf x.item j) then l else l ++ [q.setOf x.item j]) []
  (sets.flatMap fun s => (List.range x.rows).flatMap fun i => ks.map fun k =>
      (q.mW.at_ s (x.r0 + i) k, fmtBytes q.mW.fmt))
    ++ ks.flatMap fun k => js.map fun j => (q.mIn.at_ x.item k j, fmtBytes q.mIn.fmt)

/-- Words read so far, by word number. -/
abbrev AeWords := Tbl WordRead

/-- Read the word that holds an address, once. -/
def Chip.aeWord (c : Chip) (n : Nat) (l : AeWords) (a : Nat) : Chip × AeWords :=
  if l.any fun (e : Nat × WordRead) => e.1 == a / 16 then (c, l)
  else
    let (c, w) := c.readWord (.pressStream n) (wordAddr a)
    (c, Tbl.insert l (a / 16) w)

/-- Read the words of a list of elements (address, bytes). -/
def Chip.aeReads (c : Chip) (n : Nat) (l : AeWords) (as : List (Nat × Nat)) : Chip × AeWords :=
  match as with
  | [] => (c, l)
  | e :: r =>
    let (c, l) := c.aeWord n l e.1
    let (c, l) := c.aeWord n l (e.1 + e.2 - 1)
    c.aeReads n l r

/-- Bytes of an element from the words read. -/
def aeBytes (l : AeWords) (a size : Nat) : Nat :=
  let lo := (Tbl.get l (a / 16) (.refused .ok)).data
  let hi := (Tbl.get l (a / 16 + 1) (.refused .ok)).data
  (lo + hi * 2 ^ 128) / 2 ^ (8 * (a % 16)) % 2 ^ (8 * size)

/-- An element as a pair of integers, real part low. -/
def aeElem (l : AeWords) (x : AeMat) (s i j : Nat) : Int × Int :=
  let n := 4 * fmtBytes x.fmt
  let v := aeBytes l (x.at_ s i j) (fmtBytes x.fmt)
  let im := sx n (v / 2 ^ n)
  (sx n v, if x.conj then -im else im)

/-- Accumulator of element (i, j) of an item: the exact sum of products (R189). -/
def AeRun.acc (r : AeRun) (l : AeWords) (item i j : Nat) : Int × Int :=
  ((List.range r.cmd.k).filter r.kIn).foldl (fun (a : Int × Int) k =>
    let w := aeElem l r.cmd.mW (r.cmd.setOf item j) i k
    let v := aeElem l r.cmd.mIn item k j
    (a.1 + (w.1 * v.1 - w.2 * v.2), a.2 + (w.1 * v.2 + w.2 * v.1))) (0, 0)

/-! ## The output stage (R190) -/

/-- Bits of each part of an output: ce16 or ce32; an MF message carries ce16, a GRAM message ce32. -/
def AeCmd.outBits (q : AeCmd) : Nat :=
  if q.op = 3 then 16 else if q.op = 4 then 32 else if q.mOut.fmt = 1 then 32 else 16

/-- One part after the shift, before saturation, fits. -/
def fitsS (w : Nat) (v : Int) : Bool := satS w v == v

/-- Every value of a tile fits at shift `s`. -/
def allFit (w s : Nat) (vs : List (Int × Int)) : Bool :=
  vs.all fun v => fitsS w (roundDrop s v.1) && fitsS w (roundDrop s v.2)

/-- S of a tile (R190). -/
def AeCmd.tileShift (q : AeCmd) (vs : List (Int × Int)) : Nat :=
  if q.auto then ((List.range 29).find? fun s => allFit q.outBits s vs).getD 28 else q.shift

/-- The address of the joint-detection entry a RING_ADD tile reads, with its INDEX (R216). -/
def Chip.aeEntry (c : Chip) (q : AeCmd) (x : AeTile) : Nat × Nat :=
  let index := if q.gram then q.sbFirst + x.item else x.cb
  (c.jdEntry q.port (if q.gram then 2 else 1) q.slotPar q.symbol q.carrier index, index)

/-- The sub-header in an entry matches the command (R216). -/
def AeCmd.entryOk (q : AeCmd) (x : AeTile) (index sub : Nat) : Bool :=
  bits sub 3 0 == (if q.gram then 2 else 1) && bits sub 7 4 == 1 && bits sub 127 96 == q.tick
    && bits sub 15 12 == q.symbol && bits sub 9 8 == q.carrier && bits sub 23 16 == index
    && bits sub 75 64 == (if q.gram then q.firstSc else q.firstSc + 512 * x.cb) && bits sub 27 24 + 1 == q.m

/-- Number of value `G(i, j)`, i ≤ j, in a GRAM message of `m` layers: row order. -/
def gramIndex (m i j : Nat) : Nat := i * m - i * (i - 1) / 2 + (j - i)

/-- Remote value of element (i, j), as two integers, from the words of an entry read; `e` is its exponent (R214,
R216). -/
def AeCmd.remote (q : AeCmd) (l : AeWords) (a e i j : Nat) (x : AeTile) : Int × Int :=
  if q.gram then
    let k := gramIndex q.m (min i j) (max i j)
    let v := aeBytes l (a + 16 + 8 * k) 8
    (sx 32 v * 2 ^ e, (if j < i then -1 else 1) * sx 32 (v / 2 ^ 32) * 2 ^ e)
  else
    let k := (j - x.c0) * q.m + i
    let v := aeBytes l (a + 16 + 4 * k) 4
    (sx 16 v * 2 ^ e, sx 16 (v / 2 ^ 16) * 2 ^ e)

/-- Words of an entry after its sub-header that a tile takes. -/
def AeCmd.remoteWords (q : AeCmd) (x : AeTile) : Nat :=
  if q.gram then (q.m * (q.m + 1) / 2 + 1) / 2 else (x.cols * q.m + 3) / 4

/-- What a tile comes to: values of the columns computed by (row, column) in row order, S, the statuses seen, poison,
whether some element or remote term saturated, local data alone, the first poisoned word read. -/
structure AeOut where
  vals : List ((Nat × Nat) × (Int × Int))
  shift : Nat
  cond : Nat
  poison : Bool
  sat : Bool
  localOnly : Bool
  poisonAt : Nat
  deriving DecidableEq, Repr

/-- The remote entry of a tile: whether it must be waited for (R216, R217). -/
def Chip.aeMerge (c : Chip) (n : Nat) (r : AeRun) (x : AeTile) : Chip × AeWords × Option (Nat × Nat) × Bool :=
  let q := r.cmd
  if !q.ringAdd || !(q.op == 1 || q.op == 2) then (c, [], none, false)
  else
    let p := q.port
    if !c.jdOn (16 + p) then (c, [], none, false)
    else
      let (a, index) := c.aeEntry q x
      let (c, l) := c.aeWord n [] a
      let sub := (Tbl.get l (a / 16) (.refused .ok)).data
      if q.entryOk x index sub then
        let (c, l) := c.aeReads n l ((List.range (q.remoteWords x)).map fun k => (a + 16 * (k + 1), 16))
        (c, l, some (a, bits sub 36 32), false)
      else (c, [], none, !(r.timedOut || c.jdDeclined p q.tick q.carrier))

/-- The statuses and the poison of a list of words read. -/
def aeCond (l : AeWords) : Nat := l.foldl (fun m (e : Nat × WordRead) => if e.2.status = .ok then m else condAdd m e.2.status) 0

/-- Compute a tile from its operands and its remote entry (R189, R190, R194, R203, R207). -/
def Chip.aeCompute (c : Chip) (n : Nat) (r : AeRun) (x : AeTile) (rem : AeWords) (entry : Option (Nat × Nat)) :
    Chip × AeOut :=
  let q := r.cmd
  let (c, l) := c.aeReads n [] (r.operands x)
  let idx := (List.range x.rows).flatMap fun i => (List.range x.computed).map fun j => (x.r0 + i, x.comp + j)
  let raw := idx.map fun (e : Nat × Nat) =>
    if !r.mIn_ e.1 then (e, ((0, 0) : Int × Int), false)
    else
      let a := r.acc l x.item e.1 e.2
      let (m, s) : (Int × Int) × Bool := match entry with
        | some (addr, ex) =>
          let v := q.remote rem addr ex e.1 e.2 x
          ((satS 45 v.1, satS 45 v.2), !(fitsS 45 v.1 && fitsS 45 v.2))
        | none => ((0, 0), false)
      let d : Int := if q.gram && e.1 == e.2 then q.diag else 0
      (e, (a.1 + m.1 + d, a.2 + m.2), s)
  let shift := q.tileShift (raw.map fun e => e.2.1)
  let sat := !allFit q.outBits shift (raw.map fun e => e.2.1) || raw.any fun e => e.2.2
  let out := raw.map fun e =>
    (e.1, satS q.outBits (roundDrop shift e.2.1.1), satS q.outBits (roundDrop shift e.2.1.2))
  let bad := (l ++ rem).find? fun (e : Nat × WordRead) => e.2.poison
  let cond := aeCond l ||| aeCond rem
  (c, { vals := out.map fun e => (e.1, e.2.1, e.2.2), shift := shift,
        cond := if bad.isSome then condAdd cond .poisoned else cond, poison := bad.isSome, sat := sat,
        localOnly := q.ringAdd && (q.op == 1 || q.op == 2) && entry.isNone,
        poisonAt := match bad with | some e => 16 * e.1 | none => 0 })

/-! ## Writing and sending a tile -/

/-- Key of an element in `AeRun.upper`. -/
def AeCmd.upKey (q : AeCmd) (item i j : Nat) : Nat := (item * q.m + i) * q.n + j

/-- Value and poison of output element (i, j) of a tile: a computed column, or the conjugate of the element computed in an
earlier row block (R194), zero in a masked row (R203). -/
def AeRun.outElem (r : AeRun) (x : AeTile) (o : AeOut) (i j : Nat) : (Int × Int) × Bool :=
  if !r.mIn_ i then ((0, 0), o.poison)
  else if x.comp ≤ j then
    (((o.vals.find? fun e => e.1 == (i, j)).map (·.2)).getD (0, 0), o.poison)
  else
    match Tbl.get r.upper (r.cmd.upKey x.item j i) (0, 0, false) with
    | (re, im, p) => ((re, satS r.cmd.outBits (-im)), p)

/-- Elements in a word of OUT. -/
def AeCmd.perWord (q : AeCmd) : Nat := 16 / fmtBytes q.mOut.fmt

/-- Write the words of one output row of a tile (R191, R199): an element of the row beyond N is zero, an element of
another tile keeps its value. -/
def Chip.aeRow (c : Chip) (n : Nat) (r : AeRun) (x : AeTile) (o : AeOut) (pois : Bool) (i : Nat) : Chip × Nat :=
  let q := r.cmd
  let e := q.perWord
  let w := q.outBits
  let k0 := x.c0 / e
  let k1 := (x.c0 + x.cols + e - 1) / e
  (List.range (k1 - k0)).foldl (fun (s : Chip × Nat) d =>
    let k := k0 + d
    let a := q.mOut.at_ x.item i (k * e)
    let inTile (j : Nat) : Bool := x.c0 ≤ j && j < x.c0 + x.cols
    let slots := (List.range e).map fun z => k * e + z
    let foreign := slots.any fun j => !inTile j && j < q.n
    let (c, old) : Chip × WordRead :=
      if foreign then s.1.readWord (.pressStream n) a else (s.1, ⟨0, false, .ok⟩)
    let v := slots.foldl (fun (v : Nat) j =>
      let z := j - k * e
      v + (if inTile j then
          let y := (r.outElem x o i j).1
          (toBits w y.1 + toBits w y.2 * 2 ^ w) * 2 ^ (2 * w * z)
        else if j < q.n then bits old.data (2 * w * z + 2 * w - 1) (2 * w * z) * 2 ^ (2 * w * z) else 0)) 0
    let (c, st) := c.writeWord (.pressStream n) a v (pois || (foreign && old.poison))
    (c, if st = .ok then s.2 else condAdd s.2 st)) (c, 0)

/-- Write a tile. -/
def Chip.aeWrite (c : Chip) (n : Nat) (r : AeRun) (x : AeTile) (o : AeOut) (pois : Bool) : Chip × Nat :=
  (List.range x.rows).foldl (fun (s : Chip × Nat) i =>
    let (c, m) := s.1.aeRow n r x o pois (x.r0 + i)
    (c, s.2 ||| m)) (c, 0)

/-- Words packed `k` values of `w` bits each to a word. -/
def packVals (w : Nat) (vs : List Nat) : List Nat :=
  let per := 128 / w
  (List.range ((vs.length + per - 1) / per)).map fun d =>
    (List.range per).foldl (fun v z => v + vs.getD (d * per + z) 0 % 2 ^ w * 2 ^ (w * z)) 0

/-- Send a tile as an MF or GRAM message (R207, R214). -/
def Chip.aeSendTile (c : Chip) (n : Nat) (r : AeRun) (x : AeTile) (o : AeOut) (pois : Bool) : Chip :=
  let q := r.cmd
  let w := q.outBits
  let val (i j : Nat) : Nat :=
    let y := (r.outElem x o i j).1
    if pois then 0 else toBits w y.1 + toBits w y.2 * 2 ^ w
  let vs := if q.gram then
      (List.range q.m).flatMap fun i => (List.range (q.m - i)).map fun d => val i (i + d)
    else (List.range x.cols).flatMap fun j => (List.range q.m).map fun i => val i (x.c0 + j)
  let sub := if q.gram then jdHead 2 q.carrier q.slotPar 0 (q.sbFirst + x.item) (q.m - 1) o.shift 0 0 0 q.tick
    else jdHead 1 q.carrier q.slotPar q.symbol x.cb (q.m - 1) o.shift 0 x.cols (q.firstSc + 512 * x.cb) q.tick
  let c := c.when (pois && c.lkUp (16 + q.port)) fun c => c.postPoison (0x100 + n) srcAe 7 o.poisonAt
  c.jdSend q.port (c.rd F.ECV_RING_STAT_PEER_ID (16 + q.port)) (b2n pois) (c.jdTick q) (sub :: packVals (2 * w) vs)

/-- Keep the values a later row block repeats. -/
def AeRun.keep (r : AeRun) (x : AeTile) (o : AeOut) (pois : Bool) : AeRun :=
  if r.cmd.op ≠ 2 then r
  else { r with upper := o.vals.foldl (fun (t : Tbl (Int × Int × Bool)) e =>
      Tbl.set t (r.cmd.upKey x.item e.1.1 e.1.2) (e.2.1, e.2.2, pois) (0, 0, false)) r.upper }

end Sys2Proof.Machine
end

