-- ==== Sys2Proof/Machine/Brx.lean ====
section
/-! DEFINITION. Burst receivers (spec/06_burst_receivers.md): the checks of an enable, occasions, the beams and their
digital gain, correlation, receptions and their records. The commands of the receivers are in Machine/BrxCmds.lean. -/
namespace Sys2Proof.Machine

/-- A receiver beside its registers. -/
def Chip.br (c : Chip) (n : Nat) : BrX := Tbl.get c.brx.rcv n {}

/-- Set it; N_ACTIVE and BRX_STAT show its open receptions. -/
def Chip.setBr (c : Chip) (n : Nat) (x : BrX) : Chip :=
  let c := c.withBrx { c.brx with rcv := Tbl.set c.brx.rcv n x {} }
  (c.wr F.BRn_STAT_N_ACTIVE x.recs.length n).wr F.BRX_STAT_ACTIVE
    (setBit (c.rd F.BRX_STAT_ACTIVE) n (!x.recs.isEmpty))

/-! ## Formats (R172, R174) -/

/-- Ticks of a sequence period (R172). -/
def Chip.brTseq (c : Chip) (n : Nat) : Nat :=
  match c.rd F.BRn_CFG_SCS n with
  | 0 => 24576 | 1 => 6144 | 2 => 4096 | 3 => 2048 | 4 => 1024
  | _ => if Config.nprachFormat1 (c.rd F.BRn_CFG_NCS_CFG n) then 196608 else 172032

/-- Ticks of a receiver sample. -/
def brSample (scs : Nat) : Nat := match scs with | 0 => 24 | 1 => 6 | 2 => 16 | 3 => 8 | 4 => 4 | _ => 64

/-- Half the receiver's band in 625 Hz units: sequence length times spacing (log entry 50). -/
def brHalf (scs : Nat) : Nat := match scs with | 0 => 839 | 1 => 3356 | 2 => 834 | 3 => 1668 | 4 => 3336 | _ => 144

/-- Repetitions N_REP. -/
def Chip.brReps (c : Chip) (n : Nat) : Nat := c.rd F.BRn_CFG_N_REP_M1 n + 1

/-- SCS code and N_REP are listed for the family. -/
def brFormatOk (family scs reps : Nat) : Bool :=
  match family with
  | 0 => scs ≤ 1 && (reps == 1 || reps == 2 || reps == 4)
  | 1 => (scs == 2 && reps == 1) || ((scs == 3 || scs == 4) && reps ≤ 12)
  | 2 => scs == 5 && reps ≤ 128
  | _ => false

/-- Band edge furthest from the channel centre, 625 Hz units. -/
def Chip.brEdge (c : Chip) (n : Nat) : Nat := (sx 20 (c.rd F.BRn_CFG_CF_OFFSET n)).natAbs + brHalf (c.rd F.BRn_CFG_SCS n)

/-- An enable passes the checks of R174. Roots go on from the last logical root to the first, as in the standard, so
that only a LOG_ROOT outside the range leaves too few (log entry 50). -/
def Chip.brEnableOk (c : Chip) (n : Nat) : Bool :=
  let fam := c.rd F.BRn_CFG_FAMILY n
  let scs := c.rd F.BRn_CFG_SCS n
  let root := c.rd F.BRn_CFG_LOG_ROOT n
  let pre := c.rd F.BRn_CFG_N_PRE_M1 n + 1
  let log2 := c.rd F.BRn_RING_LOG2 n
  brFormatOk fam scs (c.brReps n)
    && (match fam with | 0 => root < 838 | 1 => root < 138 | _ => root + pre ≤ 48)
    && c.rd F.BRn_OCC_PERIOD n != 0 && c.rd F.BRn_THR_SPAN n ≤ c.rd F.BRn_OCC_PERIOD n
    && c.brEdge n ≤ 320000
    && 4 ≤ log2 && log2 ≤ 15
    && (match regionOf (32 * c.rd F.BRn_RING_BASE n) with
      | .reserved => false
      | .control => !ctlReserved (32 * c.rd F.BRn_RING_BASE n)
      | _ => true)

/-- The last occasion to have begun by the grid ORIGIN + k × PERIOD, its first tick and its number: counted from the last one
reached, since the grid goes on where the tick count wraps (R173). -/
def Chip.brLast (c : Chip) (n : Nat) : Nat × Int :=
  let p := max 1 (c.rd F.BRn_OCC_PERIOD n)
  match (c.br n).grid with
  | some (t, k) => let d := cntSub c.tick t / p; (tickAdd t (d * p), k + d)
  | none =>
    let o := c.rd F.BRn_OCC_ORIGIN n
    let k := tickDiff c.tick o / (p : Int)
    (toBits 32 (o + k * p), k)

/-- The enable is applied (R174): accepted, or rejected with an ACCESS event. -/
def Chip.brEnable (c : Chip) (n : Nat) : Chip :=
  if c.brEnableOk n then
    let c := ((c.wr F.BRn_CFG_EN 1 n).wr F.BRn_PTR_WR 0 n).wr F.BRn_STAT_DG (c.rd F.BRn_CFG_DG_INIT n) n
    let c := c.setBr n { c.br n with
      notBefore := some (tickAdd c.tick 308), occ := none, frozen := false, stopping := false, blocks := [], grid := none }
    let g := c.brLast n
    c.setBr n { c.br n with grid := some g }
  else (c.wr F.BRn_CFG_EN 0 n).post .badDescriptor srcBrx evAccess (n * 2 ^ 32) 0

/-- The grid of an enabled receiver reaches an occasion with a tick; one that may be searched ends a hold. -/
def Chip.brStep (c : Chip) (n : Nat) : Chip :=
  let x := c.br n
  match x.grid with
  | some (t, k) =>
    if c.flag F.BRn_CFG_EN n && cntSub c.tick t = c.rd F.BRn_OCC_PERIOD n then
      let hold := match x.notBefore with | some b => if 0 ≤ tickDiff c.tick b then none else some b | none => none
      c.setBr n { x with grid := some (c.tick, k + 1), notBefore := if c.s5Halt then x.notBefore else hold }
    else c
  | none => c

/-- One tick of the receivers. -/
def Chip.brTick (c : Chip) : Chip := (List.range 32).foldl (fun c n => c.brStep n) c

/-! ## Occasions (R173, R176, R184, R185) -/

/-- The receiver searches in this mode and stage (R184). -/
def Chip.brRuns (c : Chip) (n : Nat) : Bool :=
  !c.s5Halt && c.flag F.BRn_CFG_EN n
    && (c.mode == mService || c.mode == mShed || c.mode == mTest || (c.mode == mSoak && n == c.rd F.BRX_SOAK_CFG_SOAK_BR))

/-- STATE (R184): OFF where receivers do not run, STOPPING, FROZEN, SEARCH. -/
def Chip.brState (c : Chip) (n : Nat) : Nat :=
  if c.mode ≤ mVerify then 0
  else if (c.br n).stopping then 3
  else if !c.flag F.BRn_CFG_EN n then 0
  else if (c.br n).frozen then 2 else 1

/-- The antenna is included (R176). -/
def Chip.brIncludes (c : Chip) (n a : Nat) : Bool :=
  c.svc a != acOut && (c.rd F.ECV_SAMPLE_CFG_RATE (achLink a) == 0 || c.brEdge n ≤ 160000)

/-- Antennas included at the start of an occasion, with the coefficients of the subband that holds CF_OFFSET. -/
def Chip.brLatch (c : Chip) (n : Nat) : List (Nat × Nat) :=
  let k := ((sx 20 (c.rd F.BRn_CFG_CF_OFFSET n) + 320000) / 10000).toNat
  let soak := c.mode == mSoak
  ((List.range 256).filter fun a =>
    if soak then c.brx.soakAnts.contains a && bit (c.rd F.BRX_SOAK_CFG_SOAK_LINKS) (achLink a) else c.brIncludes n a).map
    fun a => (a, c.rd F.CAL_COEF_RX a (min k 63))

/-- The antennas included are fixed at SOAK entry (R185). -/
def Chip.brSoakEnter (c : Chip) : Chip :=
  let n := c.rd F.BRX_SOAK_CFG_SOAK_BR
  c.withBrx { c.brx with soakAnts := (List.range 256).filter fun a => c.brIncludes n a }

/-- A request for SOAK is not rejected by the sampling receiver (R185). -/
def Chip.brSoakOk (c : Chip) : Bool :=
  let n := c.rd F.BRX_SOAK_CFG_SOAK_BR
  let every := c.rd F.BRn_OCC_PERIOD n * max 1 (c.rd F.BRX_SOAK_CFG_SOAK_DIV)
  c.flag F.BRn_CFG_EN n && c.rd F.BRX_SOAK_CFG_SOAK_LINKS != 0 && 307200 ≤ every && every ≤ 4915200

/-! ## Beams (R175) -/

/-- Weight of antenna `i` in beam `b` in units of 2^-64, by GEOM and HALF. -/
def Chip.brWeight (c : Chip) (b i : Nat) : Cx :=
  let h := c.rd F.BRX_GEOM_HALF
  if c.rd F.BRX_GEOM_GEOM = 0 then turnBack (2 * ((2 * (b % 8) + h) * (i % 16) + (2 * (b / 8) + h) * (i / 16)))
  else turnBack ((2 * (b % 16) + h) * (i % 32) + 4 * (2 * (b / 16) + h) * (i / 32))

/-- Receiver samples of an antenna over `m` of them from tick `t` on, at the band centre, times its coefficient. -/
def Chip.brTap (c : Chip) (n : Nat) (coef : Nat × Nat) (t m : Nat) : List Cx :=
  let scs := c.rd F.BRn_CFG_SCS n
  let s := brSample scs
  let xs := c.tapSamples coef.1 (tickAdd t (tickMod - 64 * s)) ((64 + m) * s)
  (List.range m).map fun k =>
    cxScale 14 (cxOf 16 coef.2) (cxSat 24 (Config.brDown scs (c.rd F.BRn_CFG_CF_OFFSET n) xs k))

/-- Beam `b`: 2^−4 times the weighted sum of the included antennas. -/
def Chip.brBeam (c : Chip) (b : Nat) (ants : List (Nat × List Cx)) (m : Nat) : List Cx :=
  (List.range m).map fun k =>
    cxSat 32 (cxRound 68 (ants.foldl (fun a (e : Nat × List Cx) =>
      cxAdd a (cxProd (c.brWeight b e.1) (e.2.getD k (0, 0)))) (0, 0)))

/-- The 64 beams over `m` receiver samples from tick `t` on. -/
def Chip.brBeams (c : Chip) (n : Nat) (coefs : List (Nat × Nat)) (t m : Nat) : List (List Cx) :=
  let ants := coefs.map fun e => (e.1, c.brTap n e t m)
  (List.range 64).map fun b => c.brBeam b ants m

/-! ## Digital gain (R177, R178) -/

/-- A beam sample under a digital gain of (DG − 48) × 0.5 dB: before saturation to ce16. -/
def brGained (dg : Nat) (x : Cx) : Cx := let a := 5 * (48 - (dg : Int)); (attenuate a x.1, attenuate a x.2)

/-- The gain that scaled the block in which a tick lies: the present one where the block has not ended. -/
def Chip.brDgAt (c : Chip) (n t : Nat) : Nat :=
  let len := 64 * brSample (c.rd F.BRn_CFG_SCS n)
  match (c.br n).blocks.find? fun b => 0 ≤ tickDiff t b.tick && tickDiff t b.tick < len with
  | some b => b.dg
  | none => c.rd F.BRn_STAT_DG n

/-- Some beam sample of a span saturates at the correlator's input. -/
def Chip.brSat (c : Chip) (n t m : Nat) : Bool :=
  match (c.br n).occ with
  | some o =>
    let s := brSample (c.rd F.BRn_CFG_SCS n)
    (c.brBeams n o.coefs t m).any fun xs => (xs.zipIdx).any fun (e : Cx × Nat) =>
      let y := brGained (c.brDgAt n (tickAdd t (e.2 * s))) e.1
      cxSat 16 y != y
  | none => false

/-- Power of the beam samples of a block after its gain, all beams together. -/
def Chip.brPower (c : Chip) (n t dg : Nat) : Nat :=
  match (c.br n).occ with
  | some o => (c.brBeams n o.coefs t 64).foldl (fun p xs =>
      xs.foldl (fun p x => p + cxMag (cxSat 16 (brGained dg x))) p) 0
  | none => 0

/-- Some included tap sample of a span of ticks is GAP (R183). -/
def Chip.brGap (c : Chip) (n t len : Nat) : Bool :=
  match (c.br n).occ with
  | some o => o.coefs.any fun e => c.gapIn e.1 t len
  | none => false

/-! ## Correlation (R172, R173, R179) -/

/-- Samples of a beam as the correlator takes them: under the block's gain as ce16, then divided by it again; with eight
fraction bits (log entry 50). -/
def Chip.brCorrIn (c : Chip) (n t : Nat) (xs : List Cx) : List Cx :=
  let s := brSample (c.rd F.BRn_CFG_SCS n)
  (xs.zipIdx).map fun (e : Cx × Nat) =>
    let dg := c.brDgAt n (tickAdd t (e.2 * s))
    let y := cxSat 16 (brGained dg e.1)
    let a := 5 * ((dg : Int) - 48)
    (attenuate a (y.1 * 256), attenuate a (y.2 * 256))

/-- Correlation size by FAMILY and SCS code. -/
def brLags (scs : Nat) : Nat := if scs ≤ 1 then 1024 else if scs ≤ 4 then 256 else 128

/-- Sequence length by FAMILY. -/
def brLen (family : Nat) : Nat := if family = 0 then 839 else 139

/-- N_CS of a receiver, 0 for no cyclic shifts. -/
def Chip.brNcs (c : Chip) (n : Nat) : Nat :=
  Config.raShift (c.rd F.BRn_CFG_FAMILY n) (c.rd F.BRn_CFG_SCS n) (c.rd F.BRn_CFG_NCS_CFG n)
    % brLen (c.rd F.BRn_CFG_FAMILY n)

/-- Sequence and cyclic shift of preamble index `p` (R172): the physical root of LOG_ROOT and those after it, each with its
cyclic shifts in turn; for NPRACH the subcarrier LOG_ROOT + p. -/
def Chip.brSeq (c : Chip) (n p : Nat) : Nat × Nat :=
  let fam := c.rd F.BRn_CFG_FAMILY n
  let root := c.rd F.BRn_CFG_LOG_ROOT n
  if fam = 2 then (root + p, 0)
  else
    let ncs := c.brNcs n
    let v := if ncs = 0 then 1 else brLen fam / ncs
    (Config.raRoot fam ((root + p / v) % (brLen fam - 1)), p % v * ncs)

/-- Lags that preamble index `p` owns: the zone of its cyclic shift. -/
def Chip.brZone (c : Chip) (n p : Nat) : List Nat :=
  let fam := c.rd F.BRn_CFG_FAMILY n
  let size := brLags (c.rd F.BRn_CFG_SCS n)
  let ncs := c.brNcs n
  (List.range size).filter fun k =>
    fam == 2 || ncs == 0 || decide ((k * brLen fam / size + (c.brSeq n p).2) % brLen fam < ncs)

/-- Samples in a window. -/
def Chip.brWinLen (c : Chip) (n : Nat) : Nat := c.brTseq n / brSample (c.rd F.BRn_CFG_SCS n)

/-- Power profile of a beam's samples for a sequence. -/
def Chip.brProf (c : Chip) (n u : Nat) (xs : List Cx) : List Nat :=
  (List.range (brLags (c.rd F.BRn_CFG_SCS n))).map
    (Config.brProfile (c.rd F.BRn_CFG_FAMILY n) (c.rd F.BRn_CFG_SCS n) u xs)

/-- A peak of a window (R173, R179, R180): beam, preamble index, sequence and lag, arrival in ticks and sixteenths, power of
the peak and sum of the profile, RSS, NOISE, WB_PWR and metric in 0.125 dB, the gain of the window's last block. -/
structure BrPeak where
  beam : Nat
  idx : Nat
  root : Nat
  lag : Nat
  win : Nat
  arrival : Nat
  frac : Nat
  pow : Nat
  sum : Nat
  rss : Int
  noise : Int
  wb : Int
  metric : Nat
  dg : Nat
  det : Nat
  deriving DecidableEq, Repr

/-- The highest of some lags of a profile, the first on a tie. -/
def brHighest (prof : List Nat) (ks : List Nat) : Nat :=
  ks.foldl (fun b k => if prof.getD b 0 < prof.getD k 0 then k else b) (ks.headD 0)

/-- The peak of preamble index `p` in a beam of the window that begins at `t`. Levels are per included antenna on the
compensated tap: the powers of the beam carry 2^−8, the correlator's eight fraction bits 2^16, a coherent sum N_ANT² and an
incoherent one N_ANT (R179; log entry 50). -/
def Chip.brPeak (c : Chip) (n t nAnt beam p : Nat) (xs : List Cx) : BrPeak :=
  let scs := c.rd F.BRn_CFG_SCS n
  let fam := c.rd F.BRn_CFG_FAMILY n
  let u := (c.brSeq n p).1
  let prof := c.brProf n u xs
  let lag := brHighest prof (c.brZone n p)
  let size := brLags scs
  let ts := 16 * c.brTseq n
  let at_ := (ts * lag / size + ts * (c.brSeq n p).2 / brLen fam + Config.brFine xs lag % (16 * brSample scs)) % ts
  let pow := prof.getD lag 0
  let sum := prof.foldl (· + ·) 0
  let full := 2 ^ 8 * 32767 ^ 2
  { beam := beam
    idx := p
    root := u
    lag := lag
    win := t
    arrival := tickAdd t (at_ / 16)
    frac := at_ % 16
    pow := pow
    sum := sum
    rss := dbEighths pow (nAnt ^ 2 * full)
    noise := dbEighths sum (size * nAnt * full)
    wb := dbEighths (xs.foldl (fun a x => a + cxMag x) 0) (xs.length * nAnt * full)
    metric := toBits 16 (dbEighths (pow * size) sum)
    dg := c.brDgAt n (tickAdd t (c.brTseq n - 1))
    det := c.tick }

/-- The peaks of a window: one for each beam and each preamble index. -/
def Chip.brPeaks (c : Chip) (n t : Nat) (o : BrOcc) : List BrPeak :=
  ((c.brBeams n o.coefs t (c.brWinLen n)).zipIdx).flatMap fun (e : List Cx × Nat) =>
    (List.range (c.rd F.BRn_CFG_N_PRE_M1 n + 1)).map fun p => c.brPeak n t o.coefs.length e.2 p (c.brCorrIn n t e.1)

/-- Correlation power of one repetition of a reception, at its beam, sequence and lag (R181). -/
def Chip.brRepPower (c : Chip) (n : Nat) (r : BrRec) (t : Nat) : Nat :=
  match (c.br n).occ with
  | some o =>
    let xs := (c.brBeams n o.coefs t (c.brWinLen n)).getD r.beam []
    (c.brProf n r.root (c.brCorrIn n t xs)).getD r.lag 0
  | none => 0

/-- The repetitions of a reception that have ended by a tick are accumulated (R181). -/
def Chip.brAccum (c : Chip) (n by_ : Nat) (r : BrRec) : BrRec :=
  (List.range (c.brReps n)).foldl (fun r k =>
    let t := tickAdd r.win (k * c.brTseq n)
    if k < r.reps || tickLater (tickAdd t (c.brTseq n)) by_ then r
    else { r with acc := r.acc + c.brRepPower n r t, reps := k + 1 }) r

/-- METRIC_CONF (R181): the power accumulated over the mean of the profile that gave the detection. -/
def Chip.brConf (c : Chip) (n : Nat) (r : BrRec) : Nat :=
  toBits 16 (dbEighths (r.acc * brLags (c.rd F.BRn_CFG_SCS n)) r.sum)

/-! ## Records (R183, R186) -/

/-- Writes one record to the ring, or drops it. SEQ is WR before it is incremented, so that a dropped record is not counted in
it; a record that is dropped posts its ACCESS event all the same (DESIGN CHOICE, log entry 50). -/
def Chip.brWrite (c : Chip) (n w0 w1 det : Nat) : Chip :=
  let size := 2 ^ c.rd F.BRn_RING_LOG2 n
  let wr := c.rd F.BRn_PTR_WR n
  let w0 := w0 + wr % 2 ^ 16 * 2 ^ 48
  let c :=
    if cntSub wr (c.rd F.BRn_PTR_RD n) = size then c.incSat F.BRn_STAT_REC_DROP n
    else
      let (c, st) := c.writeWords .fabric (32 * c.rd F.BRn_RING_BASE n + wr % size * 32) [w0, w1] false
      if st = .ok then c.incMod F.BRn_PTR_WR n else c.incSat F.BRn_STAT_REC_DROP n
  c.when (c.flag F.BRn_CFG_EVT_EN n) fun c =>
    c.postTick 0 (.ofCode (bits w0 7 0)) srcBrx evAccess det (bits w0 63 0) (bits w1 63 0)

/-- The memory of a receiver's ring is ON. -/
def Chip.brRingOn (c : Chip) (n : Nat) : Bool :=
  match c.addrDomain (32 * c.rd F.BRn_RING_BASE n) with
  | some d => c.domState d == dOn
  | none => true

/-- Records held in SOAK are written once the ring's memory is ON (R185). -/
def Chip.brFlush (c : Chip) (n : Nat) : Chip :=
  let x := c.br n
  if x.buf.isEmpty || !c.brRingOn n then c
  else x.buf.foldl (fun c (e : Nat × Nat × Nat) => c.brWrite n e.1 e.2.1 e.2.2) (c.setBr n { x with buf := [] })

/-- The two words of a record, without SEQ. -/
def BrRec.words (r : BrRec) (n : Nat) (st : Status) (conf thr : Nat) (abandoned : Bool) : Nat × Nat :=
  (st.code + b2n (2 * thr ≤ conf) * 2 ^ 8 + b2n r.sat * 2 ^ 9 + b2n r.soak * 2 ^ 10 + b2n r.restarted * 2 ^ 11
      + b2n abandoned * 2 ^ 12 + r.beam % 64 * 2 ^ 16 + r.idx % 64 * 2 ^ 24 + n * 2 ^ 32 + r.dg * 2 ^ 40
      + r.arrival % tickMod * 2 ^ 64 + r.frac % 16 * 2 ^ 96,
    toBits 16 r.rss + toBits 16 r.noise * 2 ^ 16 + toBits 16 r.wb * 2 ^ 32 + r.metric % 2 ^ 16 * 2 ^ 48
      + conf % 2 ^ 16 * 2 ^ 64 + r.nAnt * 2 ^ 80 + r.det % tickMod * 2 ^ 96)

/-- First tick of the block in which the present lies, on the block grid of the occasion (R177). -/
def Chip.brBlock (c : Chip) (n : Nat) : Nat :=
  match (c.br n).occ with
  | some o =>
    let len := 64 * brSample (c.rd F.BRn_CFG_SCS n)
    tickAdd o.start (cntSub c.tick o.start / len * len)
  | none => c.tick

/-- A reception as it stands at its close: the repetitions ended, and what the block under way has shown so far. -/
def Chip.brAtClose (c : Chip) (n : Nat) (r : BrRec) (poison : Bool) : BrRec :=
  let b := c.brBlock n
  let len := cntSub c.tick b
  let sat := (c.br n).frozen && c.brSat n b (len / brSample (c.rd F.BRn_CFG_SCS n))
  let r := c.brAccum n c.tick r
  { r with sat := r.sat || sat, gap := r.gap || c.brGap n b len, poison := r.poison || poison }

/-- A reception closes (R183): `why` is SHED, DEADLINE_MISSED, SUPERSEDED or OK; poison and GAP outrank the last two. -/
def Chip.brClose (c : Chip) (n : Nat) (r : BrRec) (why : Status) (poison : Bool) : Chip :=
  let q := c.brAtClose n r poison
  let st := if why = .shed || why = .deadlineMissed then why
    else if q.poison then .poisoned else if q.gap then .gap else why
  let (w0, w1) := q.words n st (c.brConf n q) (c.rd F.BRn_THR_CONF_THR n) (why == .superseded)
  let x := c.br n
  let c := c.setBr n { x with recs := x.recs.erase r }
  if c.mode = mSoak then
    if 8 ≤ (c.br n).buf.length then c.incSat F.BRn_STAT_REC_DROP n
    else (c.setBr n { c.br n with buf := (c.br n).buf ++ [(w0, w1, q.det)] }).brFlush n
  else c.brWrite n w0 w1 q.det

/-- Every open reception closes, and occasions end: S5, RELAY, the end of a drain (R183, R184). -/
def Chip.brStopAll (c : Chip) (why : Status) : Chip :=
  (List.range 32).foldl (fun c n =>
    let c := (c.br n).recs.foldl (fun c r => c.brClose n r why false) c
    let x := c.br n
    if x = {} then c else c.setBr n { x with occ := none, frozen := false, blocks := [] }) c

/-- The recovery from stage S5: receivers resume at the first occasion from here on (R184). -/
def Chip.brResume (c : Chip) : Chip :=
  (List.range 32).foldl (fun c n =>
    let x := c.br n
    if x = {} || (match x.notBefore with | some b => tickLater b c.tick | none => false) then c
    else c.setBr n { x with notBefore := some c.tick }) c

end Sys2Proof.Machine
end

