-- ==== Sys2Proof/Machine/Code.lean ====
section
/-! DEFINITION. Coding engines (spec/08_channel_coding.md R218–R238): job descriptors and their checks, segmentation, rate
matching, HARQ entries and slabs. The commands of the block are in Machine/CodeCmds.lean. -/
namespace Sys2Proof.Machine

/-! ## Job descriptors (R219) -/

/-- OP. -/
def CodeRun.op (r : CodeRun) : Nat := bits (r.w.getD 0 0) 7 0
/-- STAT_EN. -/
def CodeRun.statEn (r : CodeRun) : Bool := bit (r.w.getD 0 0) 12
/-- EARLY_TERM. -/
def CodeRun.early (r : CodeRun) : Bool := bit (r.w.getD 0 0) 13
/-- HARQ_EN. -/
def CodeRun.harqEn (r : CodeRun) : Bool := bit (r.w.getD 0 0) 14
/-- NDI. -/
def CodeRun.ndi (r : CodeRun) : Nat := bits (r.w.getD 0 0) 15 15
/-- BG. -/
def CodeRun.bg (r : CodeRun) : Nat := bits (r.w.getD 0 0) 16 16
/-- RV. -/
def CodeRun.rv (r : CodeRun) : Nat := bits (r.w.getD 0 0) 19 18
/-- Index of the HARQ entry: CTX × 32 + HARQ_PID × 2 + CW (R229). -/
def CodeRun.entry (r : CodeRun) : Nat :=
  bits (r.w.getD 0 0) 40 24 * 32 + bits (r.w.getD 0 0) 23 20 * 2 + bits (r.w.getD 0 0) 17 17
/-- Bits in a symbol: QM coded as in R86. -/
def CodeRun.qm (r : CodeRun) : Nat := if bits (r.w.getD 0 0) 43 41 = 0 then 1 else 2 * bits (r.w.getD 0 0) 43 41
/-- Layers. -/
def CodeRun.nl (r : CodeRun) : Nat := bits (r.w.getD 0 0) 45 44 + 1
/-- ITER_MAX, or the list size. -/
def CodeRun.iterMax (r : CodeRun) : Nat := bits (r.w.getD 0 0) 55 48
/-- A. -/
def CodeRun.a (r : CodeRun) : Nat := bits (r.w.getD 0 0) 84 64
/-- G. -/
def CodeRun.g (r : CodeRun) : Nat := bits (r.w.getD 0 0) 127 96
/-- IN_ADDR. -/
def CodeRun.inAddr (r : CodeRun) : Nat := bits (r.w.getD 1 0) 47 0
/-- OUT_ADDR. -/
def CodeRun.outAddr (r : CodeRun) : Nat := bits (r.w.getD 1 0) 111 64
/-- STAT_ADDR. -/
def CodeRun.statAddr (r : CodeRun) : Nat := bits (r.w.getD 2 0) 47 0
/-- N_LIMIT. -/
def CodeRun.limit (r : CodeRun) : Nat := bits (r.w.getD 2 0) 79 64
/-- RNTI. -/
def CodeRun.rnti (r : CodeRun) : Nat := bits (r.w.getD 2 0) 95 80
/-- PURPOSE. -/
def CodeRun.purpose (r : CodeRun) : Nat := bits (r.w.getD 2 0) 97 96
/-- A decode. -/
def CodeRun.dec (r : CodeRun) : Bool := r.op % 2 == 1

/-- Engine `k` accepts an operation (R220). -/
def codeAccepts (k op : Nat) : Bool :=
  if k < 8 then op == 1 || op == 2 else if k < 10 then op == 3 || op == 4 else 5 ≤ op && op ≤ 8

/-- Memory region of an address (R29); control space and reserved addresses hold no data. -/
def codeRegion (addr : Nat) : Option (Nat × Nat) :=
  match regionOf addr with
  | .cluster n _ => some (0, n)
  | .press n _ => some (1, n)
  | .pool _ => some (2, 0)
  | .aon _ => some (3, 0)
  | .hbm _ => some (4, 0)
  | .host _ => some (5, 0)
  | _ => none

/-- `n` bytes from an aligned address on lie in one region; host addresses below the top of R31. -/
def codePlaced (addr n : Nat) : Bool :=
  addr % 16 == 0 && addr + n ≤ 2 ^ 48 && codeRegion addr != none && codeRegion addr == codeRegion (addr + max n 1 - 1)
    && !(hostBase ≤ addr && hostBase + hostTop < addr + n)

/-- Bytes of the input and of the output. -/
def CodeRun.inBytes (r : CodeRun) : Nat := if r.dec then r.g else (r.a + 7) / 8
/-- Bytes of the output. -/
def CodeRun.outBytes (r : CodeRun) : Nat := if r.dec then (r.a + 7) / 8 else (r.g + 7) / 8

/-- A, G and PURPOSE lie within the limits of the code (R223, R228); they state no lower limit of G. -/
def CodeRun.limitsOk (r : CodeRun) : Bool :=
  match r.op with
  | 1 | 2 => 24 ≤ r.a && r.a ≤ 1277992 && r.g ≤ 2 ^ 27 && r.purpose == 0
  | 3 => 12 ≤ r.a && r.a ≤ 1706 && r.g ≤ 16384 && r.purpose == 0
  | 4 => r.g ≤ 8192 && ((r.purpose == 1 && 12 ≤ r.a && r.a ≤ 140) || (r.purpose == 2 && r.a == 32))
  | 5 | 6 => 16 ≤ r.a && r.a ≤ 391656 && r.purpose == 0
  | _ => 1 ≤ r.a && r.a ≤ 1024 && r.purpose ≤ 1

/-- ITER_MAX lies in its range (R219). -/
def CodeRun.iterOk (r : CodeRun) : Bool :=
  let n := r.iterMax
  match r.op with
  | 1 | 2 => 1 ≤ n && n ≤ 32
  | 3 => n == 1 || n == 2 || n == 4 || n == 8
  | 5 | 6 => 1 ≤ n && n ≤ 16
  | _ => n == 0

/-- Address and bytes of the HARQ table. -/
def Chip.harqTbl (c : Chip) : Nat := c.rd F.CODE_HARQ_TBL_BASE * 2 ^ 26
/-- Address of a slab. -/
def Chip.slabAddr (c : Chip) (s : Nat) : Nat := c.rd F.CODE_HARQ_SLAB_BASE * 2 ^ 15 + s * 0x8000

/-- The table lies in HBM, the slabs lie in HBM and clear of the table. -/
def Chip.harqPlaced (c : Chip) : Bool :=
  let n := c.rd F.CODE_HARQ_CNT_N_SLABS
  inHbm c.harqTbl (2 ^ 26)
    && (n == 0 || (inHbm (c.slabAddr 0) (n * 0x8000)
      && (c.slabAddr n ≤ c.harqTbl || c.harqTbl + 2 ^ 26 ≤ c.slabAddr 0)))

/-- A job that BAD_DESCRIPTOR does not meet (R221). -/
def Chip.codeOk (c : Chip) (r : CodeRun) : Bool :=
  bits (r.w.getD 0 0) 47 46 == 0 && bits (r.w.getD 0 0) 63 56 == 0 && bits (r.w.getD 0 0) 95 85 == 0
    && bits (r.w.getD 1 0) 63 48 == 0 && bits (r.w.getD 1 0) 127 112 == 0 && bits (r.w.getD 2 0) 63 48 == 0
    && bits (r.w.getD 2 0) 127 98 == 0 && bits (r.w.getD 0 0) 43 41 < 6 && r.iterOk && r.limitsOk
    && r.g % (r.qm * r.nl) == 0 && (!r.harqEn || ((r.op == 1 || r.op == 5) && c.harqPlaced))
    && codePlaced r.inAddr r.inBytes && codePlaced r.outAddr r.outBytes && r.statAddr % 16 == 0

/-! ## CRCs and segmentation (R223, R228; TS 38.212, TS 36.212) -/

/-- Remainder of `n` bits, first bit highest, by a generator of degree `w`. -/
def crcBits (w poly n v : Nat) (r : Nat) : Nat :=
  match n with
  | 0 => r
  | m + 1 =>
    let b := (v / 2 ^ m + r / 2 ^ (w - 1)) % 2
    crcBits w poly m v ((r * 2 % 2 ^ w) ^^^ (if b = 1 then poly else 0))

/-- CRC24A, CRC24B, CRC16. -/
def crc24A (n v : Nat) : Nat := crcBits 24 0x864CFB n v 0
/-- CRC24B. -/
def crc24B (n v : Nat) : Nat := crcBits 24 0x800063 n v 0
/-- CRC16. -/
def crc16 (n v : Nat) : Nat := crcBits 16 0x1021 n v 0
/-- CRC8. -/
def crc8 (n v : Nat) : Nat := crcBits 8 0x9B n v 0
/-- CRC of a UCI codeword: CRC6 or CRC11 by its payload. -/
def crcUci (l n v : Nat) : Nat := if l = 6 then crcBits 6 0x21 n v 0 else crcBits 11 0x621 n v 0
/-- CRC24C: of a DCI after 24 ones, its last 16 bits scrambled by the RNTI; of a PBCH payload alone (TS 38.212 §7.1.3,
§7.3.2). -/
def crc24C (dci : Bool) (rnti n v : Nat) : Nat :=
  if dci then crcBits 24 0xB2B117 (n + 24) ((2 ^ 24 - 1) * 2 ^ n + v % 2 ^ n) 0 ^^^ rnti
  else crcBits 24 0xB2B117 n v 0

/-- The code blocks of a job: their number, the lifting size or 0, the largest block size, the smaller size and how many
blocks have it, the fillers of the first block, bits of the transport-block CRC. -/
structure Seg where
  c : Nat
  z : Nat
  k : Nat
  kMinus : Nat
  cMinus : Nat
  f : Nat
  l : Nat
  deriving DecidableEq, Repr

/-- The lifting sizes of TS 38.212. -/
def liftings : List Nat :=
  ([2, 3, 5, 7, 9, 11, 13, 15] : List Nat).flatMap fun a =>
    ((List.range 8).map fun j => a * 2 ^ j).filter fun z => z ≤ 384

/-- The least of a list that is at least `n`; 0 for none. -/
def leastFrom (l : List Nat) (n : Nat) : Nat :=
  l.foldl (fun m z => if n ≤ z && (m = 0 || z < m) then z else m) 0

/-- Segmentation of an LDPC transport block (TS 38.212 §5.2.2): `k` is K', `f` the fillers. -/
def ldpcSeg (bg a : Nat) : Seg :=
  let l := if 3824 < a then 24 else 16
  let b := a + l
  let kcb := if bg = 0 then 8448 else 3840
  let c := if b ≤ kcb then 1 else (b + kcb - 24 - 1) / (kcb - 24)
  let b' := if c = 1 then b else b + 24 * c
  let k := (b' + c - 1) / c
  let kb := if bg = 0 then 22 else if 640 < b then 10 else if 560 < b then 9 else if 192 < b then 8 else 6
  let z := leastFrom liftings ((k + kb - 1) / kb)
  ⟨c, z, k, k, 0, (if bg = 0 then 22 else 10) * z - k, l⟩

/-- The turbo interleaver sizes of TS 36.212. -/
def turboSizes : List Nat :=
  (List.range 60).map (fun i => 40 + 8 * i) ++ (List.range 32).map (fun i => 528 + 16 * i)
    ++ (List.range 32).map (fun i => 1056 + 32 * i) ++ (List.range 64).map (fun i => 2112 + 64 * i)

/-- Segmentation of a turbo transport block (TS 36.212 §5.1.2). -/
def turboSeg (a : Nat) : Seg :=
  let b := a + 24
  let c := if b ≤ 6144 then 1 else (b + 6119) / 6120
  let b' := if c = 1 then b else b + 24 * c
  let k := leastFrom turboSizes ((b' + c - 1) / c)
  let km := if c = 1 then k else turboSizes.foldl (fun m z => if z < k && m < z then z else m) 0
  let cm := if c = 1 then 0 else (c * k - b') / (k - km)
  ⟨c, 0, k, km, cm, (c - cm) * k + cm * km - b', 24⟩

/-- A UCI payload is split over two polar codewords, a zero bit in front where A is odd (TS 38.212 §6.3.1.2, §5.2.1). -/
def polarSeg (a g : Nat) : Seg :=
  let c := if (360 ≤ a && 1088 ≤ g) || 1013 ≤ a then 2 else 1
  let l := if a < 20 then 6 else 11
  ⟨c, 0, (a + c - 1) / c + l, 0, 0, 0, l⟩

/-- The blocks of a job. -/
def CodeRun.seg (r : CodeRun) : Seg :=
  match r.op with
  | 1 | 2 => ldpcSeg r.bg r.a
  | 5 | 6 => turboSeg r.a
  | 3 => polarSeg r.a r.g
  | 4 => ⟨1, 0, r.a + 24, 0, 0, 0, 24⟩
  | _ => ⟨1, 0, r.a + (if r.purpose = 0 then 16 else 8), 0, 0, 0, if r.purpose = 0 then 16 else 8⟩

/-- An LDPC or turbo job, whose blocks make up a transport block with a CRC of its own. -/
def CodeRun.tb (r : CodeRun) : Bool := r.op == 1 || r.op == 2 || r.op == 5 || r.op == 6

/-- Size of block `b`: K' for LDPC, K for turbo. -/
def CodeRun.size (r : CodeRun) (b : Nat) : Nat := if b < r.seg.cMinus then r.seg.kMinus else r.seg.k

/-- Bits of the transport block, its CRC included, that block `b` carries. -/
def CodeRun.info (r : CodeRun) (b : Nat) : Nat :=
  let s := r.seg
  let n := r.size b - (if s.c = 1 then 0 else 24)
  if r.op = 5 || r.op = 6 then (if b = 0 then n - s.f else n) else n

/-! ## Rate matching -/

/-- Rate-matched bits of block `b` (TS 38.212 §5.4.2.1, TS 36.212 §5.1.4.1.2). -/
def CodeRun.e (r : CodeRun) (b : Nat) : Nat :=
  let c := r.seg.c
  if r.tb then
    let u := r.nl * r.qm
    let g := r.g / u
    if b + g % c < c then u * (g / c) else u * ((g + c - 1) / c)
  else if r.op = 3 then r.g / c
  else r.g

/-- Rate-matched bits of the blocks before `b`. -/
def CodeRun.eOff (r : CodeRun) (b : Nat) : Nat := (List.range b).foldl (fun n k => n + r.e k) 0

/-- Rows of the turbo sub-block interleaver. -/
def turboRows (k : Nat) : Nat := (k + 4 + 31) / 32

/-- log2 rounded up. -/
def log2Up (n : Nat) : Nat := if n ≤ 1 then 0 else Nat.log2 (n - 1) + 1

/-- Length of a polar code (TS 38.212 §5.3.1) for K bits sent in E. -/
def polarN (k e nmax : Nat) : Nat :=
  let u := log2Up e
  let n1 := if 8 * e ≤ 9 * 2 ^ (u - 1) && 16 * k < 9 * e then u - 1 else u
  2 ^ max 5 (min n1 (min (log2Up (8 * k)) nmax))

/-- Rows of the sub-block interleaver of a convolutional code. -/
def convRows (k : Nat) : Nat := (k + 31) / 32

/-- Length of the circular buffer of block `b`: N_cb (R223), or K_w limited by N_LIMIT; of a polar code N, of a
convolutional code its three interleaved streams. -/
def CodeRun.ncb (r : CodeRun) (b : Nat) : Nat :=
  if r.op ≤ 2 then
    let z := r.seg.z
    let n := (if r.bg = 0 then 66 else 50) * z
    if r.limit = 0 then n else min n r.limit / z * z
  else if r.op = 3 then polarN r.seg.k (r.e b) 10
  else if r.op = 4 then polarN r.seg.k (r.e b) 9
  else if 7 ≤ r.op then 96 * convRows r.seg.k
  else
    let n := 96 * turboRows (r.size b)
    if r.limit = 0 then n else min n r.limit

/-- Column permutation of the turbo sub-block interleaver: the bits of a 5-bit number reversed. -/
def rev5 (v : Nat) : Nat :=
  v % 2 * 16 + v / 2 % 2 * 8 + v / 4 % 2 * 4 + v / 8 % 2 * 2 + v / 16 % 2

/-- Index in its stream of position `v` of a turbo stream, dummies counted. -/
def turboAt (rows v : Nat) : Nat := rev5 (v / rows) + 32 * (v % rows)

/-- Index in its stream of position `v` of a convolutional code's stream, dummies counted (TS 36.212 §5.1.4.2.1). -/
def convAt (rows v : Nat) : Nat := rev5 ((v / rows + 16) % 32) + 32 * (v % rows)

/-- Circular-buffer position `p` of block `b` holds no bit: a filler, or a dummy of a sub-block interleaver. -/
def CodeRun.null (r : CodeRun) (b p : Nat) : Bool :=
  if r.op ≤ 2 then
    let z := r.seg.z
    let k := r.seg.k
    k - 2 * z ≤ p && p < k + r.seg.f - 2 * z
  else if r.op ≤ 4 then false
  else if 7 ≤ r.op then
    let rows := convRows r.seg.k
    convAt rows (p % (32 * rows)) < 32 * rows - r.seg.k
  else
    let rows := turboRows (r.size b)
    let kp := 32 * rows
    let nd := kp - (r.size b + 4)
    let f := if b = 0 then r.seg.f else 0
    let y := turboAt rows
    if p < kp then y p < nd + f
    else if (p - kp) % 2 = 0 then y ((p - kp) / 2) < nd + f
    else (y ((p - kp) / 2) + 1) % kp < nd

/-- The position rate matching starts at. -/
def CodeRun.k0 (r : CodeRun) (b : Nat) : Nat :=
  let n := r.ncb b
  if r.op ≤ 2 then
    let z := r.seg.z
    let m := if r.bg = 0 then 66 * z else 50 * z
    let f := if r.rv = 0 then 0 else if r.rv = 1 then (if r.bg = 0 then 17 else 13)
      else if r.rv = 2 then (if r.bg = 0 then 33 else 25) else (if r.bg = 0 then 56 else 43)
    f * n / m * z
  else if r.op ≤ 4 then
    -- the bits punctured at the front (TS 38.212 §5.4.1.2)
    if n ≤ r.e b || 7 * r.e b < 16 * r.seg.k then 0 else n - r.e b
  else if 7 ≤ r.op then 0
  else
    let rows := turboRows (r.size b)
    rows * (2 * ((n + 8 * rows - 1) / (8 * rows)) * r.rv + 2)

/-- The positions rate matching takes from the buffer of block `b`, once round. -/
def CodeRun.positions (r : CodeRun) (b : Nat) : List Nat :=
  let n := r.ncb b
  ((List.range n).map fun j => (r.k0 b + j) % n).filter fun p => !r.null b p

/-- Number of the bit before interleaving that is sent as bit `i` of block `b` (TS 38.212 §5.4.2.2). -/
def CodeRun.deint (r : CodeRun) (b i : Nat) : Nat :=
  if r.op ≤ 2 then i % r.qm * (r.e b / r.qm) + i / r.qm else i

/-- Width of a circular-buffer column (R230). -/
def CodeRun.column (r : CodeRun) (b : Nat) : Nat := if r.op ≤ 2 then r.seg.z else (r.ncb b + 65) / 66

/-- FILL bits of the columns a transmission reaches. -/
def CodeRun.fill (r : CodeRun) (b : Nat) : Nat :=
  ((r.positions b).take (r.e b)).foldl (fun m p => setBit m (p / max 1 (r.column b)) true) 0

/-! ## Cycles (R226, R228) -/

/-- Rows used of the parity matrix when the highest column holding a value is `h`. -/
def CodeRun.rows (r : CodeRun) (h : Nat) : Nat :=
  if r.bg = 0 then min 46 (max 4 (h + 3 - 22)) else min 42 (max 4 (h + 3 - 10))

/-- Highest column of a FILL field. -/
def highCol (fill : Nat) : Nat := (bitsSet fill 66).getLastD 0

/-- Cycles of a list-8 polar decode. -/
def polarCycles (n : Nat) : Nat :=
  if n ≤ 32 then 120 else if n ≤ 64 then 180 else if n ≤ 128 then 300 else if n ≤ 256 then 520
  else if n ≤ 512 then 1000 else 1950

/-- Cycles of block `b` that ran `i` iterations on a buffer with FILL `fill`. -/
def CodeRun.blkCycles (r : CodeRun) (b i fill : Nat) : Nat :=
  let k := r.size b
  match r.op with
  | 1 => 68 + i * (if r.bg = 0 then 76 + 8 * (r.rows (highCol fill) - 4) else 48 + 6 * (r.rows (highCol fill) - 4))
  | 2 => 222 + 12 * r.rows (highCol fill)
  | 3 =>
    let n := polarCycles (polarN r.seg.k (r.e b) 10)
    (n * (r.iterMax + 4) + 11) / 12
  | 4 => 40 + polarN r.seg.k (r.e b) 9 / 4
  | 5 => 64 + i * ((k + 47) / 48 + 32)
  | 6 => 32 + (5 * k + 63) / 64
  | 7 => 96 + 6 * r.seg.k
  | _ => 16 + (r.seg.k + 7) / 8

/-! ## Engines -/

/-- State of a coding engine beside its registers. -/
def Chip.codeX (c : Chip) (k : Nat) : CodeX := Tbl.get c.code.eng k {}

/-- Set the job in execution. -/
def Chip.setCode (c : Chip) (k : Nat) (r : Option CodeRun) : Chip :=
  c.withCode { c.code with eng := Tbl.set c.code.eng k { c.codeX k with run := r } {} }

/-- The engine still holds a task. -/
def Chip.codeHolds (c : Chip) (k id : Nat) : Bool :=
  match c.task id with | some t => t.heldBy (0x110 + k) | none => false

/-- The job in execution. -/
def Chip.codeRun (c : Chip) (k : Nat) : Option CodeRun := (c.codeX k).run.filter fun r => c.codeHolds k r.task

/-- The job read ahead (R218). -/
def Chip.codeReady (c : Chip) (k : Nat) : Option CodeRun := (c.codeX k).ready.filter fun r => c.codeHolds k r.task

/-- Coding engines execute jobs (R237, R453). -/
def Chip.codeRuns (c : Chip) (k : Nat) : Bool :=
  c.modeIn modesRun && !c.s5Halt && c.unitState (0x110 + k) != uOut && c.domRuns (c.unitDom (0x110 + k))

/-- A job completes (R234). -/
def Chip.codeFinish (c : Chip) (k id : Nat) (s : Status) : Chip :=
  let c := c.wr F.CODE_ENG_STAT_LAST_STATUS s.code k
  match c.task id with
  | some t => if t.heldBy (0x110 + k) then c.taskDone t s else c
  | none => c

/-- A job that another engine was given earlier names the same entry, or an engine has read it (R233). -/
def Chip.entryBusy (c : Chip) (k : Nat) (r : CodeRun) (ord : Nat) : Bool :=
  (List.range 12).any fun j => j != k &&
    ((match c.codeRun j with | some x => x.harqEn && x.entry == r.entry && x.harq.isSome | none => false)
    || (c.heldTasks (0x110 + j)).any fun t =>
        let w := (c.decodeAt t.arg).data
        let x : CodeRun := { task := t.id, addr := t.arg, w := [w] }
        t.ord < ord && x.harqEn && (x.op == 1 || x.op == 5) && x.entry == r.entry)

/-- CODE_ENG_STAT.STATE as it reads. -/
def Chip.codeState (c : Chip) (k : Nat) : Nat :=
  match c.codeRun k with
  | some r => if r.harqEn && r.harq.isNone && !r.finished then 2 else if r.missed then 3 else 1
  | none =>
    if c.s5Halt then 4 else if c.flag F.CODE_CTRL_FLUSH && !(c.heldTasks (0x110 + k)).isEmpty then 2 else 0

/-- Free slabs. -/
def Chip.freeSlabs (c : Chip) : List Nat :=
  (List.range (c.rd F.CODE_HARQ_CNT_N_SLABS)).filter fun s => !c.code.used.contains s

/-- Take up to `n` free slabs (R232). -/
def Chip.takeSlabs (c : Chip) (n : Nat) : Chip × List Nat :=
  match n with
  | 0 => (c, [])
  | m + 1 =>
    let l := c.freeSlabs
    if l.isEmpty then (c, [])
    else
      let (i, c) := c.fresh
      let s := l.getD (Config.slabPick i % l.length) 0
      let c := c.withCode { c.code with used := c.code.used ++ [s] }
      let (c, r) := c.takeSlabs m
      (c, s :: r)

/-- Free slabs. -/
def Chip.dropSlabs (c : Chip) (l : List Nat) : Chip :=
  c.withCode { c.code with used := c.code.used.filter fun s => !l.contains s }

/-- No slab. -/
abbrev noSlab : Nat := 0xFFFFFFFF

/-- The slabs of an entry by their NEXT links, at most `n` (R230). -/
def Chip.slabChain (c : Chip) (k n s : Nat) : Chip × List Nat :=
  match n with
  | 0 => (c, [])
  | m + 1 =>
    if s = noSlab then (c, [])
    else
      let (c, w) := c.readWord (.coding k) (c.slabAddr s)
      let (c, r) := c.slabChain k m (if w.poison then noSlab else bits w.data 31 0)
      (c, s :: r)

/-- An entry as written (R229). -/
def harqEntry (valid ndi bg turbo blocks first a stamp : Nat) : Nat :=
  valid + ndi * 2 + bg * 4 + turbo * 8 + blocks % 2 ^ 16 * 2 ^ 16 + first % 2 ^ 32 * 2 ^ 32 + a % 2 ^ 21 * 2 ^ 64
    + stamp % tickMod * 2 ^ 96

/-- Soft value of e8: −128 reads as −127 (R222). -/
def soft (v : Nat) : Int := max (-127) (sx 8 v)

/-- What a soft value says of its bit (R222): the bit it favours, 0 for a positive value, none for 0; and how strongly. -/
def favours (v : Int) : Option Bool × Nat := (if v = 0 then none else some (decide (v < 0)), v.natAbs)

/-- Soft values `off` to `off + n` of words with their poison, a poisoned word as zeros; whether some word was poisoned. -/
def softOf (ws : List (Nat × Bool)) (off n : Nat) : List Int × Bool :=
  let vals := (List.range n).map fun i =>
    let d := off + i
    match ws[d / 16]? with
    | some w => if w.2 then 0 else soft (w.1 / 2 ^ (8 * (d % 16)))
    | none => 0
  (vals, n != 0 && ((ws.drop (off / 16)).take ((off + n + 15) / 16 - off / 16)).any (·.2))

/-- The statuses of a list of words read, OK left out. -/
def condOf (ws : List WordRead) : Nat :=
  ws.foldl (fun m (w : WordRead) => if w.status = .ok then m else condAdd m w.status) 0

/-- The `n` soft values of a slab, a poisoned word as zeros; whether some word was poisoned, and the statuses seen. -/
def Chip.readSoft (c : Chip) (k addr n : Nat) : Chip × List Int × Bool × Nat :=
  let (c, ws) := c.readWords (.coding k) addr ((n + 15) / 16)
  let (vals, bad) := softOf (ws.map fun w => (w.data, w.poison)) 0 n
  (c, vals, bad, condOf ws)

/-- Add received values at their positions, saturating to ±127 (R231). -/
def combine (buf : List Int) (pos : List Nat) (vals : List (Nat × Int)) : List Int :=
  vals.foldl (fun b (e : Nat × Int) =>
    let p := pos.getD (e.1 % max 1 pos.length) 0
    b.set p (max (-127) (min 127 (b.getD p 0 + e.2)))) buf

/-- Pack bytes into words. -/
def bytesToWords (l : List Nat) : List Nat :=
  (List.range ((l.length + 15) / 16)).map fun d =>
    (List.range 16).foldl (fun v z => v + l.getD (16 * d + z) 0 % 256 * 2 ^ (8 * z)) 0

/-- Write a slab (R230, R231). -/
def Chip.writeSlab (c : Chip) (k s next idx fill : Nat) (buf : List Int) : Chip × Nat :=
  let head := next % 2 ^ 32 + idx % 2 ^ 8 * 2 ^ 32 + fill % 2 ^ 66 * 2 ^ 40
  let (c, s1) := c.writeWord (.coding k) (c.slabAddr s) head false
  let (c, s2) := c.writeWords (.coding k) (c.slabAddr s + 16) (bytesToWords (buf.map (toBits 8))) false
  (c, (s1.mask ||| s2.mask) / 2 * 2)

/-- A sequence of bytes, first byte highest, as bits first bit highest. -/
def beBytes (n v : Nat) : List Nat := (List.range n).map fun i => v / 2 ^ (8 * (n - 1 - i)) % 256

/-- Write bytes to memory in whole words, or to the host exactly as many as there are (R222, R100); `bad` names the words
that are poisoned. -/
def Chip.codePut (c : Chip) (k addr : Nat) (bytes : List Nat) (bad : Nat → Bool) : Chip × Nat :=
  let ws := bytesToWords bytes
  (List.range ws.length).foldl (fun (s : Chip × Nat) d =>
    let a := addr + 16 * d
    match regionOf a with
    | .host bus =>
      let n := min 16 (bytes.length - 16 * d)
      let c := (s.1.hostPoison bus (bad d)).hostWrite bus (toBytes n (ws.getD d 0))
      (c.withPoison (Tbl.set c.poison (a / 16) (bad d) false), s.2)
    | _ =>
      let (c, st) := s.1.writeWord (.coding k) a (ws.getD d 0) (bad d)
      (c, if st = .ok then s.2 else condAdd s.2 st)) (c, 0)

end Sys2Proof.Machine
end

