-- ==== Sys2Proof/Machine/PlrMem.lean ====
section
/-! DEFINITION. The memory blocks of the programmable logic region and their hard queue controllers
(spec/16_programmable_logic.md R419; log entry 81). -/
namespace Sys2Proof.Machine

/-- What the logic drives on one port at a clock edge: a RAM port accesses a word, and writes or reads it; the write side of a
queue pushes an entry and flushes; the read side pops. -/
structure BlkReq where
  en : Bool
  wr : Bool
  word : Nat
  data : Nat
  poison : Bool
  edge : Bool
  deriving DecidableEq, Repr

/-- A port's request as driven on its wires. -/
def BlkReq.of (v : Nat) : BlkReq :=
  ⟨bit v 0, bit v 1, bits v 10 2 % 288, bits v 139 12, bit v 11, bit v 140⟩

/-- Block `b` of region `r`. -/
def Chip.blk (c : Chip) (r b : Nat) : PlrBlk := Tbl.get c.plr.blocks (128 * r + b) {}

/-- Set block `b` of region `r`. -/
def Chip.setBlk (c : Chip) (r b : Nat) (x : PlrBlk) : Chip :=
  c.withPlr { c.plr with blocks := Tbl.set c.plr.blocks (128 * r + b) x {} }

/-- Entries a word holds, and the queue's depth. -/
def PlrBlk.per (x : PlrBlk) : Nat := 128 / x.width
def PlrBlk.depth (x : PlrBlk) : Nat := 36864 / x.width

/-- Entries written as the read side sees them, entries read as the write side sees them: in DUAL-CLOCK mode the pointers of
four read edges and three write edges ago. -/
def PlrBlk.wrSeen (x : PlrBlk) : Nat := if x.mode = 4 then x.wrSync.getD 3 0 else x.wr
def PlrBlk.rdSeen (x : PlrBlk) : Nat := if x.mode = 4 then x.rdSync.getD 2 0 else x.rd

/-- The FULL flag of the write side and the EMPTY flag of the read side. -/
def PlrBlk.full (x : PlrBlk) : Bool := decide (x.rdSeen + x.depth ≤ x.wr)
def PlrBlk.empty (x : PlrBlk) : Bool := decide (x.wrSeen ≤ x.rd)

/-- Store word `k` with fresh check bits. -/
def PlrBlk.putWord (x : PlrBlk) (k data : Nat) (poison : Bool) : PlrBlk :=
  { x with words := Tbl.set x.words k (secdedEncode data poison) 0 }

/-- The staging word goes to the array as the word of the entry last written. -/
def PlrBlk.unstage (x : PlrBlk) : PlrBlk :=
  { x.putWord ((x.wr - 1) / x.per % 288) x.stage x.stagePoison with stage := 0, stagePoison := false }

/-- An entry collects in the staging word, which is written when it is full (R419). -/
def PlrBlk.stagePut (x : PlrBlk) (data : Nat) (poison : Bool) : PlrBlk :=
  let y := { x with
    stage := x.stage + data % 2 ^ x.width * 2 ^ (x.width * (x.wr % x.per))
    stagePoison := x.stagePoison || poison
    wr := x.wr + 1 }
  if y.wr % y.per = 0 then y.unstage else y

/-- Make room in a RING: its oldest entries are overwritten until `n` fit, and OVERRUN is set. -/
def PlrBlk.overwrite (x : PlrBlk) (n : Nat) : PlrBlk :=
  if x.mode = 3 && decide (x.rd + x.depth < x.wr + n) then { x with rd := x.wr + n - x.depth, overrun := true } else x

/-- The write side pushes an entry; a FIFO that is FULL takes none. -/
def PlrBlk.push (x : PlrBlk) (data : Nat) (poison : Bool) : PlrBlk :=
  let y := x.overwrite 1
  if y.full then y else y.stagePut data poison

/-- FLUSH writes a partial staging word padded with zeros, once the queue has room for the padding. -/
def PlrBlk.flush (x : PlrBlk) : PlrBlk :=
  let pad := if x.wr % x.per = 0 then 0 else x.per - x.wr % x.per
  let y := x.overwrite pad
  if pad = 0 || decide (y.rdSeen + y.depth < y.wr + pad) then y else { y with wr := y.wr + pad }.unstage

/-- The write side at its clock edge. -/
def PlrBlk.writeSide (x : PlrBlk) (a : BlkReq) : PlrBlk :=
  let x := { x with rdSync := (x.rd :: x.rdSync).take 3 }
  let x := if a.en then x.push a.data a.poison else x
  if a.wr then x.flush else x

/-! ## Stored words -/

/-- Device-internal address of a block's word, as buckets, the error log and the repair queues carry it. -/
def blkAddr (b k : Nat) : Nat := (288 * b + k) * 16

/-- Read word `k` of a block: what it delivers; an error is counted in bucket 112 + r and queued (R394–R396). -/
def Chip.blkRead (c : Chip) (r b k : Nat) : Chip × Decoded :=
  let d := secdedDecode (Tbl.get (c.blk r b).words k 0)
  match d.found with
  | .clean => (c, d)
  | s => ((c.countError (112 + r) (blkAddr b k) s).queueRepair (112 + r) (blkAddr b k), d)

/-- The Darner's pair on a block's word (R397). -/
def Chip.blkRewrite (c : Chip) (r b k : Nat) : Chip :=
  let d := secdedDecode (Tbl.get (c.blk r b).words k 0)
  match d.found with
  | .clean => c
  | _ => (c.setBlk r b ((c.blk r b).putWord k d.data d.poison)).incSat F.INTEG_STAT_REPAIRS

/-! ## The ports -/

/-- RAM: port A reads before any write of the cycle. Its write stands over by port B's of the same word; a port B access that
meets port A's write finds BUSY, and its read returns undefined data without poison (R419). -/
def Chip.ramEdge (c : Chip) (r b : Nat) (p q : BlkReq) : Chip :=
  let clash := p.en && p.wr && q.en && p.word == q.word
  let (c, da) := if p.en && !p.wr then c.blkRead r b p.word else (c, ⟨(c.blk r b).outA, (c.blk r b).poisonA, .clean⟩)
  let (c, db) := if q.en && !q.wr then
      (if clash then (c.fresh.2, ⟨(Config.plrRead c.free).toNat, false, .clean⟩) else c.blkRead r b q.word)
    else (c, ⟨(c.blk r b).outB, (c.blk r b).poisonB, .clean⟩)
  let x := c.blk r b
  let x := if p.en && p.wr then x.putWord p.word p.data p.poison else x
  let x := if q.en && q.wr then x.putWord q.word q.data q.poison else x
  c.setBlk r b { x with outA := da.data, poisonA := da.poison, outB := db.data, poisonB := db.poison, busyB := clash }

/-- The read side of a queue pops an entry: from the array, or from the staging word while it is unwritten. -/
def Chip.readSide (c : Chip) (r b : Nat) (q : BlkReq) : Chip :=
  let x := { c.blk r b with wrSync := ((c.blk r b).wr :: (c.blk r b).wrSync).take 4 }
  if !q.en || x.empty then c.setBlk r b x
  else
    let (c, d) := if x.rd / x.per = x.wr / x.per then (c, ⟨x.stage, x.stagePoison, .clean⟩)
      else c.blkRead r b (x.rd / x.per % 288)
    c.setBlk r b { x with
      rd := x.rd + 1
      outB := d.data / 2 ^ (x.width * (x.rd % x.per)) % 2 ^ x.width
      poisonB := d.poison }

/-- A block at one clock edge: RAM, FIFO and RING have one clock, DUAL-CLOCK one for each side. The read side reads what
stood there before the edge. -/
def Chip.blkEdge (c : Chip) (r b : Nat) (p q : BlkReq) : Chip :=
  match (c.blk r b).mode with
  | 0 => c
  | 1 => c.ramEdge r b p q
  | m =>
    let c := c.when (m != 4 || q.edge) (·.readSide r b q)
    c.when (m != 4 || p.edge) fun c => c.setBlk r b ((c.blk r b).writeSide p)

/-- A block for the clock edges of one tick, its ports driven by the region's logic. -/
def Chip.blkTick (c : Chip) (r b : Nat) : Chip :=
  (List.range (Config.plrEdges c.free r).toNat).foldl (fun c _ =>
    let v := (Config.plrDrive c.free r b).toNat
    c.fresh.2.blkEdge r b (.of v) (.of (v / 2 ^ 144))) c

/-! ## Loading and loss -/

/-- Blocks of a region in use. -/
def Chip.blksOf (c : Chip) (r : Nat) : List Nat :=
  (c.plr.blocks.filter fun e => e.1 / 128 == r).map fun e => e.1 % 128

/-- A block as its image's frames leave it (R415, step 3). -/
def PlrBlk.ofImage (x : PlrBlkImg) : PlrBlk :=
  { mode := x.mode, width := x.width
    words := (x.init.zipIdx).foldl (fun t e => Tbl.set t e.2 (secdedEncode e.1 false) 0) [] }

/-- A region's blocks are gone with its configuration. -/
def Chip.dropBlks (c : Chip) (r : Nat) : Chip :=
  let c := c.withPlr { c.plr with blocks := Tbl.eraseIf c.plr.blocks fun k => k / 128 == r }
  c.withInteg { c.integ with repair := Tbl.erase c.integ.repair (112 + r) }

/-- The blocks of an image take their initial contents. -/
def Chip.loadBlks (c : Chip) (r : Nat) (img : PlrImage) : Chip :=
  img.blocks.foldl (fun c x => c.setBlk r x.blk (.ofImage x)) (c.dropBlks r)

/-- The contents of a region's blocks are lost with its domain's supply (R450); the configuration stays. -/
def Chip.loseBlks (c : Chip) (r : Nat) : Chip :=
  (c.blksOf r).foldl (fun c b => c.setBlk r b { mode := (c.blk r b).mode, width := (c.blk r b).width }) c

end Sys2Proof.Machine
end

