-- ==== Sys2Proof/Machine/IntegCmds.lean ====
section
/-! DEFINITION. The Darner, the triplicated words, the leaky buckets and error injection
(spec/15_integrity.md R397–R411). -/
namespace Sys2Proof.Machine

/-- Repair and patrol run in these modes and below stage S1 (R399). -/
def Chip.darnerRuns (c : Chip) : Bool := c.modeIn 0xCE && c.rd F.PWR_SHED_STAGE_STAGE == 0

/-- Rewrite a word with fresh check bits as the locked pair of R397 does: what its read found decides the word. -/
def Chip.rewrite (c : Chip) (a : Nat) : Chip :=
  let d := c.decodeAt a
  match d.found with
  | .clean => c
  | _ =>
    let c := c.wrBytes a (toBytes 16 d.data)
    ((c.withPoison (Tbl.set c.poison (a / 16) d.poison false)).withUpset (Tbl.set c.upset (a / 16) 0 0)).incSat
      F.INTEG_STAT_REPAIRS

/-- Repair the oldest queued address of an instance (R397). -/
def Chip.darnerRepair (c : Chip) (b : Nat) : Chip :=
  if !c.darnerRuns || !c.flag F.INTEG_CTRL_REPAIR_EN then c
  else
    match Tbl.get c.integ.repair b [] with
    | [] => c
    | a :: r =>
      let c := c.withInteg { c.integ with repair := Tbl.set c.integ.repair b r [] }
      if 112 ≤ b && b < 120 then c.blkRewrite (b - 112) (a / 4608) (a / 16 % 288) else c.rewrite a

/-- DARNER_REPAIR. -/
def execDarnerRepair (b : Fin 128) (s : State) : Host.Outcome State Fault Refusal := s.run fun c => c.darnerRepair b

/-- Words of memory space: cluster memories, Press memories, pool, always-on, HBM. -/
def patrolMem : Nat := 16 * 0x40000 + 8 * 0x80000 + 0x800000 + 0x1000 + 0xC0000000

/-- Words the patrol visits in a pass: memory space, then the instruction stores and the PLR memory blocks, which have no
address. -/
def patrolWords : Nat := patrolMem + 16 * 0x4000 + 8 * 128 * 288

/-- Address of the word at a patrol position, in ascending address order (log entry 22). -/
def patrolAddr (n : Nat) : Nat :=
  if n < 0x400000 then 0x100000000 + n / 0x40000 * 0x1000000 + n % 0x40000 * 16
  else if n < 0x800000 then 0x200000000 + (n - 0x400000) / 0x80000 * 0x1000000 + (n - 0x400000) % 0x80000 * 16
  else if n < 0x1000000 then 0x300000000 + (n - 0x800000) * 16
  else if n < 0x1001000 then 0x3F0000000 + (n - 0x1000000) * 16
  else 0x4000000000 + (n - 0x1001000) * 16

/-- The patrol may read the word: its domain is ON (R398). -/
def Chip.patrolReads (c : Chip) (a : Nat) : Bool :=
  match c.memDomain a with
  | some d => c.domState d == dOn
  | none => true

/-- The patrol reads a word of memory space. -/
def Chip.patrolAt (c : Chip) (a : Nat) : Chip :=
  c.when (c.patrolReads a) fun c => (c.countError (c.memBucket a) a (c.decodeAt a).found).rewrite a

/-- The patrol reads group `k` of the instruction stores, by 16,384·c + group; one rewritten poisoned keeps its data bits. -/
def Chip.patrolStore (c : Chip) (k : Nat) : Chip :=
  let d := secdedDecode (secdedEncode (Tbl.get c.clu.istore k 0) false ^^^ Tbl.get c.clu.istUpset k 0)
  c.when (c.domState (k / 0x4000) == dOn && d.found != .clean) fun c =>
    let c := c.countError (32 + k / 0x4000) (k % 0x4000) d.found
    (c.withClu { c.clu with
      istore := Tbl.set c.clu.istore k d.data 0
      istUpset := Tbl.set c.clu.istUpset k (secdedEncode 0 d.poison) 0 }).incSat F.INTEG_STAT_REPAIRS

/-- The patrol reads a word of the PLR memory blocks, region by region. -/
def Chip.patrolBlk (c : Chip) (n : Nat) : Chip :=
  let r := n / 36864
  let b := n / 288 % 128
  c.when (c.domState (53 + r) == dOn) fun c =>
    (c.countError (112 + r) (blkAddr b (n % 288)) (secdedDecode (Tbl.get (c.blk r b).words (n % 288) 0)).found).blkRewrite r b
      (n % 288)

/-- The patrol reads the word at a position of its pass (log entry 22). -/
def Chip.patrolVisit (c : Chip) (n : Nat) : Chip :=
  if n < patrolMem then c.patrolAt (patrolAddr n)
  else if n < patrolMem + 16 * 0x4000 then c.patrolStore (n - patrolMem)
  else c.patrolBlk (n - patrolMem - 16 * 0x4000)

/-- The patrol visits its next word (R398). -/
def Chip.patrolRead (c : Chip) : Chip :=
  if !c.darnerRuns || !c.flag F.INTEG_CTRL_DARNER_EN || c.integ.patrolWait then c
  else
    let c := c.patrolVisit c.integ.patrolPos
    if c.integ.patrolPos + 1 < patrolWords then
      c.withInteg { c.integ with patrolPos := c.integ.patrolPos + 1 }
    else
      let lag := c.flag F.INTEG_DARNER_STAT_LAG
      let c := (c.incMod F.INTEG_DARNER_STAT_PASSES).wr F.INTEG_DARNER_STAT_LAG 0
      c.withInteg { c.integ with patrolPos := 0, patrolWait := !lag }

/-- PATROL_READ. -/
def execPatrolRead (s : State) : Host.Outcome State Fault Refusal := s.run Chip.patrolRead

/-- A patrol period begins (R398): a waiting patrol starts its pass, an unfinished one lags. -/
def Chip.patrolPeriod (c : Chip) : Chip :=
  if c.integ.patrolWait then c.withInteg { c.integ with patrolWait := false }
  else c.wr F.INTEG_DARNER_STAT_LAG 1

/-- PATROL_PERIOD_START. -/
def execPatrolPeriodStart (s : State) : Host.Outcome State Fault Refusal := s.run Chip.patrolPeriod

/-- A minority copy of a triplicated word is rewritten and counted once (R401). -/
def Chip.tmrFix (c : Chip) (w : Nat) : Chip :=
  let c := (c.incSat F.INTEG_TMR_FIX_FIXES).wr F.INTEG_TMR_FIX_LAST_WORD w
  ((c.wr F.INTEG_TMR_FIX_SEEN 1).bucketAdd 120 1 5 0).incSat F.INTEG_BUCKET_STAT_CE 120

/-- TMR_CHECK: all 96 words are voted; `upset` names those in which one copy differed. It runs in every mode except
BYPASS (R401). -/
def execTmrCheck (upset : List (Fin 96)) (s : State) : Host.Outcome State Fault Refusal :=
  s.run fun c => if c.mode = mBypass then c else upset.foldl (fun (c : Chip) (w : Fin 96) => c.tmrFix w.val) c

/-- One bucket in one always-on millisecond: leak, add, overflow (R404, R405); the residue bucket of a Press sets its
SUSPECT (R205). -/
def Chip.bucketStep (c : Chip) (b : Nat) : Chip :=
  let x := Tbl.get c.integ.adds b {}
  let l0 := c.rd F.INTEG_BUCKET_STAT_LEVEL b
  let p := max 1 (c.rd F.INTEG_BUCKET_CFG_LEAK_MS b)
  let l1 := if c.integ.ms % p = 0 then l0 - 1 else l0
  let l2 := min 255 (l1 + x.weight)
  if c.rd F.INTEG_BUCKET_CFG_THRESHOLD b < l2 then
    let c := (c.wr F.INTEG_BUCKET_STAT_LEVEL 0 b).incSat F.INTEG_BUCKET_STAT_OVF b
    let c := if 57 ≤ b && b ≤ 65 then (match c.pressLogical (b - 57) with
      | some n => c.wr F.AE_STAT_SUSPECT 1 n
      | none => c) else c
    let addr := if (57 ≤ b && b ≤ 65) || b = 120 then 0 else x.addr
    c.post .ok srcInteg evBucket (b + x.kind * 2 ^ 8 + addr % 2 ^ 48 * 2 ^ 16)
      (c.rd F.INTEG_BUCKET_STAT_CE b + c.rd F.INTEG_BUCKET_STAT_UE b * 2 ^ 32)
  else c.wr F.INTEG_BUCKET_STAT_LEVEL l2 b

/-- BUCKET_UPDATE. -/
def execBucketUpdate (s : State) : Host.Outcome State Fault Refusal :=
  s.run fun c =>
    let c := c.withInteg { c.integ with ms := c.integ.ms + 1 }
    let c := (List.range 128).foldl Chip.bucketStep c
    c.withInteg { c.integ with adds := [] }

/-- A write to INTEG_INJECT (R411). -/
def Chip.injectArm (c : Chip) (p : Port) (v : Nat) : Chip :=
  c.guarded p modesAll fun c =>
    let kind := bits v 1 0
    let a := bits v 55 48
    let b := bits v 63 56
    let addr := bits v 47 4
    let bad := kind = 3 || (kind ≠ 0 && (137 < a || !onDevice (addr * 16)))
      || (kind = 2 && (137 < b || a = b))
    if bad then c.report p .badDescriptor
    else ((((c.wr F.INTEG_INJECT_KIND kind).wr F.INTEG_INJECT_BIT_A a).wr F.INTEG_INJECT_BIT_B b).wr
      F.INTEG_INJECT_ADDR addr).report p .ok

/-- INTEG_INJECT_ARM. -/
def execIntegInjectArm (p : Port) (v : Nat) (s : State) : Host.Outcome State Fault Refusal :=
  s.run fun c => c.injectArm p v

/-- Clear every bucket level and counter, INTEG_STAT and FIXES (R404). -/
def Chip.integClear (c : Chip) : Chip :=
  let c := (List.range 128).foldl (fun c b => c.clrFields [F.INTEG_BUCKET_STAT_CE, F.INTEG_BUCKET_STAT_UE,
    F.INTEG_BUCKET_STAT_OVF, F.INTEG_BUCKET_STAT_LEVEL] b) c
  c.clrFields [F.INTEG_STAT_REPAIRS, F.INTEG_STAT_REPAIR_DROP, F.INTEG_STAT_UE_TOTAL, F.INTEG_STAT_CE_TOTAL,
    F.INTEG_TMR_FIX_FIXES]

/-- INTEG_CNT_CLR. -/
def execIntegCntClr (p : Port) (s : State) : Host.Outcome State Fault Refusal :=
  s.run fun c => c.action p modesAll Chip.integClear

end Sys2Proof.Machine
end

