-- ==== Sys2Proof/Machine/SchedCmds.lean ====
section
/-! DEFINITION. The commands of the scheduler (spec/12_scheduler.md R324–R356), but for the Clothesline's WRITE32 and
device entries and the end of a unit's drain, which reach other blocks and are in Machine/AccessCmds.lean. -/
namespace Sys2Proof.Machine

/-! ## Acceptance -/

/-- TASK_ACCEPT: a descriptor at an address is read and accepted or discarded (R326), where intake is open (R349) and an
entry is free. -/
def execTaskAccept (addr : Nat) (s : State) : Host.Outcome State Fault Refusal :=
  s.stage fun c => if c.modeIn modesRun && 0 < c.freeEntries then (c.acceptAt (addr / 32 * 32 % 2 ^ 48)).1 else c

/-- Producer and consumer counts of a submission ring. -/
def Chip.sq (c : Chip) (n : Nat) : Nat × Nat := Tbl.get c.sched.sqs n (0, 0)

/-- Set the counts of a submission ring. -/
def Chip.setSq (c : Chip) (n : Nat) (p : Nat × Nat) : Chip :=
  c.withSched { c.sched with sqs := Tbl.set c.sched.sqs n p (0, 0) }

/-- A submission-ring doorbell (R331, R82). -/
def Chip.sqDoorbell (c : Chip) (n count : Nat) : Chip :=
  let p := c.sq n
  if !c.flag F.SCHED_SQ_CFG_EN n || c.flag F.SCHED_SQ_PTR_HALTED n then c
  else if cntSub count p.2 ≤ 2 ^ c.rd F.SCHED_SQ_CFG_LOG2 n && cntSub count p.1 < 2 ^ 31 then c.setSq n (count, p.2)
  else c.wr F.SCHED_SQ_PTR_HALTED 1 n

/-- SQ_DOORBELL. -/
def execSqDoorbell (by_ : Port) (n : Fin 288) (value : Nat) (s : State) : Host.Outcome State Fault Refusal :=
  s.run fun c => c.action by_ modesAll (·.sqDoorbell n (value % 2 ^ 32))

/-- A SCHED_SQ_CFG write (R331). -/
def Chip.sqCfg (c : Chip) (n v : Nat) : Chip × Status :=
  let en := F.SCHED_SQ_CFG_EN.of v
  let log := F.SCHED_SQ_CFG_LOG2.of v
  let base := F.SCHED_SQ_CFG_BASE.of v
  if c.flag F.SCHED_SQ_CFG_EN n then
    let same := log == c.rd F.SCHED_SQ_CFG_LOG2 n && base == c.rd F.SCHED_SQ_CFG_BASE n
    let c := if en = 0 then ((c.wr F.SCHED_SQ_CFG_EN 0 n).wr F.SCHED_SQ_PTR_HALTED 0 n).setSq n (0, 0) else c
    (c, if same then .ok else .accessDenied)
  else if en = 1 && (log < 4 || 12 < log) then (c, .badDescriptor)
  else (((c.wr F.SCHED_SQ_CFG_BASE base n).wr F.SCHED_SQ_CFG_LOG2 log n).wr F.SCHED_SQ_CFG_EN en n, .ok)

/-- SQ_CFG_WRITE. -/
def execSqCfgWrite (by_ : Port) (n : Fin 288) (value : Nat) (s : State) : Host.Outcome State Fault Refusal :=
  s.run fun c => c.guarded by_ modesAll fun c =>
    let (c, st) := c.sqCfg n value
    c.report by_ st

/-- Read the next descriptor of a submission ring (R331): only above RESERVE, and only when the flow it names has room;
one whose first word is poisoned or whose flow is not enabled is discarded, whatever the flow's room. -/
def Chip.sqRead (c : Chip) (n : Nat) : Chip :=
  let p := c.sq n
  if !c.modeIn modesRun || !c.flag F.SCHED_SQ_CFG_EN n || c.flag F.SCHED_SQ_PTR_HALTED n || p.1 = p.2
      || c.freeEntries ≤ min 8192 (c.rd F.SCHED_CFG_RESERVE) then c
  else
    let a := c.rd F.SCHED_SQ_CFG_BASE n * 32 + p.2 % 2 ^ c.rd F.SCHED_SQ_CFG_LOG2 n * 32
    let (_, w) := c.readWord .fabric a
    let flow := bits w.data 35 24
    if !w.poison && w.status == .ok && c.flag F.SCHED_FLOW_CFG_EN flow && c.maxOut flow ≤ c.rd F.SCHED_FLOW_STAT_OUT flow then c
    else ((c.acceptAt a).1).setSq n (p.1, (p.2 + 1) % 2 ^ 32)

/-- SQ_DESCRIPTOR_READ. -/
def execSqDescriptorRead (n : Fin 288) (s : State) : Host.Outcome State Fault Refusal := s.stage fun c => c.sqRead n

/-! ## Dispatch, completion, release -/

/-- DISPATCH. -/
def execDispatch (s : State) : Host.Outcome State Fault Refusal := s.run Chip.dispatch

/-- TASK_COMPLETE: the `k`-th running task of a unit, in dispatch order, completes with a status (R339). -/
def execTaskComplete (u : Fin 320) (k : Fin 4) (st : Fin 16) (s : State) : Host.Outcome State Fault Refusal :=
  s.run fun c =>
    match (c.runningTasks u)[k.val]? with
    | some t => c.taskDone t (.ofCode st)
    | none => c

/-- FOLD_RELEASE. -/
def execFoldRelease (flow : Fin 4096) (s : State) : Host.Outcome State Fault Refusal := s.stage fun c => c.foldRelease flow

/-- A deadline passes (R336): a ready or waiting task becomes a tombstone; a dispatched one is signalled to its unit, an
engine's current task by IRQ_PEND.DEADLINE, a PLR task port's by its DEADLINE line. -/
def Chip.deadlineTask (c : Chip) (t : Task) : Chip :=
  match t.state with
  | .held u _ =>
    let c := c.putTask { t with late := true }
    let c := c.when (u < 256 && t.ran) (·.engIrq u 2)
    c.when (0x120 ≤ u) (·.portDl (u - 0x120))
  | .done => c
  | _ => c.tombstone t .deadlineMissed

/-- TASK_DEADLINE_PASSED: the first task, in acceptance order, whose deadline has passed and that has not been acted
on. -/
def execTaskDeadlinePassed (s : State) : Host.Outcome State Fault Refusal :=
  s.run fun c =>
    match c.sched.tasks.find? fun t => t.state != .done && !t.late && c.deadlinePassed t.deadline with
    | some t => c.deadlineTask t
    | none => c

/-- The hang limit of a task has passed (R336). -/
def Chip.hung (c : Chip) (t : Task) : Bool :=
  match t.deadline, t.state with
  | some d, .held _ _ => !tickLater (tickAdd d (usTicks (max 1 (c.rd F.SCHED_CFG_HANG)))) c.tick
  | _, _ => false

/-- TASK_HANG: the unit of the first hung task leaves service with cause HANG. -/
def execTaskHang (s : State) : Host.Outcome State Fault Refusal :=
  s.run fun c =>
    match c.sched.tasks.find? c.hung with
    | some t => c.unitDepart t.unit 4 .ok
    | none => c

/-- REL_RD_WRITE (R342). -/
def execRelRdWrite (by_ : Port) (flow : Fin 4096) (value : Nat) (s : State) : Host.Outcome State Fault Refusal :=
  s.run fun c => c.action by_ modesAll (·.wr F.SCHED_FLOW_PTR_REL_RD (value % 2 ^ 32) flow)

/-! ## Bundles -/

/-- Modes in which SCHED_BUNDLE_LOAD is written. -/
abbrev modesBundle : Nat := 0xBE

/-- BUNDLE_LOAD (R338). -/
def execBundleLoad (by_ : Port) (index : Fin 1024) (addr : Nat) (s : State) : Host.Outcome State Fault Refusal :=
  s.run fun c => c.guarded by_ modesBundle fun c =>
    if c.flag F.SCHED_BUNDLE_STAT_BUSY then c.report by_ .accessDenied
    else
      ((c.withSched { c.sched with loading := some (1, index, addr / 64 * 64 % 2 ^ 48) }).wr
        F.SCHED_BUNDLE_STAT_BUSY 1).report by_ .ok

/-- Members of a bundle descriptor. -/
def bundleMembers (n w1 w2 w3 : Nat) : List (Nat × Nat) :=
  (List.range n).map fun m =>
    let w := if m < 8 then w1 else if m < 16 then w2 else w3
    (bits w (16 * (m % 8) + 10) (16 * (m % 8)), bits w (16 * (m % 8) + 15) (16 * (m % 8) + 12))

/-- The 24 member fields of a descriptor. -/
def bundleFields (w1 w2 w3 : Nat) : List Nat :=
  (List.range 24).map fun m =>
    bits (if m < 8 then w1 else if m < 16 then w2 else w3) (16 * (m % 8) + 15) (16 * (m % 8))

/-- A target reaches bundle `idx` through loaded bundles. -/
def Chip.reaches (c : Chip) (idx fuel u : Nat) : Bool :=
  match fuel with
  | 0 => false
  | n + 1 =>
    isBundle u && (u - 0x200 == idx || (match c.bundle u with
      | some b => b.members.any fun m => c.reaches idx n m.1
      | none => false))

/-- A descriptor that R337, R338 and R28 allow, as the bundle it loads. -/
def Chip.bundleOf (c : Chip) (idx w0 w1 w2 w3 : Nat) : Option Bundle :=
  let n := bits w0 12 8
  let ms := bundleMembers n w1 w2 w3
  let fs := bundleFields w1 w2 w3
  if bits w0 3 0 ≠ 1 || bits w0 7 6 ≠ 0 || bits w0 127 13 ≠ 0 || n = 0 || 24 < n
      || (fs.take n).any (fun f => bit f 11) || (fs.drop n).any (· != 0)
      || ms.any (fun m => !c.validTarget m.1) || ms.any (fun m => c.reaches idx c.depth m.1) then none
  else some ⟨bits w0 5 4, ms, n - 1, ms.map memberWeight⟩

/-- Put a bundle into the loaded set. -/
def Chip.putBundle (c : Chip) (idx : Nat) (b : Bundle) : Chip :=
  c.withSched { c.sched with bundles := Tbl.insert (Tbl.erase c.sched.bundles idx) idx b }

/-- The load in progress ends with a status. -/
def Chip.bundleEnd (c : Chip) (s : Status) : Chip :=
  ((c.withSched { c.sched with loading := none }).wr F.SCHED_BUNDLE_STAT_BUSY 0).wr
    F.SCHED_BUNDLE_STAT_LAST_STATUS s.code

/-- BUNDLE_LOAD_COMPLETE (R338, R407): poisoned words fail the load with POISONED. -/
def execBundleLoadComplete (s : State) : Host.Outcome State Fault Refusal :=
  s.stage fun c =>
    match c.sched.loading with
    | none => c
    | some (_, idx, addr) =>
      let (c, ws) := c.readWords .fabric addr 4
      if ws.any fun w => w.poison || w.status != .ok then (c.postPoison 0x7FF srcSched 10 addr).bundleEnd .poisoned
      else
        let d := fun k => (ws.getD k ⟨0, false, .ok⟩).data
        match c.bundleOf idx (d 0) (d 1) (d 2) (d 3) with
        | some b => (c.putBundle idx b).bundleEnd .ok
        | none => c.bundleEnd .badDescriptor

/-- Unload a bundle (R338): its ready and waiting tasks become tombstones. -/
def Chip.bundleUnload (c : Chip) (idx : Nat) : Chip × Status :=
  let u := 0x200 + idx
  if (c.bundle u).isNone then (c, .ok)
  else if c.sched.bundles.any fun e => e.1 != idx && e.2.members.any (·.1 == u) then (c, .badDescriptor)
  else
    let c := c.withSched { c.sched with bundles := Tbl.erase c.sched.bundles idx }
    let dead := c.sched.tasks.filter fun t => t.target == u && (t.state == .ready || t.state == .waiting)
    (dead.foldl (fun c t => c.tombstone t .badDescriptor) c, .ok)

/-- BUNDLE_UNLOAD. -/
def execBundleUnload (by_ : Port) (index : Fin 1024) (s : State) : Host.Outcome State Fault Refusal :=
  s.run fun c => c.guarded by_ modesBundle fun c =>
    if c.flag F.SCHED_BUNDLE_STAT_BUSY then c.report by_ .accessDenied
    else
      let (c, st) := c.bundleUnload index
      (c.wr F.SCHED_BUNDLE_STAT_LAST_STATUS st.code).report by_ .ok

/-! ## The Clothesline -/

/-- Modes in which the Clothesline takes inserts (R349). -/
abbrev modesCl : Nat := 0xFC

/-- Free Clothesline entries of all 65,536. -/
def Chip.clFree (c : Chip) : Nat := 65536 - c.sched.cl.length

/-- CL_SUBMIT (R346). -/
def execClSubmit (by_ : Port) (value : Nat) (s : State) : Host.Outcome State Fault Refusal :=
  s.run fun c => c.action by_ modesCl fun c =>
    if 64 ≤ c.sched.batches.length then c.incSat F.SCHED_CL_CNT_BATCH_DROP
    else
      c.withSched { c.sched with
        batches := c.sched.batches ++ [(F.SCHED_CL_SUBMIT_ADDR.of value * 16, F.SCHED_CL_SUBMIT_COUNT_M1.of value + 1)] }

/-- An entry word that R345 and R346 allow. -/
def clEntryOk (w : Nat) : Bool :=
  bits w 63 42 == 0 && bits w 41 36 ≤ 47 &&
    (match bits w 35 32 with
     | 0 => bits w 127 112 == 0 && bits w 111 64 % 32 == 0
     | 1 => bits w 127 112 == 0 && bits w 111 72 == 0
     | 2 => bits w 127 124 == 0 && bits w 91 64 % 4 == 0
     | _ => false)

/-- An entry is late (R346). -/
def Chip.clLate (c : Chip) (tick : Nat) : Bool :=
  let d := cntSub tick c.tick
  d == 0 || 2 ^ 32 - 2 ^ 20 ≤ d

/-- Modes in which TASK entries are held until SERVICE (R349). -/
def Chip.clHolds (c : Chip) : Bool := c.mode == mVerify || c.mode == mSoak

/-- Insert a read entry (R346). -/
def Chip.clInsert (c : Chip) (w : WordRead) (addr : Nat) : Chip :=
  if w.poison || w.status != .ok then (c.postPoison 0x7FF srcSched 10 addr).incSat F.SCHED_CL_CNT_BAD
  else if !clEntryOk w.data then c.incSat F.SCHED_CL_CNT_BAD
  else if c.clFree ≤ 8192 then c.incSat F.SCHED_CL_CNT_FULL_DROP
  else
    let late := c.clLate (bits w.data 31 0)
    let c := c.when late (·.incSat F.SCHED_CL_CNT_LATE)
    c.withSched { c.sched with
      cl := c.sched.cl ++ [⟨bits w.data 41 36, bits w.data 31 0, bits w.data 35 32, bits w.data 127 64, false, late, false⟩] }

/-- CL_ENTRY_INSERT: the next entry of the oldest batch. -/
def execClEntryInsert (s : State) : Host.Outcome State Fault Refusal :=
  s.stage fun c =>
    match c.sched.batches with
    | [] => c
    | (addr, n) :: r =>
      let (c, w) := c.readWord .fabric addr
      let c := c.withSched { c.sched with batches := if n ≤ 1 then r else (addr + 16, n - 1) :: r }
      c.clInsert w addr

/-- CL_CANCEL (R348). -/
def execClCancel (by_ : Port) (value : Nat) (s : State) : Host.Outcome State Fault Refusal :=
  s.run fun c => c.action by_ modesCl fun c =>
    c.withSched { c.sched with
      cl := c.sched.cl.filter fun e => !(e.list < 48 && bit value e.list && !e.due) }

/-- A due entry is held back: a TASK entry outside the modes that accept tasks (R349) or without a free task entry, which
also blocks its list (R343). -/
def Chip.clBlocked (c : Chip) (e : ClEntry) : Bool := e.kind == 0 && e.list < 48 && (c.clHolds || c.freeEntries == 0)

/-- Entry `a` fires before entry `b`: earlier tick, then lower list; the list of entries keeps insertion order. -/
def ClEntry.before (a b : ClEntry) : Bool :=
  if a.tick = b.tick then a.list < b.list else 0 < tickDiff b.tick a.tick

/-- The due entry that fires next (R347), of at most 32 in a tick. -/
def Chip.clNext (c : Chip) : Option ClEntry :=
  if 32 ≤ c.sched.clFired then none
  else
    let stuck := if c.freeEntries = 0 then (c.sched.cl.filter fun e => e.due && e.kind == 0 && e.list < 48).map (·.list)
      else []
    (c.sched.cl.filter fun e => e.due && !c.clBlocked e && !stuck.contains e.list).foldl
      (fun best e => match best with | none => some e | some b => if e.before b then some e else best) none

/-- Take an entry that fires out of its list; one held until SERVICE is counted late (R349). -/
def Chip.clTake (c : Chip) (e : ClEntry) : Chip :=
  let c := c.withSched { c.sched with cl := c.sched.cl.erase e, clFired := c.sched.clFired + 1 }
  c.when e.held (·.incSat F.SCHED_CL_CNT_LATE)

/-- CL_FIRE_TASK: nothing where the next due entry is of another kind. While its descriptor's memory wakes, the entry stays
the next to fire (R38; log entry 26). -/
def execClFireTask (s : State) : Host.Outcome State Fault Refusal :=
  s.stage fun c =>
    match c.clNext with
    | some e => if e.list < 48 && e.kind = 0 then ((c.clTake e).acceptAt (e.arg % 2 ^ 48)).1 else c
    | none => c

/-- CL_FIRE_POWER. -/
def execClFirePower (s : State) : Host.Outcome State Fault Refusal :=
  s.run fun c =>
    match c.clNext with
    | some e =>
      if e.list < 48 && e.kind = 1 then ((c.clTake e).domReq (bits e.arg 5 0) (bits e.arg 7 6) false).1 else c
    | none => c

/-- The tick advances by one: entries whose tick is reached become due, those left over from earlier ticks are counted
in SLIP, and the count of entries fired starts afresh (R347). -/
def Chip.clTick (c : Chip) : Chip :=
  let slip := (c.sched.cl.filter fun e => e.due && !e.slipped && !c.clBlocked e).length
  let hold := c.clHolds
  (c.incSat F.SCHED_CL_CNT_SLIP 0 0 slip).withSched { c.sched with
      clFired := 0
      cl := c.sched.cl.map fun e =>
        if e.due then (if c.clBlocked e then e else { e with slipped := true })
        else if e.tick = c.tick % tickMod then { e with due := true, held := hold && e.kind == 0 && e.list < 48 }
        else e }

/-! ## Units -/

/-- A SCHED_READMIT write (R352, R354): a value that names no unit is refused. -/
def Chip.readmitWrite (c : Chip) (p : Port) (u op : Nat) : Chip :=
  c.guarded p modesAll fun c =>
    if isUnit u then (c.unitRequest u op).report p .ok
    else (c.schedReject .badDescriptor).report p .badDescriptor

/-- SCHED_LEAVE. -/
def execSchedLeave (by_ : Port) (u : Fin 2048) (s : State) : Host.Outcome State Fault Refusal :=
  s.run fun c => c.readmitWrite by_ u 1

/-- SCHED_READMIT. -/
def execSchedReadmit (by_ : Port) (u : Fin 2048) (s : State) : Host.Outcome State Fault Refusal :=
  s.run fun c => c.readmitWrite by_ u 2

/-- SCHED_SUBST. -/
def execSchedSubst (by_ : Port) (u : Fin 2048) (s : State) : Host.Outcome State Fault Refusal :=
  s.run fun c => c.readmitWrite by_ u 3

/-- A self-test of a unit's spare ends (R354): on a pass an engine goes on to admission as physical engine 16, a Press
waits for the copy of its local memory (R210); on a fail the spare stays retired and the unit OUT. -/
def Chip.selftestDone (c : Chip) (u : Nat) (pass : Bool) : Chip :=
  if c.unitState u ≠ uTesting then c
  else if pass then
    let c := c.wr F.SCHED_UNIT_STAT_SPARE_FAIL 0 u
    if u < 256 then (c.wr F.CLU_ENG_STAT_PHYS 16 (eC u) (eJ u)).wr F.SCHED_UNIT_STAT_STATE uAdmitting u
    else c.withSched { c.sched with tested := c.sched.tested ++ [u] }
  else
    let held := c.sched.pend.any fun e => e.1 == u && e.2.op == 1
    let c := ((c.wr F.SCHED_UNIT_STAT_SPARE_FAIL 1 u).wr F.SCHED_UNIT_STAT_STATE uOut u).unitStatus u .targetIsolated
    if held then (c.unitUnhold u).unitStatus u .ok else c

/-- SPARE_SELFTEST_DONE. -/
def execSpareSelftestDone (u : Fin 320) (pass : Bool) (s : State) : Host.Outcome State Fault Refusal :=
  s.run fun c =>
    let k := if u.val < 256 then u.val / 16 else 16
    if c.unitState u != uTesting && c.dev.spareTests.contains k then
      let c := c.withDev { c.dev with spareTests := c.dev.spareTests.filter (· != k) }
      if pass then c else c.takeSpare u
    else c.selftestDone u pass

/-- UNIT_ADMIT_COMPLETE (R354, R355): a domain that is still waking delays it. -/
def execUnitAdmitComplete (u : Fin 320) (s : State) : Host.Outcome State Fault Refusal :=
  s.run fun c =>
    if c.unitState u = uAdmitting && c.domState (c.unitDom u) = dOn then c.unitAdmit u else c

end Sys2Proof.Machine
end

