-- ==== Sys2Proof/Machine/Live.lean ====
section
/-! DEFINITION. Register fields that show the present state of a block and are not stored: what each of them reads as. -/
namespace Sys2Proof.Machine

/-! ## HBM (R389–R391) -/

/-- MEM_HBM_STAT.STATE of a stack: 0 OFF, 1 self-refresh, 2 FILL, 3 ON. -/
def Chip.hbmState (c : Chip) (s : Nat) : Nat :=
  let d := c.domState (47 + s)
  if d = dOff then 0 else if d = dRetain then 1 else if c.mems.filling.contains s then 2 else 3

/-- FILL_PCT: by the time since the fill began; 100 once the stack has been filled. -/
def Chip.hbmPct (c : Chip) (s : Nat) : Nat :=
  if c.mems.filling.contains s then min 99 (roundDiv (cntSub c.tick (Tbl.get c.mems.fillTick s 0) * 100 : Nat) fillTicks).toNat
  else if c.mems.unfilled.contains s then 0 else 100

/-! ## Power (R458) -/

/-- The modelled VDD_CORE current in 0.1 A units: the wake steps of the domains that are ON and the activity current that
the units report, which the spec does not state. -/
def Chip.iEst (c : Chip) : Nat :=
  (halfUp (((List.range 64).filter fun d => c.domState d == dOn).foldl (fun n d => n + 5 * c.rd F.PWR_DOM_CFG_STEP d) 0 : Nat)).toNat
    + (Config.activityCurrent c.tick).toNat

/-! ## Time (R443) -/

/-- TE_EST in ns: saturated in FREERUN, the servo offset, in HOLDOVER the offset at entry and the drift bound. -/
def Chip.teEst (c : Chip) : Int :=
  match c.rd F.TIME_STAT_STATE with
  | 0 => 0x7FFFFFFF
  | 3 => satS 32 (c.time.holdBase + roundDiv ((c.rd F.TIME_CTRL_HOLD_PPB * c.time.holdTicks : Nat) : Int) 30720000)
  | _ => satS 32 c.time.offset

/-! ## Sensors -/

/-- A sensor counts in the thermal rules: it has been converted and is not FAILED; 64 and 65 are the HBM stacks, left out
while their supply is off (R53, R511). -/
def Chip.sensorUsed (c : Chip) (n : Nat) : Bool :=
  c.sens.seen.contains n && !c.sens.failed.contains n && (n < 64 || c.domState (47 + (n - 64)) != dOff)

/-- A sensor's reading in eighths of a degree, as the thermal rules take it: a stack's plus 10 °C. -/
def Chip.sensorTemp (c : Chip) (n : Nat) : Int :=
  if n < 64 then sx 16 (c.rd F.SENS_TEMP_TEMP n) else sx 16 (Tbl.get c.sens.hbm (n - 64) 0) + 80

/-- BASE in mV: the trimmed target at the hottest junction temperature, which fuses limit to 0.80 V (R520). -/
def Chip.avsBase (c : Chip) : Nat := min 800 (Config.avsBase (sx 16 (c.rd F.SENS_STAT_MAX_TEMP))).toNat

/-- The VDD_CORE target of R520 in 0.01 mV: BASE and 3 mV for each percent of SLOW. -/
def Chip.avsGoal (c : Chip) : Nat := 100 * c.avsBase + 3 * c.rd F.SENS_AVS_SLOW

/-! ## Every live field -/

/-- DARNER_STAT.STATE (R398, R399). -/
def Chip.darnerState (c : Chip) : Nat :=
  if !c.flag F.INTEG_CTRL_DARNER_EN then 0 else if !c.darnerRuns then 2 else if c.integ.patrolWait then 3 else 1

/-- Value of a field that is not stored; none for one that is. -/
def Chip.liveFld (c : Chip) (f : Fld) (i _j : Nat) : Option Nat :=
  if f.acc != .ro then none
  else if f.id = F.HIF_FN_STAT_ANY_HALTED.id then some (b2n ((List.range 17).any fun r => c.flag F.RING_STAT_HALTED i r))
  else if f.id = F.ECV_RING_STAT_JD_ACTIVE.id then some (b2n (16 ≤ i && c.jdOn i))
  else if f.id = F.ECV_RING_STAT_FWD.id then some (b2n (16 ≤ i && !c.jdRuns))
  else if f.id = F.AE_STAT_PHYS.id then some (c.pressPhys i)
  else if f.id = F.AE_STAT_QDEPTH.id then some (c.heldTasks (0x100 + i)).length
  else if f.id = F.AE_STAT_STATE.id then some (c.aeState i)
  else if f.id = F.BRn_STAT_STATE.id then some (c.brState i)
  else if f.id = F.CODE_HARQ_STAT_FLUSHING.id then some (c.rd F.CODE_CTRL_FLUSH)
  else if f.id = F.CODE_HARQ_STAT_FREE.id then some c.freeSlabs.length
  else if f.id = F.CODE_ENG_STAT_QDEPTH.id then some (c.heldTasks (0x110 + i)).length
  else if f.id = F.CODE_ENG_STAT_STATE.id then some (c.codeState i)
  else if f.id = F.CAL_STAT_STATE.id then some c.calState
  else if f.id = F.SCHED_STAT_INTAKE.id then some (b2n (c.modeIn modesRun))
  else if f.id = F.SCHED_STAT_READY.id then some (c.sched.tasks.filter fun t => t.state == .ready).length
  else if f.id = F.SCHED_STAT_FREE.id then some c.freeEntries
  else if f.id = F.SCHED_CL_STAT_BATCH_FREE.id then some (64 - c.sched.batches.length)
  else if f.id = F.SCHED_CL_STAT_FREE.id then some c.clFree
  else if f.id = F.SCHED_SPARE_PRESS_FREE.id then some (c.rd F.AE_MAP_SPARE_FREE)
  else if f.id = F.SCHED_BUNDLE_VALID_VALID.id then
    some ((List.range 64).foldl (fun m k => m + b2n (c.bundle (0x200 + 64 * i + k)).isSome * 2 ^ k) 0)
  else if f.id = F.SCHED_SQ_PTR_PROD.id then some ((c.sq i).1 % 2 ^ 16)
  else if f.id = F.SCHED_SQ_PTR_CONS.id then some ((c.sq i).2 % 2 ^ 16)
  else if f.id = F.SCHED_UNIT_STAT_HELD.id then some (c.heldTasks i).length
  else if f.id = F.PLR_PIN_CFG_SLEW.id then some (max (c.rd F.PLR_PIN_CFG_SLEW_IMG i) (c.rd F.PLR_PIN_CFG_SLOW_ONLY i))
  else if f.id = F.FAB_CFG_MERGED.id then some (c.rd F.DEV_STRAPS_NOC_MERGED)
  else if f.id = F.FAB_PORT_STAT_ANTEROOM.id then some (min 32 (Tbl.get c.fab.ante i []).length)
  else if f.id = F.MEM_HBM_STAT_STATE.id then some (c.hbmState i)
  else if f.id = F.MEM_HBM_STAT_FILL_PCT.id then some (c.hbmPct i)
  else if f.id = F.MEM_HBM_STAT_TEMP.id then some (toBits 8 (roundDrop 3 (sx 16 (Tbl.get c.sens.hbm i 0))))
  else if f.id = F.INTEG_DARNER_STAT_PROGRESS.id then some (roundDiv (c.integ.patrolPos * 100 : Nat) patrolWords).toNat
  else if f.id = F.INTEG_DARNER_STAT_STATE.id then some c.darnerState
  else if f.id = F.TIME_TICK_TICK.id then some c.tick
  else if f.id = F.TIME_STAT_TE_EST.id then some (toBits 32 c.teEst)
  else if f.id = F.PWR_MANGLE_STAT_QUEUE.id then some c.pwr.ramps.length
  else if f.id = F.PWR_MANGLE_STAT_I_EST.id then some c.iEst
  else if f.id = F.SENS_STAT_FAILED.id then some (min 127 c.sens.failed.length)
  else if f.id = F.SENS_AVS_BASE.id then some c.avsBase
  else if f.id = F.SENS_ALERT_AVS.id then some (b2n c.sens.avsBad)
  else if f.id = F.SENS_ALERT_SENSOR.id then some (b2n !c.sens.failed.isEmpty)
  else if f.id = F.SENS_ALERT_PLL.id then some (b2n c.pllAlert)
  else if f.id = F.SENS_ALERT_THROTTLE.id then some (c.rd F.SENS_STAT_THROTTLE)
  else if f.id = F.SENS_ALERT_TIME.id then some (c.rd F.TIME_STAT_ALARM)
  else if f.id = F.SENS_TEMP_FAILED.id then some (b2n (c.sens.failed.contains i))
  else none

/-- Value of a field as a read returns it. -/
def Chip.rdLive (c : Chip) (f : Fld) (i j : Nat) : Nat :=
  match c.liveFld f i j with
  | some v => v % 2 ^ f.w
  | none => c.rd f i j

/-- Value of a register as a read returns it: reserved bits and WO fields 0 (R17, R18). -/
def Chip.regVal (c : Chip) (fs : List Fld) (i j : Nat) : Nat :=
  match fs with
  | [] => 0
  | f :: r => (if f.acc == .wo then 0 else c.rdLive f i j * 2 ^ f.lo) + c.regVal r i j

end Sys2Proof.Machine
end

