-- ==== Sys2Proof/Machine/TimeCmds.lean ====
section
/-! DEFINITION. Commands of the timing unit (spec/17_ethernet_timing.md R439–R446). -/
namespace Sys2Proof.Machine

/-! ## PTP (R440) -/

/-- PTP runs at a port: the port runs, has the role, and a profile is selected. -/
def Chip.ptpRuns (c : Chip) (q : Nat) : Bool :=
  c.ethRuns q && c.flag F.ETH_PORT_CFG_ROLE_PTP q
    && (c.rd F.TIME_PTP_CFG_PROFILE == 1 || c.rd F.TIME_PTP_CFG_PROFILE == 2)

/-- A state the port may take: slave-only with TSC, never SLAVE with NOT_SLAVE. -/
def Chip.ptpMay (c : Chip) (q st : Nat) : Bool :=
  1 ≤ st && st ≤ 9 && !(c.flag F.TIME_PTP_CFG_TSC && (st == 5 || st == 6 || st == 7))
    && !(c.flag F.TIME_PTP_PORT_NOT_SLAVE q && (st == 8 || st == 9))

/-- Destination of PTP at a port: the multicast address of G.8275.1, the master's link address of G.8275.2; none where that
is not yet resolved. -/
def Chip.ptpDest (c : Chip) (q : Nat) : Option Nat :=
  if c.rd F.TIME_PTP_CFG_PROFILE = 1 then
    some (if c.flag F.TIME_PTP_PORT_MCAST_ALT q then 0x0180C200000E else 0x011B19000000)
  else if c.rd F.TIME_PTP_IP_MASTER q = 0 then none
  else match Tbl.get c.eth.arp q 0 with | 0 => none | m => some m

/-- A PTP message is sent; where the master's link address is not resolved, an ARP request for it. -/
def Chip.ptpSend (c : Chip) (q : Nat) (kind : String) : Chip :=
  match c.ptpDest q with
  | some d => c.emit (.eth q kind [d, c.rd F.TIME_PTP_CFG_DOMAIN, c.rd F.TIME_PTP_CFG_PRIORITY2, c.rd F.TIME_PTP_PORT_ASYM q])
  | none =>
    if c.rd F.TIME_PTP_IP_MASTER q = 0 then c
    else c.emit (.eth q "ARP request" [c.rd F.TIME_PTP_IP_OWN q, c.rd F.TIME_PTP_IP_MASTER q])

/-- PTP_MESSAGE_RECEIVE: an Announce carries the state the profile's BMCA arrives at, a Sync the master's time. -/
def execPtpMessageReceive (q : Fin 16) (msg : PtpMsg) (s : State) : Host.Outcome State Fault Refusal :=
  s.run fun c =>
    if !c.ptpRuns q then c
    else
      match msg with
      | .announce st => if c.ptpMay q st then (c.wr F.TIME_PTP_PORT_PORT_STATE st q).timeEval else c
      | .sync sec ns half =>
        if c.rd F.TIME_PTP_PORT_PORT_STATE q = 9 && c.rd F.TIME_STAT_PHASE_SRC = 1 then
          (c.withTai sec ns).servo (c.srcOffset sec ns half)
        else c
      | .delayReq => if c.rd F.TIME_PTP_PORT_PORT_STATE q = 6 then c.ptpSend q "PTP Delay_Resp" else c
      | .other => c

/-- PTP_SEND_TIMER: 0 Sync and 2 Announce of a master port, 1 Delay_Req of a slave port. -/
def execPtpSendTimer (q : Fin 16) (kind : Fin 3) (s : State) : Host.Outcome State Fault Refusal :=
  s.run fun c =>
    let st := c.rd F.TIME_PTP_PORT_PORT_STATE q
    if !c.ptpRuns q then c
    else if kind.val = 1 then (if st = 8 || st = 9 then c.ptpSend q "PTP Delay_Req" else c)
    else if st = 6 then c.ptpSend q (if kind.val = 0 then "PTP Sync" else "PTP Announce")
    else c

/-! ## SyncE (R441) -/

/-- QL of the frequency source in use. -/
def Chip.qlInUse (c : Chip) : Nat :=
  if c.rd F.TIME_STAT_FREQ_SRC = 3 then Tbl.get c.eth.ql (c.rd F.TIME_SRC_CFG_SYNCE_PORT) 0 - 1
  else (Config.sourceQl (c.rd F.TIME_STAT_FREQ_SRC)).toNat

/-- SyncE runs at a port. -/
def Chip.synceRuns (c : Chip) (q : Nat) : Bool := c.ethRuns q && c.flag F.ETH_PORT_CFG_ROLE_SYNCE q

/-- ESMC_SEND_TIMER: QL-DNU (15) on the port whose clock is the frequency source. -/
def execEsmcSendTimer (q : Fin 16) (s : State) : Host.Outcome State Fault Refusal :=
  s.run fun c =>
    if c.synceRuns q then
      let own := c.rd F.TIME_STAT_FREQ_SRC == 3 && q.val == c.rd F.TIME_SRC_CFG_SYNCE_PORT
      c.emit (.eth q "ESMC" [if own then 15 else c.qlInUse])
    else c

/-- ESMC_RECEIVE. -/
def execEsmcReceive (q : Fin 16) (ql : Fin 16) (s : State) : Host.Outcome State Fault Refusal :=
  s.run fun c =>
    if c.synceRuns q then (c.withEth { c.eth with ql := Tbl.set c.eth.ql q (ql + 1) 0 }).timeEval else c

/-- ESMC_TIMEOUT: 5 s without ESMC. -/
def execEsmcTimeout (q : Fin 16) (s : State) : Host.Outcome State Fault Refusal :=
  s.run fun c => (c.withEth { c.eth with ql := Tbl.erase c.eth.ql q }).timeEval

/-! ## PPS (R442, R443) -/

/-- Ticks in a second, and in the 1.5 s of R443. -/
abbrev secTicks : Nat := 30720000
abbrev ppsTicks : Nat := 46080000

/-- The edge lies more than 1 ms from a whole number of seconds after the last one. -/
def Chip.ppsOff (c : Chip) : Bool :=
  match c.time.ppsTick with
  | some t =>
    let r := cntSub c.tick t % secTicks
    30720 < min r (secTicks - r)
  | none => false

/-- The edge follows the last one within 1.5 s. -/
def Chip.ppsNear (c : Chip) : Bool :=
  match c.time.ppsTick with
  | some t => cntSub c.tick t ≤ ppsTicks
  | none => false

/-- The edge of the phase source begins second TOD, and TOD then advances (R442). -/
def Chip.ppsSecond (c : Chip) (half : Nat) : Chip :=
  let sec := c.rd F.TIME_TOD_TOD
  ((c.incMod F.TIME_TOD_TOD).withTai sec 0).servo (c.srcOffset sec 0 half)

/-- PPS_IN_EDGE: a rising edge, timestamped to 0.5 ns within the own tick. -/
def execPpsInEdge (half : Fin 66) (s : State) : Host.Outcome State Fault Refusal :=
  s.run fun c =>
    if c.mode = mBypass || !c.flag F.TIME_CTRL_PPS_IN_EN then c
    else
      let sel := c.rd F.TIME_STAT_PHASE_SRC == 2
      if sel && c.ppsOff then c.incSat F.TIME_STAT_PPS_DROP
      else
        let c := c.withTime { c.time with ppsOk := c.ppsNear, ppsTick := some c.tick }
        let c := if sel then c.ppsSecond half else c
        c.timeEval

/-- PPS_IN_LOSS: no edge for 1.5 s. -/
def execPpsInLoss (s : State) : Host.Outcome State Fault Refusal :=
  s.run fun c =>
    match c.time.ppsTick with
    | some t =>
      if ppsTicks < cntSub c.tick t then
        (c.withTime { c.time with ppsOk := false, ppsTick := none }).timeEval
      else c
    | none => c

/-- PPS_OUT is driven low while it is disabled and in FREERUN. -/
def Chip.ppsHold (c : Chip) : Chip :=
  if c.time.ppsOut && (!c.flag F.TIME_CTRL_PPS_OUT_EN || c.rd F.TIME_STAT_STATE = 0) then
    (c.withTime { c.time with ppsOut := false }).emit (.pin "PPS_OUT" 0)
  else c

/-- PPS_OUT_EDGE: the rise at a whole second plus PPS_OFFSET, then the fall WIDTH later. -/
def execPpsOutEdge (s : State) : Host.Outcome State Fault Refusal :=
  s.run fun c =>
    if c.mode = mBypass || !c.flag F.TIME_CTRL_PPS_OUT_EN || c.rd F.TIME_STAT_STATE = 0 then c.ppsHold
    else (c.withTime { c.time with ppsOut := !c.time.ppsOut }).emit (.pin "PPS_OUT" (b2n !c.time.ppsOut))

/-! ## States (R443, R446) -/

/-- TIME_LOCK_TIMER: the offset has stayed within 50 ns for 10 s. -/
def execTimeLockTimer (s : State) : Host.Outcome State Fault Refusal :=
  s.run fun c =>
    if c.rd F.TIME_STAT_STATE = 1 && c.time.offset.natAbs ≤ 50 then
      ((c.wr F.TIME_STAT_STATE 2).withTime { c.time with locked := true }).ringEval
    else c

/-- REVERT_WTR_TIMER: a source of higher priority has been valid for WTR_S seconds. -/
def execRevertWtrTimer (s : State) : Host.Outcome State Fault Refusal :=
  s.run fun c =>
    let b := c.bestSrc
    let cur := c.rd F.TIME_STAT_PHASE_SRC
    if c.flag F.TIME_CTRL_REVERT && b ≠ 0 && cur ≠ 0 && c.srcPrio b < c.srcPrio cur then (c.srcSelect b).ringEval else c

/-- TIME_ALARM: TE_EST has crossed TE_LIMIT. -/
def execTimeAlarm (s : State) : Host.Outcome State Fault Refusal :=
  s.run fun c =>
    if c.mode = mBypass then c
    else
      let on := c.rd F.TIME_CTRL_TE_LIMIT < c.teEst.natAbs
      (c.setFlag F.TIME_STAT_ALARM on).when on fun c => c.wr F.TIME_STAT_ALARM_SEEN 1

/-- RING_HOLD_TIMER: 20 ms of hold-down have passed. -/
def execRingHoldTimer (s : State) : Host.Outcome State Fault Refusal :=
  s.run fun c => if c.flag F.TIME_RING_STAT_HOLD then (c.wr F.TIME_RING_STAT_HOLD 0).ringEval else c

/-- ETH_LINK_CHANGE: a link that goes down takes PTP at its port to FAULTY and its QL away; one that comes up, to
LISTENING. -/
def execEthLinkChange (q : Fin 16) (up : Bool) (s : State) : Host.Outcome State Fault Refusal :=
  s.run fun c =>
    if c.mode = mBypass || !c.ethPort q || (up && c.domState (c.ethDomain q) != dOn) then c
    else
      let c := (c.setFlag F.ETH_PORT_STAT_LINK_UP up q).wr F.ETH_PORT_STAT_SPEED
        (if up then (if c.rd F.ETH_CFG_MODE = 1 then 1 else 2) else 0) q
      let c := if c.flag F.ETH_PORT_CFG_ROLE_PTP q then c.wr F.TIME_PTP_PORT_PORT_STATE (if up then 4 else 2) q else c
      let c := if up then c else c.withEth { c.eth with ql := Tbl.erase c.eth.ql q }
      c.timeEval

/-- OSC_10M_PRESENCE_CHANGE: it appears, or is lost (R496). -/
def execOsc10mPresenceChange (s : State) : Host.Outcome State Fault Refusal :=
  s.run fun c => (c.withTime { c.time with osc10m := !c.time.osc10m }).timeEval

end Sys2Proof.Machine
end

