-- ==== Sys2Proof/Machine/EthCmds.lean ====
section
/-! DEFINITION. Commands of the Ethernet ports (spec/17_ethernet_timing.md R428–R438). -/
namespace Sys2Proof.Machine

/-! ## Frames (R428, R430, R438) -/

/-- A frame or message is dropped and counted. -/
def Chip.rxDrop (c : Chip) (q : Nat) : Chip := c.incMod F.ETH_PORT_STAT_RX_DROP q

/-- The entry in effect at a port that owns an eAxC ID: entry, RU port, whether it is PRACH's. -/
def Chip.ruFind (c : Chip) (q eaxc : Nat) : Option (Nat × Nat × Bool) :=
  (List.range 32).findSome? fun r =>
    let g := ruCfgOf (c.ruVal r)
    if c.ruRuns r && g.port == q then
      let k := (c.ruIds r g).idxOf eaxc
      if k < g.ports then some (r, k, false) else if k < (c.ruIds r g).length then some (r, k - g.ports, true) else none
    else none

/-- A message of a port is discarded and counted: in the entry's DISCARD, in that of the port's first entry where it
belongs to none, in RX_DROP where the port has no entry. -/
def Chip.ruDiscard (c : Chip) (q : Nat) (r : Option Nat) : Chip :=
  let r := match r with
    | some r => some r
    | none => (List.range 32).find? fun k => c.ruRuns k && c.rd F.ETH_RU_CFG_PORT k == q
  match r with
  | some r => c.incSat F.ETH_RU_CNT_DISCARD r
  | none => c.rxDrop q

/-- Fronthaul is taken at a port. -/
def Chip.fhRuns (c : Chip) (q : Nat) : Bool := c.flag F.ETH_PORT_CFG_ROLE_FH q && c.modeIn modesRu

/-- ETH_FRAME_RECEIVE: a frame by its kind and the port's roles; U-plane, PTP and ESMC contents come with their own
commands. Uncorrectable codewords are counted in FEC_UNCORR. -/
def execEthFrameReceive (q : Fin 16) (f : EthFrame) (s : State) : Host.Outcome State Fault Refusal :=
  s.run fun c =>
    let ptp := c.flag F.ETH_PORT_CFG_ROLE_PTP q
    let fh := c.fhRuns q
    let runs := c.ethRuns q
    let c := c.when runs (·.incSat F.ETH_PORT_STAT_FEC_UNCORR q 0 f.fec)
    if !runs then c
    else if 9216 < f.bytes || !f.fcsOk then c.rxDrop q
    else
      match f.body with
      | .ecpri rev cc ty eaxc =>
        if !fh || rev ≠ 1 || cc || (ty ≠ 0 && ty ≠ 2 && ty ≠ 5) then c.rxDrop q
        else if ty = 2 then c.ruDiscard q ((c.ruFind q eaxc).map (·.1))
        else c
      | .owd rev cc action id =>
        if !fh || rev ≠ 1 || cc then c.rxDrop q
        else if action = 0 || action = 1 then c.emit (.eth q "eCPRI OWD response" [id])
        else if action = 3 then c.emit (.eth q "eCPRI OWD request" [id])
        else c
      | .ptp => if ptp then c else c.rxDrop q
      | .arpRequest ip =>
        if ptp && ip ≠ 0 && ip = c.rd F.TIME_PTP_IP_OWN q then
          c.emit (.eth q "ARP reply" [ip, c.rd F.ETH_PORT_CFG_MAC q])
        else c.rxDrop q
      | .arpReply ip mac =>
        if ptp && ip ≠ 0 && ip = c.rd F.TIME_PTP_IP_MASTER q then
          c.withEth { c.eth with arp := Tbl.set c.eth.arp q mac 0 }
        else c.rxDrop q
      | .esmc => if c.flag F.ETH_PORT_CFG_ROLE_SYNCE q then c else c.rxDrop q
      | .other => c.rxDrop q

/-! ## Uplink (R431, R433, R435) -/

/-- The window of an uplink buffer: its air time, its end, and SFN and symbol as its status word shows them. A PRACH
occasion's runs from START_SYM to the end of its last symbol. -/
def Chip.ulWindow (c : Chip) (r : Nat) (prach : Bool) (sfnLow n sym : Nat) : Nat × Nat × Nat :=
  let w := c.ruCarrier r
  let slot := sym / ccSlotSyms w
  let a := if prach then slot * ccSlotSyms w + c.rd F.ETH_RU_PRACH_START_SYM r else sym
  let z := if prach then a + c.rd F.ETH_RU_PRACH_N_SYM_M1 r + 1 else sym + 1
  let at_ := c.airOf w sfnLow n a
  (at_, tickAdd at_ (symStart w z - symStart w a + c.rd F.ETH_RU_WIN_TA4_MAX r), a)

/-- Occasion number of a PRACH slot (R434): by its index in the SFN cycle. -/
def Chip.prachOcc (c : Chip) (r sfn sym : Nat) : Nat :=
  let w := c.ruCarrier r
  let slot := sfn * (frameTicks / ccSlotTicks w) + sym / ccSlotSyms w
  (slot - c.rd F.ETH_RU_PRACH_SLOT_OFF r) / max 1 (c.rd F.ETH_RU_PRACH_PERIOD r)

/-- Address of the first word of a buffer. -/
def Chip.ulAddr (c : Chip) (b : UlBuf) : Nat :=
  if b.prach then c.prachBuf b.ru b.port (c.prachOcc b.ru b.sfn b.sym) else c.ruBuf b.ru b.port b.sym false

/-- PRBs in a buffer. -/
def Chip.ulPrbs (c : Chip) (r : Nat) (prach : Bool) : Nat :=
  if prach then (c.rd F.ETH_RU_PRACH_N_SYM_M1 r + 1) * c.rd F.ETH_RU_PRACH_N_PRBC r else c.rd F.ETH_RU_CFG_N_RB r

/-- The open buffer of a symbol. -/
def Chip.ulBuf (c : Chip) (r p : Nat) (prach : Bool) (at_ : Nat) : Option UlBuf :=
  c.eth.bufs.find? fun b => b.ru == r && b.port == p && b.prach == prach && b.at_ == at_

/-- Set it. -/
def Chip.putUl (c : Chip) (b : UlBuf) : Chip :=
  c.withEth { c.eth with
    bufs := (c.eth.bufs.filter fun x => !(x.ru == b.ru && x.port == b.port && x.prach == b.prach && x.at_ == b.at_)) ++ [b] }

/-- One PRB of a section: its first copy is decompressed and written, a second is discarded. -/
def Chip.ulPrb (c : Chip) (b : UlBuf) (k : Nat) (x : UPrb) : Chip × UlBuf :=
  if b.got.contains k then (c.incSat F.ETH_RU_CNT_DISCARD b.ru, b)
  else
    let vs := x.vals.map (bfpExpand x.exp)
    let c := (c.writeWords .fabric (c.ulAddr b + 48 * k) (prbWords (vs.map (·.1))) false).1
    (c, { b with got := b.got ++ [k], sat := b.sat || vs.any (·.2) })

/-- PRBs of a section one after another, from PRB `k` on. -/
def Chip.ulPrbsPut (c : Chip) (b : UlBuf) (k : Nat) (xs : List UPrb) : Chip × UlBuf :=
  match xs with
  | [] => (c, b)
  | x :: r =>
    let (c, b) := c.ulPrb b k x
    c.ulPrbsPut b (k + 1) r

/-- A section is taken: no extension, the entry's one method, PRBs of the carrier. -/
def Chip.secOk (c : Chip) (r n : Nat) (x : USection) : Bool :=
  let m := c.rd F.ETH_RU_CFG_MANT r
  let cnt := if x.num = 0 then n else x.num
  !x.ext && (c.flag F.ETH_RU_CFG_STATIC_COMP r || (if m = 0 then x.meth == 0 && x.width == 0 else x.meth == 1 && x.width == m))
    && x.first + cnt ≤ n && x.prbs.length == cnt

/-- The sections of a message, into the buffer `b` from PRB `off` on, `n` PRBs to a symbol. -/
def Chip.ulSecs (c : Chip) (b : UlBuf) (off n : Nat) (xs : List USection) : Chip × UlBuf :=
  match xs with
  | [] => (c, b)
  | x :: r =>
    let (c, b) := if c.secOk b.ru n x then c.ulPrbsPut b (off + x.first) x.prbs else (c.incSat F.ETH_RU_CNT_DISCARD b.ru, b)
    c.ulSecs b off n r

/-- UPLANE_RECEIVE. -/
def execUplaneReceive (q : Fin 16) (m : UMsg) (s : State) : Host.Outcome State Fault Refusal :=
  s.run fun c =>
    if !c.ethRuns q || !c.fhRuns q then c
    else
      match c.ruFind q m.eaxc with
      | none => c.ruDiscard q none
      | some (r, p, prach) =>
        let k := 65536 * r + m.eaxc
        let c := c.when (Tbl.get c.eth.seqRx k 0 != m.seq % 256) fun c => c.incSat F.ETH_RU_CNT_SEQ_ERR r
        let c := c.withEth { c.eth with seqRx := Tbl.set c.eth.seqRx k ((m.seq + 1) % 256) 0 }
        let (at_, close, first) := c.ulWindow r prach (m.frame % 256) 8 m.sym
        if tickLater at_ c.tick then c.incSat F.ETH_RU_CNT_DISCARD r
        else if tickLater close c.tick then
          let b := match c.ulBuf r p prach at_ with
            | some b => b
            | none => { ru := r, port := p, prach := prach, at_ := at_, sym := first, sfn := c.sfnAt at_ }
          let n := if prach then c.rd F.ETH_RU_PRACH_N_PRBC r else c.rd F.ETH_RU_CFG_N_RB r
          let off := if prach then (m.sym - first) * n else 0
          if prach && (m.sym < first || c.rd F.ETH_RU_PRACH_N_SYM_M1 r < m.sym - first) then c.incSat F.ETH_RU_CNT_DISCARD r
          else
            let (c, b) := c.ulSecs b off n m.secs
            c.putUl b
        else c.incSat F.ETH_RU_CNT_LATE r

/-- A C-plane section requested an uplink symbol. -/
def Chip.ulAsked (c : Chip) (r at_ : Nat) : Bool :=
  c.eth.sent.any fun (x : CpSpan) => x.ru == r && !x.dl && 0 ≤ tickDiff at_ x.first && 0 < tickDiff x.stop at_

/-- One port's buffer is closed: missing PRBs that were requested are written as zero, then its status word. -/
def Chip.ulClose (c : Chip) (r p : Nat) (prach : Bool) (at_ sym sfn : Nat) (asked : Bool) : Chip :=
  let b := match c.ulBuf r p prach at_ with
    | some b => b
    | none => { ru := r, port := p, prach := prach, at_ := at_, sym := sym, sfn := sfn }
  let n := c.ulPrbs r prach
  let missing := if asked then (List.range n).filter fun k => !b.got.contains k else []
  let a := c.ulAddr b
  let c := missing.foldl (fun c k => (c.writeWords .fabric (a + 48 * k) [0, 0, 0] false).1) c
  let word := ruStatus (if missing.isEmpty then .ok else .gap) b.sat at_
    (if prach then c.rd F.ETH_RU_PRACH_START_SYM r else sym) sfn
  let c := (c.writeWord .fabric (a + 48 * n) word false).1
  c.withEth { c.eth with
    bufs := c.eth.bufs.filter fun x => !(x.ru == r && x.port == p && x.prach == prach && x.at_ == at_) }

/-- UPLANE_WINDOW_CLOSE: the window of symbol `sym` of the frame with `sfn` has closed for an entry; `prach` names the
occasion in that symbol's slot. -/
def execUplaneWindowClose (r : Fin 32) (prach : Bool) (sfn : Fin 1024) (sym : Nat) (s : State) :
    Host.Outcome State Fault Refusal :=
  s.stage fun c =>
    let (at_, close, first) := c.ulWindow r prach sfn 10 sym
    if !c.ruRuns r || !c.modeIn modesRu || tickLater close c.tick then c
    else
      (List.range (c.rd F.ETH_RU_CFG_N_PORT_M1 r + 1)).foldl (fun c p =>
        c.ulClose r p prach at_ first sfn (prach || c.ulAsked r at_)) c

/-! ## C-plane (R434) -/

/-- eCPRI message type of the frames to an RU (R430): 0 U-plane, 2 C-plane. -/
def ecpriType (kind : String) : Nat := if kind == "U-plane" then 0 else 2

/-- Header of the frames to an RU: the byte with eCPRI revision 1 and C 0, the message type, the eAxC ID, ecpriSeqid with the
E bit and subsequence 0, RU MAC, VLAN (R430). -/
def Chip.ruHead (c : Chip) (r type eaxc seq : Nat) : List Nat :=
  [0x10, type, eaxc, 256 * seq + 0x80, c.rd F.ETH_RU_ADDR_RU_MAC r,
    if c.flag F.ETH_RU_ADDR_VLAN_EN r then c.rd F.ETH_RU_ADDR_VLAN_ID r + 4096 * c.rd F.ETH_RU_ADDR_PCP r + 32768 else 0]

/-- A frame to an RU leaves by its port. -/
def Chip.ruSend (c : Chip) (r eaxc : Nat) (kind : String) (body : List Nat) : Chip :=
  let (c, n) := c.seqNext r eaxc
  c.emit (.eth (c.rd F.ETH_RU_CFG_PORT r) kind (c.ruHead r (ecpriType kind) eaxc n ++ body))

/-- CPLANE_SEND: the section type 1 of a started slot command, for every RU port, at its send instant. -/
def execCplaneSend (f : Fin 64) (ring : Fin 8) (count : Nat) (s : State) : Host.Outcome State Fault Refusal :=
  s.run fun c =>
    match (c.ringCmds f ring).find? fun h => h.count == count with
    | none => c
    | some h =>
      match c.ruOf h.cell with
      | none => c
      | some r =>
        let w := c.ruCarrier r
        let (a, z) := h.itemSpan
        let (t0, t1) := h.cpTimes w
        if !h.isSlot || h.stage != .started || h.discard || !c.ruRuns r || !c.modeIn modesRu || (h.op = 2 && c.mode = mShed)
            || (c.eth.sent.any fun x => x.ref == h.ref) || tickLater (c.cpInstant h r w) c.tick
            || !c.ethRuns (c.rd F.ETH_RU_CFG_PORT r) then c
        else
          let c := c.withEth { c.eth with
            sent := (c.eth.sent.filter fun x => tickDiff c.tick x.stop < 2 ^ 20) ++ [⟨r, h.op == 2, t0, t1, h.ref⟩] }
          let g := ruCfgOf (c.ruVal r)
          (List.range g.ports).foldl (fun c p =>
            c.ruSend r (g.base + p) "C-plane type 1"
              [b2n (h.op == 2), c.sfnAt t0 % 256, h.slotNo, a, z - a, g.nRb, 0xFFF]) c

/-- PRACH_CPLANE_SEND: the section type 3 of a PRACH slot, `slot` its index in the SFN cycle. -/
def execPrachCplaneSend (r : Fin 32) (slot : Nat) (s : State) : Host.Outcome State Fault Refusal :=
  s.run fun c =>
    let w := c.ruCarrier r
    let per := c.rd F.ETH_RU_PRACH_PERIOD r
    let sps := frameTicks / ccSlotTicks w
    let sym := slot % sps * ccSlotSyms w + c.rd F.ETH_RU_PRACH_START_SYM r
    let at_ := c.airOf w (slot / sps % 1024) 10 sym
    let due := tickAdd at_ (tickMod - c.rd F.ETH_RU_WIN_TCP_ADV_UL r)
    if !c.ruRuns r || !c.modeIn modesRu || !c.flag F.ETH_RU_PRACH_EN r || per = 0 || 1024 * sps ≤ slot
        || ((slot : Int) - c.rd F.ETH_RU_PRACH_SLOT_OFF r) % per ≠ 0 || tickLater due c.tick
        || !c.ethRuns (c.rd F.ETH_RU_CFG_PORT r) then c
    else
      let (c, x) := c.readWord .fabric (0x300000000 + 128 * c.rd F.ETH_RU_PRACH2_PRACH_OFF r - 16)
      if x.poison || x.status != .ok || 2 ^ 24 ≤ x.data then c.incSat F.ETH_RU_CNT_DISCARD r
      else
        let g := ruCfgOf (c.ruVal r)
        let b := c.rd F.ETH_RU_PRACH2_PRACH_BASE r / 2 ^ g.ruBits * 2 ^ g.ruBits
        (List.range g.ports).foldl (fun c p =>
          c.ruSend r (b + p) "C-plane type 3"
            [c.sfnAt at_ % 256, slot % sps, c.rd F.ETH_RU_PRACH_START_SYM r, c.rd F.ETH_RU_PRACH_N_SYM_M1 r + 1,
              c.rd F.ETH_RU_PRACH_N_PRBC r, c.rd F.ETH_RU_PRACH2_FILTER_IDX r, c.rd F.ETH_RU_PRACH2_FS_SCS r,
              c.rd F.ETH_RU_PRACH2_FFT r, x.data]) c

/-! ## Downlink (R436, R437) -/

/-- One PRB read for sending: exponent and mantissas; zeros where a source word is poisoned, counted and reported. -/
def Chip.dlPrb (c : Chip) (r a : Nat) : Chip × List Nat :=
  let m := c.rd F.ETH_RU_CFG_MANT r
  let (c, ws) := c.readWords .fabric a 3
  if ws.any (·.poison) then
    let bad := (List.range 3).find? fun k => (ws.getD k ⟨0, false, .ok⟩).poison
    ((c.incSat F.ETH_RU_CNT_ZEROED r).postPoison 0x7FF srcEth 8 (a + 16 * bad.getD 0), List.replicate 25 0)
  else
    let vals := ws.flatMap fun w => (List.range 8).map fun k => sx 16 (w.data / 2 ^ (16 * k))
    if m = 0 then (c, 0 :: vals.map (toBits 16))
    else (c, bfpExp m vals :: bfpMant m (bfpExp m vals) vals)

/-- PRBs `k` to `k + n - 1` of a buffer. -/
def Chip.dlPrbs (c : Chip) (r a k n : Nat) : Chip × List Nat :=
  match n with
  | 0 => (c, [])
  | j + 1 =>
    let (c, x) := c.dlPrb r (a + 48 * k)
    let (c, y) := c.dlPrbs r a (k + 1) j
    (c, x ++ y)

/-- The slot command that a downlink symbol belongs to ends with DEADLINE_MISSED (R41). -/
def Chip.dlMissed (c : Chip) (ref : CmdRef) : Chip :=
  c.withHif { c.hif with
    inflight := c.hif.inflight.map fun (h : HostCmd) =>
      if h.ref = ref then
        { h with status := h.status.worst .deadlineMissed, cond := condAdd h.cond .deadlineMissed }
      else h }

/-- udCompHdr of a U-plane section (R431), unless STATIC_COMP: udIqWidth in bits 7:4, udCompMeth in bits 3:0. -/
def Chip.udCompHdr (c : Chip) (r mant : Nat) : List Nat :=
  if c.flag F.ETH_RU_CFG_STATIC_COMP r then [] else [if mant = 0 then 0 else 16 * mant + 1]

/-- The frames of one RU port's symbol. -/
def Chip.dlPort (c : Chip) (r p sym sfn : Nat) (zeros : Bool) : Chip :=
  let g := ruCfgOf (c.ruVal r)
  let per := max 1 (c.prbsPerFrame r)
  (List.range ((g.nRb + per - 1) / per)).foldl (fun c k =>
    let n := min per (g.nRb - per * k)
    let (c, x) := if zeros then (c, List.replicate (25 * n) 0) else c.dlPrbs r (c.ruBuf r p sym true) (per * k) n
    c.ruSend r (g.base + p) "U-plane" ([sfn % 256, sym, per * k, if n = g.nRb then 0 else n]
      ++ c.udCompHdr r g.mant ++ x)) c

/-- UPLANE_SEND: symbol `sym` of the frame with `sfn` at its send instant; `ready` says that its precoded data is in the
pool, without which zeros are sent (R41). -/
def execUplaneSend (r : Fin 32) (sfn : Fin 1024) (sym : Nat) (ready : Bool) (s : State) : Host.Outcome State Fault Refusal :=
  s.stage fun c =>
    let w := c.ruCarrier r
    let at_ := c.airOf w sfn 10 sym
    let due := tickAdd at_ (tickMod - c.rd F.ETH_RU_WIN_T1A_UP r)
    match c.eth.sent.find? fun (x : CpSpan) =>
        x.ru == r.val && x.dl && 0 ≤ tickDiff at_ x.first && 0 < tickDiff x.stop at_ with
    | none => c
    | some x =>
      if !c.ruRuns r || !c.modeIn modesRu || c.mode = mShed || tickLater due c.tick
          || !c.ethRuns (c.rd F.ETH_RU_CFG_PORT r) then c
      else
        let c := if ready then c else c.dlMissed x.ref
        (List.range (c.rd F.ETH_RU_CFG_N_PORT_M1 r + 1)).foldl (fun c p => c.dlPort r p sym sfn (!ready)) c

/-! ## Entries and delay measurement (R432, R438) -/

/-- Modes in which RU entries are written. -/
abbrev modesRuCfg : Nat := 0xBE

/-- RU_ENABLE: an ETH_RU_CFG write with EN = 1; `value` is the whole register. -/
def execRuEnable (by_ : Port) (r : Fin 32) (value : Nat) (s : State) : Host.Outcome State Fault Refusal :=
  s.run fun c => c.guarded by_ modesRuCfg fun c =>
    if c.ruOk r (ruCfgOf value) then
      let was := c.flag F.ETH_RU_CFG_EN r
      let c := G.ETH_RU_CFG.fields.foldl (fun c f => c.wr f (f.of (setBit value 63 true)) r) c
      let c := if was then c else c.withEth { c.eth with
        start := Tbl.insert (Tbl.erase c.eth.start r) r (c.slotNext (c.ruCarrier r)) }
      c.report by_ .ok
    else c.report by_ .badDescriptor

/-- A delay request to an entry's RU leaves. -/
def Chip.owdSend (c : Chip) (r : Nat) : Chip :=
  c.emit (.eth (c.rd F.ETH_RU_CFG_PORT r) "eCPRI OWD request" [r])

/-- OWD_REQUEST: ETH_RU_OWD.GO. -/
def execOwdRequest (by_ : Port) (r : Fin 32) (s : State) : Host.Outcome State Fault Refusal :=
  s.run fun c => c.action by_ modesRu fun c => c.w1sStart F.ETH_RU_OWD_GO r 0 fun c => c.owdSend r

/-- OWD_RESPONSE: the delay t2 − t1 plus the two compensation values, in ns. -/
def execOwdResponse (r : Fin 32) (delay : Int) (s : State) : Host.Outcome State Fault Refusal :=
  s.run fun c =>
    if c.flag F.ETH_RU_OWD_GO r then
      ((c.wr F.ETH_RU_OWD_DELAY_NS (toBits 32 delay) r).wr F.ETH_RU_OWD_VALID 1 r).w1sEnd F.ETH_RU_OWD_GO r 0
        fun c => c.owdSend r
    else c

/-- OWD_TIMEOUT: 10 ms without a response. -/
def execOwdTimeout (r : Fin 32) (s : State) : Host.Outcome State Fault Refusal :=
  s.run fun c =>
    if c.flag F.ETH_RU_OWD_GO r then
      (c.wr F.ETH_RU_OWD_VALID 0 r).w1sEnd F.ETH_RU_OWD_GO r 0 fun c => c.owdSend r
    else c

end Sys2Proof.Machine
end

