-- ==== Sys2Proof/Machine/AirCmds.lean ====
section
/-! DEFINITION. The two ends of a symbol in an antenna channel: RX_SYMBOL_DONE (R47, R145, R147, R151, R168) and
ACH_TX_STAGE_START (R41, R42, R115, R145, R159), both with what the host's slot commands say of them. -/
namespace Sys2Proof.Machine

/-! ## Receive -/

/-- The receive path runs for a symbol of a carrier that begins at `t` (R47): in SERVICE and TEST, in SHED below stage S5, in
QUIESCE until the last started slot ends. -/
def Chip.rxRuns (c : Chip) (w t : Nat) : Bool :=
  c.mode == mService || c.mode == mTest || (c.mode == mShed && c.stage < 5)
    || (c.mode == mQuiesce && c.hif.inflight.any fun h => h.isSlot && h.stage == .started
      && tickLater (tickAdd h.start (ccSlotTicks ((h.carrier.map (·.1)).getD w))) t)

/-- Start tick and SFN of symbol `sym` of a carrier: of this frame, or of the one before where it has not begun yet. -/
def Chip.symWhen (c : Chip) (w sym : Nat) : Nat × Nat :=
  let t := tickAdd c.ach.frameTick (symStart w sym)
  let sfn := c.rd F.TIME_FRAME_STAT_SFN
  if tickLater t c.tick then (tickAdd t (tickMod - frameTicks), (sfn + 1023) % 1024) else (t, sfn)

/-- The configuration with carrier `cc` that governs the symbol `sym` done last (R152, step 3): the one in force, or the one
before where the symbol began ahead of the boundary. -/
def Chip.cfgDone (c : Chip) (n cc sym : Nat) : AchCfg :=
  let x := c.achX n
  x.cfgAt (c.symWhen (x.cfg.ccw cc) sym).1

/-- The channel delivers zero symbols (R167): it is OUT, but for a slot that had started when its link was lost, which keeps
the channel with GAP samples (R168). -/
def Chip.rxZeros (c : Chip) (n w sym t : Nat) : Bool :=
  c.svc n == acOut && !(c.rd F.ACH_STAT_LEAVE_CAUSE n == 2 &&
    (match (c.achX n).outTick with | some o => !tickLater (slotTick w sym t) o | none => false))

/-- Status word of a received symbol (R151). -/
def rxStatus (st : Status) (sat : Bool) (code : Nat) (step : Bool) (t sym sfn : Nat) : Nat :=
  st.code + b2n sat * 2 ^ 8 + code * 2 ^ 9 + b2n step * 2 ^ 13 + t * 2 ^ 32 + sym * 2 ^ 64 + sfn * 2 ^ 80

/-- RX_SYMBOL_DONE (R145, R147, R151): `poisoned` is an internal buffer word read with poison. -/
def execRxSymbolDone (n : Fin 256) (cc : Fin 8) (sym : Nat) (poisoned : Bool) (s : State) :
    Host.Outcome State Fault Refusal :=
  s.stage fun c =>
    let g := c.cfgDone n cc sym
    let w := g.ccw cc
    let p := g.pool cc
    let (t, sfn) := c.symWhen w sym
    if ccType w = 0 || ccSyms w ≤ sym || !c.rxRuns w t then c
    else
      let len := symTicks w sym
      let zeros := c.rxZeros n w sym t
      let gap := !zeros && c.gapIn n t len
      let poi := poisoned && !zeros
      let xs := c.tapSamples n t len
      let vals := (List.range (ccSc w)).map fun k => if zeros then (0, false) else fdScale w (c.rxSub n w xs k)
      let sat := vals.any (·.2)
      let st := Status.worstOf ((if poi then [.poisoned] else []) ++ (if gap then [.gap] else []))
      let base := 0x300000000 + 128 * cpUl p + sym % cpBuf p * 128 * cpStride p
      let word := rxStatus st sat (c.codeAt n t) (c.stepIn n t len) t sym sfn
      let c := (c.writeWords .fabric base (packWords (ccSc w) fun k => (vals.getD k (0, false)).1) poi).1
      let c := (c.writeWord .fabric (base + 16 * ((ccSc w + 3) / 4)) word false).1
      c.when sat fun c => c.incSat F.ACH_CNT_FD_SAT n

/-! ## Transmit -/

/-- A symbol's ticks lie within one window (`all`) or meet some window of a configuration; windows in `skip` do not count. -/
def AchCfg.inWindow (g : AchCfg) (skip : List Nat) (t len : Nat) (all : Bool) : Bool :=
  g.period == 0 ||
    (let rel := tickDiff t g.origin % (g.period : Int)
     g.wins.any fun (e : Nat × Nat × Nat) => !skip.contains e.1 && [rel, rel - g.period].any fun r =>
      if all then decide ((e.2.1 : Int) ≤ r) && decide (r + len ≤ e.2.2)
      else decide ((e.2.1 : Int) < r + len) && decide (r < e.2.2))

/-- The downlink slot command that a symbol at a tick belongs to. -/
def Chip.dlCommand (c : Chip) (w t : Nat) : Option HostCmd :=
  c.hif.inflight.find? fun (h : HostCmd) => h.op == 2 && h.cell == ccCell w
    && decide (0 ≤ tickDiff t h.start) && decide (tickDiff t h.start < ccSlotTicks w)

/-- A channel transmits downlink data of a symbol (R47, R167): IN or LEAVING, in SERVICE or TEST, in QUIESCE of a slot that has
started. -/
def Chip.txRuns (c : Chip) (n w t : Nat) : Bool :=
  (c.svc n == acIn || c.svc n == acLeaving)
    && (c.mode == mService || c.mode == mTest
      || (c.mode == mQuiesce && (match c.dlCommand w t with | some h => h.stage == .started | none => false)))

/-- Start tick of the symbol `sym` that comes next. -/
def Chip.symNext (c : Chip) (w sym : Nat) : Nat :=
  let t := tickAdd c.ach.frameTick (symStart w sym)
  if tickLater c.tick t then tickAdd t frameTicks else t

/-- The configuration that governs the symbol `sym` that comes next: a pending one where the symbol begins at or after its
frame boundary (R152, step 3). -/
def Chip.cfgNext (c : Chip) (n cc sym : Nat) : AchCfg :=
  let x := c.achX n
  match x.pend with
  | some (g, b) => if tickLater b (c.symNext (dlWord (x.cfg.ccw cc)) sym) then x.cfg else g
  | none => x.cfg

/-- The transmit chain of a symbol of a carrier starts. `ready` says that its precoded data is in the pool: without it the
symbol is zeros on every antenna of the carrier and the slot command ends with DEADLINE_MISSED (R41). A symbol with samples
outside every window is counted, and one that meets no window, or skipped ones alone, is not transmitted (R159, R162). -/
def Chip.stageStart (c : Chip) (n cc sym : Nat) (ready : Bool) : Chip :=
  let g := c.cfgNext n cc sym
  let w := dlWord (g.ccw cc)
  let t := c.symNext w sym
  if ccType w = 0 || ccSyms w ≤ sym || !c.txRuns n w t then c
  else
    let len := symTicks w sym
    let c := if ready then c.when (!g.inWindow [] t len true) fun c => c.incSat F.ACH_CNT_TX_OUTSIDE n
      else
        let c := match c.dlCommand w t with
          | some h => c.dlMissed h.ref
          | none => c
        c.withAch { c.ach with
          zeroed := (c.ach.zeroed.filter fun (e : Nat × Nat) => tickDiff c.tick e.2 < frameTicks) ++ [(ccCell w, t)] }
    if g.inWindow (c.achX n).skip t len false then c.txSend g n cc sym t ready else c

/-- ACH_TX_STAGE_START. -/
def execAchTxStageStart (n : Fin 256) (cc : Fin 8) (sym : Nat) (ready : Bool) (s : State) :
    Host.Outcome State Fault Refusal :=
  s.stage fun c => c.stageStart n cc sym ready

end Sys2Proof.Machine
end

