-- ==== Sys2Proof/Machine/Plr.lean ====
section
/-! DEFINITION. The programmable logic region (spec/16_programmable_logic.md): loading and unloading of regions, holds,
and the levels of its pins. Its commands are in Machine/PlrCmds.lean. -/
namespace Sys2Proof.Machine

/-- Region states of R414. -/
abbrev rgEmpty : Nat := 0
abbrev rgDraining : Nat := 1
abbrev rgLoading : Nat := 2
abbrev rgChecking : Nat := 3
abbrev rgLoaded : Nat := 4
abbrev rgFailed : Nat := 5

/-- State of region `r`. -/
def Chip.rgState (c : Chip) (r : Nat) : Nat := c.rd F.PLR_REGION_STAT_STATE r

/-- Extra state of region `r`. -/
def Chip.region (c : Chip) (r : Nat) : PlrRegion := Tbl.get c.plr.regions r {}

/-- Set the extra state of region `r`. -/
def Chip.setRegion (c : Chip) (r : Nat) (x : PlrRegion) : Chip :=
  c.withPlr { c.plr with regions := Tbl.set c.plr.regions r x {} }

/-- Task ports of a region, as units (R412). -/
def rgPorts (r : Nat) : List Nat := (List.range 4).map fun k => 0x120 + 4 * r + k

/-- Set bit `r` of PLR_STAT.FENCED, and put the fence on the boundary. -/
def Chip.fenceRegion (c : Chip) (r : Nat) (on : Bool) : Chip :=
  (c.wr F.PLR_STAT_FENCED (setBit (c.rd F.PLR_STAT_FENCED) r on)).emit (.plr r "FENCE" (b2n on))

/-- Set the state of a region and bit `r` of PLR_STAT.LOADED. -/
def Chip.setRgState (c : Chip) (r st : Nat) : Chip :=
  (c.wr F.PLR_REGION_STAT_STATE st r).wr F.PLR_STAT_LOADED (setBit (c.rd F.PLR_STAT_LOADED) r (st == rgLoaded))

/-- The region claims no pin any more: its pins go to their safe state (R414, R421). -/
def Chip.dropPins (c : Chip) (r : Nat) : Chip :=
  (List.range 144).foldl (fun c p =>
    if c.rd F.PLR_PIN_CFG_REGION p = r then c.clrFields [F.PLR_PIN_CFG_IOSTD, F.PLR_PIN_CFG_DIR, F.PLR_PIN_CFG_DRIVE,
      F.PLR_PIN_CFG_SLEW_IMG] p |>.wr F.PLR_PIN_CFG_REGION 0xFF p else c) c

/-- The region claims the pins of an image. -/
def Chip.claimPins (c : Chip) (r : Nat) (img : PlrImage) : Chip :=
  img.pins.foldl (fun c x =>
    ((((c.wr F.PLR_PIN_CFG_REGION r x.pin).wr F.PLR_PIN_CFG_IOSTD x.iostd x.pin).wr F.PLR_PIN_CFG_DIR x.dir x.pin).wr
      F.PLR_PIN_CFG_DRIVE x.drive x.pin).wr F.PLR_PIN_CFG_SLEW_IMG x.slew x.pin) c

/-- Loaded regions other than `r`. -/
def Chip.loadedImages (c : Chip) (r : Nat) : List PlrImage :=
  (List.range 8).filterMap fun q => if q = r || c.rgState q ≠ rgLoaded then none else (c.region q).img

/-- A pin is named twice, or is claimed by a loaded region (R416, check 3). -/
def Chip.pinClash (c : Chip) (r : Nat) (img : PlrImage) : Bool :=
  let ps := img.pins.map (·.pin)
  !ps.Nodup || ps.any fun p => (c.loadedImages r).any fun i => i.pins.any (·.pin == p)

/-- A standard is allowed at a bank's VOLT (R420): 1 LVCMOS, 2 LVDS, 3 open-drain. -/
def ioAllowed (volt std : Nat) : Bool :=
  1 ≤ volt && volt ≤ 5 && (std == 1 || std == 3 || (std == 2 && (volt == 3 || volt == 4)))

/-- A tree source named by an image differs from the one a loaded region uses (R413). -/
def Chip.treeClash (c : Chip) (r : Nat) (img : PlrImage) : Bool :=
  img.trees.any fun t => (c.loadedImages r).any fun i => i.trees.any fun u => u.1 == t.1 && u.2 != t.2

/-- The first load check of R416 that fails, with its frame: `found` is what the frames themselves showed (checks 1, 2
and 5). -/
def Chip.loadError (c : Chip) (r : Nat) (img : PlrImage) (found : Option (Nat × Nat)) : Option (Nat × Nat) :=
  let cands : List (Nat × Nat) :=
    (match found with | some f => if [1, 2, 5].contains f.1 then [f] else [] | none => [])
      ++ (if c.pinClash r img then [(3, 0)] else [])
      ++ (if img.pins.any fun p => !ioAllowed (c.rd F.PLR_BANK_CFG_VOLT (p.pin / 24)) p.iostd then [(4, 0)] else [])
      ++ (if 2400 < img.frames then [(5, 2400)] else [])
      ++ (if c.treeClash r img then [(6, 0)] else [])
      ++ (if img.version ≠ 1 then [(8, 0)] else [])
  cands.foldl (fun best x => match best with | none => some x | some b => if x.1 < b.1 then some x else best) none

/-- Status of a load check that failed (R416). -/
def loadErrStatus (k : Nat) : Status := if k = 8 then .versionMismatch else .badDescriptor

/-- A measurement slot holds an image's measurement, or zeros (R491). -/
def Chip.setMeas (c : Chip) (m : Nat) (x : Option Meas) : Chip :=
  let y := x.getD ⟨0, 0, 0⟩
  let c := (List.range 6).foldl (fun c d => c.wr F.TRUST_MEAS_DIGEST (y.digest / 2 ^ (64 * d)) m d) c
  ((c.wr F.TRUST_MEAS_INFO_IMAGE_ID y.id m).wr F.TRUST_MEAS_INFO_SVN y.svn m).setFlag F.TRUST_MEAS_INFO_VALID x.isSome m

/-- The region's operation begins (R415, R417): a LOADED region drains, another starts at once. -/
def Chip.rgBegin (c : Chip) (r : Nat) (q : PlrReq) : Chip :=
  let c := c.setRegion r { c.region r with op := some q }
  if c.rgState r = rgLoaded then
    (rgPorts r).foldl (fun c u => if c.unitState u = uOut then c else c.unitRequest u 1) (c.setRgState r rgDraining)
  else
    match q with
    | .load _ _ _ =>
      let c := c.clrFields [F.PLR_REGION_STAT_LOAD_ERR, F.PLR_REGION_STAT_ERR_FRAME] r
      (c.fenceRegion r true).setRgState r rgLoading
    | .unload => ((c.setRegion r { c.region r with op := none }).setRgState r rgEmpty).wr F.PLR_REGION_CTRL_UNLOAD 0 r

/-- The fence of R415: once every port of a draining region is OUT, its outputs are fenced, its pins take their safe
state, and it enters LOADING, or EMPTY for an unload. The flag says that its operation has ended. -/
def Chip.rgFence (c : Chip) (r : Nat) : Chip × Bool :=
  if c.rgState r ≠ rgDraining || (rgPorts r).any (fun u => c.unitState u != uOut) then (c, false)
  else
    let x := c.region r
    let c := (((c.fenceRegion r true).dropPins r).dropBlks r).wr F.PLR_REGION_STAT_HELD 0 r
    let c := (c.wr F.PLR_REGION_STAT_IMAGE_ID 0 r).setMeas (3 + r) none
    match x.op with
    | some (.load _ _ _) =>
      let c := c.clrFields [F.PLR_REGION_STAT_LOAD_ERR, F.PLR_REGION_STAT_ERR_FRAME] r
      ((c.setRegion r { x with img := none }).setRgState r rgLoading, false)
    | _ =>
      (((c.setRegion r { x with op := none, img := none }).setRgState r rgEmpty).wr F.PLR_REGION_CTRL_UNLOAD 0 r, true)

/-- The held request of a region starts (R417). -/
def Chip.rgNext (c : Chip) (r : Nat) : Chip :=
  let x := c.region r
  match x.held with
  | none => c
  | some q => ((c.setRegion r { x with held := none }).wr F.PLR_REGION_STAT_PEND 0 r).rgBegin r q

/-- The fence, and the held request behind an unload that has ended. -/
def Chip.rgAdvance (c : Chip) (r : Nat) : Chip :=
  match c.rgFence r with
  | (c, true) => c.rgNext r
  | (c, false) => c

/-- A load or unload is requested (R417): it starts, or is held behind the operation in progress and replaces the one
held before. -/
def Chip.rgRequest (c : Chip) (r : Nat) (q : PlrReq) : Chip :=
  let x := c.region r
  if x.op.isNone then (c.rgBegin r q).rgAdvance r
  else
    let c := match x.held with
      | some (.load _ src _) => c.finishCmd src .superseded
      | some .unload => if q = PlrReq.unload then c else c.wr F.PLR_REGION_CTRL_UNLOAD 0 r
      | none => c
    (c.setRegion r { c.region r with held := some q }).wr F.PLR_REGION_STAT_PEND 1 r

/-- A load fails (R416): its frames are cleared, the region is FAILED, the supplying command completes. -/
def Chip.rgFail (c : Chip) (r err frame : Nat) : Chip :=
  let x := c.region r
  let st := loadErrStatus err
  let c := (c.wr F.PLR_REGION_STAT_LOAD_ERR err r).wr F.PLR_REGION_STAT_ERR_FRAME frame r
  let c := c.wr F.PLR_REGION_STAT_LAST_STATUS st.code r
  let c := match x.op with | some (.load _ src _) => c.finishCmd src st | _ => c
  ((((c.setRegion r { x with op := none, img := none }).dropPins r).dropBlks r).setRgState r rgFailed).rgNext r

/-! ## Holds (R426) -/

/-- A loaded region is held: in RELAY, at shed stage S5, with its domain OFF; in VERIFY one held before stays held until
its own load check. -/
def Chip.rgHoldWanted (c : Chip) (r : Nat) : Bool :=
  c.rgState r == rgLoaded &&
    (c.mode == mRelay || c.s5Halt || c.domState (53 + r) == dOff
      || (c.mode == mVerify && c.flag F.PLR_REGION_STAT_HELD r))

/-- Bring the hold of a region up to date: a hold stops and fences it and completes the tasks it holds with SHED (R351);
a release restarts it with its flip-flops at their initial values. -/
def Chip.rgHold (c : Chip) (r : Nat) : Chip :=
  let want := c.rgHoldWanted r
  if want == c.flag F.PLR_REGION_STAT_HELD r then c
  else if want then
    let c := (c.wr F.PLR_REGION_STAT_HELD 1 r).fenceRegion r true
    (rgPorts r).foldl (fun c u => (c.heldTasks u).foldl (fun c t => c.taskEnd t .shed t.ran u) c) c
  else if c.rgState r = rgLoaded then (c.wr F.PLR_REGION_STAT_HELD 0 r).fenceRegion r false
  else c.wr F.PLR_REGION_STAT_HELD 0 r

/-- Every region's hold after a change of mode, stage or domain. -/
def Chip.rgHolds (c : Chip) : Chip := (List.range 8).foldl Chip.rgHold c

/-- A region's logic runs. -/
def Chip.rgRuns (c : Chip) (r : Nat) : Bool :=
  (c.rgState r == rgLoaded || c.rgState r == rgDraining) && !c.flag F.PLR_REGION_STAT_HELD r && c.domRuns (53 + r)

/-- The memory blocks of the regions that run, for one tick (R419); the blocks keep their contents through a hold (R426). -/
def Chip.plrTick (c : Chip) : Chip :=
  c.plr.blocks.foldl (fun c e => c.when (c.rgRuns (e.1 / 128)) (·.blkTick (e.1 / 128) (e.1 % 128))) c

/-- A load's check passes (R415, step 5): the region is LOADED and released, and with AUTO_READMIT its ports are
re-admitted. -/
def Chip.rgRelease (c : Chip) (r : Nat) (img : PlrImage) (src : Option CmdRef) (meas : Meas) : Chip :=
  let c := c.setRegion r { c.region r with op := none, img := some img }
  let c := ((c.wr F.PLR_REGION_STAT_LAST_STATUS 0 r).wr F.PLR_REGION_STAT_IMAGE_ID img.id r).setMeas (3 + r) (some meas)
  let c := ((c.setRgState r rgLoaded).wr F.PLR_REGION_STAT_HELD 0 r).fenceRegion r false
  let c := (c.finishCmd src .ok).rgHold r
  let c := c.when (c.flag F.PLR_REGION_CTRL_AUTO_READMIT r) fun c =>
    (rgPorts r).foldl (fun c u => c.unitRequest u 2) c
  c.retryAdmits.rgNext r

/-! ## Pins (R420–R425) -/

/-- Supply of a bank in mV by its VOLT, none where unused. -/
def voltMv (v : Nat) : Option Nat :=
  match v with | 1 => some 1200 | 2 => some 1500 | 3 => some 1800 | 4 => some 2500 | 5 => some 3300 | _ => none

/-- An interrupt or wake input. -/
def Chip.pinWatched (c : Chip) (p : Nat) : Bool := c.flag F.PLR_PIN_CFG_IRQ_EN p || c.flag F.PLR_PIN_CFG_WAKE p

/-- The source is masked by a storm (R424). -/
def Chip.pinMasked (c : Chip) (p : Nat) : Bool := bit (c.rd F.PLR_STORM_MASKED (p / 64)) (p % 64)

/-- The filtered level of a pin. -/
def Chip.pinLevel (c : Chip) (p : Nat) : Bool := Tbl.get c.plr.levels p 0 == 1

/-- What the logic of the region that claims a pin sees there: 0 while the bank has no supply, else the filtered level, which
a mask keeps at the last one before it (R420, R423, R424). -/
def Chip.pinSeen (c : Chip) (p : Nat) : Bool := c.flag F.PLR_BANK_CFG_SUPPLY_OK (p / 24) && c.pinLevel p

/-- The logic is shown the level at a pin its region claims. -/
def Chip.pinShow (c : Chip) (p : Nat) : Chip :=
  let r := c.rd F.PLR_PIN_CFG_REGION p
  c.when (r < 8) fun c => c.emit (.plr r "PIN" (2 * p + b2n (c.pinSeen p)))

/-- The supply of a bank as measured (R420): SUPPLY_OK within 10 % of VOLT, VMISMATCH outside it but not below 0.3 V. Where
SUPPLY_OK changes, so does what the logic sees of the bank's inputs. -/
def Chip.bankMeas (c : Chip) (b mv : Nat) : Chip :=
  let ok := match voltMv (c.rd F.PLR_BANK_CFG_VOLT b) with
    | some n => 9 * n ≤ 10 * mv && 10 * mv ≤ 11 * n
    | none => false
  let old := c.flag F.PLR_BANK_CFG_SUPPLY_OK b
  let c := c.wr F.PLR_BANK_CFG_VMEAS (min (mv / 20) 255) b
  let c := (c.setFlag F.PLR_BANK_CFG_SUPPLY_OK ok b).setFlag F.PLR_BANK_CFG_VMISMATCH (!ok && decide (300 ≤ mv)) b
  if ok = old then c else (List.range 24).foldl (fun c k => c.pinShow (24 * b + k)) c

/-- What is at a pin's pad: nothing drives it, its keeper or a weak pull holds it, it is an input, or the logic drives it at
a drive code, with slow slew or not. -/
inductive Pad
  | float
  | hold
  | pullUp
  | pullDown
  | input
  | driven (drive : Nat) (slow : Bool)
  deriving DecidableEq, Repr

/-- The pad by its safe-state code (R421). -/
def padSafe (code : Nat) : Pad :=
  if code = 0 then .hold else if code = 1 then .pullUp else if code = 2 then .pullDown else .float

/-- The pad of a pin (R54, R420–R422): in BYPASS and in a bank without supply it floats, whatever else holds; a pin that no
running region claims is in its safe state; a claimed output has the lower of the image's drive and the cap, and slow slew
where either asks for it. -/
def Chip.pad (c : Chip) (p : Nat) : Pad :=
  let r := c.rd F.PLR_PIN_CFG_REGION p
  if c.mode = mBypass || !c.flag F.PLR_BANK_CFG_SUPPLY_OK (p / 24) then .float
  else if !(decide (r < 8) && c.rgRuns r) then padSafe (c.rd F.PLR_BANK_SAFE_SAFE (p / 24) / 4 ^ (p % 24) % 4)
  else if c.rd F.PLR_PIN_CFG_DIR p = 0 then .input
  else .driven (min (c.rd F.PLR_PIN_CFG_DRIVE p) (c.rd F.PLR_PIN_CFG_DRIVE_CAP p))
    (c.flag F.PLR_PIN_CFG_SLEW_IMG p || c.flag F.PLR_PIN_CFG_SLOW_ONLY p)

/-- The source is active at a level. -/
def Chip.pinActive (c : Chip) (p : Nat) (lvl : Bool) : Bool := lvl != c.flag F.PLR_PIN_CFG_ACTIVE_LOW p

/-- The source fires in PLR_IRQ_STAT (R423). -/
def Chip.pinFire (c : Chip) (p : Nat) : Chip :=
  let c := c.wr F.PLR_IRQ_STAT_FIRED (setBit (c.rd F.PLR_IRQ_STAT_FIRED (p / 64)) (p % 64) true) (p / 64)
  c.when (c.flag F.PLR_PIN_CFG_LEVEL p) fun c =>
    c.withPlr { c.plr with fired := (c.plr.fired.filter (· != p)) ++ [p] }

/-- A filtered level at a pin (R423, R424): the flag says that the source fires. -/
def Chip.pinInput (c : Chip) (p : Nat) (lvl : Bool) : Chip × Bool :=
  if !c.flag F.PLR_BANK_CFG_SUPPLY_OK (p / 24) || c.pinMasked p then (c, false)
  else
    let old := c.pinLevel p
    let edge := old != lvl
    let act := c.pinActive p lvl
    let c := c.withPlr { c.plr with
      levels := Tbl.set c.plr.levels p (b2n lvl) 0
      edges := if edge && c.pinWatched p then Tbl.set c.plr.edges p (Tbl.get c.plr.edges p 0 + 1) 0 else c.plr.edges }
    if !c.pinWatched p then (c, false)
    else if c.flag F.PLR_PIN_CFG_LEVEL p then
      if act then (if c.plr.fired.contains p then (c, false) else (c.pinFire p, true))
      else ((c.withPlr { c.plr with fired := c.plr.fired.filter (· != p) }), false)
    else if edge && act then (c.pinFire p, true) else (c, false)

/-- A pin's configuration changes (R425): its source is re-armed. -/
def Chip.pinRearm (c : Chip) (p : Nat) : Chip :=
  c.withPlr { c.plr with fired := c.plr.fired.filter (· != p) }

end Sys2Proof.Machine
end

