-- ==== Sys2Proof/Machine/Domains.lean ====
section
/-! DEFINITION. What a power domain keeps and loses (spec/18_power.md R449, R450), its save list (R457), when it is idle
(R453), and the ends of its transitions. The commands of the power controller are in Machine/PowerCmds.lean. -/
namespace Sys2Proof.Machine

/-! ## Save lists (R457) -/

/-- The address of entry `k` of a domain's save list. -/
def Chip.saveAddr (c : Chip) (d k : Nat) : Nat := 0x3F0000000 + 16 * (c.rd F.PWR_DOM_CFG_SAVE_BASE d + k)

/-- Entries of the save list; above 256 acts as 256. -/
def Chip.saveLen (c : Chip) (d : Nat) : Nat := min 256 (c.rd F.PWR_DOM_CFG_SAVE_LEN d)

/-- The register an entry names: in the domain's own blocks, with the width the entry gives. -/
def Chip.saveReg (c : Chip) (d w : Nat) : Option (RegInfo × Nat × Nat) :=
  let a := bits w 27 0
  if c.ctlDomain a != some d then none
  else
    match regFind regMap a with
    | some (r, i, j) => if r.bytes = (if bit w 28 then 8 else 4) then some (r, i, j) else none
    | none => none

/-- An entry is skipped and counted. -/
def Chip.saveSkip (c : Chip) (d : Nat) (poisoned : Bool) : Chip :=
  (c.incSat F.PWR_DOM_STAT_SAVE_SKIP d).when poisoned fun c => c.postPoison 0x7FF srcPwr 9 0

/-- Entry to OFF: the registers listed are read into the entries, in order. -/
def Chip.saveList (c : Chip) (d : Nat) : Chip :=
  (List.range (c.saveLen d)).foldl (fun c k =>
    let a := c.saveAddr d k
    let (c, w) := c.readStored a
    if w.poison then c.saveSkip d true
    else
      match c.saveReg d w.data with
      | some (r, i, j) => c.writeStored a (w.data % 2 ^ 64 + c.regVal r.fields i j * 2 ^ 64) false
      | none => c.saveSkip d false) c

/-- A restored value: the fields that take writes, whatever the mode and the lock. -/
def Chip.restoreReg (c : Chip) (fs : List Fld) (v i j : Nat) : Chip :=
  fs.foldl (fun c f => if f.acc == .rw || f.acc == .rwv || f.acc == .lck then c.wr f (f.of v) i j else c) c

/-- Wake from OFF: the values are written back, in order. -/
def Chip.restoreList (c : Chip) (d : Nat) : Chip :=
  (List.range (c.saveLen d)).foldl (fun c k =>
    let (c, w) := c.readStored (c.saveAddr d k)
    if w.poison then c.saveSkip d true
    else
      match c.saveReg d w.data with
      | some (r, i, j) => c.restoreReg r.fields (bits w.data 127 64) i j
      | none => c.saveSkip d false) c

/-! ## Loss and waking (R449, R450) -/

/-- Power domain of the block of a register field's key; none for always-on blocks. -/
def Chip.keyDomain (c : Chip) (k : Nat) : Option Nat :=
  let id := k / 2 ^ 32
  match regMap.find? fun r => r.fields.any fun f => f.id == id with
  | some r => c.ctlDomain (r.addr (k / 2 ^ 16 % 2 ^ 16) (k % 2 ^ 16))
  | none => none

/-- Fields that stand for fuses and substitutions, not for the domain's flip-flops. -/
def fuseFields : List Nat := [F.CLU_ENG_STAT_PHYS.id, F.AE_MAP_PHYS.id, F.AE_MAP_SPARE_PHYS.id, F.AE_MAP_SPARE_FREE.id]

/-- Fields that an entry to OFF leaves as they are: the fused ones, and EN of the burst receivers, which RELAY, VERIFY and
BYPASS keep though their domain is OFF there (R184). -/
def keptInOff : List Nat := F.BRn_CFG_EN.id :: fuseFields

/-- The registers of a domain's blocks go back to their reset values. -/
def Chip.loseRegs (c : Chip) (d : Nat) : Chip :=
  c.withRegs (c.regs.filter fun e => keptInOff.contains (e.1 / 2 ^ 32) || c.keyDomain e.1 != some d)

/-- Coding engines of a domain. -/
def ceOf (d : Nat) : List Nat := (List.range 12).filter fun k => unitDomain id id (0x110 + k) == d

/-- Ports of an Ethernet group. -/
def Chip.ethPortsOf (c : Chip) (d : Nat) : List Nat :=
  (List.range 16).filter fun q => (if c.rd F.ETH_CFG_MODE = 1 then q / 4 else q) == d - 49

/-- What a domain's blocks hold beside memory and registers is lost. The instruction stores and an image's entry groups
stay at retention voltage. -/
def Chip.loseHidden (c : Chip) (d : Nat) : Chip :=
  if d < 16 then
    let k := Tbl.get c.clu.clus d {}
    c.withClu { c.clu with
      engs := Tbl.eraseIf c.clu.engs fun e => e / 16 == d
      clus := Tbl.set c.clu.clus d { codeLen := k.codeLen, entry := k.entry, evec := k.evec } {} }
  else if d < 25 then
    match c.pressLogical (d - 16) with
    | some n => c.withAe { c.ae with press := Tbl.erase c.ae.press n }
    | none => c
  else if d < 33 then
    let g := d - 25
    let c := c.withEcv { c.ecv with
      links := Tbl.eraseIf c.ecv.links fun l => l / 2 == g && l < 16
      lpReq := c.ecv.lpReq.filter fun l => l / 2 != g }
    c.withAch { c.ach with chans := Tbl.eraseIf c.ach.chans fun n => n / 32 == g }
  else if d < 37 then c.withCode { c.code with eng := Tbl.eraseIf c.code.eng fun k => (ceOf d).contains k }
  else if d = 37 then c.withBrx {}
  else if d = 38 then
    c.withCal { c.cal with
      ants := [], group := 0, sweepTick := none, gcSweeps := 0, gcOdd := false, rho := [], slopes := [] }
  else if d = 47 || d = 48 then
    c.withMems { c.mems with
      filling := c.mems.filling.filter (· != d - 47)
      unfilled := (c.mems.unfilled.filter (· != d - 47)) ++ [d - 47] }
  else if 49 ≤ d && d < 53 then
    (c.ethPortsOf d).foldl (fun c q => (c.wr F.ETH_PORT_STAT_LINK_UP 0 q).wr F.ETH_PORT_STAT_SPEED 0 q) c
  else if 53 ≤ d && d < 61 then c.loseBlks (d - 53)
  else c

/-- The transmitters of a front-end group's links, or of an Ethernet group's ports, float where the group loses its supply:
the partner sees LOS, or link down (R462). -/
def Chip.floatLinks (c : Chip) (d : Nat) : Chip :=
  if 25 ≤ d && d < 33 then
    [2 * (d - 25), 2 * (d - 25) + 1].foldl (fun c l => c.emit (.linkAct l "float" 0)) c
  else if 49 ≤ d && d < 53 then (c.ethPortsOf d).foldl (fun c q => c.emit (.eth q "float" [])) c
  else c

/-- A domain enters OFF: its save list is written, everything R450 does not name is lost. -/
def Chip.domLost (c : Chip) (d : Nat) : Chip :=
  let c := (c.saveList d).floatLinks d
  (((c.loseDomain d).loseHidden d).loseRegs d)

/-- Units that run start as at first start: the engines of a cluster at their entry group (R267, R449). -/
def Chip.startEngines (c : Chip) (n : Nat) : Chip :=
  if c.mode == mBypass || c.mode == mRelay || c.mode == mVerify || (Tbl.get c.clu.clus n {}).codeLen == 0 then c
  else (List.range 16).foldl (fun c j =>
    if c.unitState (16 * n + j) = uOut then c.wr F.CLU_ENG_STAT_STATE 6 n j else c.engStart (16 * n + j)) c

/-- A stack's fill starts (R390). -/
def Chip.fillStart (c : Chip) (s : Nat) : Chip :=
  let c := c.clearRange (0x4000000000 + s * 0x600000000) 0x600000000
  c.withMems { c.mems with
    filling := (c.mems.filling.filter (· != s)) ++ [s]
    unfilled := c.mems.unfilled.filter (· != s)
    fillTick := Tbl.set c.mems.fillTick s c.tick 0 }

/-- A domain has woken: from OFF its save list is restored and its units start as at first start; links that may train
begin (R449). -/
def Chip.domWoken (c : Chip) (d : Nat) (fromOff : Bool) : Chip :=
  if !fromOff then c
  else
    let c := c.restoreList d
    if d < 16 then c.startEngines d
    else if 25 ≤ d && d < 33 then (c.linkStart (2 * (d - 25))).linkStart (2 * (d - 25) + 1)
    else if d = 47 || d = 48 then c.fillStart (d - 47)
    else c

/-! ## Idle (R453, R462) -/

/-- Power domain a packet is bound for (R367): of the address, or of the unit a message goes to. -/
def Chip.pktDomain (c : Chip) (k : Pkt) : Option Nat :=
  match k.op with
  | .msg => if isUnit k.addr then some (c.unitDom k.addr) else none
  | _ => c.addrDomain k.addr

/-- Units of a domain. -/
def Chip.domUnits (c : Chip) (d : Nat) : List Nat :=
  if d < 16 then (List.range 16).map (16 * d + ·)
  else if d < 25 then ((c.pressLogical (d - 16)).map (0x100 + ·)).toList
  else if 33 ≤ d && d < 37 then (ceOf d).map (0x110 + ·)
  else if 53 ≤ d && d < 61 then (List.range 4).map (0x120 + 4 * (d - 53) + ·)
  else []

/-- Fabric port through which a domain's units make requests. -/
def domPorts (d : Nat) : List Nat :=
  if d < 16 then [portCluster d] else if d < 25 then [portPress (d - 16)]
  else if d < 33 then [portFeg (d - 25)] else if d < 37 then (ceOf d).map portCe
  else if d = 37 then [28] else if d = 38 then [29] else []

/-- A link of the group keeps the domain from leaving ON: it trains or is ACTIVE, not in low power (R462). -/
def Chip.linkBusy (c : Chip) (l : Nat) : Bool :=
  1 ≤ c.lkState l && c.lkState l ≤ 11 && c.lkState l != 8 && c.lkState l != 9

/-- The domain is idle. -/
def Chip.domIdle (c : Chip) (d : Nat) : Bool :=
  (c.domUnits d).all (fun u => (c.heldTasks u).isEmpty)
    && (d ≥ 16 || ((List.range 16).all (fun j => (Tbl.get c.clu.engs (16 * d + j) {}).acc.isEmpty)
        && (Tbl.get c.clu.clus d {}).fills.isEmpty && (Tbl.get c.clu.clus d {}).wbs.isEmpty))
    && c.fab.open_.all (fun (e : Nat × List Pkt) => e.2.all fun p =>
        c.pktDomain p != some d && !(domPorts d).contains p.src)
    && c.fab.ante.all (fun (e : Nat × List Pkt) => e.2.all fun p => !(domPorts d).contains p.src)
    && c.mems.waiting.all (fun p => c.pktDomain p != some d && !(domPorts d).contains p.src)
    && (d < 25 || 33 ≤ d || (!c.linkBusy (2 * (d - 25)) && !c.linkBusy (2 * (d - 25) + 1)))

/-! ## Locks (R368, R456) -/

/-- Packets held for a locked domain are answered with DOMAIN_OFF; a read gets a poisoned zero word. -/
def Chip.anteOff (c : Chip) (d : Nat) : Chip :=
  if !c.domLocked d then c
  else
    let mine (p : Pkt) : Bool := c.pktDomain p == some d
    let out := c.fab.ante.flatMap fun (e : Nat × List Pkt) => e.2.filter mine
    if out.isEmpty then c
    else
      let c := c.withFab { c.fab with
        ante := (c.fab.ante.map fun (e : Nat × List Pkt) => (e.1, e.2.filter fun p => !mine p)).filter fun
          (e : Nat × List Pkt) => !e.2.isEmpty }
      out.foldl (fun c p => c.absorb p .domainOff) c

/-- The lock of a domain is brought up to date, and its anteroom answered. -/
def Chip.domLockUp (c : Chip) (d : Nat) : Chip := (c.domRelock d).anteOff d

/-- A Press has a tile in progress, or a coding engine a code block. -/
def Chip.blockRuns (c : Chip) : Bool :=
  ((List.range 8).any fun n => (c.aeRun n).isSome) || (List.range 12).any fun k => (c.codeRun k).isSome

/-- The locks of stage S5 that waited for tiles and code blocks in progress are set once none is left (R209, R237, R456). -/
def Chip.shedLocks (c : Chip) : Chip :=
  if !c.pwr.lockWait || c.blockRuns then c
  else
    let c := c.withPwr { c.pwr with lockWait := false }
    (List.range 64).foldl (fun c d => if shedLockable d then c.domLockUp d else c) c

/-! ## Ends of transitions (R453, R454) -/

/-- A domain's wake ends: it is ON, and where the request named a shallower state than ON was left for, the entry to that
state follows at once (R453). -/
def Chip.wakeDone (c : Chip) (d : Nat) : Chip :=
  let st := c.rd F.PWR_DOM_STAT_TARGET d
  let cur := c.domState d
  if !c.flag F.PWR_DOM_STAT_IN_TRANSITION d || c.flag F.PWR_DOM_STAT_IDLE_WAIT d || !(c.domX d).ramped || cur = dOn
      || !(st < cur) then c
  else
    let c := (c.wr F.PWR_DOM_STAT_STATE dOn d).domWoken d (cur == dOff)
    match (c.domX d).next with
    | some t => ((c.setDomX d { c.domX d with ramped := false, next := none }).wr F.PWR_DOM_STAT_TARGET t d).queueRamp
        ⟨some d, false⟩
    | none => (((c.domEnd d dOn .ok).rgHolds).domEval d).anteOff d

/-- A domain's entry to a lower state ends. -/
def Chip.entryDone (c : Chip) (d : Nat) : Chip :=
  let st := c.rd F.PWR_DOM_STAT_TARGET d
  let cur := c.domState d
  if !c.flag F.PWR_DOM_STAT_IN_TRANSITION d || c.flag F.PWR_DOM_STAT_IDLE_WAIT d || !(c.domX d).ramped || !(cur < st) then c
  else
    let c := c.when (cur == dOn) fun c => c.dropRepairs d
    let c := c.when (st == dOff) fun c => c.domLost d
    (((c.domEnd d st .ok).rgHolds).domEval d).anteOff d

/-- A mode entry puts a domain into a state directly, past ramps and requests (R452; log entry 51); a locked domain keeps
its lock state. -/
def Chip.domForce (c : Chip) (d st : Nat) : Chip :=
  if c.domLocked d then c
  else
    let cur := c.domState d
    let c := c.withPwr { c.pwr with ramps := c.pwr.ramps.filter fun r => r.dom != some d }
    let c := c.clrFields [F.PWR_DOM_STAT_IN_TRANSITION, F.PWR_DOM_STAT_IDLE_WAIT, F.PWR_DOM_STAT_ENABLE_PENDING,
      F.PWR_DOM_PEND_PEND_VALID, F.PWR_DOM_PEND_HW_PEND, F.PWR_DOM_PEND_PEND_STATE] d
    let c := c.setDomX d { saved := (c.domX d).saved }
    let c := c.when (cur == dOn && st != dOn) fun c => c.dropRepairs d
    let c := c.when (st == dOff && cur != dOff) fun c => c.domLost d
    let c := (c.wr F.PWR_DOM_STAT_STATE st d).wr F.PWR_DOM_STAT_TARGET st d
    c.when (st != dOff && cur == dOff) fun c => c.domWoken d true

/-- An Ethernet group holds a port with a timing role (R452). -/
def Chip.ethTiming (c : Chip) (g : Nat) : Bool :=
  (List.range 16).any fun q =>
    (if c.rd F.ETH_CFG_MODE = 1 then q / 4 == g else q == g)
      && (c.flag F.ETH_PORT_CFG_ROLE_PTP q || c.flag F.ETH_PORT_CFG_ROLE_SYNCE q)

/-- The state R452 gives a domain at entry to RELAY. -/
def Chip.relayState (c : Chip) (quiesce : Bool) (d : Nat) : Nat :=
  if 61 ≤ d || (25 ≤ d && d < 33) then dOn
  else if 49 ≤ d && d < 53 then (if c.ethTiming (d - 49) then dOn else dOff)
  else if d = 47 || d = 48 then
    (if quiesce && !c.mems.unfilled.contains (d - 47) && c.domState d != dOff then dRetain else dOff)
  else dOff

/-- The domains at entry to RELAY. -/
def Chip.relayDomains (c : Chip) (quiesce : Bool) : Chip :=
  (List.range 64).foldl (fun c d => c.domForce d (c.relayState quiesce d)) c

end Sys2Proof.Machine
end

