-- ==== Sys2Proof/Machine/CodeCmds.lean ====
section
/-! DEFINITION. The commands of the coding engines (spec/08_channel_coding.md R218–R238). -/
namespace Sys2Proof.Machine

/-! ## Starting a job -/

/-- The operation under whose name a job starts: its own where the engine accepts it, else the engine's first, which
refuses it (R220). -/
def codeName (k op : Nat) : Nat := if codeAccepts k op then op else if k < 8 then 1 else if k < 10 then 3 else 5

/-- The payload of an encode: the words of its input, the first bit highest, and which words were poisoned (R222). -/
def Chip.codePayload (c : Chip) (k : Nat) (r : CodeRun) : Chip × CodeRun :=
  let n := (r.a + 7) / 8
  let (c, ws) := c.readWords (.coding k) r.inAddr ((n + 15) / 16)
  let v := (List.range n).foldl (fun v i =>
    v * 256 + (match ws[i / 16]? with | some w => w.data / 2 ^ (8 * (i % 16)) % 256 | none => 0)) 0
  let bad := (List.range ws.length).filter fun d => match ws[d]? with | some w => w.poison | none => false
  (c, { r with data := v / 2 ^ (8 * n - r.a), srcBad := bad, cond := r.cond ||| condOf ws })

/-- The input of a decode: its G soft values in whole words (R222). -/
def Chip.codeInput (c : Chip) (k : Nat) (r : CodeRun) : Chip × CodeRun :=
  let (c, ws) := c.readWords (.coding k) r.inAddr ((r.g + 15) / 16)
  (c, { r with inp := ws.map fun w => (w.data, w.poison), cond := r.cond ||| condOf ws })

/-- The status that refuses a job before anything of it is executed (R220, R221); of two R36 reports the higher. -/
def Chip.codeRefusal (c : Chip) (k : Nat) (r : CodeRun) : Option Status :=
  if r.addr % 64 ≠ 0 || !codeAccepts k r.op || !c.codeOk r then some .badDescriptor
  else if bits (r.w.getD 0 0) 11 8 ≠ 1 then some .versionMismatch
  else none

/-- Read a job's descriptor and, where nothing refuses it, its input (R218, R235). -/
def Chip.codeFetch (c : Chip) (k : Nat) (t : Task) : Chip × CodeRun :=
  let (c, ws) := c.readWords (.coding k) t.arg 3
  let r : CodeRun := { task := t.id, addr := t.arg, w := ws.map (·.data) }
  if ws.any (·.poison) then
    (c.postPoison (0x110 + k) srcCode 1 t.arg,
      { r with refused := some (Status.worstOf (.poisoned :: ws.map (·.status))) })
  else
    match c.codeRefusal k r with
    | some st => (c, { r with refused := some st })
    | none => if r.dec then c.codeInput k r else c.codePayload k r

/-- Start a job that has been read; one whose deadline has passed is not coded, only combined where it has a HARQ buffer
(R236). -/
def Chip.codeBegin (c : Chip) (k : Nat) (t : Task) (r : CodeRun) : Chip :=
  let c := c.putTask { t with ran := true }
  match r.refused with
  | some st => c.codeFinish k t.id st
  | none =>
    c.setCode k (some (if c.deadlinePassed t.deadline then
      { r with cond := condAdd r.cond .deadlineMissed, missed := true, finished := !r.harqEn } else r))

/-- An engine reads the next dispatched job, if its operation is `op`, and starts it once no job runs (R218–R221, R233, R235,
R237). -/
def Chip.codeStart (c : Chip) (k op : Nat) : Chip :=
  if !c.codeRuns k || c.flag F.CODE_CTRL_FLUSH then c
  else
    let busy := (c.codeRun k).isSome
    match c.codeReady k with
    | some r =>
      match c.task r.task with
      | some t => if busy || codeName k r.op ≠ op then c
        else (c.withCode { c.code with eng := Tbl.set c.code.eng k {} {} }).codeBegin k t r
      | none => c
    | none =>
      match (c.heldTasks (0x110 + k)).find? fun t => !t.ran with
      | none => c
      | some t =>
        let (c1, r) := c.codeFetch k t
        if codeName k r.op ≠ op then c
        else if busy then c1.withCode { c1.code with eng := Tbl.set c1.code.eng k { c1.codeX k with ready := some r } {} }
        else c1.codeBegin k t r

/-- LDPC_DEC: also the job that no engine CE0–CE7 accepts. -/
def execLdpcDec (k : Fin 8) (s : State) : Host.Outcome State Fault Refusal := s.stage fun c => c.codeStart k 1

/-- LDPC_ENC. -/
def execLdpcEnc (k : Fin 8) (s : State) : Host.Outcome State Fault Refusal := s.stage fun c => c.codeStart k 2

/-- POLAR_DEC: engine CE8 + k; also the job that it does not accept. -/
def execPolarDec (k : Fin 2) (s : State) : Host.Outcome State Fault Refusal :=
  s.stage fun c => c.codeStart (8 + k.val) 3

/-- POLAR_ENC. -/
def execPolarEnc (k : Fin 2) (s : State) : Host.Outcome State Fault Refusal :=
  s.stage fun c => c.codeStart (8 + k.val) 4

/-- TURBO_DEC: engine CE10 + k; also the job that it does not accept. -/
def execTurboDec (k : Fin 2) (s : State) : Host.Outcome State Fault Refusal :=
  s.stage fun c => c.codeStart (10 + k.val) 5

/-- TURBO_ENC. -/
def execTurboEnc (k : Fin 2) (s : State) : Host.Outcome State Fault Refusal :=
  s.stage fun c => c.codeStart (10 + k.val) 6

/-- CONV_DEC. -/
def execConvDec (k : Fin 2) (s : State) : Host.Outcome State Fault Refusal :=
  s.stage fun c => c.codeStart (10 + k.val) 7

/-- CONV_ENC. -/
def execConvEnc (k : Fin 2) (s : State) : Host.Outcome State Fault Refusal :=
  s.stage fun c => c.codeStart (10 + k.val) 8

/-! ## HARQ entries -/

/-- Address of a job's HARQ entry (R229). -/
def Chip.entryAddr (c : Chip) (r : CodeRun) : Nat := c.harqTbl + 16 * r.entry

/-- CODE_HARQ_ENTRY_READ (R231, R232, R235). -/
def Chip.harqRead (c : Chip) (k : Nat) (r : CodeRun) : Chip :=
  let a := c.entryAddr r
  let (c, e) := c.readWord (.coding k) a
  let valid := bit e.data 0
  let named := bits e.data 31 16
  let c := c.when e.poison fun c =>
    (c.postPoison (0x110 + k) srcCode 1 a).when valid fun c => c.incSat F.CODE_HARQ_STAT_LEAKED 0 0 named
  let r := if e.status = .ok || e.status = .poisoned then r else { r with cond := condAdd r.cond e.status }
  let n := r.seg.c
  let new (c : Chip) (reset : Bool) : Chip :=
    let (c, l) := c.takeSlabs n
    let lack := l.length < n
    (c.when lack (·.incSat F.CODE_HARQ_STAT_ALLOC_FAIL)).setCode k
      (some { r with harq := some { slabs := l, reset := reset, lack := lack, again := false } })
  if !valid || e.poison then new c false
  else
    let (c, old) := c.slabChain k named (bits e.data 63 32)
    let same := bits e.data 84 64 = r.a && bits e.data 2 2 = r.bg && bits e.data 3 3 = b2n (r.op == 5)
    if bits e.data 1 1 ≠ r.ndi then new (c.dropSlabs old) false
    else if !same then new (c.dropSlabs old) true
    else c.setCode k (some { r with harq := some { slabs := old, reset := false, lack := false, again := true } })

/-- CODE_HARQ_ENTRY_READ: the job waits while another engine holds the entry, an earlier job names it, or the HARQ state
is being flushed (R233). -/
def execCodeHarqEntryRead (k : Fin 12) (s : State) : Host.Outcome State Fault Refusal :=
  s.stage fun c =>
    match c.codeRun k with
    | none => c
    | some r =>
      let ord := match c.task r.task with | some t => t.ord | none => 0
      if r.harqEn && r.harq.isNone && !r.finished && !c.flag F.CODE_CTRL_FLUSH && !c.entryBusy k r ord
      then c.harqRead k r else c

/-! ## Code blocks -/

/-- Parameters of a block for the decoders and encoders. -/
def CodeRun.params (r : CodeRun) (b : Nat) : List Nat :=
  [r.op, r.bg, r.seg.z, r.size b, r.iterMax, b2n r.early, r.purpose, r.a, r.rnti, r.e b, r.ncb b, r.rv, r.qm, r.seg.f,
    r.seg.c, b]

/-- The deadline of a job's task has passed. -/
def Chip.codeLate (c : Chip) (r : CodeRun) : Bool :=
  match c.task r.task with | some t => t.state != .done && c.deadlinePassed t.deadline | none => false

/-- The next block, or the end: the deadline and stage S5 end a job (R236, R237). -/
def Chip.codeAdvance (c : Chip) (k : Nat) (r : CodeRun) : Chip :=
  let late := c.codeLate r
  let cond := if late then condAdd r.cond .deadlineMissed else r.cond
  let b := r.blk + 1
  let stop := late && !(r.dec && r.harqEn)
  (c.incMod F.CODE_CNT_BLOCKS k).setCode k (some { r with
    blk := b, cond := cond, missed := r.missed || late, finished := stop || r.shed || r.seg.c ≤ b })

/-- Combine a block with its slab and write it back (R230–R232, R235): the combined buffer, its FILL, whether some value
was poisoned, the statuses seen. -/
def Chip.codeCombine (c : Chip) (k : Nat) (r : CodeRun) (vals : List (Nat × Int)) :
    Chip × CodeRun × List Int × Nat × Bool × Nat :=
  let b := r.blk
  let n := r.ncb b
  let pos := r.positions b
  let zero := List.replicate n (0 : Int)
  match r.harq with
  | none => (c, r, combine zero pos vals, r.fill b, false, 0)
  | some h =>
    match h.slabs[b]? with
    | none => (c, r, combine zero pos vals, r.fill b, false, 0)
    | some s =>
      let (c, old, oldFill, bad, cond) :=
        if h.again then
          let (c, w) := c.readWord (.coding k) (c.slabAddr s)
          let (c, v, bad, m) := c.readSoft k (c.slabAddr s + 16) n
          (c, v, bits w.data 105 40, bad || w.poison, m)
        else (c, zero, 0, false, 0)
      let buf := combine old pos vals
      let fill := oldFill ||| r.fill b
      let (c, wr) := c.writeSlab k s (h.slabs.getD (b + 1) noSlab) b fill buf
      (c, { r with harq := some { h with written := h.written + 1 } }, buf, fill, bad, cond ||| wr)

/-- The check of a block after iteration `i`, of which `v` are the bits: LDPC every parity check, and the CB CRC where C > 1
(R223); turbo the CB CRC, or the TB CRC where C = 1 (R228). -/
def CodeRun.holds (r : CodeRun) (p : List Nat) (s : List (Option Bool × Nat)) (n i v : Nat) : Bool :=
  if r.op = 5 then (if r.seg.c = 1 then crc24A n v == 0 else crc24B n v == 0)
  else Config.decHolds p s i && (r.seg.c == 1 || crc24B n v == 0)

/-- Iterations block `b` runs: with EARLY_TERM up to the first at whose end its check holds (R223, R228). -/
def CodeRun.iters (r : CodeRun) (p : List Nat) (s : List (Option Bool × Nat)) (n : Nat) : Nat :=
  if r.early then
    (((List.range r.iterMax).map (· + 1)).find? fun i => r.holds p s n i (Config.decBits p s i % 2 ^ n)).getD r.iterMax
  else r.iterMax

/-- A decoded block of a transport block: its bits join the ones before, its checks are noted (R223). Where the deadline
passes meanwhile it stops after some iteration, of which the spec states no number, and is not decoded (R236). -/
def Chip.codeDecode (c : Chip) (k : Nat) (r : CodeRun) (vals : List Int) (fill : Nat) (bad late : Bool) : Chip :=
  let b := r.blk
  let p := r.params b
  let s := vals.map favours
  let n := r.size b - (if r.op == 5 && b == 0 then r.seg.f else 0)
  let i := r.iters p s n
  let (q, c) := if late then c.fresh else (0, c)
  let i := if late then Config.stopIter q % max 1 i + 1 else i
  let v := Config.decBits p s i % 2 ^ n
  let ok := !late && r.holds p s n i v
  let payload := if r.seg.c = 1 then v else v / 2 ^ 24
  let c := c.when (!ok && !late) (·.incSat F.CODE_CNT_CB_FAIL k)
  c.codeAdvance k { r with
    data := r.data * 2 ^ r.info b + payload % 2 ^ r.info b, pass := r.pass && ok, cbFail := r.cbFail + b2n (!ok && !late)
    iter := i, cycles := r.cycles + r.blkCycles b i fill, bad := if bad then r.bad ++ [b] else r.bad
    cond := if bad then condAdd r.cond .poisoned else r.cond }

/-- Payload bits of each codeword of a polar or convolutional job. -/
def CodeRun.share (r : CodeRun) : Nat := (r.a + r.seg.c - 1) / r.seg.c

/-- The CRC of a codeword over its payload `v` of `n` bits (R228; TS 38.212, TS 36.212): CRC6 or CRC11 of UCI, CRC24C of DCI and
PBCH, CRC16 scrambled by the RNTI, or CRC8, of the convolutional code. -/
def CodeRun.crcOf (r : CodeRun) (n v : Nat) : Nat :=
  if r.op = 3 then crcUci r.seg.l n v
  else if r.op = 4 then crc24C (r.purpose == 1) r.rnti n v
  else if r.purpose = 0 then crc16 n v ^^^ r.rnti
  else crc8 n v

/-- One block of a decode ends (R223, R228, R231, R236). -/
def Chip.codeDecBlock (c : Chip) (k : Nat) (r : CodeRun) : Chip :=
  let b := r.blk
  let e := r.e b
  let (rx, bad) := softOf r.inp (r.eOff b) e
  let late := c.codeLate r
  if r.tb then
    let (c, r, buf, fill, bad2, m) := c.codeCombine k r ((List.zip (List.range e) rx).map fun x => (r.deint b x.1, x.2))
    let r := { r with cond := r.cond ||| m }
    if r.missed then
      c.codeAdvance k { r with
        pass := false, cond := if bad || bad2 then condAdd r.cond .poisoned else r.cond }
    else c.codeDecode k r buf fill (bad || bad2) late
  else
    let n := r.share
    let v := Config.decBits (r.params b) (rx.map favours) 0 % 2 ^ (n + r.seg.l)
    let ok := r.crcOf n (v / 2 ^ r.seg.l) == v % 2 ^ r.seg.l && !late
    c.codeAdvance k { r with
      data := r.data * 2 ^ n + v / 2 ^ r.seg.l, pass := r.pass && ok, cycles := r.cycles + r.blkCycles b 0 0
      bad := if bad then r.bad ++ [b] else r.bad
      cond := if bad then condAdd r.cond .poisoned else r.cond }

/-- The bits an encode's block carries, its CRCs included (R223, R228). -/
def CodeRun.encBlock (r : CodeRun) (b : Nat) : Nat :=
  if r.tb then
    let s := r.seg
    let crc := if s.l = 16 then crc16 r.a r.data else crc24A r.a r.data
    let tb := r.data * 2 ^ s.l + crc
    let total := (List.range s.c).foldl (fun n k => n + r.info k) 0
    let before := (List.range b).foldl (fun n k => n + r.info k) 0
    let v := tb * 2 ^ (total - (r.a + s.l)) / 2 ^ (total - before - r.info b) % 2 ^ r.info b
    if s.c = 1 then v else v * 2 ^ 24 + crc24B (r.info b) v
  else r.data * 2 ^ r.seg.l + r.crcOf r.a r.data

/-! ## Encoders (R223, R228) -/

/-- Bit `i` of `n` bits, first bit highest. -/
def msb (n v i : Nat) : Bool := i < n && v.testBit (n - 1 - i)

/-- The constituent encoder of the turbo code, 1 + D + D³ over 1 + D² + D³ (TS 36.212 §5.1.3.2): the parity bits of a list and
the register it leaves. -/
def turboRsc (l : List Bool) : List Bool × (Bool × Bool × Bool) :=
  let s := l.foldl (fun (s : List Bool × (Bool × Bool × Bool)) x =>
    let (s1, s2, s3) := s.2
    let a := x ^^ s2 ^^ s3
    (s.1 ++ [a ^^ s1 ^^ s3], (a, s1, s2))) ([], (false, false, false))
  s

/-- The six tail bits of a constituent encoder: x and z of three steps. -/
def turboTail (r : Bool × Bool × Bool) : List Bool :=
  let (s1, s2, s3) := r
  [s2 ^^ s3, s1 ^^ s3, s1 ^^ s2, false ^^ s2, s1, s1]

/-- The three streams of the turbo code (TS 36.212 §5.1.3.2.2); the internal interleaver's coefficients for K are free. -/
def turboStreams (k : Nat) (l : List Bool) : List Bool × List Bool × List Bool :=
  let f := Config.qpp k
  let l2 := (List.range k).map fun i => l.getD ((f.1 * i + f.2 * i * i) % k) false
  let (p1, r1) := turboRsc l
  let (p2, r2) := turboRsc l2
  let t := turboTail r1
  let u := turboTail r2
  let at_ (l : List Bool) (i : Nat) : Bool := l.getD i false
  (l ++ [at_ t 0, at_ t 3, at_ u 0, at_ u 3], p1 ++ [at_ t 1, at_ t 4, at_ u 1, at_ u 4],
    p2 ++ [at_ t 2, at_ t 5, at_ u 2, at_ u 5])

/-- Bit `i` of stream `j` of the tail-biting convolutional code of constraint length 7, generators 133, 171 and 165 octal
(TS 36.212 §5.1.3.1). -/
def convBit (k v j i : Nat) : Bool :=
  let taps : List Nat := if j = 0 then [0, 2, 3, 5, 6] else if j = 1 then [0, 1, 2, 3, 6] else [0, 1, 2, 4, 6]
  taps.foldl (fun a d => a ^^ msb k v ((i + k * 6 - d) % max 1 k)) false

/-- The sub-block interleaver of the polar codes (TS 38.212 §5.4.1.1). -/
def polarSub : List Nat :=
  [0, 1, 2, 4, 3, 5, 6, 7, 8, 16, 9, 17, 10, 18, 11, 19, 12, 20, 13, 21, 14, 22, 15, 23, 24, 25, 26, 28, 27, 29, 30, 31]

/-- The bits of the circular buffer of block `b`, whose information bits are `v`: the systematic bits of LDPC and turbo, the
turbo and the convolutional parity by their encoders; the parity of LDPC and the polar transform are free. -/
def CodeRun.buffer (r : CodeRun) (b v : Nat) : List Bool :=
  let n := r.size b
  let len := r.ncb b
  if r.op ≤ 2 then
    let z := r.seg.z
    let sys := n + r.seg.f - 2 * z
    let par := Config.ldpcParity r.bg z n v
    (List.range len).map fun p => if p < sys then msb n v (p + 2 * z) else par.testBit (p - sys)
  else if r.op ≤ 4 then
    let d := Config.polarMother r.op n len v
    (List.range len).map fun p => d.testBit (polarSub.getD (32 * p / len) 0 * (len / 32) + p % (len / 32))
  else if 7 ≤ r.op then
    let rows := convRows n
    (List.range len).map fun p => convBit n v (p / (32 * rows)) (convAt rows (p % (32 * rows)) - (32 * rows - n))
  else
    let rows := turboRows n
    let kp := 32 * rows
    let nd := kp - (n + 4)
    let (d0, d1, d2) := turboStreams n ((List.range n).map (msb n v))
    (List.range len).map fun p =>
      if p < kp then d0.getD (turboAt rows p - nd) false
      else if (p - kp) % 2 = 0 then d1.getD (turboAt rows ((p - kp) / 2) - nd) false
      else d2.getD ((turboAt rows ((p - kp) / 2) + 1) % kp - nd) false

/-- The rate-matched bits of block `b`, in the order in which they are sent (R223: bit selection, interleaving). -/
def CodeRun.sent (r : CodeRun) (b v : Nat) : Nat :=
  let buf := r.buffer b v
  let pos := r.positions b
  let sel := pos.map fun p => buf.getD p false
  (List.range (r.e b)).foldl (fun a i =>
    if sel.getD (r.deint b i % max 1 sel.length) false then a + 2 ^ i else a) 0

/-- Some word of the payload that block `b` carries was poisoned (R235). -/
def CodeRun.encBad (r : CodeRun) (b : Nat) : Bool :=
  if r.tb then
    let before := (List.range b).foldl (fun n k => n + r.info k) 0
    r.srcBad.any fun d => decide (128 * d < before + r.info b) && decide (before < 128 * (d + 1))
  else !r.srcBad.isEmpty

/-- One block of an encode ends and is written (R222, R225, R235): a word it shares with the next block keeps that block's
part (R236). -/
def Chip.codeEncBlock (c : Chip) (k : Nat) (r : CodeRun) : Chip :=
  let b := r.blk
  let e := r.e b
  let off := r.eOff b
  let bad := r.encBad b
  let lead := off % 128
  let v := r.carry + r.sent b (r.encBlock b) * 2 ^ lead
  let n := (lead + e + 127) / 128
  let part := (lead + e) % 128
  let last := b + 1 = r.seg.c
  let addr := r.outAddr + 16 * (off / 128)
  let (c, old) : Chip × WordRead :=
    if last || part = 0 then (c, ⟨0, false, .ok⟩) else c.readWord (.coding k) (addr + 16 * (n - 1))
  let w := v + old.data / 2 ^ part * 2 ^ part * 2 ^ (128 * (n - 1))
  let (c, m) := c.codePut k addr
    ((List.range (if last then (lead + e + 7) / 8 else 16 * n)).map fun i => w / 2 ^ (8 * i) % 256)
    fun d => bad || (d = 0 && r.carryBad) || (d + 1 = n && old.poison)
  c.codeAdvance k { r with
    cond := if bad then condAdd (r.cond ||| m) .poisoned else r.cond ||| m
    cycles := r.cycles + r.blkCycles b 0 (r.fill b)
    carry := if part = 0 then 0 else v / 2 ^ (128 * (n - 1))
    carryBad := part ≠ 0 && (bad || (n = 1 && r.carryBad)) }

/-- CODE_BLOCK_DONE (R223, R231, R236). -/
def execCodeBlockDone (k : Fin 12) (s : State) : Host.Outcome State Fault Refusal :=
  s.stage fun c =>
    match c.codeRun k with
    | none => c
    | some r =>
      if r.finished || (r.harqEn && r.harq.isNone) then c
      else if r.dec then c.codeDecBlock k r else c.codeEncBlock k r

/-! ## The end of a job -/

/-- The transport-block CRC passes, or the codeword's (R223, R225). -/
def CodeRun.crcPass (r : CodeRun) : Bool :=
  r.dec && !r.missed && r.seg.c ≤ r.blk
    && (if r.tb then
          let s := r.seg
          let total := (List.range s.c).foldl (fun n k => n + r.info k) 0
          let v := r.data / 2 ^ (total - (r.a + s.l))
          (if s.l = 16 then crc16 (r.a + s.l) v else crc24A (r.a + s.l) v) == 0
        else r.pass)

/-- The payload decoded: A bits, the first highest; the zero in front of an odd UCI payload over two codewords is left
out. -/
def CodeRun.payload (r : CodeRun) : Nat :=
  if r.tb then
    let total := (List.range r.seg.c).foldl (fun n k => n + r.info k) 0
    r.data / 2 ^ (total - r.a)
  else r.data % 2 ^ r.a

/-- Output word `d` of a decode holds bits of a block that was poisoned (R235). -/
def CodeRun.outBad (r : CodeRun) (d : Nat) : Bool :=
  let share (b : Nat) : Nat := if r.tb then r.info b else r.share
  let front := if r.tb then 0 else r.share * r.seg.c - r.a
  r.bad.any fun b =>
    let before := (List.range b).foldl (fun n k => n + share k) 0
    decide (128 * d + front < before + share b) && decide (before < 128 * (d + 1) + front)

/-- The HARQ entry at the end of a job (R231, R232, R237): invalid and its slabs free after a pass or where nothing was
stored, else what was written. The flag is HARQ_KEPT. -/
def Chip.harqEnd (c : Chip) (k : Nat) (r : CodeRun) (pass : Bool) : Chip × Bool × Nat :=
  match r.harq with
  | none => (c, false, 0)
  | some h =>
    let blocks := if h.again then min h.slabs.length r.seg.c else h.written
    let keep := !pass && blocks ≠ 0
    let c := if keep then c.dropSlabs (h.slabs.drop blocks) else c.dropSlabs h.slabs
    let e := harqEntry (b2n keep) r.ndi r.bg (b2n (r.op == 5)) (if keep then blocks else 0)
      (if keep then h.slabs.headD noSlab else noSlab) r.a c.tick
    let (c, st) := c.writeWord (.coding k) (c.entryAddr r) e false
    (c, keep, st.mask / 2 * 2)

/-- CODE_JOB_COMPLETE (R225, R234, R237, R238): outputs, HARQ entry, status record, task; the locks of stage S5 that waited for
the last code block follow. -/
def execCodeJobComplete (k : Fin 12) (s : State) : Host.Outcome State Fault Refusal :=
  s.stage fun c =>
    match c.codeRun k with
    | none => c
    | some r =>
      if !r.finished then c
      else
        let pass := r.crcPass
        let n := (r.a + 7) / 8
        let (c, m) := if pass then
            c.codePut k r.outAddr (beBytes n (r.payload * 2 ^ (8 * n - r.a))) r.outBad
          else (c, 0)
        let (c, kept, m2) := c.harqEnd k r pass
        let cond := (if r.shed then condAdd r.cond .shed else r.cond) ||| m ||| m2
        let cond := if cond = 0 then 1 else cond
        let st := Status.worstOf ((bitsSet cond 16).map .ofCode)
        let lack := match r.harq with | some h => h.lack | none => false
        let reset := match r.harq with | some h => h.reset | none => false
        let rec_ := st.code + b2n pass * 2 ^ 8 + b2n kept * 2 ^ 9 + b2n lack * 2 ^ 10 + b2n reset * 2 ^ 11
          + r.iter % 2 ^ 8 * 2 ^ 16 + r.cbFail % 2 ^ 16 * 2 ^ 32 + r.seg.c % 2 ^ 16 * 2 ^ 48
          + r.cycles % 2 ^ 32 * 2 ^ 64 + cond % 2 ^ 16 * 2 ^ 96
        let c := if r.statEn then (c.writeWord (.coding k) r.statAddr rec_ false).1 else c
        let c := c.when (st == .deadlineMissed) (·.incSat F.CODE_CNT_JOBS_MISSED k)
        ((c.setCode k none).codeFinish k r.task st).shedLocks

/-! ## Flush, sweep, counters -/

/-- Words of the HARQ table that hold anything. -/
def Chip.harqWords (c : Chip) : List Nat :=
  let lo := c.harqTbl
  let ks := (c.mem.map fun e => e.1 / 16) ++ c.poison.map fun e => e.1
  ks.foldl (fun (l : List Nat) w => if lo / 16 ≤ w && w < (lo + 2 ^ 26) / 16 && !l.contains w then l ++ [w] else l) []

/-- Clear VALID of an entry. -/
def Chip.entryInvalid (c : Chip) (w : Nat) : Chip :=
  let d := (c.decodeAt (16 * w)).data
  c.writeStored (16 * w) (d / 2 * 2) false

/-- No HARQ job is running: none has read its entry and not completed (R233). -/
def Chip.harqIdle (c : Chip) : Bool :=
  !(List.range 12).any fun k => match c.codeRun k with | some r => r.harq.isSome | none => false

/-- Every entry invalid, every slab free. -/
def Chip.harqFlush (c : Chip) : Chip :=
  let c := c.harqWords.foldl Chip.entryInvalid c
  (c.withCode { c.code with used := [] }).wr F.CODE_HARQ_STAT_LEAKED 0

/-- HARQ_FLUSH: CODE_CTRL.FLUSH written (R233). -/
def execHarqFlush (by_ : Port) (s : State) : Host.Outcome State Fault Refusal :=
  s.run fun c => c.action by_ modesAll fun c => c.w1sStart F.CODE_CTRL_FLUSH 0 0 id

/-- HARQ_FLUSH_COMPLETE: once no HARQ job is running. -/
def execHarqFlushComplete (s : State) : Host.Outcome State Fault Refusal :=
  s.run fun c =>
    if c.flag F.CODE_CTRL_FLUSH && c.harqIdle then c.harqFlush.w1sEnd F.CODE_CTRL_FLUSH 0 0 id else c

/-- HARQ_TTL_SWEEP (R232): entries that no job holds and whose STAMP is older than TTL, 0 acting as 1. -/
def execHarqTtlSweep (s : State) : Host.Outcome State Fault Refusal :=
  s.run fun c =>
    let ttl := 30720 * max 1 (c.rd F.CODE_HARQ_TTL_TTL)
    c.harqWords.foldl (fun c w =>
      let d := c.decodeAt (16 * w)
      let idx := w - c.harqTbl / 16
      let busy := (List.range 12).any fun k => match c.codeRun k with
        | some r => r.harqEn && r.harq.isSome && r.entry == idx
        | none => false
      if bit d.data 0 && !d.poison && !busy && decide ((ttl : Int) < tickDiff c.tick (bits d.data 127 96)) then
        let (c, l) := c.slabChain 0 (bits d.data 31 16) (bits d.data 63 32)
        (c.dropSlabs l).entryInvalid w
      else c) c

/-- CODE_CNT_CLR. -/
def execCodeCntClr (by_ : Port) (s : State) : Host.Outcome State Fault Refusal :=
  s.run fun c => c.action by_ modesAll fun c =>
    let c := (List.range 12).foldl (fun c k =>
      c.clrFields [F.CODE_CNT_BLOCKS, F.CODE_CNT_CB_FAIL, F.CODE_CNT_JOBS_MISSED] k) c
    c.clrFields [F.CODE_HARQ_STAT_ALLOC_FAIL, F.CODE_HARQ_STAT_LEAKED]

end Sys2Proof.Machine
end

