-- ==== Sys2Proof/Machine/HifCmds.lean ====
section
/-! DEFINITION. The commands of the host interface (spec/03_host_rings.md R76–R100), but for CMD_DOORBELL, which may wake
the device (Machine/DevCmds.lean), and the service commands of the trust block (Machine/TrustCmds.lean). -/
namespace Sys2Proof.Machine

/-- HIF_VERSION_WRITE (R79). -/
def execHifVersionWrite (by_ : Port) (f : Fin 64) (value : Nat) (s : State) : Host.Outcome State Fault Refusal :=
  s.run fun c => c.guardedFn by_ f modesAll fun c =>
    if (List.range 17).any fun r => c.flag F.RING_CFG_ENABLE f r then
      (c.wr F.HIF_FN_STAT_LAST_ERR Status.accessDenied.code f).report by_ .accessDenied
    else
      let maj := bits value 15 12
      let min_ := bits value 11 8
      let c := (c.wr F.HIF_VERSION_HOST_MAJOR maj f).wr F.HIF_VERSION_HOST_MINOR min_ f
      if maj = 1 then
        ((c.wr F.HIF_VERSION_AGREED_VALID 1 f).wr F.HIF_VERSION_AGREED_MAJOR 1 f).wr F.HIF_VERSION_AGREED_MINOR (min min_ 1) f
          |>.report by_ .ok
      else
        ((c.clrFields [F.HIF_VERSION_AGREED_VALID, F.HIF_VERSION_AGREED_MAJOR, F.HIF_VERSION_AGREED_MINOR] f).wr
          F.HIF_FN_STAT_LAST_ERR Status.versionMismatch.code f).report by_ .ok

/-- RING_ENABLE (R79–R81): `value` is the RING_CFG write, with ENABLE set and RESET clear. -/
def execRingEnable (by_ : Port) (f : Fin 64) (r : Fin 17) (value : Nat) (s : State) :
    Host.Outcome State Fault Refusal :=
  s.run fun c => c.guardedFn by_ f modesAll fun c =>
    let size := bits value 36 32
    let top := c.rd F.RING_BASE_BASE f r * 4096 + 2 ^ size * ringEntryBytes r
    let faults :=
      (if c.flag F.RING_CFG_ENABLE f r || c.resetting f r || (c.ringX f r).mustReset then [Status.accessDenied] else [])
        ++ (if size < 6 || 16 < size || hostTop < top then [Status.badDescriptor] else [])
        ++ (if c.flag F.HIF_VERSION_AGREED_VALID f then [] else [Status.versionMismatch])
    match faults with
    | [] =>
      let c := (c.wrFields [F.RING_CFG_VECTOR, F.RING_CFG_CPL_RING, F.RING_CFG_PRIO, F.RING_CFG_LOG2_SIZE,
        F.RING_CFG_COAL_TIME, F.RING_CFG_COAL_COUNT] value f r).1
      ((c.wr F.RING_CFG_ENABLE 1 f r).setRingX f r {}).report by_ .ok
    | _ =>
      let st := Status.worstOf faults
      (c.wr F.HIF_FN_STAT_LAST_ERR st.code f).report by_ st

/-- RING_RESET (R81, R99). -/
def execRingReset (by_ : Port) (f : Fin 64) (r : Fin 17) (s : State) : Host.Outcome State Fault Refusal :=
  s.run fun c => c.guardedFn by_ f modesAll fun c => (c.ringReset f r).report by_ .ok

/-- RING_RESET_COMPLETE (R99). -/
def execRingResetComplete (f : Fin 64) (r : Fin 17) (s : State) : Host.Outcome State Fault Refusal :=
  s.run fun c => c.ringResetEnd f r

/-- FN_RESET_ALL (R99). -/
def execFnResetAll (by_ : Port) (f : Fin 64) (s : State) : Host.Outcome State Fault Refusal :=
  s.run fun c => c.guardedFn by_ f modesAll fun c =>
    ((List.range 17).foldl (fun c r => c.ringResetOne f r) (c.wr F.HIF_FN_CTRL_RESET_ALL 1 f)).report by_ .ok

/-- CPL_DOORBELL (R82, R83): a BAR2 write at an offset of the function's page. -/
def execCplDoorbell (f : Fin 64) (off bytes value : Nat) (s : State) : Host.Outcome State Fault Refusal :=
  s.run fun c =>
    if c.mode = mBypass then c
    else if c.inWarm then c.emit (.tlp "posted write dropped")
    else (c.doorbell f off bytes value).1

/-- EVENT_DOORBELL (R82, R96): a freed entry takes EVENTS_LOST. -/
def execEventDoorbell (f : Fin 64) (off bytes value : Nat) (s : State) : Host.Outcome State Fault Refusal :=
  s.run fun c =>
    if c.mode = mBypass then c
    else if c.inWarm then c.emit (.tlp "posted write dropped")
    else (c.doorbell f off bytes value).1.postLost f

/-- COMMAND_FETCH (R82, R94, R98): `read` is what the read of the entry returns. -/
def execCommandFetch (f : Fin 64) (r : Fin 8) (read : HostRead) (s : State) : Host.Outcome State Fault Refusal :=
  s.run fun c =>
    let n := c.rd F.RING_PTR_DEV_COUNT f r
    if c.mode = mBypass || !c.flag F.RING_CFG_ENABLE f r || c.resetting f r || c.rd F.RING_PTR_HOST_COUNT f r = n then c
    else
      let q := cplRing (c.rd F.RING_CFG_CPL_RING f r)
      let y := c.ringX f q
      let free := c.cplFree f q
      let c := c.stallUp f q
      let flowFull := [0, 1].any fun k =>
        let fl := c.rd F.SCHED_SLOT_MAP_FLOW k
        c.flag F.SCHED_FLOW_CFG_EN fl && c.maxOut fl ≤ c.rd F.SCHED_FLOW_STAT_OUT fl
      if !free || 32 ≤ (c.ringCmds f r).length || 512 ≤ c.hif.inflight.length || c.freeEntries = 0 || flowFull then c
      else
        match read with
        | .failed => c.ringError f r .targetIsolated
        | .poisoned => c.ringError f r .poisoned
        | .ok =>
          let a := c.ringEntry f r n 64
          let h : HostCmd :=
            { fn := f, ring := r, count := n, w0 := c.hostRead a 16, w1 := c.hostRead (a + 16) 16,
              w2 := c.hostRead (a + 32) 16, stage := .fetched, status := .ok, cond := 0, nOk := 0, nFail := 0,
              slot := none, task := none, discard := c.dev.pcieDiscard, minor := c.rd F.HIF_VERSION_AGREED_MINOR f,
              fetchTick := c.tick }
          let h := { h with
            carrier := c.cellCarrier h.cell (h.op == 2)
            cellOk := bit (c.rd F.HIF_FN_CELLS_CELLS f) h.cell }
          let c := c.withHif { c.hif with inflight := c.hif.inflight ++ [h] }
          let c := c.setRingX f q { c.ringX f q with reserved := y.reserved + 1 }
          ((c.incMod F.RING_PTR_DEV_COUNT f r).incMod F.RING_STAT_IN_FLIGHT f r).stallUp f q

/-- The next command of a ring is taken up if its opcode is the one named, or is none that is listed. -/
def Chip.takeCmd (c : Chip) (f r op : Nat) (k : Chip → HostCmd → Chip) : Chip :=
  match c.nextFetched f r with
  | none => c
  | some h =>
    if !opListed h.op then c.cmdEnd h (Chip.entryFaults h) 0 0
    else if h.op = op then k c h
    else c

/-- UL_SLOT (R85–R88, R92). -/
def execUlSlot (f : Fin 64) (r : Fin 8) (s : State) : Host.Outcome State Fault Refusal :=
  s.run fun c => c.takeCmd f r 1 fun c h => c.slotTake h

/-- DL_SLOT (R42, R85–R88, R92). -/
def execDlSlot (f : Fin 64) (r : Fin 8) (s : State) : Host.Outcome State Fault Refusal :=
  s.run fun c => c.takeCmd f r 2 fun c h => c.slotTake h

/-- A reserved bit of a NOP's entry is set (R84, R92); N_ITEMS and ITEM_ADDR are ignored. -/
def HostCmd.nopReserved (h : HostCmd) : Bool :=
  bits h.w0 15 14 != 0 || bits h.w0 39 37 != 0 || bits h.w0 63 56 != 0 || bits h.w1 127 75 != 0 || h.w2 != 0

/-- NOP (R85, R92). -/
def execNop (f : Fin 64) (r : Fin 8) (s : State) : Host.Outcome State Fault Refusal :=
  s.run fun c => c.takeCmd f r 3 fun c h =>
    c.cmdEnd h (Chip.entryFaults h ++ (if h.nopReserved then [.badDescriptor] else [])) 0 0

/-- ITEM_TABLE_READ (R86, R87, R92, R98; R434 for a cell of an RU): `read` is what the read of the table returns. -/
def execItemTableRead (f : Fin 64) (r : Fin 8) (read : HostRead) (s : State) : Host.Outcome State Fault Refusal :=
  s.run fun c =>
    match (c.ringCmds f r).find? fun h => h.stage == .table with
    | none => c
    | some h =>
      match read with
      | .failed => (c.ringError f r .targetIsolated).cmdEnd h [.targetIsolated] 0 0
      | .poisoned => (c.ringError f r .poisoned).cmdEnd h [.poisoned] 0 0
      | .ok =>
        let h := { h with table := c.readTable h }
        let h := { h with shed := c.shedItems h }
        let faults := (if h.itemsOk then (if c.cpMissed h then [Status.deadlineMissed] else []) else [Status.badDescriptor])
          ++ (if h.status = .ok then [] else [h.status])
        match faults, c.freeSlot with
        | [], some k => c.slotSubmit h k
        | [], none => c
        | _, _ => (c.resultsAll h (Status.worstOf faults)).cmdEnd h faults 0 h.items

/-- HOST_WRITE_FAILED (R98): of a completion ring (8–15) or the event ring (16). -/
def execHostWriteFailed (f : Fin 64) (q : Fin 9) (s : State) : Host.Outcome State Fault Refusal :=
  s.run fun c => if c.flag F.RING_CFG_ENABLE f (8 + q) then c.ringError f (8 + q) .targetIsolated else c

/-- COMPLETION_POST (R93): of the oldest command of a ring, once it has finished, in the order in which the completions
bound for its completion ring became postable. -/
def execCompletionPost (f : Fin 64) (r : Fin 8) (s : State) : Host.Outcome State Fault Refusal :=
  s.run fun c =>
    match c.ringCmds f r with
    | h :: _ => if h.stage = .finished && c.postTurn h then c.complete h else c
    | [] => c

/-- COALESCE_TIMEOUT (R97). -/
def execCoalesceTimeout (f : Fin 64) (q : Fin 9) (s : State) : Host.Outcome State Fault Refusal :=
  s.run fun c =>
    let r := 8 + q.val
    let x := c.ringX f r
    if 0 < x.coalN && c.rd F.RING_CFG_COAL_TIME f r != 0 then
      (c.setRingX f r { x with coalN := 0, coalTick := 0 }).fireVector f (c.rd F.RING_CFG_VECTOR f r)
    else c

/-- MSIX_UNMASK (R97): a pending vector fires once. -/
def execMsixUnmask (f : Fin 64) (v : Fin 32) (s : State) : Host.Outcome State Fault Refusal :=
  s.run fun c =>
    let k := f.val * 32 + v.val
    let m := Tbl.get c.hif.msix k {}
    let put (c : Chip) (m : MsixEntry) : Chip := c.withHif { c.hif with msix := Tbl.set c.hif.msix k m {} }
    if m.pending then (put c { m with masked := false, pending := false }).emit (.msix f v)
    else put c { m with masked := false }

end Sys2Proof.Machine
end

