-- ==== Sys2Proof/Machine/EngineOps.lean ====
section
/-! DEFINITION. Signal engines: their registers, issue-group fields, visibility of results, exceptions, and the
coherent control cache (spec/10_engine_programming.md R265–R303). Slots S and M are in Machine/EngineScalar.lean, the
vector operations in Machine/EngineVector.lean, and the issue of a group in Machine/EngineIssue.lean. -/
namespace Sys2Proof.Machine

/-! ## State of an engine and of its cluster -/

/-- State of logical engine `e`. -/
def Chip.eng (c : Chip) (e : Nat) : Eng := Tbl.get c.clu.engs e {}

/-- Set the state of logical engine `e`. -/
def Chip.setEng (c : Chip) (e : Nat) (x : Eng) : Chip :=
  c.withClu { c.clu with engs := Tbl.set c.clu.engs e x {} }

/-- State of cluster `n`. -/
def Chip.cluster (c : Chip) (n : Nat) : Cluster := Tbl.get c.clu.clus n {}

/-- Set the state of cluster `n`. -/
def Chip.setCluster (c : Chip) (n : Nat) (x : Cluster) : Chip :=
  c.withClu { c.clu with clus := Tbl.set c.clu.clus n x {} }

/-- Engine states of CLU_ENG_STAT.STATE. -/
abbrev esOff : Nat := 0
abbrev esRun : Nat := 1
abbrev esTaskw : Nat := 2
abbrev esWaiti : Nat := 3
abbrev esHandler : Nat := 4
abbrev esHalted : Nat := 5
abbrev esOut : Nat := 6

/-- STATE of an engine. -/
def Chip.engState (c : Chip) (e : Nat) : Nat := c.rd F.CLU_ENG_STAT_STATE (eC e) (eJ e)

/-- Set STATE of an engine. -/
def Chip.setEngState (c : Chip) (e s : Nat) : Chip := c.wr F.CLU_ENG_STAT_STATE s (eC e) (eJ e)

/-- Physical engine that serves a logical one: the fused map unless substitution changed it (log entry 11). -/
def Chip.engPhys (c : Chip) (e : Nat) : Nat := c.rd F.CLU_ENG_STAT_PHYS (eC e) (eJ e)

/-! ## Registers -/

/-- A G register; G0 reads zero and is never poisoned (R268). -/
def Eng.rdG (x : Eng) (r : Nat) : PV := if r = 0 then {} else Tbl.get x.g r {}

/-- Write a G register; writes to G0 are discarded (R268). -/
def Eng.wrG (x : Eng) (r : Nat) (v : PV) : Eng :=
  if r = 0 then x else { x with g := Tbl.set x.g r { v with v := v.v % 2 ^ 128 } {} }

/-- An accumulator as every read other than a chained accumulation sees it (R273). -/
def Eng.rdA (x : Eng) (r : Nat) : PV := Tbl.get x.a r {}

/-- A vector register. -/
def Eng.rdV (x : Eng) (r : Nat) : VR := Tbl.get x.v r {}

/-- A mask register. -/
def Eng.rdM (x : Eng) (r : Nat) : PV := Tbl.get x.m r {}

/-- Value of the last result on its way to a destination, none where none is. -/
def Eng.pending (x : Eng) (d : Dst) : Option Pend := (x.pend.filter fun p => p.dst == d).getLast?

/-- An accumulator as a later accumulation into it sees it: the chained path of R273. -/
def Eng.chainA (x : Eng) (r : Nat) : PV :=
  match x.pending (.a r) with
  | some p => ⟨p.val, p.poi != 0⟩
  | none => x.rdA r

/-- A vector register as a later wide accumulation into it sees it (R311). -/
def Eng.chainV (x : Eng) (r : Nat) : VR :=
  match (x.pend.filter fun p => p.dst == .v r && p.wide).getLast? with
  | some p => ⟨p.val, p.poi⟩
  | none => x.rdV r

/-- A result becomes visible. -/
def Eng.apply (x : Eng) (p : Pend) : Eng :=
  match p.dst with
  | .g r => x.wrG r ⟨p.val, p.poi != 0⟩
  | .a r => { x with a := Tbl.set x.a r ⟨p.val % 2 ^ 56, p.poi != 0⟩ {} }
  | .v r => { x with v := Tbl.set x.v r ⟨p.val % 2 ^ 2048, p.poi % 2 ^ 16⟩ {} }
  | .m r => { x with m := Tbl.set x.m r ⟨p.val % 2 ^ 256, p.poi != 0⟩ {} }
  | .fx => { x with fxstat := x.fxstat ||| p.val % 2 ^ 32 }

/-- Every result due by now becomes visible in the order of issue, unless data of one of them is still on its way
(R273–R275). -/
def Eng.settle (x : Eng) : Eng :=
  if x.pend.any fun p => p.due ≤ x.grp && !p.arrived then x
  else
    let now := x.pend.filter fun p => p.due ≤ x.grp
    now.foldl Eng.apply { x with pend := x.pend.filter fun p => x.grp < p.due }

/-- The group due now waits for data (R274). -/
def Eng.stalled (x : Eng) : Bool := x.pend.any fun p => p.due ≤ x.grp && !p.arrived

/-- A result produced by the group now issuing, visible `dist` groups later. -/
def Eng.produce (x : Eng) (dist : Nat) (d : Dst) (v poi : Nat) : Eng :=
  { x with pend := x.pend ++ [⟨0, x.grp + dist, d, v, poi, true, false⟩] }

/-- The 32-bit lane `l` of a value as e24, read by its bits 23:0 (R9, R269). -/
def lane24 (v l : Nat) : Int := sx 24 (v / 2 ^ (32 * l))

/-- The 16-bit lane `l` of a value. -/
def lane16 (v l : Nat) : Int := sx 16 (v / 2 ^ (16 * l))

/-! ## Decoding of a group -/

/-- Fields of a 42-bit slot (R271). -/
def slOpc (w : Nat) : Nat := bits w 41 34
def slRd (w : Nat) : Nat := bits w 33 29
def slRa (w : Nat) : Nat := bits w 28 24
def slRb (w : Nat) : Nat := bits w 23 19
def slImm24 (w : Nat) : Nat := bits w 23 0
def slCount10 (w : Nat) : Nat := bits w 33 24
def slMode (w : Nat) : Nat := bits w 23 21
def slCs (w : Nat) : Nat := bits w 20 18
def slImm18 (w : Nat) : Nat := bits w 17 0

/-- A group cut into its header and slots (R270). -/
def grpHdr (g : Nat) : Nat := bits g 1 0
def grpS (g : Nat) : Nat := bits g 43 2
def grpM (g : Nat) : Nat := bits g 85 44
def grpX (g : Nat) : Nat := bits g 127 86

/-! ## Exceptions -/

/-- Causes of R294. -/
inductive Cause
  | fetch | illegal | loop | poison | align | circ | access | narrow | element | holdoff | interrupt
  deriving DecidableEq, Repr

/-- CAUSE code (R294). -/
def Cause.code (k : Cause) : Nat :=
  match k with
  | .fetch => 9 | .illegal => 1 | .loop => 7 | .poison => 5 | .align => 2 | .circ => 6 | .access => 4 | .narrow => 3
  | .element => 10 | .holdoff => 8 | .interrupt => 0x10

/-- Place in the table of R294: the highest is reported. -/
def Cause.rank (k : Cause) : Nat :=
  match k with
  | .fetch => 0 | .illegal => 1 | .loop => 2 | .poison => 3 | .align => 4 | .circ => 5 | .access => 6 | .narrow => 7
  | .element => 8 | .holdoff => 9 | .interrupt => 10

/-- Status recorded with a cause (R294); an ELEMENT exception brings its own. -/
def Cause.status (k : Cause) : Status :=
  match k with
  | .fetch => .poisoned | .illegal => .badDescriptor | .loop => .badDescriptor | .poison => .poisoned
  | .align => .accessDenied | .circ => .accessDenied | .access => .accessDenied | .narrow => .narrowWrite
  | .element => .accessDenied | .holdoff => .ok | .interrupt => .ok

/-- An exception found in a group: cause, status, slot (0 S, 1 M, 2 X, 3 none), address; `elem` and `sub` for an ELEMENT
exception, `kind` of consumption for a poisoned datum (R408). -/
structure Exc where
  cause : Cause
  status : Status
  slot : Nat
  addr : Nat := 0
  elem : Nat := 0
  sub : Nat := 0
  kind : Nat := 0
  deriving DecidableEq, Repr

/-- An exception with the status of its cause. -/
def Exc.mk' (k : Cause) (slot : Nat) (addr : Nat := 0) (kind : Nat := 0) : Exc := ⟨k, k.status, slot, addr, 0, 0, kind⟩

/-- The exception reported when several hold in one group: highest cause, then slot S before M before X (R294). -/
def Exc.first (a b : Exc) : Exc :=
  if b.cause.rank < a.cause.rank then b
  else if a.cause.rank < b.cause.rank then a
  else if b.slot < a.slot then b else a

/-- The exception a list of candidates reports. -/
def excOf (l : List (Option Exc)) : Option Exc :=
  l.foldl (fun a b => match a, b with | some x, some y => some (x.first y) | some x, none => some x | none, y => y) none

/-- IN_HANDLER of ICTRL. -/
def Eng.inHandler (x : Eng) : Bool := bit x.ictrl 1

/-- Results not yet visible are withheld with their remaining distance (R300). -/
def Eng.withhold (x : Eng) : Eng :=
  { x with withheld := x.pend.map (fun p => { p with due := p.due - x.grp }) :: x.withheld, bases := x.depth :: x.bases,
           pend := [] }

/-- Exception entry in the engine's registers (R295); `epc` and `restart` as the cause says. -/
def Eng.enter (x : Eng) (e : Exc) (epc : Nat) (restart : Bool) : Eng :=
  let ie := b2n (bit x.ictrl 0)
  let x := x.withhold
  { x with
    epc := epc % 16384
    ecause := e.cause.code + e.status.code * 2 ^ 8 + e.slot * 2 ^ 16 + x.brLeft * 2 ^ 18 + b2n restart * 2 ^ 20
      + ie * 2 ^ 21
    eaddr := e.addr % 2 ^ 48
    etgt := if x.brLeft = 0 then x.etgt else x.brTgt
    brLeft := 0
    ictrl := setBit (setBit x.ictrl 0 false) 1 true
    pc := x.evec
    faultElem := if e.cause = .element then e.elem % 2 ^ 16 + e.sub * 2 ^ 16 + 2 ^ 24 else x.faultElem }

/-- Record an exception in the engine's control-space registers (R298). -/
def Chip.recordExc (c : Chip) (e : Nat) (x : Exc) (epc : Nat) : Chip :=
  let i := eC e
  let j := eJ e
  let c := (c.wr F.CLU_ENG_STAT_LAST_CAUSE x.cause.code i j).wr F.CLU_ENG_STAT_LAST_STATUS x.status.code i j
  ((c.wr F.CLU_ENG_FAULT_SLOT x.slot i j).wr F.CLU_ENG_FAULT_PC epc i j).wr F.CLU_ENG_FAULT_ADDR x.addr i j

/-- Double fault (R298): the engine halts, its current task completes with the exception's status, and it leaves
service. -/
def Chip.doubleFault (c : Chip) (e : Nat) (x : Exc) : Chip :=
  let c := (c.setEng e { c.eng e with haltWhy := .doubleFault, pend := [], acc := [] }).setEngState e esHalted
  if c.unitState e = uOut then c else c.unitDepart e 2 x.status

/-- Take an exception (R295), or the double-fault path where a handler is running (R298) or the handler group lies
outside the image's code (R299). -/
def Chip.takeExc (c : Chip) (e : Nat) (x : Exc) (epc : Nat) (restart : Bool) : Chip :=
  let g := c.eng e
  let c := c.recordExc e x epc
  let c := c.when (x.cause == .poison || x.sub == 5) fun c => c.postPoison e srcClu x.kind x.addr
  if g.inHandler then c.doubleFault e x
  else
    let c := (c.setEng e (g.enter x epc restart)).setEngState e esHandler
    if g.evec < (c.cluster (eC e)).codeLen then c
    else
      let f : Exc := .mk' .fetch 3
      (c.recordExc e f g.evec).doubleFault e f

/-! ## Statuses of loads and stores -/

/-- LDSTAT takes a status: STICKY for every access, LAST and BUSY for a load (R287, R296). -/
def Eng.ldNote (x : Eng) (load : Bool) (st : Status) (seen : Nat) (busy : Bool) : Eng :=
  let old := x.ldstat
  let sticky := (bits old 31 16 ||| seen ||| st.mask) % 2 ^ 16
  let bs := b2n (bit old 9 || busy)
  let last := if load then st.code else bits old 7 0
  let b := if load then b2n busy else b2n (bit old 8)
  { x with ldstat := last + b * 2 ^ 8 + bs * 2 ^ 9 + sticky * 2 ^ 16 }

/-! ## The control cache -/

/-- Lines are 128 bytes: line number of an address. -/
def ccLine (a : Nat) : Nat := a % 2 ^ 48 / 128

/-- The line a cluster's cache holds. -/
def Cluster.find (k : Cluster) (line : Nat) : Option CcLine := k.lines.find? fun l => l.line == line

/-- Put a line into a cluster's cache, in place of the same line. -/
def Cluster.put (k : Cluster) (l : CcLine) : Cluster :=
  { k with lines := (k.lines.filter fun x => x.line != l.line) ++ [l] }

/-- Take a line out of a cluster's cache. -/
def Cluster.drop (k : Cluster) (line : Nat) : Cluster := { k with lines := k.lines.filter fun x => x.line != line }

/-- The eight words of a line with their poison flags. -/
def lineWords (data poi : Nat) : List (Nat × Bool) :=
  (List.range 8).map fun k => (bits data (128 * k + 127) (128 * k), bit poi k)

/-- Write a line to memory, word by word with each word's flag (R289); the status is the highest of the words'. -/
def Chip.writeLine (c : Chip) (l : CcLine) : Chip × Status :=
  (lineWords l.data l.poi).zipIdx.foldl (fun acc w =>
    let (c, s) := acc.1.writeWord .fabric (l.line * 128 + 16 * w.2) w.1.1 w.1.2
    (c, acc.2.worst s)) (c, .ok)

/-- Read a line from memory; a fill that does not complete with OK or POISONED gives poisoned zero words (R289). -/
def Chip.readLine (c : Chip) (line : Nat) : Chip × CcLine × Status :=
  let (c, ws) := c.readWords .fabric (line * 128) 8
  let st := Status.worstOf (ws.map (·.status))
  let data := ws.foldr (fun w a => w.data + 2 ^ 128 * a) 0
  let poi := ws.foldr (fun w a => b2n w.poison + 2 * a) 0
  if st = .ok || st = .poisoned then (c, ⟨line, data, poi, false⟩, .ok) else (c, ⟨line, 0, 0xFF, false⟩, st)

/-- Queue the write-back of a line on behalf of an engine. -/
def Chip.ccWriteBack (c : Chip) (n e : Nat) (l : CcLine) : Chip :=
  let k := c.cluster n
  c.setCluster n { k with wbs := k.wbs ++ [({ l with dirty := false }, e)] }

/-- Snoop the other clusters for a line (R288): a dirty copy is written to memory at once; `inv` drops every copy. -/
def Chip.ccSnoop (c : Chip) (n line : Nat) (inv : Bool) : Chip :=
  (List.range 16).foldl (fun c m =>
    if m = n then c
    else
      let k := c.cluster m
      let c := match k.wbs.find? fun w => w.1.line == line with
        | some w => (c.writeLine w.1).1
        | none => c
      match k.find line with
      | none => c
      | some l =>
        let c := if l.dirty then (c.writeLine l).1 else c
        c.setCluster m (if inv then k.drop line else k.put { l with dirty := false })) c

/-- Value of an access inside a line: `size` bytes at an address. -/
def CcLine.get (l : CcLine) (a size : Nat) : Nat := bits l.data (8 * (a % 128) + 8 * size - 1) (8 * (a % 128))

/-- The word's poison flag. -/
def CcLine.poisonAt (l : CcLine) (a : Nat) : Bool := bit l.poi (a % 128 / 16)

/-- Merge a store into a line (R288, R289): a narrow store into a poisoned word leaves it poisoned, a full-word store
replaces the flag. -/
def CcLine.merge (l : CcLine) (a size v : Nat) (p : Bool) : CcLine :=
  let sh := 8 * (a % 128)
  let m := 2 ^ (8 * size)
  let old := l.data / 2 ^ sh % m
  let flag := if size = 16 then p else l.poisonAt a || p
  { l with data := l.data - old * 2 ^ sh + v % m * 2 ^ sh, poi := setBit l.poi (a % 128 / 16) flag, dirty := true }

/-- Install a line in a cluster's cache. The cache holds 2,048 lines; which line of a full cache makes room is a free value,
since the spec states no order (R288; DESIGN CHOICE, log entry 24); a dirty one is written back. -/
def Chip.ccInstall (c : Chip) (n e : Nat) (l : CcLine) : Chip :=
  let k := c.cluster n
  if 2048 ≤ k.lines.length && (k.find l.line).isNone then
    let (i, c) := c.fresh
    match k.lines[Config.lineOut i % k.lines.length]? with
    | some v =>
      let c := c.setCluster n ((k.drop v.line).put l)
      if v.dirty then c.ccWriteBack n e v else c
    | none => c.setCluster n (k.put l)
  else c.setCluster n (k.put l)

/-! ## System registers -/

/-- Read a system register (R296, R304); none for a number not listed. -/
def Chip.rdSys (c : Chip) (e n : Nat) : Option Nat :=
  let x := c.eng e
  match n with
  | 0x00 => some (e + c.engPhys e * 2 ^ 8)
  | 0x01 => some x.fxstat
  | 0x02 => some x.ldstat
  | 0x03 => some x.epc
  | 0x04 => some x.ecause
  | 0x05 => some x.eaddr
  | 0x06 => some x.etgt
  | 0x07 => some x.evec
  | 0x08 => some x.ictrl
  | 0x09 => some x.irqPend
  | 0x0A => some x.holdoff
  | 0x0B => some x.depth
  | 0x0C => some x.tcmp
  | 0x0D => some x.mbox
  | 0x40 => some 0x100
  | 0x41 => some x.vl
  | 0x42 => some x.vtype
  | 0x43 => some x.faultElem
  | _ =>
    if 0x10 ≤ n && n < 0x14 then some (Tbl.get x.lp (n - 0x10) 0)
    else if 0x18 ≤ n && n < 0x20 then some (Tbl.get x.cb (n - 0x18) 0)
    else if 0x20 ≤ n && n < 0x28 then some (Tbl.get x.cln (n - 0x20) 0)
    else none

/-- A system register that MTS may not write (R294). -/
def sysReadOnly (n : Nat) : Bool := [0x00, 0x05, 0x0B, 0x0D, 0x40, 0x41, 0x42, 0x43].contains n

/-- A loop level's register with every other bit 0 (R268). -/
def lpMask (v : Nat) : Nat := bits v 13 0 + bits v 45 32 * 2 ^ 32 + bits v 127 96 * 2 ^ 96

/-- Write a system register (R296). W1C registers clear the bits written 1; LDSTAT.LAST is read-only. -/
def Eng.wrSys (x : Eng) (n v : Nat) : Eng :=
  match n with
  | 0x01 => { x with fxstat := x.fxstat - (x.fxstat &&& v % 2 ^ 32) }
  | 0x02 => { x with ldstat := x.ldstat - (x.ldstat &&& bits v 31 8 * 2 ^ 8) }
  | 0x03 => { x with epc := v % 2 ^ 14 }
  | 0x04 => { x with ecause := v % 2 ^ 22 }
  | 0x06 => { x with etgt := v % 2 ^ 14 }
  | 0x07 => { x with evec := v % 2 ^ 14 }
  | 0x08 => { x with ictrl := v % 4 + bits v 15 8 * 2 ^ 8 }
  | 0x09 => { x with irqPend := x.irqPend - (x.irqPend &&& v % 2 ^ 5) }
  | 0x0A => { x with holdoff := v % 2 ^ 16 }
  | 0x0C => { x with tcmp := v % 2 ^ 33 }
  | _ =>
    if 0x10 ≤ n && n < 0x14 then { x with lp := Tbl.set x.lp (n - 0x10) (lpMask v) 0 }
    else if 0x18 ≤ n && n < 0x20 then { x with cb := Tbl.set x.cb (n - 0x18) (v % 2 ^ 48) 0 }
    else if 0x20 ≤ n && n < 0x28 then { x with cln := Tbl.set x.cln (n - 0x20) (v % 2 ^ 32) 0 }
    else x

end Sys2Proof.Machine
end

