-- ==== Sys2Proof/Machine/Trust.lean ====
section
/-! DEFINITION. The trust block (spec/19_trust.md): manifests and the checks of an image, delivery, directories and boot
verification, flash actions, the attestation report. Its commands are in Machine/TrustCmds.lean. -/
namespace Sys2Proof.Machine

/-! ## Images (R472–R476) -/

/-- An image as its bytes by offset. -/
abbrev Img := Nat → Nat

/-- `n` bytes of an image as a little-endian value. -/
def Img.val (im : Img) (off n : Nat) : Nat :=
  match n with
  | 0 => 0
  | m + 1 => im off + 256 * Img.val im (off + 1) m

/-- `n` bytes of an image. -/
def Img.bytes (im : Img) (off n : Nat) : List Byte := (List.range n).map fun k => BitVec.ofNat 8 (im (off + k))

/-- Bytes of a manifest. -/
abbrev manBytes : Nat := 8832

/-- TYPE of an image. -/
def Img.type (im : Img) : Nat := im 5
/-- TARGET. -/
def Img.target (im : Img) : Nat := im 6
/-- SVN. -/
def Img.svn (im : Img) : Nat := Img.val im 8 4
/-- BODY_LEN. -/
def Img.bodyLen (im : Img) : Nat := Img.val im 16 8
/-- The manifest digest, which is the image's measurement (R474). -/
def Img.digest (im : Img) : BitVec 384 := Config.sha384 (Img.bytes im 0 576)
/-- What is reported of an image. -/
def Img.meas (im : Img) : Meas := ⟨(Img.digest im).toNat, Img.val im 12 4, Img.svn im⟩

/-- Largest body of an image type (R472); none for a type that is not listed. -/
def bodyMax (t : Nat) : Option Nat :=
  match t with
  | 1 => some 0x200000 | 2 => some 0x401000 | 3 => some 0x200000 | 4 => some 9834496 | 5 => some 0x100000
  | 6 => some 16 | 7 => some 64 | _ => none

/-- Check 1: the manifest's format. The bodies of types 6 and 7 have one length (log entry 46). -/
def Img.formatOk (im : Img) : Bool :=
  let t := Img.type im
  Img.val im 0 4 == 0x4D494B52 && im 4 == 1
    && (if t = 4 then Img.target im < 8 else Img.target im == 0)
    && im 7 / 4 % 4 == 0 && im 7 / 64 == 0
    && (List.range 48).all (fun k => im (80 + k) == 0) && (List.range 28).all (fun k => im (548 + k) == 0)
    && (match bodyMax t with
      | some m => Img.bodyLen im ≤ m && (t != 6 || Img.bodyLen im == 16) && (t != 7 || Img.bodyLen im == 64)
      | none => false)

/-- Check 2: both key slots programmed, not revoked, and holding the hashes of the manifest's keys. -/
def Chip.keysOk (c : Chip) (im : Img) : Bool :=
  let r := im 7 % 4
  let s := im 7 / 16 % 4
  bit (c.rd F.TRUST_FUSE_PROG_RSA) r && !bit (c.rd F.TRUST_FUSE_REV_RSA) r
    && bit (c.rd F.TRUST_FUSE_PROG_SLH) s && !bit (c.rd F.TRUST_FUSE_REV_SLH) s
    && Config.sha384 (Img.bytes im 128 388) == Config.rsaKeyHash r
    && Config.sha384 (Img.bytes im 516 32) == Config.slhKeyHash s

/-- Checks 5 and 6: each signature. -/
def Img.rsaOk (im : Img) : Bool := Config.rsaVerifies (Img.bytes im 128 388) (Img.bytes im 576 384) (Img.digest im)
/-- The SLH-DSA signature. -/
def Img.slhOk (im : Img) : Bool := Config.slhVerifies (Img.bytes im 516 32) (Img.bytes im 960 7856) (Img.digest im)

/-- Body format: version 1 for the types the image tools lay out; for a fuse update its reserved bits and its floor
(R472, R478; log entry 46). -/
def Img.bodyOk (im : Img) : Bool :=
  let b := fun k => im (manBytes + k)
  if Img.type im ≤ 4 then Img.val im manBytes 4 == 1
  else if Img.type im = 6 then b 0 < 16 && b 1 < 16 && b 2 ≤ 128 && (List.range 13).all fun k => b (3 + k) == 0
  else true

/-- The first check of R475 that an image fails, with its order number and status. -/
def Chip.imageFails (c : Chip) (im : Img) : Option (Nat × Status) :=
  let bind := Img.val im 24 8
  if !Img.formatOk im then some (1, .versionMismatch)
  else if !c.keysOk im then some (2, .accessDenied)
  else if Img.svn im < c.rd F.TRUST_FUSE_SVN then some (3, .versionMismatch)
  else if (bind != 0 && bind != c.rd F.TRUST_DEV_ID_DEV_ID) || (Img.type im = 7 && bind = 0) then some (4, .accessDenied)
  else if !Img.rsaOk im then some (5, .accessDenied)
  else if !Img.slhOk im then some (6, .accessDenied)
  else if Config.sha384 (Img.bytes im manBytes (Img.bodyLen im)) != BitVec.ofNat 384 (Img.val im 32 48) then
    some (7, .accessDenied)
  else if !Img.bodyOk im then some (8, .versionMismatch)
  else none

/-- A failure is recorded in TRUST_STATUS (R476). -/
def Chip.imageNote (c : Chip) (check : Nat) (st : Status) (type target : Nat) : Chip :=
  let c := (c.wr F.TRUST_STATUS_LAST_FAIL_STATUS st.code).wr F.TRUST_STATUS_LAST_FAIL_CHECK check
  (c.wr F.TRUST_STATUS_LAST_FAIL_TYPE type).wr F.TRUST_STATUS_LAST_FAIL_TARGET target

/-- Image in a host buffer. -/
def Chip.hostImg (c : Chip) (a : Nat) : Img := fun k => (c.rdByte (hostBase + a + k)).toNat

/-! ## Delivery -/

/-- An engine image is written into the instruction stores (R266, R296): `code` is what the loader finds in its body. -/
def Chip.loadEngines (c : Chip) (code : List EngImage) : Chip :=
  code.foldl (fun c (x : EngImage) =>
    let n := x.cluster % 16
    let lo := 16384 * n
    let c := c.setCluster n { c.cluster n with
      codeLen := min x.groups.length 16384, entry := x.entry % 16384, evec := x.evec % 16384 }
    let keep (t : Tbl Nat) := Tbl.eraseIf t fun k => lo ≤ k && k < lo + 16384
    let put := (List.zip (List.range 16384) x.groups).foldl (fun t (e : Nat × Nat) => Tbl.set t (lo + e.1) (e.2 % 2 ^ 128) 0)
    (c.withClu { c.clu with istore := put (keep c.clu.istore), istUpset := keep c.clu.istUpset }).hwWake n) c

/-- An image of types 1–4 that has passed is delivered (R472, R481); the loader wakes each domain it writes (R452). -/
def Chip.deliver (c : Chip) (im : Img) (code : List EngImage) (src : Option CmdRef) : Chip :=
  let t := Img.type im
  let c := c.withTrust { c.trust with passed := (c.trust.passed.filter (· != t)) ++ [t] }
  match t with
  | 1 => c.setMeas 0 (some (Img.meas im))
  | 2 => (c.loadEngines code).setMeas 1 (some (Img.meas im))
  | 3 => (List.range 9).foldl (fun c k => c.hwWake (16 + k)) (c.setMeas 2 (some (Img.meas im)))
  | _ =>
    (c.withPlr { c.plr with inbound := c.plr.inbound ++ [(Img.target im, src, Img.meas im)] }).hwWake
      (53 + Img.target im)

/-- The images of types 1–3 are discarded. -/
def Chip.dropCode (c : Chip) : Chip :=
  let c := (List.range 3).foldl (fun c m => c.setMeas m none) c
  let c := c.withClu { c.clu with istore := [], istUpset := [] }
  (List.range 16).foldl (fun c n => c.setCluster n { c.cluster n with codeLen := 0, entry := 0, evec := 0 }) c

/-- Every loaded image is discarded (R50, R63): a loaded region is unloaded. -/
def Chip.dropImages (c : Chip) : Chip :=
  let c := c.dropCode.wr F.DEV_MODE_IMAGES_OK 0
  let c := (c.withPlr { c.plr with inbound := [] }).withTrust { c.trust with passed := [] }
  (List.range 8).foldl (fun c r => if c.rgState r = rgEmpty then c else c.rgRequest r .unload) c

/-! ## Flash (R479, R480) -/

/-- Start of directory `k` and of slot `k` (0 A, 1 B) in the flash. -/
def dirBase (k : Nat) : Nat := 0x300000 + 0x80000 * k
/-- Start of a slot. -/
def slotBase (k : Nat) : Nat := 0x400000 + 0x3E00000 * k
/-- Bytes in a slot. -/
abbrev slotSize : Nat := 0x3E00000

/-- The flash from an offset on. -/
def Chip.flashImg (c : Chip) (base : Nat) : Img := fun k => (Tbl.get c.trust.flash (base + k) 0).toNat

/-- A directory is valid: magic, DIR_FMT, CRC-32. -/
def Chip.dirOk (c : Chip) (k : Nat) : Bool :=
  let d := c.flashImg (dirBase k)
  let n := d 12
  Img.val d 0 4 == 0x52494452 && d 4 == 1
    && Img.val d 60 4 == crc32 (480 + 128 * n) (Img.val d 0 60 + 2 ^ 480 * Img.val d 64 (16 * n))

/-- SEQ of a directory. -/
def Chip.dirSeq (c : Chip) (k : Nat) : Nat := Img.val (c.flashImg (dirBase k)) 8 4

/-- Entries of a directory. -/
def Chip.dirEntries (c : Chip) (k : Nat) : List DirEntry :=
  let d := c.flashImg (dirBase k)
  (List.range (d 12)).map fun i =>
    ⟨d (64 + 16 * i), d (65 + 16 * i), Img.val d (68 + 16 * i) 4, Img.val d (72 + 16 * i) 4⟩

/-- VALID and SEQ of both directories as they stand. -/
def Chip.showDirs (c : Chip) : Chip :=
  let c := (c.setFlag F.TRUST_STATUS_VALID_A (c.dirOk 0)).setFlag F.TRUST_STATUS_VALID_B (c.dirOk 1)
  (c.wr F.TRUST_SEQ_SEQ_A (if c.dirOk 0 then c.dirSeq 0 else 0)).wr F.TRUST_SEQ_SEQ_B (if c.dirOk 1 then c.dirSeq 1 else 0)

/-- Valid slots, the one to be tried first in front (R481). -/
def Chip.bootOrder (c : Chip) : List Nat :=
  match c.dirOk 0, c.dirOk 1 with
  | true, true => if 0 < tickDiff (c.dirSeq 1) (c.dirSeq 0) then [1, 0] else [0, 1]
  | true, false => [0]
  | false, true => [1]
  | false, false => []

/-- The inactive slot (R485): an invalid slot counts as the one with the lower SEQ (log entry 47). -/
def Chip.inactive (c : Chip) : Nat :=
  match c.rd F.TRUST_STATUS_BOOT_FROM with
  | 1 => 1
  | 2 => 0
  | _ =>
    match c.bootOrder with
    | [0, 1] => 1
    | [1, 0] => 0
    | [0] => 1
    | _ => 0

/-- Bytes into the flash. -/
def Chip.flashPut (c : Chip) (off : Nat) (l : List Byte) : Chip :=
  c.withTrust { c.trust with flash := putBytes c.trust.flash off l }

/-- A span of the flash erased. -/
def Chip.flashErase (c : Chip) (off n : Nat) : Chip :=
  c.withTrust { c.trust with flash := Tbl.eraseIf c.trust.flash fun k => off ≤ k && k < off + n }

/-- A required set (R481): one image each of types 1–3. -/
def needSet (types : List Nat) : Option Nat := [1, 2, 3].find? fun t => !types.contains t

/-- Bytes of a directory with a SEQ and entries (R480). -/
def dirBytes (seq : Nat) (es : List DirEntry) : List Byte :=
  let entries := es.foldr (fun (e : DirEntry) acc =>
    e.type + e.target * 2 ^ 8 + e.offset * 2 ^ 32 + e.length * 2 ^ 64 + acc * 2 ^ 128) 0
  let head := 0x52494452 + 1 * 2 ^ 32 + seq * 2 ^ 64 + es.length * 2 ^ 96
  toBytes 60 head ++ toBytes 4 (crc32 (480 + 128 * es.length) (head + 2 ^ 480 * entries))
    ++ toBytes (16 * es.length) entries

/-! ## Operations of the trust block (R487) -/

/-- The code of an operation in BUSY. -/
def TrustOp.code (o : TrustOp) : Nat :=
  match o with | .boot => 1 | .image _ => 2 | .commit _ => 2 | .erase _ => 2 | .attest _ _ => 3

/-- A flash action starts, or waits for the store operation that runs and those held before it. -/
def Chip.flashBegin (c : Chip) (a : FlashAct) : Chip :=
  let c := c.withTrust { c.trust with act := some a }
  if c.cal.op.isSome then c.withTrust { c.trust with wait := some c.cal.held.length }
  else c.wr F.TRUST_STATUS_FLASH_BUSY 1

/-- Bytes of an attestation report up to its signatures (R491). -/
def Chip.reportBytes (c : Chip) (nonce : Nat) : List Byte :=
  let flags := b2n (c.flag F.DEV_MODE_SEAM_OPEN) + 2 * b2n (c.flag F.ECV_RING_STAT_DUP_ID 16 || c.flag F.ECV_RING_STAT_DUP_ID 17)
    + 4 * b2n (c.flag F.ECV_RING_STAT_TT_VALID 16) + 8 * b2n (c.flag F.ECV_RING_STAT_TT_VALID 17)
    + 16 * b2n (c.flag F.TRUST_STATUS_FALLBACK) + 32 * b2n (c.flag F.DEV_MODE_IMAGES_OK)
  let vers := (List.range 18).foldl (fun v l => v + c.rd F.ECV_LINK_STAT_VERSION l * 2 ^ (2 * l)) 0
  let partner := fun l => if c.lkUp l then c.rd F.ECV_RING_STAT_PARTNER_ID l else 0xFF
  let store := (List.range 6).foldl (fun v k => v + c.rd F.CAL_STORE_DIGEST_DIGEST k * 2 ^ (64 * k)) 0
  let meas := (List.range 11).flatMap fun m => (List.range 6).flatMap fun d => toBytes 8 (c.rd F.TRUST_MEAS_DIGEST m d)
  toBytes 4 0x54415452 ++ toBytes 1 1 ++ toBytes 1 c.mode ++ toBytes 1 (c.rd F.ECV_RING_STAT_LOCAL_ID 16) ++ toBytes 1 flags
    ++ toBytes 8 (c.rd F.TRUST_DEV_ID_DEV_ID) ++ toBytes 16 nonce ++ toBytes 4 (c.tick % tickMod)
    ++ toBytes 1 (c.rd F.TRUST_FUSE_SVN) ++ toBytes 1 (c.rd F.TRUST_FUSE_REV_RSA + 16 * c.rd F.TRUST_FUSE_REV_SLH)
    ++ toBytes 2 0 ++ toBytes 5 vers ++ toBytes 3 0 ++ toBytes 1 (partner 16) ++ toBytes 1 (partner 17)
    ++ toBytes 1 (c.rd F.TIME_RING_STAT_DIST) ++ toBytes 13 0 ++ toBytes 48 store ++ meas
    ++ toBytes 448 Config.identity.toNat

/-- The command of a reference. -/
def Chip.cmdOf (c : Chip) (r : CmdRef) : Option HostCmd :=
  c.hif.inflight.find? fun h => h.fn == r.1 && h.ring == r.2.1 && h.count == r.2.2

/-- An operation starts; the flag says that it has ended at once (R486). -/
def Chip.trustBegin (c : Chip) (o : TrustOp) : Chip × Bool :=
  let c := (c.withTrust { c.trust with op := some o }).wr F.TRUST_STATUS_BUSY o.code
  match o with
  | .boot => (c, false)
  | .image _ => (c, false)
  | .commit ref =>
    let k := c.inactive
    if !c.trust.erased.contains k || (needSet (c.trust.staged.map fun (e : DirEntry) => e.type)).isSome then
      (c.finishCmd (some ref) .badDescriptor, true)
    else (c.flashBegin (.commit k), false)
  | .erase _ =>
    let k := c.inactive
    let c := c.flashErase (dirBase k) 0x80000
    (((c.withTrust { c.trust with staged := [] }).wr F.TRUST_STATUS_STAGED 0).showDirs.flashBegin (.erase k), false)
  | .attest ref _ =>
    let nonce := match c.cmdOf ref with | some h => h.w2 | none => 0
    ((c.withTrust { c.trust with op := some (.attest ref (c.reportBytes nonce)) }), false)

/-- The next operation that waits starts; those that end at once are passed over. -/
def Chip.trustNext (c : Chip) (fuel : Nat) : Chip :=
  match fuel, c.trust.queue with
  | n + 1, o :: r =>
    match (c.withTrust { c.trust with queue := r }).trustBegin o with
    | (c, false) => c
    | (c, true) => Chip.trustNext ((c.withTrust { c.trust with op := none }).wr F.TRUST_STATUS_BUSY 0) n
  | _, _ => c

/-- The operation that runs has ended. -/
def Chip.trustEnd (c : Chip) : Chip :=
  let c := (c.withTrust { c.trust with op := none }).wr F.TRUST_STATUS_BUSY 0
  c.trustNext (c.trust.queue.length + 1)

/-- An operation is asked for: it starts, or waits behind the one that runs. -/
def Chip.trustAsk (c : Chip) (o : TrustOp) : Chip :=
  let c := c.withTrust { c.trust with queue := c.trust.queue ++ [o] }
  if c.trust.op.isSome then c else c.trustNext c.trust.queue.length

/-! ## Boot verification (R481–R483) -/

/-- Verification ends with a status: the transition to VERIFY completes, or ends in RELAY (R69). -/
def Chip.verifyEnd (c : Chip) (st : Status) (from_ : Nat) : Chip :=
  let c := c.withTrust { c.trust with boot := none, hostWait := false }
  match c.dev.trans with
  | some t =>
    if t.phase = .verify then
      if st = .ok then
        (c.withDev { c.dev with trans := some { t with phase := .run } }).wr F.TRUST_STATUS_BOOT_FROM from_
      else
        (c.withDev { c.dev with trans := some { t with phase := .run, target := mRelay, fail := st } }).wr
          F.DEV_MODE_TARGET_MODE mRelay
    else c
  | none => c

/-- Order of an entry in the processing of a slot (R481); none for a type that boot does not deliver. -/
def DirEntry.order (e : DirEntry) : Option Nat :=
  match e.type with | 1 => some 0 | 3 => some 1 | 2 => some 2 | 4 => some (3 + e.target) | _ => none

/-- Entries in processing order. -/
def bootSort (es : List DirEntry) : List DirEntry :=
  (List.range 259).flatMap fun k => es.filter fun (e : DirEntry) => e.order == some k

/-- No slot is left: the device waits for host images, or the transition fails (R482). -/
def Chip.bootOut (c : Chip) (st : Status) : Chip :=
  let c := c.withTrust { c.trust with boot := none }
  if c.rd F.DEV_STRAPS_BOOT_SRC = 2 then (c.withTrust { c.trust with hostWait := true }).trustEnd
  else (c.verifyEnd st 0).trustEnd

/-- Boot from a list of slots (R481, R482). -/
def Chip.bootSlots (c : Chip) (slots : List Nat) (second : Bool) (st : Status) : Chip :=
  match slots with
  | [] => c.bootOut st
  | k :: r =>
    let es := c.dirEntries k
    match needSet (es.map fun (e : DirEntry) => e.type) with
    | some t =>
      let c := c.imageNote 1 .versionMismatch t 0
      Chip.bootSlots (c.when (!second) fun c => c.wr F.TRUST_STATUS_FALLBACK 1) r true .versionMismatch
    | none => c.withTrust { c.trust with boot := some ⟨k, bootSort es, [], second⟩ }

/-- Boot verification starts at entry to VERIFY (R481, R483). -/
def Chip.bootStart (c : Chip) : Chip :=
  let c := c.withTrust { c.trust with passed := [], boot := none, hostWait := false }
  let c := (c.wr F.TRUST_STATUS_BOOT_FROM 0).wr F.TRUST_STATUS_FALLBACK 0
  if c.rd F.DEV_STRAPS_BOOT_SRC = 1 then c.withTrust { c.trust with hostWait := true }
  else
    let c := c.showDirs.trustAsk .boot
    if c.trust.op = some .boot then c.bootSlots c.bootOrder false .versionMismatch else c

/-- A slot fails at an image (R482): what it delivered is discarded, the other slot is tried. -/
def Chip.bootFail (c : Chip) (b : BootSt) (st : Status) : Chip :=
  let c := c.dropCode
  let rs := (b.taken.filter fun (t : Nat × Nat) => t.1 == 4).map fun (t : Nat × Nat) => t.2
  let c := c.withPlr { c.plr with inbound := c.plr.inbound.filter fun e => !rs.contains e.1 }
  let c := c.withTrust { c.trust with passed := [] }
  let c := rs.foldl (fun c r => if c.rgState r = rgEmpty then c else c.rgRequest r .unload) c
  if b.second then c.bootOut st
  else (c.wr F.TRUST_STATUS_FALLBACK 1).bootSlots (c.bootOrder.filter (· != b.slot)) true st

/-- The next image of the slot has been checked (R475, R481): it is delivered, or the slot fails. -/
def Chip.bootImage (c : Chip) (code : List EngImage) : Chip :=
  match c.trust.boot with
  | none => c.bootSlots c.bootOrder false .versionMismatch
  | some b =>
    match b.todo with
    | [] => (c.verifyEnd .ok (b.slot + 1)).trustEnd
    | e :: r =>
      let im := c.flashImg (slotBase b.slot + e.offset)
      let key := (Img.type im, Img.target im)
      let bad := if Img.formatOk im && (key != (e.type, e.target) || b.taken.contains key) then some (1, Status.versionMismatch)
        else c.imageFails im
      match bad with
      | some (check, st) => (c.imageNote check st (Img.type im) (Img.target im)).bootFail b st
      | none =>
        let c := c.deliver im code none
        let b := { b with todo := r, taken := b.taken ++ [key] }
        if r.isEmpty then (c.verifyEnd .ok (b.slot + 1)).trustEnd
        else c.withTrust { c.trust with boot := some b }

end Sys2Proof.Machine
end

