-- ==== Sys2Proof/Machine/TrustCmds.lean ====
section
/-! DEFINITION. The commands of the trust block (spec/19_trust.md R472–R492) and the service commands of the host
interface that reach it or the calibration store (spec/09_live_calibration.md R262, R263). -/
namespace Sys2Proof.Machine

/-! ## Service commands (R85, R262, R485, R491) -/

/-- What every service command must keep: the rules of any entry; CELL, SFN, SLOT, SLOT_START and DEADLINE 0; no reserved
bit set; a mode its chapter lists, or QUIESCE, which aborts it (R47). -/
def Chip.svcFaults (c : Chip) (h : HostCmd) (fieldsOk : Bool) (modes : Nat) : List Status :=
  Chip.entryFaults h
    ++ (if bits h.w0 15 14 != 0 || h.w0 / 2 ^ 32 != 0 || !fieldsOk then [.badDescriptor] else [])
    ++ (if c.mode == mQuiesce then [.abortedByQuiesce] else if c.modeIn modes then [] else [.accessDenied])

/-- BUF_ADDR of a service command. -/
def HostCmd.buf (h : HostCmd) : Nat := bits h.w1 63 0

/-- The buffer of a store or image command: alignment, reserved bits, R31. -/
def HostCmd.bufOk (h : HostCmd) (len : Nat) : Bool := h.buf % 4096 == 0 && h.w1 / 2 ^ 64 == 0 && h.buf + len ≤ hostTop

/-- CAL_STORE_EXPORT (R261, R262). -/
def execCalStoreExport (f : Fin 64) (r : Fin 8) (s : State) : Host.Outcome State Fault Refusal :=
  s.run fun c => c.takeCmd f r 0x10 fun c h =>
    let len := bits h.w2 31 0
    match c.svcFaults h (h.bufOk len && h.w2 / 2 ^ 32 == 0 && storeBytes ≤ len) 0xBE with
    | [] =>
      if c.cal.op.isSome then
        (c.putCmd { h with stage := .started }).withCal { c.cal with exports := c.cal.exports ++ [h.ref] }
      else (c.storeExport h).cmdEnd h [] 0 0
    | sts => c.cmdEnd h sts 0 0

/-- The first failing status of the import checks (R263), with the check of R475 that failed, if it is one of them. -/
def Chip.importFails (c : Chip) (im : Img) : Option Status × Option (Nat × Status) :=
  let fails := c.imageFails im
  let fails := if Img.formatOk im && Img.type im ≠ 5 then some (1, Status.versionMismatch) else fails
  let b := fun k => im (manBytes + k)
  let sec := b 6
  let devId := Img.val (fun k => b (16 + k)) 0 8
  let digest := Config.sha384 ((List.range storeBytes).map fun k => BitVec.ofNat 8 (if 64 ≤ k && k < 112 then 0 else b k))
  match fails with
  | some (n, st) => (some st, some (n, st))
  | none =>
    if b 4 ≠ 1 then (some .versionMismatch, none)
    else if Img.val (fun k => b k) 0 4 ≠ 0x4C435453 || digest.toNat ≠ Img.val (fun k => b (64 + k)) 0 48 || sec = 0
        || (bit sec 0 && devId ≠ c.rd F.TRUST_DEV_ID_DEV_ID) || Img.bodyLen im ≠ storeBytes then (some .badDescriptor, none)
    else (none, none)

/-- CAL_STORE_IMPORT (R261, R263). -/
def execCalStoreImport (f : Fin 64) (r : Fin 8) (s : State) : Host.Outcome State Fault Refusal :=
  s.run fun c => c.takeCmd f r 0x11 fun c h =>
    let len := bits h.w2 31 0
    match c.svcFaults h (h.bufOk len && h.w2 / 2 ^ 32 == 0 && len ≤ 0x110000 && manBytes + storeBytes ≤ len) 0x86 with
    | [] =>
      let im := c.hostImg h.buf
      match c.importFails im with
      | (some st, note) =>
        let c := match note with
          | some (n, st) => c.imageNote n st (Img.type im) (Img.target im)
          | none => c
        c.cmdEnd h [st] 0 0
      | (none, _) =>
        let body := (List.range storeBytes).filterMap fun k =>
          let v := im (manBytes + k)
          if v = 0 then none else some (k, BitVec.ofNat 8 v)
        (c.putCmd { h with stage := .started }).storeStart (.import_ body (im (manBytes + 6)) (some h.ref))
    | sts => c.cmdEnd h sts 0 0

/-- ATTEST_REPORT (R491, R492). -/
def execAttestReport (f : Fin 64) (r : Fin 8) (s : State) : Host.Outcome State Fault Refusal :=
  s.run fun c => c.takeCmd f r 0x12 fun c h =>
    let len := bits h.w1 95 64
    match c.svcFaults h (h.buf % 128 == 0 && h.w1 / 2 ^ 96 == 0 && 9328 ≤ len && h.buf + len ≤ hostTop) 0xBE with
    | [] => (c.putCmd { h with stage := .started }).trustAsk (.attest h.ref [])
    | sts => c.cmdEnd h sts 0 0

/-- DEST of an IMAGE_LOAD. -/
def HostCmd.dest (h : HostCmd) : Nat := bits h.w2 33 32

/-- Modes in which an IMAGE_LOAD is executed: for LOAD by the image's type; an unlisted type is left to check 1. -/
def loadModes (dest type : Nat) : Nat :=
  if dest = 0 then (match type with | 1 => 0x84 | 2 => 0x84 | 3 => 0x84 | 4 => 0x9C | 6 => 0x06 | 7 => 0x02 | _ => 0x9E)
  else 0x9E

/-- An IMAGE_LOAD is taken up if its DEST is the one named (R485). -/
def Chip.imageTake (c : Chip) (h : HostCmd) (dest : Nat) (op : CmdRef → TrustOp) : Chip :=
  if h.dest ≠ dest then c
  else
    let im := c.hostImg h.buf
    let len := bits h.w2 31 0
    let whole := 2 ≤ dest || (len == manBytes + Img.bodyLen im && (dest != 0 || Img.type im != 5))
    match c.svcFaults h (h.bufOk len && h.w2 / 2 ^ 34 == 0 && whole) (loadModes dest (Img.type im)) with
    | [] => (c.putCmd { h with stage := .started }).trustAsk (op h.ref)
    | sts => c.cmdEnd h sts 0 0

/-- IMAGE_LOAD_LOAD (R485). -/
def execImageLoadLoad (f : Fin 64) (r : Fin 8) (s : State) : Host.Outcome State Fault Refusal :=
  s.run fun c => c.takeCmd f r 0x13 fun c h => c.imageTake h 0 .image

/-- IMAGE_LOAD_FLASH (R485). -/
def execImageLoadFlash (f : Fin 64) (r : Fin 8) (s : State) : Host.Outcome State Fault Refusal :=
  s.run fun c => c.takeCmd f r 0x13 fun c h => c.imageTake h 1 .image

/-- IMAGE_LOAD_COMMIT (R485). -/
def execImageLoadCommit (f : Fin 64) (r : Fin 8) (s : State) : Host.Outcome State Fault Refusal :=
  s.run fun c => c.takeCmd f r 0x13 fun c h => c.imageTake h 2 .commit

/-- IMAGE_LOAD_ERASE (R485). -/
def execImageLoadErase (f : Fin 64) (r : Fin 8) (s : State) : Host.Outcome State Fault Refusal :=
  s.run fun c => c.takeCmd f r 0x13 fun c h => c.imageTake h 3 .erase

/-! ## Checked images (R475, R478, R485, R488) -/

/-- An IMAGE_LOAD ends with a status, and with it the operation of the trust block. -/
def Chip.imageEnd (c : Chip) (ref : CmdRef) (st : Status) : Chip := (c.finishCmd (some ref) st).trustEnd

/-- A fuse update (R478): refused where it would leave an algorithm without a key, else programmed. -/
def Chip.fuseUpdate (c : Chip) (im : Img) (ref : CmdRef) : Chip :=
  let f := c.trust.fuses
  let rsa := im manBytes % 16
  let slh := im (manBytes + 1) % 16
  let left := fun (prog rev : Nat) => (List.range 4).any fun k => bit prog k && !bit rev k
  if left f.progRsa (f.revRsa ||| rsa) && left f.progSlh (f.revSlh ||| slh) then
    (c.withTrust { c.trust with fuse := some (rsa, slh, im (manBytes + 2), ref) }).wr F.TRUST_STATUS_BUSY 4
  else c.imageEnd ref .accessDenied

/-- A debug token (R488, R489): held when it names the nonce and keeps its form. -/
def Chip.tokenLoad (c : Chip) (im : Img) (ref : CmdRef) : Chip :=
  let b := fun k => im (manBytes + k)
  let perms := Img.val (fun k => b (16 + k)) 0 4
  let nonce := c.rd F.TRUST_NONCE_NONCE 0 + c.rd F.TRUST_NONCE_NONCE 1 * 2 ^ 64
  if Img.val (fun k => b k) 0 16 = nonce && perms < 16 && (List.range 44).all (fun k => b (20 + k) == 0) then
    ((c.withTrust { c.trust with token := some perms }).wr F.TRUST_STATUS_TOKEN_OK 1).imageEnd ref .ok
  else c.imageEnd ref .accessDenied

/-- An image that has passed R475 is delivered (R485). -/
def Chip.imagePass (c : Chip) (im : Img) (code : List EngImage) (ref : CmdRef) : Chip :=
  let t := Img.type im
  if !c.modeIn (loadModes 0 t) then c.imageEnd ref .accessDenied
  else if t ≤ 3 then (c.deliver im code (some ref)).imageEnd ref .ok
  else if t = 4 then (c.deliver im code (some ref)).trustEnd
  else if t = 6 then c.fuseUpdate im ref
  else if t = 7 then c.tokenLoad im ref
  else c.imageEnd ref .badDescriptor

/-- The image of an IMAGE_LOAD has been checked. -/
def Chip.imageDone (c : Chip) (code : List EngImage) (ref : CmdRef) : Chip :=
  match c.cmdOf ref with
  | none => c.trustEnd
  | some h =>
    let im := c.hostImg h.buf
    let k := c.inactive
    let top := Tbl.get c.trust.top k 0
    let len := manBytes + Img.bodyLen im
    if h.dest = 1 && (!c.trust.erased.contains k || slotSize < top + len) then c.imageEnd ref .badDescriptor
    else
      match c.imageFails im with
      | some (n, st) => (c.imageNote n st (Img.type im) (Img.target im)).imageEnd ref st
      | none =>
        if h.dest = 1 then
          (c.withTrust { c.trust with top := Tbl.set c.trust.top k (top + len) 0 }).flashBegin
            (.program k ⟨Img.type im, Img.target im, top, len⟩ (Img.bytes im 0 len))
        else c.imagePass im code ref

/-- IMAGE_VERIFY_DONE (R475): of the image that boot verification or an IMAGE_LOAD is checking; `code` is what the loader
finds in an engine image. -/
def execImageVerifyDone (code : List EngImage) (s : State) : Host.Outcome State Fault Refusal :=
  s.run fun c =>
    match c.trust.op, c.trust.act, c.trust.fuse with
    | some .boot, _, _ => c.bootImage code
    | some (.image ref), none, none => c.imageDone code ref
    | _, _, _ => c

/-- HOST_DONE (R483). -/
def execHostDone (by_ : Port) (s : State) : Host.Outcome State Fault Refusal :=
  s.run fun c => c.action by_ 0xBE fun c =>
    if c.trust.hostWait then
      (c.wr F.TRUST_CTRL_HOST_DONE 1).verifyEnd (if (needSet c.trust.passed).isNone then .ok else .versionMismatch) 3
    else c

/-- HOST_IMAGE_TIMEOUT (R483). -/
def execHostImageTimeout (s : State) : Host.Outcome State Fault Refusal :=
  s.run fun c => if c.trust.hostWait then c.verifyEnd .deadlineMissed 0 else c

/-- The debug token held is discarded (R488). -/
def Chip.dropToken (c : Chip) : Chip :=
  (c.withTrust { c.trust with token := none }).wr F.TRUST_STATUS_TOKEN_OK 0

/-- NEW_NONCE (R488). -/
def execNewNonce (by_ : Port) (s : State) : Host.Outcome State Fault Refusal :=
  s.run fun c => c.action by_ 0xBE fun c =>
    let (i, c) := c.fresh
    let n := (Config.nonce i).toNat
    ((c.wr F.TRUST_NONCE_NONCE n 0).wr F.TRUST_NONCE_NONCE (n / 2 ^ 64) 1).dropToken

/-- The fuse shadows take what the fuses hold (R58, R477). -/
def Chip.loadFuses (c : Chip) : Chip :=
  let f := c.trust.fuses
  let c := (c.wr F.TRUST_FUSE_PROG_RSA f.progRsa).wr F.TRUST_FUSE_PROG_SLH f.progSlh
  let c := (c.wr F.TRUST_FUSE_REV_RSA f.revRsa).wr F.TRUST_FUSE_REV_SLH f.revSlh
  (c.wr F.TRUST_FUSE_SVN f.svn).wr F.TRUST_DEV_ID_DEV_ID (Config.sha384 (toBytes 448 Config.identity.toNat)).toNat

/-- FUSE_PROGRAM_DONE (R478). -/
def execFuseProgramDone (s : State) : Host.Outcome State Fault Refusal :=
  s.run fun c =>
    match c.trust.fuse with
    | none => c
    | some (rsa, slh, floor, ref) =>
      let f := c.trust.fuses
      let c := c.withTrust { c.trust with
        fuse := none
        fuses := { f with revRsa := f.revRsa ||| rsa, revSlh := f.revSlh ||| slh, svn := max f.svn floor } }
      c.loadFuses.imageEnd ref .ok

/-- ATTEST_SIGN_DONE (R491, R492). -/
def execAttestSignDone (s : State) : Host.Outcome State Fault Refusal :=
  s.run fun c =>
    match c.trust.op with
    | some (.attest ref rep) =>
      let d := Config.sha384 rep
      let (i, c) := c.fresh
      let all := rep ++ toBytes 384 (Config.rsaSign d i).toNat ++ toBytes 7856 (Config.slhSign d i).toNat
      let c := match c.cmdOf ref with
        | some h => if h.discard || c.dev.pcieDiscard then c else c.hostWrite h.buf all
        | none => c
      c.imageEnd ref .ok
    | _ => c

/-- What a finished flash action leaves (R485, R486). -/
def Chip.flashApply (c : Chip) (a : FlashAct) : Chip :=
  match a with
  | .program k e bytes =>
    let c := c.flashPut (slotBase k + e.offset) bytes
    (c.withTrust { c.trust with
      staged := (c.trust.staged.filter fun (x : DirEntry) => !(x.type == e.type && x.target == e.target)) ++ [e] }).wr
        F.TRUST_STATUS_STAGED 1
  | .commit k =>
    let seq := if c.dirOk (1 - k) then (c.dirSeq (1 - k) + 1) % 2 ^ 32 else 1
    let c := c.flashPut (dirBase k) (dirBytes seq c.trust.staged)
    ((c.withTrust { c.trust with erased := c.trust.erased.filter (· != k), staged := [] }).wr
      F.TRUST_STATUS_STAGED 0).showDirs
  | .erase k =>
    let c := c.flashErase (slotBase k) slotSize
    c.withTrust { c.trust with
      erased := (c.trust.erased.filter (· != k)) ++ [k], top := Tbl.erase c.trust.top k, staged := [] }

/-- FLASH_OP_DONE (R486, R487). -/
def execFlashOpDone (s : State) : Host.Outcome State Fault Refusal :=
  s.run fun c =>
    match c.trust.act, c.flag F.TRUST_STATUS_FLASH_BUSY with
    | some a, true =>
      let c := (c.withTrust { c.trust with act := none }).wr F.TRUST_STATUS_FLASH_BUSY 0
      let c := (c.flashApply a).storeHeld
      match c.trust.op with
      | some (.image ref) => c.imageEnd ref .ok
      | some (.commit ref) => c.imageEnd ref .ok
      | some (.erase ref) => c.imageEnd ref .ok
      | _ => c
    | _, _ => c

end Sys2Proof.Machine
end

