-- ==== Sys2Proof/Machine/Dev.lean ====
section
/-! DEFINITION. The eight modes (spec/02_staged_start.md R47–R74): requests, the pending slot, the start of a transition,
its completion and what each mode does at entry. The commands are in Machine/DevCmds.lean. -/
namespace Sys2Proof.Machine

/-! ## Transitions -/

/-- A transition to a mode starts (R69). -/
def Chip.transBegin (c : Chip) (target : Nat) (phase : TransPhase) (hw : Bool) : Chip :=
  let c := c.withDev { c.dev with
    trans := some { source := c.mode, target := target, phase := phase, hw := hw } }
  (c.wr F.DEV_MODE_IN_TRANSITION 1).wr F.DEV_MODE_TARGET_MODE target

/-- A transition is in progress. -/
def Chip.inTrans (c : Chip) : Bool := c.flag F.DEV_MODE_IN_TRANSITION

/-- Slot intake closes (R66): slot commands not yet started will complete with ABORTED_BY_QUIESCE; those not yet read
are given it when they are taken up. -/
def Chip.closeIntake (c : Chip) : Chip :=
  c.withHif { c.hif with
    inflight := c.hif.inflight.map fun (h : HostCmd) =>
      if h.stage = .table then
        { h with status := h.status.worst .abortedByQuiesce, cond := condAdd h.cond .abortedByQuiesce }
      else h }

/-- Transmit is ramped down on every channel (R163). -/
def Chip.rampDown (c : Chip) : Chip := (List.range 256).foldl (fun c n => c.emergRamp n) c

/-- Hardware asks for ON for every domain of the SERVICE set (R62). -/
def Chip.wakeService (c : Chip) : Chip :=
  (List.range 64).foldl (fun c d => if c.flag F.PWR_DOM_CFG_SVC_SET d then c.hwWake d else c) c

/-- Free spares (R517). -/
def Chip.freeSpares (c : Chip) : List Nat :=
  (bitsSet (c.rd F.SCHED_SPARE_ENGINE_FREE) 16) ++ (if c.flag F.AE_MAP_SPARE_FREE then [16] else [])

/-- RELAY to VERIFY (R63): DEV_MODE reads VERIFY while the images are loaded (R47; log entry 52); the calibration store is
checked (R258), HBM is filled or leaves self-refresh (R389, R390), boot verification starts (R481). -/
def Chip.startVerify (c : Chip) (hw : Bool) : Chip :=
  let c := (c.transBegin mVerify .verify hw).wr F.DEV_MODE_MODE mVerify
  let c := c.wr F.DEV_MODE_IMAGES_OK 0
  let c := c.storeCheck
  (((c.hwWake 47).hwWake 48).rgHolds).bootStart

/-- The MUTE of every radio link that is up is released (R62, R123, R164). -/
def Chip.releaseMutes (c : Chip) : Chip :=
  (List.range 16).foldl (fun c l => if c.lkUp l then c.releaseMute l else c) c

/-- The stored coefficients of every channel are to be loaded and applied at its next symbol boundary (R62). -/
def Chip.loadCoefs (c : Chip) : Chip :=
  (List.range 256).foldl (fun c n => c.updAch n fun x => { x with loadCoef := true }) c

/-- Normal ramp-down on every channel (R66). -/
def Chip.closeWindows (c : Chip) (mute : Bool) : Chip := (List.range 256).foldl (fun c n => c.rampClose mute n) c

/-- To SERVICE: from VERIFY the SERVICE set is woken, the free spares are tested, the Steamer loads the stored coefficients
and the trained radio links are let out of MUTE (R62, R517; log entry 70); from SOAK the SERVICE set is woken and the source
of the wake recorded (R469, R471). -/
def Chip.startService (c : Chip) (hw : Bool) (src : Nat) : Chip :=
  if c.mode = mVerify then
    let c := (c.transBegin mService .run hw).wakeService.loadCoefs.releaseMutes
    c.withDev { c.dev with spareTests := c.freeSpares }
  else if c.mode = mSoak then
    ((c.transBegin mService .run hw).wakeService).wr F.PWR_WAKE_STAT_LAST_SRC src
  else c.transBegin mService .run hw

/-- The state SOAK asks of a domain; none where it takes no state below ON (R466). -/
def Chip.soakState (c : Chip) (d : Nat) : Option Nat :=
  if 61 ≤ d then none
  else if d = 47 || d = 48 || d = 37 || d = 38 then some dRetain
  else if 25 ≤ d && d < 33
      && ([2 * (d - 25), 2 * (d - 25) + 1].any fun l => c.lkUp l && c.rd F.ECV_LINK_STAT_VERSION l == 1) then none
  else some (c.rd F.PWR_DOM_CFG_SOAK_STATE d)

/-- The requests for the SOAK states (R466); the occurrences of R468 are counted afresh. -/
def Chip.soakDomains (c : Chip) : Chip :=
  (List.range 64).foldl (fun c d => match c.soakState d with | some st => (c.domReq d st true).1 | none => c)
    (c.withPwr { c.pwr with soakOcc := [] })

/-- MODE is raised in the IRQ_PEND of every engine that has started, on entry to SHED and to QUIESCE (R297). -/
def Chip.modeIrq (c : Chip) : Chip :=
  (List.range 256).foldl (fun c e =>
    let st := c.rd F.CLU_ENG_STAT_STATE (eC e) (eJ e)
    if 1 ≤ st && st ≤ 4 then c.engIrq e 16 else c) c

/-- A transition that the table of R63 allows starts. -/
def Chip.modeStart (c : Chip) (m : Nat) (hw : Bool) (src : Nat) : Chip :=
  match m with
  | 1 => c.transBegin mRelay .run hw
  | 2 => c.startVerify hw
  | 3 => c.startService hw src
  | 4 => (c.transBegin mShed .run hw).rampDown
  | 5 =>
    if c.mode = mService then (c.transBegin mSoak .drain hw).closeIntake
    else (c.transBegin mSoak .run hw).soakDomains
  | 6 => (((c.transBegin mRelay .drain hw).wr F.DEV_MODE_MODE mQuiesce).closeIntake).modeIrq.calHalt
  | _ => c.dropToken.transBegin mTest .run hw

/-! ## Requests -/

/-- An enabled SOAK transmission has a period code of 6 or 7 (R468). -/
def Chip.soakTxBad (c : Chip) : Bool :=
  (List.range 4).any fun q => c.flag F.PWR_SOAK_TX_EN q && 6 ≤ c.rd F.PWR_SOAK_TX_PERIOD q

/-- The status of a software request for a mode other than the current one, from the current mode (R63, R64, R67, R68,
R185, R468). -/
def Chip.modeStatus (c : Chip) (m : Nat) : Status :=
  let soak := if c.brSoakOk && !c.soakTxBad then Status.ok else .badDescriptor
  let held := if c.dev.shedCauses = 0 then Status.ok else .shed
  match c.mode, m with
  | 1, 2 => .ok
  | 1, 7 => if c.flag F.TRUST_STATUS_TOKEN_OK then .ok else .accessDenied
  | 2, 3 => held
  | 2, 1 => .ok
  | 3, 4 => .ok
  | 3, 5 => held.worst soak
  | 3, 6 => .ok
  | 4, 3 => held
  | 4, 5 => held.worst soak
  | 4, 6 => .ok
  | 5, 4 => .ok
  | 5, 3 => held
  | 5, 6 => .ok
  | _, _ => .accessDenied

/-- A rejected request is recorded. -/
def Chip.modeReject (c : Chip) (m : Nat) (s : Status) : Chip :=
  (c.wr F.DEV_MODE_PEND_LAST_REJECT_STATUS s.code).wr F.DEV_MODE_PEND_LAST_REJECT_MODE m

/-- A held software request is superseded: counted, recorded, reported (R71). -/
def Chip.modeSupersede (c : Chip) : Chip :=
  let m := c.rd F.DEV_MODE_PEND_PEND_MODE
  ((c.incSat F.DEV_MODE_PEND_SUPERSEDED_CNT).wr F.DEV_MODE_PEND_LAST_SUPERSEDED_MODE m).postMode .superseded m false

/-- The pending slot is empty. -/
def Chip.modeUnhold (c : Chip) : Chip :=
  c.clrFields [F.DEV_MODE_PEND_PEND_VALID, F.DEV_MODE_PEND_HW_PEND, F.DEV_MODE_PEND_PEND_MODE]

/-- A request is held (R71, R72): a software request it displaces is superseded. -/
def Chip.modeHold (c : Chip) (m : Nat) (hw : Bool) : Chip :=
  let c := c.when (c.flag F.DEV_MODE_PEND_PEND_VALID && !c.flag F.DEV_MODE_PEND_HW_PEND) Chip.modeSupersede
  ((c.wr F.DEV_MODE_PEND_PEND_VALID 1).setFlag F.DEV_MODE_PEND_HW_PEND hw).wr F.DEV_MODE_PEND_PEND_MODE m

/-- A software request (R63, R71, R72) and the status it is answered with. -/
def Chip.modeReq (c : Chip) (m : Nat) : Chip × Status :=
  if c.inTrans then
    if c.flag F.DEV_MODE_PEND_HW_PEND then
      let st := if c.rd F.DEV_MODE_PEND_PEND_MODE = mShed then Status.shed else .abortedByQuiesce
      (c.modeReject m st, st)
    else (c.modeHold m false, .ok)
  else if m = c.mode then (c, .ok)
  else
    match c.modeStatus m with
    | .ok => (c.modeStart m false 3, .ok)
    | st => (c.modeReject m st, st)

/-- A hardware request for SHED or QUIESCE is allowed from a mode (R63, R56). -/
def hwAllowed (m mode : Nat) : Bool :=
  (m == mShed && (mode == mService || mode == mSoak))
    || (m == mQuiesce && (mode == mService || mode == mShed || mode == mSoak))

/-- A hardware request for SHED or QUIESCE (R56, R63, R72). -/
def Chip.modeHw (c : Chip) (m : Nat) : Chip :=
  if c.inTrans then
    if m = mQuiesce && c.mode = mQuiesce then c else c.modeHold m true
  else if hwAllowed m c.mode then c.modeStart m true 0
  else c

/-- A hardware cause of SHED begins (R63): bit 0 stage S4, bit 1 PWR_WARN_N, bit 2 temperature. -/
def Chip.shedCause (c : Chip) (k : Nat) : Chip :=
  (c.withDev { c.dev with shedCauses := setBit c.dev.shedCauses k true }).modeHw mShed

/-- A hardware cause of SHED ends. -/
def Chip.shedClear (c : Chip) (k : Nat) : Chip :=
  c.withDev { c.dev with shedCauses := setBit c.dev.shedCauses k false }

/-- A wake source fires (R469, R470): during SOAK entry it is latched, in SOAK it is a hardware request for SERVICE. -/
def Chip.soakWake (c : Chip) (src : Nat) : Chip :=
  if c.inTrans then
    if c.rd F.DEV_MODE_TARGET_MODE = mSoak then
      c.wr F.PWR_WAKE_STAT_LATCHED (setBit (c.rd F.PWR_WAKE_STAT_LATCHED) src true)
    else c
  else if c.mode = mSoak then c.modeStart mService true src
  else c

/-- The held request is evaluated against the new mode (R73). -/
def Chip.modeEval (c : Chip) : Chip :=
  if !c.flag F.DEV_MODE_PEND_PEND_VALID || c.inTrans then c
  else
    let m := c.rd F.DEV_MODE_PEND_PEND_MODE
    let hw := c.flag F.DEV_MODE_PEND_HW_PEND
    let c := c.modeUnhold
    if hw then (if hwAllowed m c.mode then c.modeStart m true 0 else c)
    else if m = c.mode then c
    else
      match c.modeStatus m with
      | .ok => c.modeStart m false 3
      | st => (c.modeReject m st).postMode st m false

/-! ## Entry to a mode -/

/-- Every engine stops: it has not started (R267, R350). -/
def Chip.stopEngines (c : Chip) : Chip :=
  let c := c.withClu { c.clu with engs := [] }
  (List.range 256).foldl (fun c e =>
    if c.rd F.CLU_ENG_STAT_STATE (eC e) (eJ e) = 6 then c else c.wr F.CLU_ENG_STAT_STATE 0 (eC e) (eJ e)) c

/-- Every Clothesline list is emptied; batches are dropped and counted (R349). -/
def Chip.clEmpty (c : Chip) : Chip :=
  let c := c.incSat F.SCHED_CL_CNT_BATCH_DROP 0 0 c.sched.batches.length
  c.withSched { c.sched with cl := [], batches := [] }

/-- RELAY is entered: transmit off, channels OUT, receivers off, engines stopped, Clothesline emptied, regions held,
domains as R452 says; rings whose function was reset by PCIe are zeroed (R56, R99). -/
def Chip.enterRelay (c : Chip) (quiesce : Bool) : Chip :=
  let c := (List.range 256).foldl (fun c n => c.achOut n 4) c
  let c := (List.range 16).foldl (fun c l => if (c.link l).muted || !c.lkUp l then c else c.muteLink l) c
  let c := (c.brStopAll .deadlineMissed).stopEngines.clEmpty
  let c := c.when c.dev.pcieDiscard fun c =>
    c.hifZeroRings.withDev { c.hifZeroRings.dev with pcieDiscard := false }
  (c.relayDomains quiesce).rgHolds

/-- SERVICE is entered from VERIFY (R60, R62, R171, R233, R254, R267): a channel without a reference carrier has no symbol
boundary, so its coefficients are applied here (log entry 70). -/
def Chip.enterFromVerify (c : Chip) : Chip :=
  let c := (List.range 256).foldl (fun c n =>
    if (c.achX n).loadCoef then (c.calLoad n).updAch n fun x => { x with loadCoef := false } else c) c
  let c := (List.range 256).foldl (fun c n =>
    if c.svc n = acOut && c.achFits n then c.wr F.ACH_STAT_SVC_STATE acIn n else c) c
  let c := (List.range 256).foldl (fun c n =>
    if c.svc n = acIn && c.flag F.CAL_ANT_STAT_NO_STORE n then (c.achLeave n).achReadmit n else c) c
  let c := (List.range 16).foldl (fun c n => if c.domState n = dOff then c else c.startEngines n) c
  c.harqFlush

/-- The coefficients of a channel follow its tile's temperature since they were last moved (R254, R471). -/
def Chip.retrim (c : Chip) (n : Nat) : Chip :=
  let a := c.calAnt n
  if a.temp = a.tempUsed then c
  else (c.moveCoefs n (a.temp - a.tempUsed)).setCalAnt n { a with tempUsed := a.temp }

/-- SERVICE is entered from SOAK (R185, R471): domains and links awake, coefficients adjusted, held records written. -/
def Chip.enterFromSoak (c : Chip) : Chip :=
  let c := (c.withPwr { c.pwr with soakReturn := [] }).withEcv { c.ecv with lpReq := [] }
  let c := (List.range 16).foldl (fun c l => c.lpExit l) c
  let c := (List.range 256).foldl (fun c n => if c.svc n = acIn then c.retrim n else c) c
  let c := (List.range 32).foldl (fun c n => c.brFlush n) c
  (c.incMod F.PWR_WAKE_STAT_SOAK_WAKES).releaseMutes

/-- What a mode does at entry, by the mode the transition came from. -/
def Chip.enterMode (c : Chip) (t : Trans) : Chip :=
  match t.target with
  | 1 =>
    let drained := t.source != mVerify && t.source != mRelay
    (c.when (!drained) Chip.dropImages).enterRelay drained
  | 2 => (c.wr F.DEV_MODE_IMAGES_OK 1).rgHolds
  | 3 =>
    let c := if t.source = mVerify then c.enterFromVerify
      else if t.source = mSoak then c.enterFromSoak
      else c.releaseMutes
    let c := (List.range 256).foldl (fun c n => c.achHeld n) c
    c.rgHolds.retryAdmits
  | 4 =>
    let c := (c.wr F.DEV_MODE_RETURN_MODE t.source).setFlag F.DEV_MODE_SHED_BY_SW (!t.hw)
    (List.range 256).foldl (fun c n => c.achHeld n) c.modeIrq
  | 5 => c.brSoakEnter
  | _ => c

/-- Every domain of the SERVICE set is ON. A locked one does not hold the transition up: nothing can take it ON while the
lock stands (R456, R462), and R62 does not say that the lock holds SERVICE back (DESIGN CHOICE, log entry 70). -/
def Chip.serviceSetOn (c : Chip) : Bool :=
  (List.range 64).all fun d => !c.flag F.PWR_DOM_CFG_SVC_SET d || c.domState d == dOn || c.domLocked d

/-- No channel with a reference carrier still waits for the symbol boundary at which its coefficients are applied (R62). -/
def Chip.coefsApplied (c : Chip) : Bool :=
  (List.range 256).all fun n => !(c.achX n).loadCoef || (c.refCarrier n).isNone

/-- Everything the transition waits for has happened (R59, R62, R466). -/
def Chip.transReady (c : Chip) (t : Trans) : Bool :=
  t.phase == .run &&
    (match t.target with
    | 2 => c.plr.inbound.isEmpty && (List.range 8).all fun r => (c.region r).op.isNone
    | 3 =>
      t.source == mShed || (c.dev.spareTests.isEmpty && c.serviceSetOn
        && (t.source != mVerify || (c.coefsApplied && (List.range 16).all fun l => !c.lkUp l || c.leftMute l)))
    | 4 => (List.range 256).all fun n => !(c.achX n).emer
    | 5 => (List.range 64).all fun d => !c.flag F.PWR_DOM_STAT_IN_TRANSITION d
    | _ => true)

/-- SERVICE and SOAK are left for SHED at once where a hardware cause of SHED is in force when they are entered (R63). -/
def Chip.shedInForce (c : Chip) : Chip :=
  if (c.mode == mService || c.mode == mSoak) && !c.inTrans && c.dev.shedCauses != 0 then c.modeStart mShed true 0 else c

/-- A transition completes (R69, R73): DEV_MODE and its event, what the mode does at entry, the held request, a cause of
SHED in force, the replay of a latched wake (R470). LCK fields close when VERIFY has ended (R51). -/
def Chip.transEnd (c : Chip) (t : Trans) : Chip :=
  let asked := if t.fail != .ok then mVerify else if t.source == mQuiesce || c.mode == mQuiesce then mQuiesce else t.target
  let c := c.withDev { c.dev with
    trans := none, spareTests := [], lckOpen := c.dev.lckOpen && t.source != mVerify }
  let c := c.when (t.source == mVerify) fun c => c.wr F.TRUST_CTRL_HOST_DONE 0
  let c := (c.wr F.DEV_MODE_MODE t.target).wr F.DEV_MODE_TARGET_MODE t.target
  let c := (c.wr F.DEV_MODE_IN_TRANSITION 0).incMod F.DEV_MODE_TRANS_COUNT
  let c := (c.enterMode t).calHalt
  let c := c.when (t.target == mService) fun c => c.withCal { c.cal with cut := false }
  let c := c.postMode t.fail asked t.hw
  let c := c.modeEval.shedInForce
  if c.mode = mSoak && !c.inTrans && c.rd F.PWR_WAKE_STAT_LATCHED != 0 then c.modeStart mService true 8 else c

/-! ## Boot configuration (R58, R61, R525) -/

/-- The vote of three copies; none where all differ. -/
def vote3 (a b c : Nat) : Option Nat := if a = b || a = c then some a else if b = c then some b else none

/-- A field by its number. -/
def fldOf (id : Nat) : Option Fld := regMap.findSome? fun (r : RegInfo) => r.fields.find? fun (f : Fld) => f.id == id

/-- The ROM defaults that the boot ROM measures (R525): the frequencies of the reference clocks, 3 for an absent
REFCLK_B. -/
def Chip.refMeasure (c : Chip) : Chip :=
  let (i, c) := c.fresh
  let (k, c) := c.fresh
  (c.wr F.CLK_REF_CFG_A_FREQ ((Config.refFreq i).toNat % 3)).wr F.CLK_REF_CFG_B_FREQ
    (if c.flag F.CLK_REF_CFG_REF_B_OK then (Config.refFreq k).toNat % 3 else 3)

/-- The boot configuration is read and voted into its fields; one whose copies all differ takes its ROM default. -/
def Chip.bootLoad (c : Chip) : Chip :=
  c.dev.bootcfg.foldl (fun c (e : Nat × Nat × Nat × Nat) =>
    match fldOf (e.1 / 2 ^ 32), vote3 e.2.1 e.2.2.1 e.2.2.2 with
    | some f, some v => c.wr f v (e.1 / 2 ^ 16 % 2 ^ 16) (e.1 % 2 ^ 16)
    | _, _ => c.wr F.DEV_MODE_BOOTCFG_DEFAULT 1) c.refMeasure

end Sys2Proof.Machine
end

