-- ==== Sys2Proof/Machine/DevCmds.lean ====
section
/-! DEFINITION. Commands of resets and modes (spec/02_staged_start.md; PCIe reset R56, R99). -/
namespace Sys2Proof.Machine

/-! ## What a reset clears and keeps (R50, R52, R75) -/

/-- The forms of R50 that reset the device; a power-on by VDD_SVC alone (R75) keeps what stands in the always-on domain. -/
inductive ResetForm | powerOn | svcLoss | pin | brownOut | thermal | warm
  deriving DecidableEq, Repr

/-- Fields every reset keeps: causes, straps, the store's area pointer, presence of the references. -/
def keptFields : List Nat :=
  [F.DEV_RESET_CAUSE_PCIE, F.DEV_RESET_CAUSE_WARM_MGMT, F.DEV_RESET_CAUSE_WARM_SW, F.DEV_RESET_CAUSE_SVC_LOSS,
   F.DEV_RESET_CAUSE_THERMTRIP, F.DEV_RESET_CAUSE_BROWNOUT, F.DEV_RESET_CAUSE_PIN, F.DEV_RESET_CAUSE_POR,
   F.DEV_STRAPS_I2C_ADDR_LO, F.DEV_STRAPS_AUTO_VERIFY, F.DEV_STRAPS_RING_EN, F.DEV_STRAPS_NOC_MERGED,
   F.DEV_STRAPS_BOOT_SRC, F.DEV_STRAPS_PCIE_EN, F.CAL_STORE_STAT_AREA, F.CLK_REF_CFG_REF_A_OK,
   F.CLK_REF_CFG_REF_B_OK].map Fld.id

/-- Fields of the always-on sensors, kept by every reset that keeps VDD_AON. -/
def sensorFields : List Nat := [F.SENS_TEMP_TEMP.id, F.SENS_VOLT_VOLT.id, F.SENS_STAT_MAX_TEMP.id, F.SENS_STAT_HOT.id]

/-- Fields a warm reset keeps besides (R52, R99): the host interface's configuration, the ring ports and ring time, the
PLLs' lock, the supply target. -/
def warmFields : List Nat :=
  [F.HIF_VERSION_HOST_MAJOR, F.HIF_VERSION_HOST_MINOR, F.HIF_FN_CELLS_CELLS, F.RING_BASE_BASE, F.RING_CFG_VECTOR,
   F.RING_CFG_CPL_RING, F.RING_CFG_PRIO, F.RING_CFG_LOG2_SIZE, F.RING_CFG_COAL_TIME, F.RING_CFG_COAL_COUNT,
   F.HIF_LINK_STAT_FLIT, F.HIF_LINK_STAT_GEN, F.HIF_LINK_STAT_WIDTH, F.DEV_MODE_SEAM_OPEN, F.CLK_PLL_STAT_LOCK, F.CLK_REF_CFG_USING_B,
   F.CLK_REF_CFG_REF_A_OK, F.CLK_REF_CFG_REF_B_OK,
   F.SENS_AVS_SLOW, F.SENS_AVS_TARGET, F.SENS_AVS_AT_LIMIT].map Fld.id

/-- The field of a key survives a reset of a form. -/
def keepsField (form : ResetForm) (k : Nat) : Bool :=
  let id := k / 2 ^ 32
  let i := k / 2 ^ 16 % 2 ^ 16
  keptFields.contains id
    || (form != .powerOn && (sensorFields.contains id || id == F.PWR_SHED_CNT_ENTRIES.id))
    || (form == .warm && (warmFields.contains id
      || (F.TIME_CTRL_TE_LIMIT.id ≤ id && id ≤ F.TIME_RING_STAT_DIST_E.id)
      || (F.ECV_LINK_STAT_STORM.id ≤ id && id ≤ F.ECV_RING_STAT_DISCARD.id && 16 ≤ i)))

/-- An address of memory survives: host memory, and always-on memory but for a power-on reset. -/
def keepsAddr (form : ResetForm) (a : Nat) : Bool :=
  hostBase ≤ a || (form != .powerOn && form != .svcLoss && 0x3F0000000 ≤ a && a < 0x3F0010000)

/-- A fuse programming cut off by a reset: each bit is blown or not (R478). -/
def Chip.cutFuses (c : Chip) : Chip :=
  match c.trust.fuse with
  | none => c
  | some (rsa, slh, floor, _) =>
    let (n, c) := c.fresh
    let b := (Config.fuseBlown n).toNat
    let f := c.trust.fuses
    let steps := ((List.range (floor - f.svn)).filter fun k => bit b (8 + k)).length
    c.withTrust { c.trust with
      fuses := { f with
        revRsa := f.revRsa ||| (rsa &&& bits b 3 0)
        revSlh := f.revSlh ||| (slh &&& bits b 7 4)
        svn := f.svn + steps } }

/-- A store write cut off by a reset leaves its target area without a valid digest (R259). -/
def Chip.cutStore (c : Chip) : Chip :=
  match c.cal.op with
  | none => c
  | some (_, t) =>
    let k := 1 - c.rd F.CAL_STORE_STAT_AREA
    c.withCal { c.cal with areas := Tbl.set c.cal.areas k { bytes := t, intact := false } {} }

/-- The whole device reset, but for what the form keeps: registers, memories, images, work in flight; LCK fields reopen,
the pending mode request and any transition end (R50, R517). -/
def Chip.wipe (c : Chip) (form : ResetForm) : Chip :=
  let c := c.cutFuses.cutStore
  let warm := form == .warm
  { regs := c.regs.filter fun e => keepsField form e.1
    mem := c.mem.filter fun e => keepsAddr form e.1
    poison := c.poison.filter fun e => keepsAddr form (16 * e.1)
    upset := c.upset.filter fun e => keepsAddr form (16 * e.1)
    tick := c.tick
    free := c.free
    out := c.out
    dev := { c.dev with
      held := .none
      lckOpen := true
      trans := none
      autoVerify := false
      shedCauses := 0
      pcieDiscard := false
      cfgRetry := true
      warm := none
      spareTests := [] }
    hif := { msix := if warm then c.hif.msix else [] }
    pwr := { fuseOff := c.pwr.fuseOff, bleed := c.pwr.bleed }
    ecv := { links := if warm then c.ecv.links.filter fun e => 16 ≤ e.1 else [] }
    ach := { frameTick := c.ach.frameTick }
    cal := { areas := c.cal.areas }
    trust := { fuses := c.trust.fuses, flash := c.trust.flash }
    time := if warm then c.time else { osc10m := c.time.osc10m }
    port := { c.port with i2cLast := .ok }
    sens := if form == .powerOn then {} else { c.sens with failed := [], hotRun := 0, coolRun := 0, lowRun := 0 } }

/-- The pin groups of R54 with their states: unpowered, in reset or BYPASS, from RELAY. THERMTRIP_N has its own output. -/
def pinTable : List (String × String × String × String) :=
  [("EL0-EL15 transmitters", "float", "float", "driven once training starts"),
   ("ELW, ELE", "joined by the Seam", "joined by the Seam", "joined by the Seam until LISTEN has completed, then driven"),
   ("Ecrov receivers", "unterminated", "terminated, off", "active"),
   ("PCIe transmitters", "float", "high impedance, receivers unterminated", "link training"),
   ("Ethernet transmitters", "float", "off", "off unless timing ports are enabled"),
   ("PLR banks B0-B5", "float", "float", "PLR_BANK_SAFE"),
   ("PPS_OUT", "float", "low", "low until the timing unit is configured"),
   ("SDA, SCL", "released", "released, no acknowledge", "target active"),
   ("UART TX", "float", "high", "active"),
   ("ALERT_N", "released", "released", "asserted on alert"),
   ("TDO", "float", "IEEE 1149.1", "IEEE 1149.1"),
   ("inputs", "inputs", "inputs, PWR_WARN_N ignored", "inputs")]

/-- Two groups keep the state of the second column while VDD_AON is present, whatever the other supplies do (R54). -/
def aonPins : List String := ["UART TX", "TDO"]

/-- The pins take a column of the table of R54. -/
def Chip.pinsTo (c : Chip) (col : Nat) : Chip :=
  let c := pinTable.foldl (fun c (e : String × String × String × String) =>
    let st := if col = 0 then (if c.dev.vddAon && aonPins.contains e.1 then e.2.2.1 else e.2.1)
      else if col = 1 then e.2.2.1 else e.2.2.2
    c.emit (.pins e.1 st)) c
  c.withDev { c.dev with pinCol := col }

/-- What the pins do when the device is unpowered (column 0) or held in reset (column 1): the Seam closes, the groups of R54
take their states, ALERT_N is released. -/
def Chip.resetPins (c : Chip) (col : Nat) : Chip :=
  let c := (c.setSeam false).pinsTo col
  c.withDev { c.dev with alert := false }

/-- A reset into BYPASS (R50): it sets its cause and waits for what the form is held by. -/
def Chip.resetDown (c : Chip) (form : ResetForm) (cause : Fld) (held : Held) : Chip :=
  let reduced := c.flag F.SENS_AVS_REDUCED && 82000 < c.avsGoal
  let c := ((c.resetPins 1).wipe form).wr cause 1
  let c := c.setFlag F.SENS_AVS_REDUCED reduced
  c.withDev { c.dev with held := held, autoVerify := true }

/-- The boot ROM runs (R58): boot configuration and fuses loaded, PLLs locked, domains as for RELAY, links and ring ports
begin training, PLR pins in their safe states. -/
def Chip.bootRun (c : Chip) : Chip :=
  let c := c.bootLoad.loadFuses.wr F.CLK_PLL_STAT_LOCK 0xFFF
  let c := c.wr F.CLK_REF_CFG_REF_A_OK 1
  let c := c.withDev { c.dev with held := .none, trans := some { source := mBypass, target := mRelay, phase := .boot } }
  let c := c.withSens { c.sens with armed := true }
  let c := ((List.range 64).foldl (fun c d => c.domRelock d) c).relayDomains false
  let c := (List.range 18).foldl (fun c l => c.linkStart l) (c.pinsTo 2)
  (List.range 6).foldl (fun c b => c.emit (.pin "PLR_BANK_SAFE" (c.rd F.PLR_BANK_SAFE_SAFE b))) c

/-! ## Commands -/

/-- POWER_ON_RESET: a supply enters its range (R50, R75): VDD_SVC alone where only that was lost, else VDD_AON with it. -/
def execPowerOnReset (s : State) : Host.Outcome State Fault Refusal :=
  s.run fun c =>
    let aon := !c.dev.vddAon || c.dev.vddSvc
    let c := c.withDev { c.dev with vddAon := true, vddSvc := true }
    if aon then
      let c := c.resetDown .powerOn F.DEV_RESET_CAUSE_POR .release
      let c := c.clrFields [F.DEV_RESET_CAUSE_PCIE, F.DEV_RESET_CAUSE_WARM_MGMT, F.DEV_RESET_CAUSE_WARM_SW,
        F.DEV_RESET_CAUSE_SVC_LOSS, F.DEV_RESET_CAUSE_THERMTRIP, F.DEV_RESET_CAUSE_BROWNOUT, F.DEV_RESET_CAUSE_PIN]
      (c.withDev { c.dev with thermtrip := false }).withPort {}
    else c.resetDown .svcLoss F.DEV_RESET_CAUSE_SVC_LOSS .release

/-- SUPPLY_LOSS: VDD_AON (`aon`) or VDD_SVC leaves its range (R54, R461): nothing of the device runs; the bleed cells fire
when VDD_AON goes, and THERMTRIP_N is released with it (R53). -/
def execSupplyLoss (aon : Bool) (s : State) : Host.Outcome State Fault Refusal :=
  s.run fun c =>
    if aon then
      let c := ((c.withDev { c.dev with vddAon := false }).resetPins 0).wipe .powerOn
      let c := c.when c.dev.thermtrip fun c => c.emit (.pin "THERMTRIP_N" 1)
      (c.withDev { c.dev with thermtrip := false, held := .release }).withPwr { c.pwr with bleed := true }
    else
      let c := ((c.withDev { c.dev with vddSvc := false }).resetPins 0).wipe .svcLoss
      c.withDev { c.dev with held := .release }

/-- The sensors that count for the release of THERMTRIP_N all read below 115 °C (R53). -/
def Chip.coolEnough (c : Chip) : Bool :=
  (List.range 66).all fun n => !c.sensorUsed n || c.sensorTemp n < 920

/-- RESET_N rises after a pulse of at least 1 µs: THERMTRIP_N is released if the sensors allow it (R53). -/
def Chip.tripRelease (c : Chip) : Chip :=
  if c.dev.thermtrip && c.coolEnough then
    (c.emit (.pin "THERMTRIP_N" 1)).withDev { c.dev with thermtrip := false }
  else c

/-- PIN_RESET (R50): by RESET_N low for at least 1 µs, with `rises` once the pulse is over, or by PWRGD low. -/
def execPinReset (byResetN rises : Bool) (s : State) : Host.Outcome State Fault Refusal :=
  s.run fun c =>
    let c := c.resetDown .pin F.DEV_RESET_CAUSE_PIN .release
    if byResetN then
      let c := c.withDev { c.dev with resetN := false }
      if rises then (c.tripRelease.withDev { c.tripRelease.dev with resetN := true }) else c
    else (c.withDev { c.dev with pwrgd := false }).withPwr { c.pwr with bleed := true }

/-- RESET_RELEASE (R57): RESET_N and PWRGD are both high, the strap pins at `straps` (placed as the bits of DEV_STRAPS). A
device still tripped stays in BYPASS. -/
def execResetRelease (straps : Nat) (s : State) : Host.Outcome State Fault Refusal :=
  s.run fun c =>
    if c.dev.held != .release || !c.dev.vddAon || !c.dev.vddSvc then c
    else
      let c := c.when (!c.dev.resetN) Chip.tripRelease
      let c := (c.withDev { c.dev with resetN := true, pwrgd := true }).withPwr { c.pwr with bleed := false }
      if c.dev.thermtrip then c
      else
        let c := c.withDev { c.dev with strapPins := straps }
        let c := G.DEV_STRAPS.fields.foldl (fun c f => c.wr f (f.of straps)) c
        c.bootRun

/-- BROWN_OUT_RELEASE (R50): VDD_CORE has been at or above 0.70 V for 100 µs. -/
def execBrownOutRelease (s : State) : Host.Outcome State Fault Refusal :=
  s.run fun c => if c.dev.held = .brownOut then c.bootRun else c

/-- RELAY is reached after a warm reset (R52): the host's accesses are taken again, and a request held meanwhile is
evaluated. -/
def Chip.warmEnd (c : Chip) : Chip :=
  let c := c.withDev { c.dev with trans := none, cfgRetry := false }
  ((c.wr F.DEV_MODE_IN_TRANSITION 0).rgHolds).modeEval

/-- RELAY_REACHED (R58, R59): every row of the table of R58 but ring training has come to pass, so configuration requests are
answered without retry status; with the AUTO_VERIFY strap the device requests VERIFY itself. After a warm reset it ends the
reset (R52). -/
def execRelayReached (s : State) : Host.Outcome State Fault Refusal :=
  s.run fun c =>
    match c.dev.trans with
    | some t =>
      if t.phase = .warm then c.warmEnd
      else if t.phase = .boot then
        let auto := c.dev.autoVerify && c.flag F.DEV_STRAPS_AUTO_VERIFY
        let c := c.withDev { c.dev with trans := none, autoVerify := false, cfgRetry := false }
        let c := ((c.wr F.DEV_MODE_MODE mRelay).wr F.DEV_MODE_TARGET_MODE mRelay).wr F.DEV_MODE_IN_TRANSITION 0
        let c := ((c.incMod F.DEV_MODE_TRANS_COUNT).rgHolds).postMode .ok mRelay true
        let c := c.modeEval
        if auto && !c.inTrans then c.modeStart mVerify true 0 else c
      else c
    | none => c

/-- The reset of a warm reset begins (R52): domains go as for entry to RELAY through their save lists, the device resets
into RELAY with Seam, ring ports and ring time kept. DEV_MODE reads RELAY with IN_TRANSITION set until RELAY_REACHED. -/
def Chip.warmBegin (c : Chip) (cause : Nat) : Chip :=
  let reduced := c.flag F.SENS_AVS_REDUCED && 82000 < c.avsGoal
  let c := (c.relayDomains false).wipe .warm
  let c := [F.DEV_RESET_CAUSE_WARM_SW, F.DEV_RESET_CAUSE_WARM_MGMT].foldl (fun c f =>
    c.when (f.id == cause) fun c => c.wr f 1) c
  let c := (c.setFlag F.SENS_AVS_REDUCED reduced).bootLoad.loadFuses
  let c := c.withDev { c.dev with trans := some { source := mRelay, target := mRelay, phase := .warm } }
  let c := ((c.wr F.DEV_MODE_MODE mRelay).wr F.DEV_MODE_TARGET_MODE mRelay).wr F.DEV_MODE_IN_TRANSITION 1
  let c := (List.range 64).foldl (fun c d =>
    let st := c.relayState false d
    (c.wr F.PWR_DOM_STAT_STATE st d).wr F.PWR_DOM_STAT_TARGET st d) c
  let c := (List.range 64).foldl (fun c d => c.domRelock d) c
  (List.range 16).foldl (fun c l => c.linkStart l) c

/-- Some channel's emergency ramp runs. -/
def Chip.ramping (c : Chip) : Bool := (List.range 256).any fun n => (c.achX n).emer

/-- A warm reset is triggered (R52): transmit ramps down, and the reset begins when the last ramp has ended. A trigger during
one is part of it (log entry 72). -/
def Chip.warmReset (c : Chip) (cause : Fld) : Chip :=
  if c.inWarm then c
  else
    let c := c.rampDown
    if c.ramping then c.withDev { c.dev with warm := some cause.id, cfgRetry := true } else c.warmBegin cause.id

/-- WARM_RESET: DEV_RESET_CTRL.WARM, with its key. -/
def execWarmReset (by_ : Port) (key : Fin 65536) (s : State) : Host.Outcome State Fault Refusal :=
  s.run fun c => c.guarded by_ modesAll fun c =>
    if key.val = 0x5752 then (c.report by_ .ok).warmReset F.DEV_RESET_CAUSE_WARM_SW else c.report by_ .accessDenied

/-- EMERGENCY_RAMP_END (R163): MUTE, untimed; the last ramp of a warm reset lets the reset begin (R52). -/
def execEmergencyRampEnd (n : Fin 256) (s : State) : Host.Outcome State Fault Refusal :=
  s.run fun c =>
    let c := c.emergEnd n
    match c.dev.warm with
    | some f => if c.ramping then c else c.warmBegin f
    | none => c

/-- What PERST_N resets of the host interface (R99): its configuration but ENABLE, the MSI-X table; what the commands in
flight would still deliver is discarded. -/
def Chip.pcieWipe (c : Chip) : Chip :=
  let c := (List.range 64).foldl (fun c f =>
    let c := ((c.resetReg G.HIF_VERSION f).resetReg G.HIF_FN_CELLS f).resetReg G.HIF_FN_STAT f
    (List.range 17).foldl (fun c r =>
      let en := c.rd F.RING_CFG_ENABLE f r
      ((c.resetReg G.RING_BASE f r).resetReg G.RING_CFG f r).wr F.RING_CFG_ENABLE en f r) c) c
  let c := c.resetReg G.HIF_LINK_STAT
  let c := c.withDev { c.dev with cfgRetry := true, perstN := true }
  c.withHif { c.hif with
    msix := []
    inflight := c.hif.inflight.map fun (h : HostCmd) => { h with discard := true } }

/-- PCIE_RESET (R56, R99): only the host interface, at once; in SERVICE, SHED and SOAK a hardware request for QUIESCE. -/
def execPcieReset (s : State) : Host.Outcome State Fault Refusal :=
  s.run fun c =>
    let c := c.pcieWipe.wr F.DEV_RESET_CAUSE_PCIE 1
    if c.mode = mBypass then c
    else
      let c := if c.mode = mRelay || c.mode = mVerify || c.mode = mTest then c.hifZeroRings
        else c.withDev { c.dev with pcieDiscard := true }
      c.modeHw mQuiesce

/-- PCIE_LINK_UP (R58, R76): the link has trained at a rate, width and encoding that the device has; outside a boot and a
warm reset, configuration requests are answered without retry status from then on. -/
def execPcieLinkUp (gen : Fin 8) (width : Fin 32) (flit : Bool) (s : State) : Host.Outcome State Fault Refusal :=
  s.run fun c =>
    if c.flag F.DEV_STRAPS_PCIE_EN && c.domState 62 = dOn && pcieLink gen width flit then
      let c := ((c.wr F.HIF_LINK_STAT_GEN gen).wr F.HIF_LINK_STAT_WIDTH width).setFlag F.HIF_LINK_STAT_FLIT flit
      let boot := c.inWarm || c.dev.trans.any fun t => t.phase == .boot
      c.withDev { c.dev with cfgRetry := c.dev.cfgRetry && boot }
    else c

/-! ## Mode requests -/

/-- A write of DEV_MODE_REQ for a mode (R63, R70): with a key other than 0x4D4F it is no request. -/
def Chip.modeWrite (c : Chip) (p : Port) (key m : Nat) : Chip :=
  c.guarded p modesAll fun c =>
    if key = 0x4D4F then
      let (c, st) := c.modeReq m
      c.report p st
    else c.report p .accessDenied

/-- MODE_REQ_RELAY. -/
def execModeReqRelay (by_ : Port) (key : Fin 65536) (s : State) : Host.Outcome State Fault Refusal :=
  s.run fun c => c.modeWrite by_ key mRelay

/-- MODE_REQ_VERIFY. -/
def execModeReqVerify (by_ : Port) (key : Fin 65536) (s : State) : Host.Outcome State Fault Refusal :=
  s.run fun c => c.modeWrite by_ key mVerify

/-- MODE_REQ_SERVICE. -/
def execModeReqService (by_ : Port) (key : Fin 65536) (s : State) : Host.Outcome State Fault Refusal :=
  s.run fun c => c.modeWrite by_ key mService

/-- MODE_REQ_SHED. -/
def execModeReqShed (by_ : Port) (key : Fin 65536) (s : State) : Host.Outcome State Fault Refusal :=
  s.run fun c => c.modeWrite by_ key mShed

/-- MODE_REQ_SOAK. -/
def execModeReqSoak (by_ : Port) (key : Fin 65536) (s : State) : Host.Outcome State Fault Refusal :=
  s.run fun c => c.modeWrite by_ key mSoak

/-- MODE_REQ_QUIESCE. -/
def execModeReqQuiesce (by_ : Port) (key : Fin 65536) (s : State) : Host.Outcome State Fault Refusal :=
  s.run fun c => c.modeWrite by_ key mQuiesce

/-- MODE_REQ_TEST. -/
def execModeReqTest (by_ : Port) (key : Fin 65536) (s : State) : Host.Outcome State Fault Refusal :=
  s.run fun c => c.modeWrite by_ key mTest

/-- HW_SHED_EXIT (R64): every hardware cause has cleared and SHED was not entered by software. -/
def execHwShedExit (s : State) : Host.Outcome State Fault Refusal :=
  s.run fun c =>
    if c.mode = mShed && !c.inTrans && !c.flag F.DEV_MODE_SHED_BY_SW && c.dev.shedCauses = 0 then
      c.modeStart (c.rd F.DEV_MODE_RETURN_MODE) true 0
    else c

/-- TRANSITION_COMPLETE. -/
def execTransitionComplete (s : State) : Host.Outcome State Fault Refusal :=
  s.run fun c => match c.dev.trans with | some t => if c.transReady t then c.transEnd t else c | none => c

/-- The drain ends (R66, R164, R183, R350, R466): what is still open of a window ends with its normal ramp, in QUIESCE the
tile is muted after it (log entry 71). -/
def Chip.drainEnd (c : Chip) (t : Trans) : Chip :=
  let c := c.withDev { c.dev with trans := some { t with phase := .run } }
  let c := (c.brStopAll .deadlineMissed).closeWindows (t.target != mSoak)
  if t.target = mSoak then c.soakDomains
  else
    let n := c.sched.tasks.length
    ((c.endAllTasks .deadlineMissed).foldAll n).stopEngines

/-- DRAIN_END: the last slot command has completed. -/
def execDrainEnd (s : State) : Host.Outcome State Fault Refusal :=
  s.run fun c =>
    match c.dev.trans with
    | some t => if t.phase = .drain && c.hif.inflight.all (fun h => !h.isSlot) then c.drainEnd t else c
    | none => c

/-- DRAIN_TIMEOUT (R66): every item still in flight becomes a tombstone and is released in order. -/
def execDrainTimeout (s : State) : Host.Outcome State Fault Refusal :=
  s.run fun c =>
    match c.dev.trans with
    | some t => if t.phase = .drain then (c.endAllTasks .deadlineMissed).foldAll c.sched.tasks.length else c
    | none => c

/-- MODE_PEND_CANCEL (R71): reported as superseded; no effect on a hardware request. -/
def execModePendCancel (by_ : Port) (s : State) : Host.Outcome State Fault Refusal :=
  s.run fun c => c.action by_ modesAll fun c =>
    if c.flag F.DEV_MODE_PEND_PEND_VALID && !c.flag F.DEV_MODE_PEND_HW_PEND then c.modeSupersede.modeUnhold else c

/-- MODE_PEND_CNT_CLR. -/
def execModePendCntClr (by_ : Port) (s : State) : Host.Outcome State Fault Refusal :=
  s.run fun c => c.action by_ modesAll fun c => c.wr F.DEV_MODE_PEND_SUPERSEDED_CNT 0

end Sys2Proof.Machine
end

