-- ==== Sys2Proof/Machine/PowerCmds.lean ====
section
/-! DEFINITION. Commands of the power controller (spec/18_power.md): domain requests and their ends, Mangle ramps, the shed
ladder, SOAK. The end of a domain's wake is in Machine/AccessCmds.lean, since it releases held accesses. -/
namespace Sys2Proof.Machine

/-! ## Domains (R451–R459) -/

/-- Modes in which PWR_DOM_REQ and PWR_DOM_PEND are written: VERIFY to TEST. -/
abbrev modesDom : Nat := 0xFC

/-- DOMAIN_REQUEST: a PWR_DOM_REQ write. -/
def execDomainRequest (by_ : Port) (d : Fin 64) (st : Fin 4) (s : State) : Host.Outcome State Fault Refusal :=
  s.run fun c => c.guarded by_ modesDom fun c =>
    let (c, r) := c.domReq d st false
    c.report by_ r

/-- DOMAIN_IDLE (R453): the ramp-down of a domain that waited for idle is queued. -/
def execDomainIdle (d : Fin 64) (s : State) : Host.Outcome State Fault Refusal :=
  s.run fun c =>
    if c.flag F.PWR_DOM_STAT_IDLE_WAIT d && c.domIdle d && c.pwr.ramps.length < 128 then
      (c.wr F.PWR_DOM_STAT_IDLE_WAIT 0 d).queueRamp ⟨some d, false⟩
    else c

/-- DOMAIN_IDLE_TIMEOUT (R453): the transition ends with the domain still ON. -/
def execDomainIdleTimeout (d : Fin 64) (s : State) : Host.Outcome State Fault Refusal :=
  s.run fun c =>
    if c.flag F.PWR_DOM_STAT_IDLE_WAIT d then
      let c := c.withEcv { c.ecv with
        lpReq := c.ecv.lpReq.filter fun l => !(25 ≤ d.val && d.val < 33 && l / 2 == d.val - 25) }
      ((c.domEnd d dOn .deadlineMissed).domEval d).anteOff d
    else c

/-- Requests held because the ramp queue was full are evaluated again (R459). -/
def Chip.evalWaiting (c : Chip) : Chip :=
  (List.range 64).foldl (fun c d => if c.pwr.ramps.length < 128 then c.domEval d else c) c

/-- MANGLE_RAMP_DONE (R458): the first ramp ends and the next starts. -/
def execMangleRampDone (s : State) : Host.Outcome State Fault Refusal :=
  s.run fun c =>
    match c.pwr.ramps with
    | [] => c
    | r :: rest =>
      let c := (c.withPwr { c.pwr with ramps := rest }).incMod F.PWR_MANGLE_STAT_RAMPS
      let c := match r.dom with
        | some d => c.setDomX d { c.domX d with ramped := true }
        | none => c
      c.evalWaiting

/-- DOMAIN_ENTRY_DONE (R453, R457). -/
def execDomainEntryDone (d : Fin 64) (s : State) : Host.Outcome State Fault Refusal := s.run fun c => c.entryDone d

/-- DOM_PEND_CANCEL (R454): a held software request is withdrawn. -/
def execDomPendCancel (by_ : Port) (d : Fin 64) (s : State) : Host.Outcome State Fault Refusal :=
  s.run fun c => c.action by_ modesDom fun c =>
    if c.flag F.PWR_DOM_PEND_PEND_VALID d && !c.flag F.PWR_DOM_PEND_HW_PEND d then
      c.clrFields [F.PWR_DOM_PEND_PEND_VALID, F.PWR_DOM_PEND_PEND_STATE, F.PWR_DOM_STAT_ENABLE_PENDING] d
    else c

/-- DOM_PEND_CNT_CLR. -/
def execDomPendCntClr (by_ : Port) (d : Fin 64) (s : State) : Host.Outcome State Fault Refusal :=
  s.run fun c => c.action by_ modesDom fun c => c.wr F.PWR_DOM_PEND_SUPERSEDED_CNT 0 d

/-! ## The shed ladder (R463–R465) -/

/-- Threshold of a stage in 0.1 % of the AVS target. -/
def stageThr (k : Nat) : Nat := match k with | 1 => 950 | 2 => 930 | 3 => 910 | 4 => 890 | 5 => 870 | _ => 850

/-- A sample of VDD_CORE: VMEAS and VMIN. -/
def Chip.vSample (c : Chip) (v : Nat) : Chip :=
  (c.wr F.PWR_SHED_STAGE_VMEAS v).wr F.PWR_SHED_STAGE_VMIN (min v (c.rd F.PWR_SHED_STAGE_VMIN))

/-- Entries of stages `lo` + 1 to `hi` counted, one saturating byte each. -/
def Chip.countStages (c : Chip) (lo hi : Nat) : Chip :=
  (List.range 6).foldl (fun c k =>
    let v := c.rd F.PWR_SHED_CNT_ENTRIES
    let n := bits v (8 * k + 7) (8 * k)
    if lo ≤ k && k < hi && n < 255 then c.wr F.PWR_SHED_CNT_ENTRIES (v + 2 ^ (8 * k)) else c) c

/-- The SHED_STAGE event. -/
def Chip.postStage (c : Chip) (st : Status) (before after : Nat) (warn : Bool) : Chip :=
  c.post st srcPwr evShedStage (after + before * 8 + b2n warn * 2 ^ 6 + c.rd F.PWR_SHED_STAGE_VMIN * 2 ^ 16) 0

/-- The cluster clocks and the Press clock are held at 1.2 GHz by the throttle or by REDUCED (R512, R521). -/
def Chip.slowHeld (c : Chip) : Bool := c.flag F.SENS_STAT_THROTTLE || c.flag F.SENS_AVS_REDUCED

/-- A ramp of every cluster's clock (R458). -/
def Chip.clockRamps (c : Chip) (rising : Bool) : Chip :=
  (List.range 16).foldl (fun c _ => c.queueRamp ⟨none, rising⟩) c

/-- Presses and coding engines at stage S5 (R209, R237): a command or job in execution is to end with SHED after its tile
or code block, every other one held completes with it at once. The numbers of the tasks that go on. -/
def Chip.shedRuns (c : Chip) : Chip × List Nat :=
  let s := (List.range 8).foldl (fun (s : Chip × List Nat) n =>
    let c := s.1
    match c.aeRun n with
    | some r => (c.setAe n { ready := none, run := some { r with shed := true } }, r.cmd.task :: s.2)
    | none => (c.setAe n {}, s.2)) (c, [])
  let s := (List.range 12).foldl (fun (s : Chip × List Nat) k =>
    let c := s.1
    match c.codeRun k with
    | some r =>
      let r := { r with shed := true, finished := r.finished || (r.harqEn && r.harq.isNone) }
      (c.withCode { c.code with eng := Tbl.set c.code.eng k { run := some r } {} }, r.task :: s.2)
    | none => (c.withCode { c.code with eng := Tbl.set c.code.eng k ({} : CodeX) {} }, s.2)) s
  let (c, on) := s
  let c := (List.range 8).foldl (fun c n => ((c.heldTasks (0x100 + n)).filter fun t => !on.contains t.id).foldl
    (fun c t => c.aeFinish n t.id .shed) c) c
  let c := (List.range 12).foldl (fun c k => ((c.heldTasks (0x110 + k)).filter fun t => !on.contains t.id).foldl
    (fun c t => c.codeFinish k t.id .shed) c) c
  (c, on)

/-- The actions of stage S5 (R65, R351, R456, R463): work in flight ends with SHED, engines halt, burst receivers and
regions stop, domains 0–36 and 38 are locked, once the tiles and code blocks in progress have ended (log entry 78). -/
def Chip.enterS5 (c : Chip) : Chip :=
  let (c, on) := (c.wr F.SCHED_STAT_S5_HALT 1).shedRuns
  let c := (c.endAllTasks .shed on).foldAll c.sched.tasks.length
  let c := (List.range 256).foldl (fun c e =>
    let st := c.rd F.CLU_ENG_STAT_STATE (eC e) (eJ e)
    if 1 ≤ st && st ≤ 4 then
      (c.withClu { c.clu with
        engs := Tbl.set c.clu.engs e { Tbl.get c.clu.engs e {} with haltWhy := .s5 } {} }).wr F.CLU_ENG_STAT_STATE 5 (eC e) (eJ e)
    else c) c
  let c := (c.brStopAll .shed).rgHolds
  (c.withPwr { c.pwr with lockWait := true }).shedLocks

/-- The ladder recovers to S3 (R65, R351): dispatch resumes, engines that halted start at their entry groups, held
admissions go on. -/
def Chip.leaveHalt (c : Chip) : Chip :=
  let c := c.wr F.SCHED_STAT_S5_HALT 0
  let c := (List.range 256).foldl (fun c e =>
    if c.rd F.CLU_ENG_STAT_STATE (eC e) (eJ e) = 5 && (Tbl.get c.clu.engs e {}).haltWhy = .s5 then c.engStart e else c) c
  c.brResume.rgHolds.retryAdmits

/-- The stage in force rises to `k` (1–6), with the actions of every stage between (R463, R465). S6 is the brown-out
reset, which posts no event. -/
def Chip.stageUp (c : Chip) (k : Nat) (warn : Bool) : Chip :=
  let old := c.stage
  let c := c.countStages old k
  if 6 ≤ k then c.resetDown .brownOut F.DEV_RESET_CAUSE_BROWNOUT .brownOut
  else
    let c := (c.wr F.PWR_SHED_STAGE_STAGE k).wr F.PWR_SHED_STAGE_PEAK (max k (c.rd F.PWR_SHED_STAGE_PEAK))
    let c := (c.postStage .shed old k warn).calHalt
    let c := c.when (old < 2 && 2 ≤ k) fun c =>
      (c.wr F.SCHED_STAT_S2_SUSP 1).when (!c.slowHeld) fun c => c.clockRamps false
    let c := c.when (old < 4 && 4 ≤ k) fun c => c.rampDown.shedCause 0
    c.when (k == 5) Chip.enterS5

/-- The highest stage in force clears (R464): its own actions are undone. -/
def Chip.stageDown (c : Chip) (warn : Bool) : Chip :=
  let old := c.stage
  if old = 0 then c
  else
    let c := ((c.wr F.PWR_SHED_STAGE_STAGE (old - 1)).postStage .ok old (old - 1) warn).calCut
    match old with
    | 2 => (c.wr F.SCHED_STAT_S2_SUSP 0).when (!c.slowHeld) fun c => c.clockRamps true
    | 4 => ((c.shedClear 0).when (c.flag F.SCHED_STAT_S5_HALT) Chip.leaveHalt)
    | 5 =>
      let c := c.withPwr { c.pwr with lockWait := false }
      ((List.range 64).foldl (fun c d => c.domLockUp d) c).retryAdmits
    | _ => c

/-- SHED_STAGE_ENTER (R463): the count of stage `k` (1–6) has completed, at the sample `v` in 0.1 % of the target; nothing
in BYPASS. -/
def execShedStageEnter (k : Fin 7) (v : Fin 1024) (s : State) : Host.Outcome State Fault Refusal :=
  s.run fun c =>
    if c.mode = mBypass then c
    else
      let c := c.vSample v
      if c.stage < k.val && v.val < stageThr k then c.stageUp k false else c

/-- SHED_STAGE_CLEAR (R464): the recovery count of the highest stage has completed. -/
def execShedStageClear (v : Fin 1024) (s : State) : Host.Outcome State Fault Refusal :=
  s.run fun c =>
    if c.mode = mBypass then c
    else
      let c := c.vSample v
      if stageThr c.stage + 10 ≤ v.val && !(c.stage = 4 && c.flag F.PWR_SHED_STAGE_WARN) then c.stageDown false else c

/-- PWR_WARN_ASSERT (R463): at least stage S4, and a hardware cause of SHED; ignored in BYPASS. -/
def execPwrWarnAssert (s : State) : Host.Outcome State Fault Refusal :=
  s.run fun c =>
    if c.mode = mBypass then c
    else
      let c := c.wr F.PWR_SHED_STAGE_WARN 1
      if c.stage < 4 then
        (c.withDev { c.dev with shedCauses := setBit c.dev.shedCauses 1 true }).stageUp 4 true
      else c.shedCause 1

/-- PWR_WARN_DEASSERT (R464); with `railDone` the recovery count of S4 had completed, and S4 clears. -/
def execPwrWarnDeassert (railDone : Bool) (s : State) : Host.Outcome State Fault Refusal :=
  s.run fun c =>
    let c := (c.wr F.PWR_SHED_STAGE_WARN 0).shedClear 1
    if railDone && c.stage = 4 then c.stageDown true else c

/-- SHED_STAGE_CLR_WRITE: PWR_SHED_STAGE.CLR, at the sample `v`: both count from here on. -/
def execShedStageClrWrite (by_ : Port) (v : Fin 1024) (s : State) : Host.Outcome State Fault Refusal :=
  s.run fun c => c.action by_ modesAll fun c =>
    ((c.wr F.PWR_SHED_STAGE_VMEAS v).wr F.PWR_SHED_STAGE_VMIN v).wr F.PWR_SHED_STAGE_PEAK c.stage

/-! ## SOAK (R466–R470) -/

/-- SOAK_LEAD in ticks. -/
def Chip.soakLead (c : Chip) : Nat := usTicks (max 10 (c.rd F.PWR_CFG_SOAK_LEAD))

/-- Ticks in the PERIOD of a SOAK transmission. -/
def soakPeriod (p : Nat) : Nat := 153600 * 2 ^ p

/-- The lower and upper bound of a carrier's transmit ring in the pool, of channel `n`. -/
def Chip.dlRing (c : Chip) (n cc : Nat) : Nat × Nat :=
  let p := (c.achX n).cfg.pool cc
  (0x300000000 + 128 * cpDl p, cpBuf p * 128 * cpStride p)

/-- Domains that a SOAK transmission uses: the eight front-end groups, the pool domains of the carrier's transmit rings. -/
def Chip.soakTxDomains (c : Chip) (cc : Nat) : List Nat :=
  (List.range 8).map (25 + ·) ++ (List.range 8).filterMap fun k =>
    if (List.range 256).any fun n =>
        let r := c.dlRing n cc
        c.svc n == acIn && ccType ((c.achX n).cfg.ccw cc) != 0
          && r.1 < 0x301000000 + k * 0x1000000 && 0x300000000 + k * 0x1000000 < r.1 + r.2 then
      some (39 + k)
    else none

/-- Domains are noted for their return to SOAK states. -/
def Chip.soakReturnAdd (c : Chip) (ds : List Nat) : Chip :=
  c.withPwr { c.pwr with soakReturn := (c.pwr.soakReturn.filter fun d => !ds.contains d) ++ ds }

/-- One window of a channel in SOAK (R468): its symbols from the tick `t`, with the ramps of a window. -/
def Chip.soakWindow (c : Chip) (n cc t syms : Nat) : Chip :=
  let g := (c.achX n).cfg
  let w := dlWord (g.ccw cc)
  if c.svc n != acIn || ccType w = 0 || c.domState (25 + n / 32) != dOn then c
  else
    let first := (c.symOf w t).1
    let stop := tickAdd t (symStart w (first + syms) - symStart w first)
    let c := c.updAch n fun x => { x with up := some t, down := some (stop, g.ramp) }
    (List.range syms).foldl (fun c k =>
      c.txSend g n cc ((first + k) % max 1 (ccSyms w)) (tickAdd t (symStart w (first + k) - symStart w first)) true) c

/-- The occurrence of entry `q` whose lead runs, and whether its domains have been asked for: on the grid of ORIGIN and PERIOD,
counted on from the last occurrence since the tick count wraps. One whose lead did not begin in time is passed over. -/
def Chip.soakNow (c : Chip) (q : Nat) : Option (Nat × Bool) :=
  let next (t : Nat) : Option (Nat × Bool) :=
    let per := soakPeriod (c.rd F.PWR_SOAK_TX_PERIOD q)
    let d := tickDiff (tickAdd c.tick c.soakLead) t
    let at_ := tickAdd t (d.toNat / per * per)
    if d < 0 || tickLater c.tick at_ then none else some (at_, false)
  match c.pwr.soakOcc.find? fun e => e.1 == q with
  | some (_, t, true) => some (t, true)
  | some (_, t, false) => next t
  | none => next (c.rd F.PWR_SOAK_TX_ORIGIN q)

/-- Note the occurrence that comes next. -/
def Chip.soakNote (c : Chip) (q : Nat) (x : Nat × Bool) : Chip :=
  c.withPwr { c.pwr with soakOcc := Tbl.insert (Tbl.erase c.pwr.soakOcc q) q x }

/-- An occurrence is sent: every channel that was IN at SOAK entry transmits one window. -/
def Chip.soakSend (c : Chip) (q at_ : Nat) : Chip :=
  let cc := c.rd F.PWR_SOAK_TX_CC q
  (List.range 256).foldl (fun c n =>
    c.soakWindow n cc (c.symAt ((c.achX n).cfg.ccw cc) at_) (c.rd F.PWR_SOAK_TX_N_SYM_M1 q + 1)) c

/-- SOAK_TX (R468): SOAK_LEAD before an occurrence its domains are woken; at the occurrence it is sent, and the domains are
noted for their return. -/
def execSoakTx (q : Fin 4) (s : State) : Host.Outcome State Fault Refusal :=
  s.run fun c =>
    if c.mode != mSoak || !c.flag F.PWR_SOAK_TX_EN q then c
    else
      let ds := c.soakTxDomains (c.rd F.PWR_SOAK_TX_CC q)
      match c.soakNow q with
      | some (t, false) =>
        let c := c.withPwr { c.pwr with soakReturn := c.pwr.soakReturn.filter fun d => !ds.contains d }
        ds.foldl (fun c d => c.hwWake d) (c.soakNote q (t, true))
      | some (t, true) =>
        if tickLater t c.tick then c
        else
          ((c.soakNote q (tickAdd t (soakPeriod (c.rd F.PWR_SOAK_TX_PERIOD q)), false)).soakSend q t).soakReturnAdd ds
      | none => c

/-- SOAK_DOMAIN_RETURN (R467, R468). -/
def execSoakDomainReturn (s : State) : Host.Outcome State Fault Refusal :=
  s.run fun c =>
    if c.mode != mSoak || c.inTrans then c
    else
      let ds := c.pwr.soakReturn
      let c := c.withPwr { c.pwr with soakReturn := [] }
      ds.foldl (fun c d => match c.soakState d with | some st => (c.domReq d st true).1 | none => c) c

/-- A wake source is enabled (R469): 1 burst receiver, 2 doorbell, 3 mode request, 4 link, 5 PLR, 6 management, 7 timer. -/
def Chip.wakeEnabled (c : Chip) (src link : Nat) : Bool :=
  match src with
  | 1 => c.flag F.PWR_WAKE_CFG_BRX
  | 2 => true
  | 3 => true
  | 4 => bit (c.rd F.PWR_WAKE_CFG_LINK) link
  | 5 => c.flag F.PWR_WAKE_CFG_PLR
  | 6 => c.flag F.PWR_WAKE_CFG_MGMT
  | 7 => c.rd F.PWR_WAKE_CFG_MAX_SLEEP_S != 0
  | _ => false

/-- A wake source fires, if it is enabled; a link's is noted. -/
def Chip.wakeBy (c : Chip) (src link : Nat) : Chip :=
  if c.wakeEnabled src link then (c.when (src == 4) fun c => c.wr F.PWR_WAKE_STAT_LAST_LINK link).soakWake src else c

/-- SOAK_WAKE. -/
def execSoakWake (src : Fin 9) (link : Fin 18) (s : State) : Host.Outcome State Fault Refusal :=
  s.run fun c => c.wakeBy src link

/-- SOAK_MAX_SLEEP_TIMER: MAX_SLEEP_S seconds have been spent in SOAK. -/
def execSoakMaxSleepTimer (s : State) : Host.Outcome State Fault Refusal := s.run fun c => c.wakeBy 7 0

end Sys2Proof.Machine
end

