-- ==== Sys2Proof/Machine/AeCmds.lean ====
section
/-! DEFINITION. The commands of the Presses (spec/07_presses.md R188–R217) and the ring messages that reach this member
(R136). -/
namespace Sys2Proof.Machine

/-! ## Reading and starting commands -/

/-- AE_COMMAND_READ: the next dispatched command's eight words are read (R196). A word that does not arrive intact is
consumed as an address, and the command completes with its status. -/
def execAeCommandRead (n : Fin 8) (s : State) : Host.Outcome State Fault Refusal :=
  s.stage fun c =>
    if (c.aeReady n).isSome then c
    else
      match c.aeNext n with
      | none => c.setAe n { c.aeX n with ready := none }
      | some t =>
        let (c, ws) := c.readWords (.pressStream n) t.arg 8
        let sts := ws.map (·.status)
        if ws.any (·.poison) then
          let c := c.postPoison (0x100 + n) srcAe 1 t.arg
          (c.putTask { t with ran := true }).aeFinish n t.id (Status.worstOf (.poisoned :: sts))
        else if t.arg % 128 ≠ 0 then (c.putTask { t with ran := true }).aeFinish n t.id .badDescriptor
        else c.setAe n { c.aeX n with ready := some ⟨t.id, t.arg, ws.map (·.data)⟩ }

/-- A command completes before anything of it is executed (R195, R202). -/
def Chip.aeRefuse (c : Chip) (n : Nat) (q : AeCmd) (s : Status) : Chip := c.aeFinish n q.task s

/-- Start the command read ahead, if the Press is free and its operation is one of `ops` (R195, R196, R202, R209).
Of two statuses that refuse it R36 reports the higher. -/
def Chip.aeStart (c : Chip) (n : Nat) (ops : Nat → Bool) (go : Chip → AeRun → Chip) : Chip :=
  match c.aeReady n with
  | none => c
  | some q =>
    if (c.aeRun n).isSome || !c.aeRuns n || !ops q.op then c
    else
      let c := c.setAe n { c.aeX n with ready := none, run := none }
      let c := match c.task q.task with | some t => c.putTask { t with ran := true } | none => c
      if q.op = 0 || 5 < q.op || !c.aeOk q then c.aeRefuse n q .badDescriptor
      else if bits (q.word 0) 11 8 ≠ 1 then c.aeRefuse n q .versionMismatch
      else
        let late := match c.task q.task with | some t => c.deadlinePassed t.deadline | none => false
        let r : AeRun :=
          { cmd := q, mask := 0, maxRe := min 2 (c.rd F.AE_TILE_CFG_MAX_RECOMP n), finished := late,
            cond := if late then Status.deadlineMissed.mask else 0 }
        if q.maskK || q.maskM then
          match c.aeMask q.cell q.tick with
          | (c, none) => c.aeRefuse n q .deadlineMissed
          | (c, some m) => go c { r with mask := m }
        else go c r

/-- The command is in execution. -/
def Chip.aeGo (c : Chip) (n : Nat) (r : AeRun) : Chip := c.setAe n { c.aeX n with run := some r }

/-- Messages a send command does not send (R214, R217): counted, and the command ends with SHED. -/
def Chip.aeShed (c : Chip) (n : Nat) (r : AeRun) : Chip :=
  let q := r.cmd
  let left := if q.op = 5 then 1 else q.tiles - r.tile
  (c.incSat F.AE_JD_STAT_UNSENT q.port 0 left).aeGo n { r with cond := condAdd r.cond .shed, finished := true }

/-- Start a send command: on a port without joint detection it sends nothing. -/
def Chip.aeGoSend (c : Chip) (n : Nat) (r : AeRun) : Chip :=
  if c.jdOn (16 + r.cmd.port) || r.finished then c.aeGo n r else c.aeShed n r

/-- AE_MATMUL; an OP that names no operation is refused with it (R194). -/
def execAeMatmul (n : Fin 8) (s : State) : Host.Outcome State Fault Refusal :=
  s.stage fun c => c.aeStart n (fun op => op = 1 || op = 0 || 5 < op) fun c r => c.aeGo n r

/-- AE_GRAM. -/
def execAeGram (n : Fin 8) (s : State) : Host.Outcome State Fault Refusal :=
  s.stage fun c => c.aeStart n (· == 2) fun c r => c.aeGo n r

/-- AE_JD_MF_SEND. -/
def execAeJdMfSend (n : Fin 8) (s : State) : Host.Outcome State Fault Refusal :=
  s.stage fun c => c.aeStart n (· == 3) fun c r => c.aeGoSend n r

/-- AE_JD_GRAM_SEND. -/
def execAeJdGramSend (n : Fin 8) (s : State) : Host.Outcome State Fault Refusal :=
  s.stage fun c => c.aeStart n (· == 4) fun c r => c.aeGoSend n r

/-- AE_JD_REQ_SEND: N words from IN.ADDR as the body of a REQUEST or DECLINE (R194, R213). Engine firmware's DECLINE
carries REASON 5. A REQUEST on a port without joint detection is not sent; a DECLINE answers there too. -/
def execAeJdReqSend (n : Fin 8) (s : State) : Host.Outcome State Fault Refusal :=
  s.stage fun c => c.aeStart n (· == 5) fun c r =>
    let q := r.cmd
    if r.finished then c.aeGo n r
    else if !c.jdOn (16 + q.port) && q.kind = 0 then c.aeShed n r
    else
      let (c, ws) := c.readWords (.pressStream n) q.mIn.addr q.n
      let bad := ws.any (·.poison)
      let cond := ws.foldl (fun m (w : WordRead) => if w.status = .ok then m else condAdd m w.status) 0
      let c := c.when (bad && c.lkUp (16 + q.port)) fun c => c.postPoison (0x100 + n) srcAe 7 q.mIn.addr
      let sub := jdHead q.kind q.carrier q.slotPar 0 0 0 0 (if q.kind = 3 then 5 else 0) 0 0 q.tick
      let c := c.jdSend q.port (c.rd F.ECV_RING_STAT_PEER_ID (16 + q.port)) (b2n bad) q.tick
        (sub :: ws.map fun (w : WordRead) => if w.poison then 0 else w.data)
      c.aeGo n { r with finished := true, cond := if bad then condAdd cond .poisoned else cond }

/-! ## The end of a tile -/

/-- A conjugate copied from an earlier row block was poisoned. -/
def AeRun.mirrored (r : AeRun) (x : AeTile) : Bool :=
  (List.range (x.comp - x.c0)).any fun d => (List.range x.rows).any fun i =>
    r.mIn_ (x.r0 + i) && (Tbl.get r.upper (r.cmd.upKey x.item (x.c0 + d) (x.r0 + i)) (0, 0, false)).2.2

/-- The next tile begins, or the last is done (R199, R208, R209). -/
def Chip.aeAdvance (c : Chip) (n : Nat) (r : AeRun) : Chip :=
  let late := match c.task r.cmd.task with | some t => t.state != .done && c.deadlinePassed t.deadline | none => false
  let cond := if late then condAdd r.cond .deadlineMissed else r.cond
  let t := r.tile + 1
  c.aeGo n { r with
    tile := t, attempt := 0, waiting := false, timedOut := false, injected := false, cond := cond,
    maxRe := min 2 (c.rd F.AE_TILE_CFG_MAX_RECOMP n), finished := late || r.shed || r.cmd.tiles ≤ t }

/-- The tile is delivered: written or sent, and counted (R199, R205, R207). -/
def Chip.aeDeliver (c : Chip) (n : Nat) (r : AeRun) (x : AeTile) (o : AeOut) (hard : Bool) : Chip :=
  let q := r.cmd
  let pois := o.poison || hard || r.mirrored x
  let re := r.attempt ≠ 0 && !hard
  let cond := r.cond ||| o.cond
  let cond := if pois then condAdd cond .poisoned else cond
  let cond := if re then condAdd cond .recomputed else cond
  let (c, wr) := if q.ring then (c.aeSendTile n r x o pois, 0) else c.aeWrite n r x o pois
  let cond := cond ||| wr
  let cond := if pois || re || o.cond ≠ 0 || wr ≠ 0 then cond else condAdd cond .ok
  let c := c.when o.sat (·.incSat F.AE_RES_CNT_OUT_SAT n)
  let c := c.when (re && !pois) (·.incSat F.AE_RES_CNT_RECOMPUTED n)
  let c := c.when hard (·.incSat F.AE_RES_CNT_HARD n)
  let c := c.when o.localOnly (·.incSat F.AE_JD_STAT_LOCAL_ONLY q.port)
  let c := c.incMod F.AE_CMD_CNT_TILES n
  c.aeAdvance n { r.keep x o pois with
    cond := cond, tiles := r.tiles + 1, recomp := r.recomp + b2n (re && !pois), pois := r.pois + b2n pois,
    localOnly := r.localOnly + b2n o.localOnly, cycles := r.cycles + q.cycles x }

/-- A failed comparison (R205, R206): counted, AE_FAULT loaded, the bucket raised unless the failure was injected. -/
def Chip.aeFail (c : Chip) (n : Nat) (r : AeRun) (injected hard : Bool) : Chip :=
  let c := c.incSat F.AE_RES_CNT_MISMATCH n
  let c := (c.wr F.AE_FAULT_CMD_ADDR (r.cmd.addr / 16) n).wr F.AE_FAULT_TILE (r.tile % 65536) n
  let c := ((c.wr F.AE_FAULT_ATTEMPT r.attempt n).setFlag F.AE_FAULT_HARD hard n).wr F.AE_FAULT_VALID 1 n
  let b := 57 + c.pressPhys n
  let c := c.when (!injected) (·.bucketAdd b 1 3 0)
  c.when (hard && !injected) (·.bucketAdd b 16 4 0)

/-- The outputs of a tile whose last attempt failed: the values of that attempt are free, unless the failure was
injected. -/
def Chip.aeHard (c : Chip) (injected : Bool) (o : AeOut) (w : Nat) : Chip × AeOut :=
  if injected then (c, o)
  else
    let (k, c) := c.fresh
    (c, { o with vals := (List.zip (List.range o.vals.length) o.vals).map fun e =>
      (e.2.1, satS w (Config.pressValue k (2 * e.1)).toInt, satS w (Config.pressValue k (2 * e.1 + 1)).toInt) })

/-- The end of a tile: `mismatch` says that a comparison failed of itself. -/
def Chip.aeTileDone (c : Chip) (n : Nat) (mismatch : Bool) : Chip :=
  match c.aeRun n with
  | none => c
  | some r =>
    if r.finished then c
    else if r.cmd.ring && !c.jdOn (16 + r.cmd.port) then c.aeShed n r
    else
      let x := r.cmd.tileOf r.tile
      match c.aeMerge n r x with
      | (c, _, _, true) => c.aeGo n { r with waiting := true }
      | (c, rem, entry, false) =>
        let inj := c.flag F.AE_CTRL_RES_INJECT n
        let c := c.when inj fun c => c.w1sEnd F.AE_CTRL_RES_INJECT n 0 id
        let (c, o) := c.aeCompute n r x rem entry
        if !mismatch && !inj then c.aeDeliver n { r with waiting := false } x o false
        else
          let hard := r.maxRe ≤ r.attempt
          let noBucket := inj || r.injected
          let c := c.aeFail n r noBucket hard
          if hard then
            let (c, o) := c.aeHard (inj && !mismatch) o r.cmd.outBits
            c.aeDeliver n { r with waiting := false } x o true
          else
            c.aeGo n { r with
              attempt := r.attempt + 1, waiting := false, injected := noBucket,
              cycles := r.cycles + r.cmd.cycles x }

/-- AE_TILE_DONE. -/
def execAeTileDone (n : Fin 8) (mismatch : Bool) (s : State) : Host.Outcome State Fault Refusal :=
  s.stage fun c => c.aeTileDone n mismatch

/-- AE_JD_WAIT_TIMEOUT (R216): the tile that waits completes from local data. -/
def execAeJdWaitTimeout (n : Fin 8) (s : State) : Host.Outcome State Fault Refusal :=
  s.run fun c =>
    match c.aeRun n with
    | some r => if r.waiting then c.aeGo n { r with timedOut := true } else c
    | none => c

/-- The status record (R201). -/
def AeRun.record (r : AeRun) (s : Status) (cond : Nat) : Nat :=
  s.code + cond % 2 ^ 16 * 2 ^ 8 + r.tiles % 2 ^ 16 * 2 ^ 32 + r.recomp % 2 ^ 16 * 2 ^ 48 + r.pois % 2 ^ 16 * 2 ^ 64
    + r.localOnly % 2 ^ 16 * 2 ^ 80 + r.cycles % 2 ^ 32 * 2 ^ 96

/-- AE_COMMAND_COMPLETE (R199, R201, R208, R209): after the last tile the record, then the task; the locks of stage S5 that
waited for the last tile follow. -/
def execAeCommandComplete (n : Fin 8) (s : State) : Host.Outcome State Fault Refusal :=
  s.stage fun c =>
    match c.aeRun n with
    | none => c
    | some r =>
      if !r.finished then c
      else
        let cond := if r.shed then condAdd r.cond .shed else r.cond
        let cond := if cond = 0 then 1 else cond
        let st := maskWorst cond
        let c := if r.cmd.statEn then (c.writeWord (.pressStream n) r.cmd.statAddr (r.record st cond) false).1 else c
        ((c.setAe n { c.aeX n with run := none }).aeFinish n r.cmd.task st).shedLocks

/-! ## Control -/

/-- AE_RES_INJECT (R206). -/
def execAeResInject (by_ : Port) (n : Fin 8) (s : State) : Host.Outcome State Fault Refusal :=
  s.run fun c => c.action by_ modesAll fun c => c.w1sStart F.AE_CTRL_RES_INJECT n 0 id

/-- AE_CNT_CLR. -/
def execAeCntClr (by_ : Port) (n : Fin 8) (s : State) : Host.Outcome State Fault Refusal :=
  s.run fun c => c.action by_ modesAll fun c =>
    c.clrFields [F.AE_RES_CNT_MISMATCH, F.AE_RES_CNT_RECOMPUTED, F.AE_RES_CNT_HARD, F.AE_RES_CNT_OUT_SAT,
      F.AE_CMD_CNT_COMMANDS, F.AE_CMD_CNT_TILES] n

/-- AE_JD_CNT_CLR. -/
def execAeJdCntClr (by_ : Port) (s : State) : Host.Outcome State Fault Refusal :=
  s.run fun c => c.action by_ 0xBE fun c =>
    [0, 1].foldl (fun c p => c.clrFields [F.AE_JD_STAT_SENT, F.AE_JD_STAT_RECEIVED, F.AE_JD_STAT_LOCAL_ONLY,
      F.AE_JD_STAT_DECLINES, F.AE_JD_STAT_UNSENT] p) c

/-- The words of a Press's local memory that have stored-bit errors are copied through their check bits (R210): a
correctable one arrives corrected, an uncorrectable one poisoned. -/
def Chip.aeCopyErrors (c : Chip) (n : Nat) : Chip :=
  let base := 0x200000000 + n * 0x1000000
  let ws := c.upset.filter fun (e : Nat × Nat) => base / 16 ≤ e.1 && e.1 < (base + 0x800000) / 16
  ws.foldl (fun c e =>
    let (c, d) := c.readStored (16 * e.1)
    c.writeStored (16 * e.1) d.data (d.poison || d.found == .uncorrectable)) c

/-- AE_MEM_COPY_DONE (R210): the spare that has passed its self-test holds the retiring Press's memory and takes its
logical number. -/
def execAeMemCopyDone (s : State) : Host.Outcome State Fault Refusal :=
  s.stage fun c =>
    match (List.range 8).find? fun n => c.sched.tested.contains (0x100 + n) && c.unitState (0x100 + n) == uTesting with
    | none => c
    | some n =>
      let u := 0x100 + n
      let c := c.aeCopyErrors n
      let c := c.withSched { c.sched with tested := c.sched.tested.filter (· != u) }
      let map := c.rd F.AE_MAP_PHYS
      let spare := c.rd F.AE_MAP_SPARE_PHYS
      let c := c.wr F.AE_MAP_PHYS (map - bits map (4 * n + 3) (4 * n) * 2 ^ (4 * n) + spare * 2 ^ (4 * n))
      let c := (c.wr F.AE_MAP_SPARE_PHYS 0xF).wr F.AE_MAP_SPARE_FREE 0
      (c.hwWake (16 + spare)).wr F.SCHED_UNIT_STAT_STATE uAdmitting u

/-! ## Ring messages received (R136, R212–R215) -/

/-- A message is discarded. -/
def Chip.ringDiscard (c : Chip) (l : Nat) : Chip := c.incSat F.ECV_RING_STAT_DISCARD l

/-- Write a message into its entry: the body from word 1 on, the sub-header last (R215). -/
def Chip.jdStore (c : Chip) (p a : Nat) (sub : Nat) (body : List Nat) : Chip :=
  let (c, _) := c.writeWords .fabric (a + 16) body false
  let (c, _) := c.writeWord .fabric a sub false
  c.incSat F.AE_JD_STAT_RECEIVED p

/-- A REQUEST (R213): written and dispatched, or declined. -/
def Chip.jdRequest (c : Chip) (p src sub : Nat) (body : List Nat) : Chip :=
  let tick := bits sub 127 96
  let cc := bits sub 9 8
  let par := bits sub 10 10
  let reason :=
    if !c.jdOn (16 + p) then 1
    else if tickDiff tick c.tick < (c.rd F.AE_JD_CFG_REQ_LEAD : Nat) then 2
    else if !c.flag F.AE_JD_MAP_EN cc then 3
    else if 15 < bits sub 27 24 then 4
    else 0
  if reason ≠ 0 then
    c.jdSend p src 0 tick [jdHead 3 cc par 0 0 0 0 reason 0 0 tick]
  else
    let a := c.jdEntry p 0 par 0 cc 0
    let c := c.jdStore p a sub body
    (c.accept (c.rd F.AE_JD_CFG_REQ_UNIT + 1 * 2 ^ 16) a false false 0).1

/-- A message for this member (R212–R215). -/
def Chip.jdReceive (c : Chip) (p src : Nat) (body : List Nat) : Chip :=
  let l := 16 + p
  let sub := body.headD 0
  let kind := bits sub 3 0
  let vals := body.drop 1
  if 3 < kind || bits sub 7 4 ≠ 1 then c.ringDiscard l
  else if kind = 0 then (if 63 < vals.length then c.ringDiscard l else c.jdRequest p src sub vals)
  else if kind = 3 then
    let c := c.incSat F.AE_JD_STAT_DECLINES p
    c.withAe { c.ae with
      declines := Tbl.set c.ae.declines p
        (((bits sub 127 96, bits sub 9 8) :: Tbl.get c.ae.declines p []).take 8) [] }
  else if !c.jdOn l || 28 < bits sub 36 32 || (kind = 1 && (13 < bits sub 15 12 || 7 < bits sub 23 16))
      || (if kind = 1 then 2048 else 127) < vals.length then c.ringDiscard l
  else c.jdStore p (c.jdEntry p kind (bits sub 10 10) (bits sub 15 12) (bits sub 9 8) (bits sub 23 16)) sub vals

/-- RING_MESSAGE_RECEIVE (R136): a message with a good CRC is consumed by the member that runs joint detection and that it
names, forwarded by a member that does not, else discarded. A REQUEST for a member whose joint detection has stopped is
declined (R217). -/
def Chip.ringReceive (c : Chip) (p : Nat) (words : List Nat) : Chip :=
  let l := 16 + p
  let h := words.headD 0
  let body := words.drop 1
  let mine := bits h 20 16 == c.rd F.ECV_RING_STAT_LOCAL_ID l
  if bits h 47 32 ≠ body.length || body.isEmpty || 4096 < body.length || bits h 127 96 ≠ ringCrc h body
      || bits h 7 0 ≠ 1 then c.ringDiscard l
  else if c.jdRuns then (if mine then c.jdReceive p (bits h 12 8) body else c.ringDiscard l)
  else if mine && bits (body.headD 0) 3 0 = 0 && bits (body.headD 0) 7 4 = 1 then
    c.jdReceive p (bits h 12 8) body
  else if bits h 25 24 = 2 then c.ringDiscard l
  else
    let h1 := h % 2 ^ 96 + 2 ^ 24
    if c.lkUp (33 - l) then c.ringPut (33 - l) true ((h1 + ringCrc h1 body * 2 ^ 96) :: body)
    else c.when (c.lkState (33 - l) == lkRetrain) fun c => c.ringDiscard (33 - l)

/-- RING_MESSAGE_RECEIVE; a message that a retrain of its port, or of the port it would be forwarded to, catches is lost and
counted (R122). -/
def execRingMessageReceive (p : Fin 2) (words : List Nat) (s : State) : Host.Outcome State Fault Refusal :=
  s.run fun c =>
    if c.lkUp (16 + p.val) && c.flag F.DEV_MODE_SEAM_OPEN then c.ringReceive p words
    else c.when (c.lkState (16 + p.val) == lkRetrain) fun c => c.ringDiscard (16 + p.val)

end Sys2Proof.Machine
end

