-- ==== Sys2Proof/Machine/BrxCmds.lean ====
section
/-! DEFINITION. Commands of the burst receivers (spec/06_burst_receivers.md). -/
namespace Sys2Proof.Machine

/-! ## Enable, disable (R174, R187) -/

/-- A receiver takes configuration (R187): it is neither enabled nor stopping. -/
def Chip.brFree (c : Chip) (n : Nat) : Bool := !c.flag F.BRn_CFG_EN n && !(c.br n).stopping

/-- The fields of BRn_CFG that a write applies: EVT_EN always, the others where R187 allows. -/
def Chip.brCfg (c : Chip) (n value : Nat) : Chip :=
  let free := c.brFree n
  let c := c.wr F.BRn_CFG_EVT_EN (F.BRn_CFG_EVT_EN.of value) n
  c.when free fun c =>
    [F.BRn_CFG_FAMILY, F.BRn_CFG_SCS, F.BRn_CFG_N_REP_M1, F.BRn_CFG_N_PRE_M1, F.BRn_CFG_LOG_ROOT, F.BRn_CFG_NCS_CFG,
      F.BRn_CFG_DG_INIT, F.BRn_CFG_CF_OFFSET].foldl (fun c (f : Fld) => c.wr f (f.of value) n) c

/-- A write of EN = 1: at once, or held while the receiver is stopping; nothing where EN is 1. -/
def Chip.brAskOn (c : Chip) (n : Nat) : Chip :=
  if (c.br n).stopping then c.wr F.BRn_STAT_ENABLE_PENDING 1 n
  else if c.flag F.BRn_CFG_EN n then c
  else c.brEnable n

/-- A write of EN = 0: an enabled receiver is stopping from here on; a held enable is withdrawn. -/
def Chip.brAskOff (c : Chip) (n : Nat) : Chip :=
  let c := c.wr F.BRn_STAT_ENABLE_PENDING 0 n
  if c.flag F.BRn_CFG_EN n then (c.wr F.BRn_CFG_EN 0 n).setBr n { c.br n with stopping := true } else c

/-- A write of BRn_CFG. -/
def Chip.brCfgWrite (c : Chip) (n value : Nat) : Chip :=
  let c := c.brCfg n value
  if F.BRn_CFG_EN.of value = 1 then c.brAskOn n else c.brAskOff n

/-- BR_ENABLE: a BRn_CFG write with EN = 1; `value` is the whole register. -/
def execBrEnable (by_ : Port) (n : Fin 32) (value : Nat) (s : State) : Host.Outcome State Fault Refusal :=
  s.run fun c => c.action by_ modesAll fun c => c.brCfgWrite n (setBit value 63 true)

/-- BR_DISABLE: a BRn_CFG write with EN = 0. -/
def execBrDisable (by_ : Port) (n : Fin 32) (value : Nat) (s : State) : Host.Outcome State Fault Refusal :=
  s.run fun c => c.action by_ modesAll fun c => c.brCfgWrite n (setBit value 63 false)

/-- The span of the receiver's occasion has not ended. -/
def Chip.brInSpan (c : Chip) (n : Nat) : Bool :=
  match (c.br n).occ with
  | some o => cntSub c.tick o.start < c.rd F.BRn_THR_SPAN n
  | none => false

/-- BR_STOP_COMPLETE: the occasion in progress and its receptions have ended; a held enable is applied. -/
def execBrStopComplete (n : Fin 32) (s : State) : Host.Outcome State Fault Refusal :=
  s.run fun c =>
    let x := c.br n
    if x.stopping && x.recs.isEmpty && !c.brInSpan n then
      let held := c.flag F.BRn_STAT_ENABLE_PENDING n
      let c := c.setBr n { x with stopping := false, occ := none, frozen := false }
      let c := c.wr F.BRn_STAT_ENABLE_PENDING 0 n
      if held then c.brEnable n else c
    else c

/-! ## Occasions (R173, R176, R184, R185) -/

/-- BR_OCCASION_START: the last occasion to have begun is searched, if the receiver runs, its domain is awake, the enable
took effect by then and, in SOAK, it is a sampled one; an occasion without antennas is not searched. -/
def execBrOccasionStart (n : Fin 32) (s : State) : Host.Outcome State Fault Refusal :=
  s.run fun c =>
    let (start, k) := c.brLast n
    let x := c.br n
    let fresh := match x.occ with | some o => o.start != start | none => true
    let sampled := c.mode != mSoak || k % ((max 1 (c.rd F.BRX_SOAK_CFG_SOAK_DIV) : Nat) : Int) == 0
    let held := match x.notBefore with | some b => tickLater b start | none => false
    if c.brRuns n && c.domRuns 37 && fresh && sampled && !held then
      c.setBr n { x with occ := some { start := start, coefs := c.brLatch n }, grid := some (start, k), notBefore := none }
    else c

/-! ## Windows (R173, R180–R182) -/

/-- Difference of two instants in sixteenths of a tick. -/
def sixteenths (t f t' f' : Nat) : Int := 16 * tickDiff t t' + (f : Int) - (f' : Int)

/-- A candidate belongs to an open reception (R181). -/
def Chip.brBelongs (c : Chip) (n : Nat) (r : BrRec) (p : BrPeak) : Bool :=
  let d := sixteenths p.arrival p.frac r.arrival r.frac
  let tol := 32 * brSample (c.rd F.BRn_CFG_SCS n)
  p.idx == r.idx && (List.range (2 * c.brReps n + 1)).any fun (k : Nat) =>
    (d - ((k : Int) - (c.brReps n : Int)) * 16 * (c.brTseq n : Int)).natAbs ≤ tol

/-- A reception has reached its end A + N_REP × Tseq. -/
def Chip.brEnded (c : Chip) (n : Nat) (r : BrRec) : Bool :=
  0 ≤ sixteenths c.tick 0 (tickAdd r.arrival (c.brReps n * c.brTseq n)) r.frac

/-- Threshold of a candidate in 0.125 dB (R173, R185). -/
def Chip.brThr (c : Chip) (n : Nat) : Nat :=
  2 * (if c.mode = mSoak then c.rd F.BRX_SOAK_CFG_SOAK_THR else c.rd F.BRn_THR_DET_THR n)

/-- The candidate exceeds the reception (R182). -/
def Chip.brExceeds (c : Chip) (r : BrRec) (p : BrPeak) : Bool :=
  r.rss + (2 * max 4 (c.rd F.BRX_SUPERSEDE_SUP) : Nat) ≤ p.rss

/-- The reception that a candidate opens, with its latches. -/
def Chip.brLatchRec (c : Chip) (n : Nat) (p : BrPeak) (restarted : Bool) : BrRec :=
  { idx := p.idx
    beam := p.beam
    arrival := p.arrival
    frac := p.frac
    rss := p.rss
    noise := p.noise
    wb := p.wb
    metric := p.metric
    dg := p.dg
    det := p.det
    root := p.root
    lag := p.lag
    win := p.win
    acc := p.pow
    reps := 1
    sum := p.sum
    nAnt := match (c.br n).occ with | some o => o.coefs.length | none => 0
    restarted := restarted
    soak := c.mode == mSoak }

/-- A reception is abandoned and its slot restarts on the candidate. -/
def Chip.brRestart (c : Chip) (n : Nat) (r : BrRec) (p : BrPeak) : Chip :=
  let k := (c.br n).recs.idxOf r
  let c := c.brClose n r .superseded false
  c.setBr n { c.br n with recs := (c.br n).recs.insertIdx k (c.brLatchRec n p true) }

/-- The weakest of a list of receptions, the first slot on a tie. -/
def brWeakest (l : List BrRec) : Option BrRec :=
  match l with
  | [] => none
  | r :: t => match brWeakest t with
    | some q => if q.rss < r.rss then some q else some r
    | none => some r

/-- One candidate is taken by the first row of R182 that applies. -/
def Chip.brTake (c : Chip) (n : Nat) (p : BrPeak) : Chip :=
  let recs := (c.br n).recs
  if recs.any fun r => c.brBelongs n r p then c
  else
    match recs.find? fun r => r.idx == p.idx with
    | some r => if c.brExceeds r p then c.brRestart n r p else c.incSat F.BRn_STAT_IGNORED n
    | none =>
      if recs.length < 8 then c.setBr n { c.br n with recs := recs ++ [c.brLatchRec n p false] }
      else
        match brWeakest recs with
        | some r => if c.brExceeds r p then c.brRestart n r p else c.incSat F.BRn_STAT_LOST n
        | none => c

/-- The order of R182: decreasing RSS, then the lower index, then the lower beam. -/
def brBefore (a b : BrPeak) : Bool :=
  b.rss < a.rss || (a.rss == b.rss && (a.idx < b.idx || (a.idx == b.idx && a.beam ≤ b.beam)))

/-- The first candidate of SOAK signals a wake (R185, R469). -/
def Chip.brSoakSignal (c : Chip) (n : Nat) : Chip :=
  match (c.br n).occ with
  | some o =>
    if c.mode = mSoak && !o.cand then
      (c.setBr n { c.br n with occ := some { o with cand := true } }).when (c.flag F.PWR_WAKE_CFG_BRX)
        fun c => c.soakWake 1
    else c
  | none => c

/-- What the window saw is noted in every open reception (R183). -/
def Chip.brMark (c : Chip) (n : Nat) (poison gap : Bool) : Chip :=
  c.setBr n { c.br n with recs := (c.br n).recs.map fun (r : BrRec) =>
    { r with poison := r.poison || poison, gap := r.gap || gap } }

/-- The receptions that have reached their end close (R182, R183). -/
def Chip.brCloseEnded (c : Chip) (n : Nat) : Chip :=
  (c.br n).recs.foldl (fun c r => if c.brEnded n r then c.brClose n r .ok false else c) c

/-- Some block of the window that begins at `t` held a poisoned tap sample. -/
def Chip.brPoisonIn (c : Chip) (n t : Nat) : Bool :=
  (c.br n).blocks.any fun b => b.poison && 0 ≤ tickDiff b.tick t && tickDiff b.tick t < c.brTseq n

/-- BR_WINDOW_EVAL: window `j` of the occasion is evaluated. Receptions that end within the evaluation close first; then the
peaks at or above the threshold are taken in the order of R182. -/
def execBrWindowEval (n : Fin 32) (j : Nat) (s : State) : Host.Outcome State Fault Refusal :=
  s.run fun c =>
    match (c.br n).occ with
    | none => c
    | some o =>
      let first := j * (c.brTseq n / 2)
      let stop := c.brTseq n + first
      if c.rd F.BRn_THR_SPAN n < stop || cntSub c.tick o.start < stop || o.coefs.isEmpty || !c.domRuns 37 then c
      else
        let t := tickAdd o.start first
        let poison := c.brPoisonIn n t
        let gap := c.brGap n t (c.brTseq n)
        let c := (c.brMark n poison gap).brCloseEnded n
        let good := ((c.brPeaks n t o).filter fun p => c.brThr n ≤ p.metric).mergeSort brBefore
        let c := good.foldl (fun c p => c.brTake n p) c
        (if good.isEmpty then c else c.brSoakSignal n).brMark n poison gap

/-- BR_RECEPTION_CLOSE: the reception of preamble `idx` has reached its end. -/
def execBrReceptionClose (n : Fin 32) (idx : Fin 64) (poison : Bool) (s : State) : Host.Outcome State Fault Refusal :=
  s.run fun c =>
    match (c.br n).recs.find? fun (r : BrRec) => r.idx == idx.val with
    | some r => if c.brEnded n r then c.brClose n r .ok poison else c
    | none => c

/-! ## The gain loop (R177, R178) -/

/-- The two sides of the comparison of a block's power with TARGET less `q` quarters of a decibel, exactly: 40 log10 of the power
against full scale over the 4,096 samples of 64 beams, and TARGET's code less `q`. -/
def brLevel (pow : Nat) (target q : Int) : Nat × Nat :=
  let d := target - q
  (pow ^ 40 * 10 ^ (-d).toNat, (4096 * 32767 ^ 2) ^ 40 * 10 ^ d.toNat)

/-- M is at most TARGET less `q` quarters of a decibel. -/
def brBelow (pow : Nat) (target q : Int) : Bool := let l := brLevel pow target q; l.1 ≤ l.2

/-- M is at least TARGET less `q` quarters of a decibel. -/
def brAbove (pow : Nat) (target q : Int) : Bool := let l := brLevel pow target q; l.2 ≤ l.1

/-- The change of code: 2 × (TARGET − M) rounded half up, within ±24. -/
def brChange (pow : Nat) (target : Int) : Int :=
  (((List.range 49).map fun (k : Nat) => (24 : Int) - k).find? fun d => brBelow pow target (2 * d - 1)).getD (-24)

/-- The gain code for the next block: `pow` is the power of the block's samples, `sat` whether one of them saturated. -/
def brGain (dg : Nat) (target : Int) (pow : Nat) (sat : Bool) : Nat :=
  if sat then dg - 12
  else if brBelow pow target 4 || brAbove pow target (-4) then
    (max 0 (min 127 ((dg : Int) + brChange pow target))).toNat
  else dg

/-- BR_GAIN_BLOCK: the boundary at which a block of 64 receiver samples has ended. What it showed is noted in every open
reception, their repetitions are accumulated, and the loop sets DG for the next block; it is frozen from the first boundary
with a reception open to the first with none. -/
def execBrGainBlock (n : Fin 32) (poison : Bool) (s : State) : Host.Outcome State Fault Refusal :=
  s.run fun c =>
    let x := c.br n
    match x.occ with
    | none => c
    | some _ =>
      let b := c.brBlock n
      let len := 64 * brSample (c.rd F.BRn_CFG_SCS n)
      let t := tickAdd b (tickMod - len)
      let dg := c.rd F.BRn_STAT_DG n
      let sat := c.brSat n t 64
      let gap := c.brGap n t len
      let frozen := !x.recs.isEmpty
      let c := c.setBr n { x with
        blocks := ⟨t, dg, poison⟩ :: x.blocks.take 63
        frozen := frozen
        recs := x.recs.map fun (r : BrRec) =>
          { r with sat := r.sat || (x.frozen && sat), poison := r.poison || poison, gap := r.gap || gap } }
      let c := c.setBr n { c.br n with recs := (c.br n).recs.map (c.brAccum n b) }
      if frozen then c
      else c.wr F.BRn_STAT_DG (brGain dg (sx 8 (c.rd F.BRn_THR_TARGET n)) (c.brPower n t dg) sat) n

/-! ## SOAK and counters -/

/-- BR_SOAK_SPAN_END: 50 µs (1,536 ticks) after the span of a sampled occasion without a candidate, domain 37 and the
front-end groups of SOAK_LINKS are released to their SOAK states (R185, R467). -/
def execBrSoakSpanEnd (n : Fin 32) (s : State) : Host.Outcome State Fault Refusal :=
  s.run fun c =>
    match (c.br n).occ with
    | some o =>
      if c.mode = mSoak && n.val = c.rd F.BRX_SOAK_CFG_SOAK_BR && !o.cand
          && c.rd F.BRn_THR_SPAN n + 1536 ≤ cntSub c.tick o.start then
        let groups := (List.range 8).filter fun g => bits (c.rd F.BRX_SOAK_CFG_SOAK_LINKS) (2 * g + 1) (2 * g) != 0
        let ds := 37 :: groups.map (25 + ·)
        c.withPwr { c.pwr with soakReturn := (c.pwr.soakReturn.filter fun d => !ds.contains d) ++ ds }
      else c
    | none => c

/-- BR_CNT_CLR: a write of BRX_CNT_CLR. -/
def execBrCntClr (by_ : Port) (value : Nat) (s : State) : Host.Outcome State Fault Refusal :=
  s.run fun c => c.action by_ modesAll fun c =>
    (bitsSet value 32).foldl (fun c n =>
      c.clrFields [F.BRn_STAT_LOST, F.BRn_STAT_IGNORED, F.BRn_STAT_REC_DROP] n) c

end Sys2Proof.Machine
end

