-- ==== Sys2Proof/Machine/EngineScalar.lean ====
section
/-! DEFINITION. Slots S and M of an issue group (spec/10_engine_programming.md R276–R283, R290–R293): what each
operation checks, computes and changes. Every operation reads the engine as it stood before the group. -/
namespace Sys2Proof.Machine

/-- What a slot does: the exception it raises, whether the group has to wait for it, and its effect once the group
issues. -/
structure SlotOut where
  exc : Option Exc := none
  wait : Bool := false
  /-- STATE shown while it waits. -/
  waitState : Nat := esRun
  fx : Chip → Chip := id

/-- A slot that raises an exception. -/
def SlotOut.raise (x : Exc) : SlotOut := { exc := some x }

/-- Change the state of an engine. -/
def Chip.modEng (c : Chip) (e : Nat) (f : Eng → Eng) : Chip := c.setEng e (f (c.eng e))

/-- A slot that writes one G register, visible `dist` groups later. -/
def SlotOut.toG (e dist r v : Nat) (p : Bool) : SlotOut :=
  { fx := fun c => c.modEng e fun x => x.produce dist (.g r) v (b2n p) }

/-! ## Slot S: integer and logic -/

/-- The value of a slot S register operation (R276); none for an opcode that is none of them. -/
def aluR (opc a b : Nat) : Option Nat :=
  let a64 := a % 2 ^ 64
  let b64 := b % 2 ^ 64
  match opc with
  | 0x01 => some ((a64 + b64) % 2 ^ 64)
  | 0x02 => some ((a64 + 2 ^ 64 - b64) % 2 ^ 64)
  | 0x04 => some (a64 * b64 % 2 ^ 64)
  | 0x05 => some (toBits 64 (sx 64 a64 * sx 64 b64 / (2 ^ 64 : Nat)))
  | 0x06 => some (a &&& b)
  | 0x07 => some (a ||| b)
  | 0x08 => some (a ^^^ b)
  | 0x09 => some (a - (a &&& b))
  | 0x0A => some (a * 2 ^ (b % 128) % 2 ^ 128)
  | 0x0B => some (a / 2 ^ (b % 128))
  | 0x0C => some (toBits 128 (sx 128 a / (2 ^ (b % 128) : Nat)))
  | 0x0E => some (b2n (sx 64 a64 < sx 64 b64))
  | 0x0F => some (b2n (a64 < b64))
  | 0x10 => some (b2n (a64 == b64))
  | 0x11 => some (if sx 64 a64 < sx 64 b64 then a64 else b64)
  | 0x12 => some (if sx 64 a64 < sx 64 b64 then b64 else a64)
  | 0x16 => some (a64 + b64 * 2 ^ 64)
  | 0x17 => some (((List.range 64).find? fun k => bit a64 (63 - k)).getD 64)
  | 0x18 => some (bitsSet a 128).length
  | _ => none

/-- The value of a slot S immediate operation (R276); `d` is Gd, which INSL reads. -/
def aluI (opc a d : Nat) (imm : Int) : Option Nat :=
  let u := toBits 64 imm
  match opc with
  | 0x03 => some (toBits 64 (sx 64 a + imm))
  | 0x0D =>
    match bits u 8 7 with
    | 0 => aluR 0x0A a (u % 128)
    | 1 => aluR 0x0B a (u % 128)
    | 2 => aluR 0x0C a (u % 128)
    | _ => none
  | 0x13 => some (toBits 64 imm)
  | 0x14 => some (toBits 64 (sx 32 (a / 2 ^ (32 * (u % 4)))))
  | 0x15 => some (d - bits d (32 * (u % 4) + 31) (32 * (u % 4)) * 2 ^ (32 * (u % 4)) + a % 2 ^ 32 * 2 ^ (32 * (u % 4)))
  | _ => none

/-- The value ANDN, MUL … take their visibility from: MUL and MULH are visible at k + 2 (R273). -/
def sDist (opc : Nat) : Nat := if opc = 4 || opc = 5 then 2 else 1

/-- Fields of an R-format slot that must be zero (R271, R276). -/
def sBadR (opc w : Nat) : Bool :=
  bits w 18 0 != 0
    || ((opc == 0x17 || opc == 0x18) && slRb w != 0)
    || (opc == 0x23 && (slRd w != 0 || slRb w != 0))
    || (opc == 0x26 && (slRd w != 0 || slRa w != 0 || slRb w != 0))

/-- Opcodes of slot S in format R. -/
def sIsR (opc : Nat) : Bool :=
  [0x01, 0x02, 0x04, 0x05, 0x06, 0x07, 0x08, 0x09, 0x0A, 0x0B, 0x0C, 0x0E, 0x0F, 0x10, 0x11, 0x12, 0x16, 0x17, 0x18,
    0x23, 0x26, 0x32, 0x33, 0x34, 0x35, 0x36].contains opc

/-- Opcodes of slot S in format I. -/
def sIsI (opc : Nat) : Bool := [0x03, 0x0D, 0x13, 0x14, 0x15, 0x30, 0x31].contains opc

/-- The condition codes of BRC (R276). -/
def condMet (cc : Nat) (v : Int) : Option Bool :=
  match cc with
  | 0 => some (v == 0)
  | 1 => some (v != 0)
  | 2 => some (decide (v < 0))
  | 3 => some (decide (0 ≤ v))
  | 4 => some (decide (0 < v))
  | 5 => some (decide (v ≤ 0))
  | _ => none

/-! ## Loops and branches -/

/-- Group index `pc + off`, modulo 16,384 (R266). -/
def pcPlus (pc : Nat) (off : Int) : Nat := ((pc + off) % 16384).toNat

/-- END and START of loop level `k`, and its count. -/
def Eng.lpEnd (x : Eng) (k : Nat) : Nat := bits (Tbl.get x.lp k 0) 45 32
def Eng.lpStart (x : Eng) (k : Nat) : Nat := bits (Tbl.get x.lp k 0) 13 0
def Eng.lpCount (x : Eng) (k : Nat) : Nat := bits (Tbl.get x.lp k 0) 127 96

/-- A branch may not issue in END − 2, END − 1 or END of an active level (R292). -/
def Eng.nearEnd (x : Eng) : Bool :=
  (List.range x.depth).any fun k => x.pc ≤ x.lpEnd k && x.lpEnd k ≤ x.pc + 2

/-- A branch is taken: two delay groups, then its target (R273). -/
def Eng.branchTo (x : Eng) (t : Nat) : Eng := { x with brLeft := 3, brTgt := t % 16384 }

/-- A branch: illegal in a delay group (R277), LOOP near the end of a level (R292), POISON_CONSUMED for a poisoned
condition or target. -/
def branch (e : Nat) (x : Eng) (p taken : Bool) (t : Nat) (link : Bool) : SlotOut :=
  if x.brLeft ≠ 0 then .raise (.mk' .illegal 0)
  else if x.nearEnd then .raise (.mk' .loop 0)
  else if p then .raise (.mk' .poison 0 0 2)
  else
    { fx := fun c => c.modEng e fun y =>
        let y := if link then y.produce 1 (.g 31) (pcPlus x.pc 3) 0 else y
        if taken then y.branchTo t else y }

/-- Push a loop level (R290), or skip the body of a count of 0. -/
def Eng.pushLoop (x : Eng) (fin count : Nat) : Eng :=
  if count = 0 then { x with brLeft := 5, brTgt := pcPlus fin 1 }
  else
    { x with
      lp := Tbl.set x.lp x.depth (lpMask (pcPlus x.pc 1 + fin * 2 ^ 32 + count % 2 ^ 32 * 2 ^ 96)) 0
      depth := x.depth + 1 }

/-- LOOP and LOOPI (R290). -/
def loopOp (e : Nat) (x : Eng) (p : Bool) (off : Int) (count : Nat) : SlotOut :=
  let fin := pcPlus x.pc off
  if x.brLeft ≠ 0 then .raise (.mk' .illegal 0)
  else if off < 1 || x.depth = 4 || (0 < x.depth && x.lpEnd (x.depth - 1) < fin) then .raise (.mk' .loop 0)
  else if p then .raise (.mk' .poison 0 0 3)
  else { fx := fun c => c.modEng e fun y => y.pushLoop fin count }

/-- The group that follows `pc`, with the END decisions of the group at `pc` (R291): the count of the innermost level
goes down and its START follows, or the level is popped and the enclosing level with the same END decides in the same
group. The flag says that an iteration boundary was passed. -/
def Eng.endLoops (x : Eng) (pc fuel : Nat) : Eng × Bool :=
  match fuel with
  | 0 => ({ x with pc := pcPlus pc 1 }, false)
  | n + 1 =>
    if x.depth = 0 || x.lpEnd (x.depth - 1) ≠ pc then ({ x with pc := pcPlus pc 1 }, false)
    else
      let k := x.depth - 1
      if 1 < x.lpCount k then
        ({ x with lp := Tbl.set x.lp k (Tbl.get x.lp k 0 - 2 ^ 96) 0, pc := x.lpStart k }, true)
      else (({ x with depth := k }.endLoops pc n).1, true)

/-- Levels that a taken branch leaves: the outermost one whose START to END does not hold the target, and every level
inside it (R292). -/
def Eng.popFor (x : Eng) (t : Nat) : Eng :=
  match (List.range x.depth).find? fun k => !(x.lpStart k ≤ t && t ≤ x.lpEnd k) with
  | some k => { x with depth := k }
  | none => x

/-! ## Slot S: tasks and control -/

/-- The task word (R335). -/
def Task.word (t : Task) : Nat :=
  t.arg + t.tag * 2 ^ 64 + t.flow * 2 ^ 80 + t.prio * 2 ^ 92 + t.seq * 2 ^ 96 + t.target * 2 ^ 112
    + b2n t.deadline.isSome * 2 ^ 123

/-- TASKW (R278, R335): the first task in the inbox becomes current, else the engine waits. -/
def taskw (c : Chip) (e : Nat) (x : Eng) (rd : Nat) : SlotOut :=
  if x.brLeft ≠ 0 || (c.currentTask e).isSome then .raise (.mk' .illegal 0)
  else if x.depth ≠ 0 then .raise (.mk' .loop 0)
  else
    match (c.heldTasks e).head? with
    | none => { wait := true, waitState := esTaskw }
    | some t =>
      { fx := fun c => (((c.putTask { t with ran := true }).modEng e fun y =>
          { y.produce 1 (.g rd) t.word 0 with withheld := [], bases := [] })).when t.late (·.engIrq e 2) }

/-- TDONE (R278): completes the current task once every earlier load and store has completed. -/
def tdone (c : Chip) (e : Nat) (x : Eng) (a : PV) : SlotOut :=
  let st := a.v % 256
  if x.brLeft ≠ 0 || 15 < st then .raise (.mk' .illegal 0)
  else
    match c.currentTask e with
    | none => .raise (.mk' .illegal 0)
    | some t =>
      if x.depth ≠ 0 then .raise (.mk' .loop 0)
      else if a.p then .raise (.mk' .poison 0 0 9)
      else
        { wait := x.acc != []
          fx := fun c => (c.taskDone t (.ofCode st)).modEng e fun y => { y with withheld := [], bases := [] } }

/-- ERET (R301): IE from IE_SAVED, IN_HANDLER cleared, EPC next, the branch still owed, and the withheld results at
their old distance from the groups that follow (R300). -/
def Eng.eret (x : Eng) : Eng :=
  let back := (x.withheld.headD []).map fun p => { p with due := p.due + x.grp + 1 }
  { x with
    ictrl := setBit (setBit x.ictrl 0 (bit x.ecause 21)) 1 false
    pc := x.epc
    brLeft := if bits x.ecause 19 18 = 0 then 0 else bits x.ecause 19 18
    brTgt := x.etgt
    pend := x.pend ++ back
    withheld := x.withheld.tail
    bases := x.bases.tail
    hoSince := none
    hoArmed := false }

/-- Slot S (R276–R278, R290–R293). ERET raises LOOP only for levels pushed since the exception, since those it returns
into stay in force (R301, R303; DEDUCED, log entry 25). `ext` is the extension of a long form. -/
def slotS (c : Chip) (e : Nat) (w : Nat) (ext : Option Nat) : SlotOut :=
  let x := c.eng e
  let opc := slOpc w
  let a := x.rdG (slRa w)
  let b := x.rdG (slRb w)
  let imm : Int := match ext with
    | some y => sx 56 (slImm24 w + y * 2 ^ 24)
    | none => sx 24 (slImm24 w)
  let off : Int := sx 24 (slImm24 w)
  if opc = 0 then {}
  else if sIsR opc then
    if sBadR opc w then .raise (.mk' .illegal 0)
    else
      match opc with
      | 0x23 => branch e x a.p true a.v false
      | 0x26 =>
        { fx := fun c => c.modEng e fun y =>
            if y.depth = 0 then y
            else
              let k := y.depth - 1
              let l := Tbl.get y.lp k 0
              { y with lp := Tbl.set y.lp k (l % 2 ^ 96 + 2 ^ 96) 0 } }
      | 0x32 =>
        if x.brLeft ≠ 0 then .raise (.mk' .illegal 0)
        else if x.bases.headD 0 < x.depth then .raise (.mk' .loop 0)
        else { fx := fun c => c.modEng e fun y => { y with brLeft := 4 } }
      | 0x33 => taskw c e x (slRd w)
      | 0x34 => tdone c e x a
      | 0x35 => { wait := x.acc != [] }
      | 0x36 =>
        if x.brLeft ≠ 0 then .raise (.mk' .illegal 0) else { wait := !x.irqWanted, waitState := esWaiti }
      | _ =>
        match aluR opc a.v b.v with
        | some v =>
          let two := !(opc == 0x17 || opc == 0x18)
          .toG e (sDist opc) (slRd w) v (a.p || (two && b.p))
        | none => .raise (.mk' .illegal 0)
  else if sIsI opc then
    match opc with
    | 0x30 =>
      if bits w 23 8 ≠ 0 then .raise (.mk' .illegal 0)
      else
        match c.rdSys e (bits w 7 0) with
        | some v => .toG e 1 (slRd w) v false
        | none => .raise (.mk' .illegal 0)
    | 0x31 =>
      let n := bits w 7 0
      if slRd w ≠ 0 || (c.rdSys e n).isNone then .raise (.mk' .illegal 0)
      else if a.p then .raise (.mk' .poison 0 0 9)
      else if sysReadOnly n then .raise (.mk' .access 0)
      else { fx := fun c => c.modEng e fun y => y.wrSys n a.v }
    | 0x0D =>
      if bits w 23 9 ≠ 0 then .raise (.mk' .illegal 0)
      else
        match aluI opc a.v 0 (slImm24 w) with
        | some v => .toG e 1 (slRd w) v a.p
        | none => .raise (.mk' .illegal 0)
    | _ =>
      let d := x.rdG (slRd w)
      if opc = 0x13 && slRa w ≠ 0 then .raise (.mk' .illegal 0)
      else
        match aluI opc a.v d.v imm with
        | some v => .toG e 1 (slRd w) v (opc != 0x13 && (a.p || (opc == 0x15 && d.p)))
        | none => .raise (.mk' .illegal 0)
  else
    match opc with
    | 0x20 =>
      if slRd w ≠ 0 || slRa w ≠ 0 then .raise (.mk' .illegal 0) else branch e x false true (pcPlus x.pc off) false
    | 0x21 =>
      match condMet (slRd w) (sx 64 a.v) with
      | none => .raise (.mk' .illegal 0)
      | some t => branch e x a.p t (pcPlus x.pc off) false
    | 0x22 => branch e x false true (pcPlus x.pc off) true
    | 0x24 => if slRd w ≠ 0 then .raise (.mk' .illegal 0) else loopOp e x a.p off (a.v % 2 ^ 32)
    | 0x25 =>
      let hi := ext.getD 0
      if hi / 2 ^ 22 ≠ 0 then .raise (.mk' .illegal 0)
      else loopOp e x false off (slCount10 w + hi % 2 ^ 22 * 2 ^ 10)
    | _ => .raise (.mk' .illegal 0)

/-! ## Slot M -/

/-- Fields of an M-format slot (R271). -/
def mAd (w : Nat) : Nat := bits w 33 30
def mSat (w : Nat) : Bool := bit w 29
def mSh (w : Nat) : Nat := bits w 28 24
def mRa (w : Nat) : Nat := bits w 23 19
def mRb (w : Nat) : Nat := bits w 18 14
def mEp (w : Nat) : Nat := bits w 13 13

/-- Complex product, conjugating b where asked (R279). -/
def cMul (ar ai br bi : Int) (conj : Bool) : Int × Int :=
  if conj then (ar * br + ai * bi, ai * br - ar * bi) else (ar * br - ai * bi, ai * br + ar * bi)

/-- Element `e` of a register as ce24 or ce16. -/
def ce24 (v e : Nat) : Int × Int := (lane24 v (2 * e), lane24 v (2 * e + 1))
def ce16 (v e : Nat) : Int × Int := (lane16 v (2 * e), lane16 v (2 * e + 1))

/-- Products of two elements. -/
def cProd (a b : Int × Int) (conj : Bool) : Int × Int := cMul a.1 a.2 b.1 b.2 conj

/-- The sums a MAC-class operation adds to, takes from or puts into the accumulators from AD on, and their alignment
(R282); the kind: 1 adds, 2 subtracts, 3 replaces. -/
def macTerms (opc a b ep : Nat) : Option (Nat × Nat × List Int) :=
  let l4 := (List.range 4).map fun l => lane24 a l * lane24 b l
  let l8 := (List.range 8).map fun l => lane16 a l * lane16 b l
  let c2 := fun conj => (List.range 2).flatMap fun k =>
    let p := cProd (ce24 a k) (ce24 b k) conj
    [p.1, p.2]
  let h2 := fun conj => (List.range 2).flatMap fun k =>
    let p := cProd (ce16 a (2 * ep + k)) (ce16 b (2 * ep + k)) conj
    [p.1, p.2]
  match opc with
  | 0x01 => some (4, 1, l4)
  | 0x02 => some (4, 2, l4)
  | 0x03 => some (4, 3, l4)
  | 0x04 => some (8, 1, l8)
  | 0x05 => some (8, 2, l8)
  | 0x06 => some (8, 3, l8)
  | 0x07 => some (1, 1, [l4.sum])
  | 0x08 => some (1, 1, [l8.sum])
  | 0x09 => some (4, 1, c2 false)
  | 0x0A => some (4, 1, c2 true)
  | 0x0B => some (4, 3, c2 false)
  | 0x0C => some (4, 1, h2 false)
  | 0x0D => some (4, 1, h2 true)
  | 0x0E =>
    let p := c2 true
    some (2, 1, [p.getD 0 0 + p.getD 2 0, p.getD 1 0 + p.getD 3 0])
  | _ => none

/-- A result in 56 bits under SAT, and whether it was out of range (R280). -/
def accFit (sat : Bool) (v : Int) : Nat × Bool :=
  let ovf := satS 56 v != v
  (toBits 56 (if sat then satS 56 v else v), ovf)

/-- Write accumulators from index `d` on, with their poison; out-of-range results set AOV and their bit of AOV_MASK,
visible with them (R273, R280). -/
def Eng.putAccs (x : Eng) (d : Nat) (sat : Bool) (vs : List (Int × Bool)) : Eng :=
  let fits := vs.map fun v => (accFit sat v.1, v.2)
  let x := fits.zipIdx.foldl (fun x f => x.produce 3 (.a (d + f.2)) f.1.1.1 (b2n f.1.2)) x
  let mask := fits.zipIdx.foldl (fun m f => if f.1.1.2 then m ||| 2 ^ (16 + d + f.2) else m) 0
  if mask = 0 then x else x.produce 3 .fx (mask + 1) 0

/-- Narrow a rounded value to `w` bits (R281): its bits sign-extended, and whether it did not fit. -/
def narrow (sat : Bool) (w sh : Nat) (v : Int) : Int × Bool :=
  let r := roundDrop sh v
  let ovf := satS w r != r
  (if ovf && !sat then sx w (toBits w r) else satS w r, ovf)

/-- Accumulator indices from `d` on. -/
def accRange (d n : Nat) : List Nat := (List.range n).map (d + ·)

/-- EXT4 and EXT8H: lanes of `lw` bits holding `w`-bit values from the accumulators from AD on (R281). -/
def extAccs (e : Nat) (x : Eng) (w d n lw sh : Nat) (sat : Bool) (rd : Nat) : SlotOut :=
  let vs := (accRange d n).map fun k => x.rdA k
  let ns := vs.map fun v => narrow sat w sh (sx 56 v.v)
  let val := ns.foldr (fun v acc => toBits lw v.1 + 2 ^ lw * acc) 0
  let p := vs.any (·.p)
  let ovf := ns.any (·.2)
  { fx := fun c => c.modEng e fun y =>
      let y := y.produce 2 (.g rd) val (b2n p)
      if ovf then y.produce 2 .fx 2 0 else y }

/-- Slot M (R279–R283). -/
def slotM (c : Chip) (e : Nat) (w : Nat) : SlotOut :=
  let x := c.eng e
  let opc := slOpc w
  let d := mAd w
  let a := x.rdG (mRa w)
  let b := x.rdG (mRb w)
  let ill : SlotOut := .raise (.mk' .illegal 1)
  if opc = 0 then {}
  else if bits w 12 0 ≠ 0 || (mEp w ≠ 0 && opc != 0x0C && opc != 0x0D) then ill
  else
    match macTerms opc a.v b.v (mEp w) with
    | some (al, kind, ts) =>
      if d % al ≠ 0 then ill
      else
        let olds := (accRange d ts.length).map x.chainA
        let p := a.p || b.p || (kind != 3 && olds.any (·.p))
        let vs := (ts.zip olds).map fun t =>
          match kind with
          | 1 => (sx 56 t.2.v + t.1, p)
          | 2 => (sx 56 t.2.v - t.1, p)
          | _ => (t.1, p)
        { fx := fun c => c.modEng e fun y => y.putAccs d (mSat w) vs }
    | none =>
      match opc with
      | 0x20 => if d % 4 ≠ 0 then ill else extAccs e x 24 d 4 32 (mSh w) (mSat w) (mRa w)
      | 0x21 => if d % 8 ≠ 0 then ill else extAccs e x 16 d 8 16 (mSh w) (mSat w) (mRa w)
      | 0x22 =>
        if mRb w ≠ 0 then ill
        else .toG e 2 (mRa w) (toBits 128 (sx 56 (x.rdA d).v)) (x.rdA d).p
      | 0x23 =>
        { fx := fun c => c.modEng e fun y => y.putAccs d (mSat w) [(sx 64 a.v, a.p)] }
      | 0x24 =>
        if d % 4 ≠ 0 || mRa w ≠ 0 || mRb w ≠ 0 then ill
        else
          { fx := fun c => c.modEng e fun y => y.putAccs d false (List.replicate 4 (0, false)) }
      | 0x25 =>
        if bit (mRb w) 4 then ill
        else
          let r := x.rdA (mRb w)
          let o := x.rdA d
          { fx := fun c => c.modEng e fun y => y.putAccs d (mSat w) [(sx 56 o.v + sx 56 r.v, o.p || r.p)] }
      | 0x26 =>
        let o := x.rdA d
        { fx := fun c => c.modEng e fun y =>
            let n := narrow (mSat w) 56 (mSh w) (sx 56 o.v)
            y.putAccs d true [(n.1, o.p)] }
      | 0x27 =>
        let o := x.rdA d
        { fx := fun c => c.modEng e fun y => y.putAccs d (mSat w) [(sx 56 o.v * (2 ^ mSh w : Nat), o.p)] }
      | _ => ill

end Sys2Proof.Machine
end

