-- ==== Sys2Proof/Machine/EngineVector.lean ====
section
/-! DEFINITION. The vector extension (spec/11_engine_vectors.md R304–R323): element types, arithmetic, move, mask and
reduction operations. Vector memory operations are in Machine/EngineMem.lean. -/
namespace Sys2Proof.Machine

/-! ## Element types (R306) -/

/-- Fields of VTYPE. -/
def vSew (t : Nat) : Nat := bits t 2 0
def vCx (t : Nat) : Bool := bit t 3
def vGx (t : Nat) : Bool := bit t 4

/-- Bytes that one part of an element occupies. -/
def partBytes (t : Nat) : Nat :=
  match vSew t with | 0 => 1 | 1 => 2 | 2 => 4 | 3 => 4 | 4 => 8 | _ => 16

/-- Bits of a part's value: e24 is read by its bits 23:0 (R9). -/
def partVal (t : Nat) : Nat := if vSew t = 2 then 24 else 8 * partBytes t

/-- Element size in bytes. -/
def elemBytes (t : Nat) : Nat := if vCx t then 2 * partBytes t else partBytes t

/-- A combination of SEW and CX that R306 allows. -/
def vValid (t : Nat) : Bool := if vCx t then vSew t ≤ 3 else vSew t ≤ 5

/-- Bytes of a vector register (VLENB). -/
abbrev vlenb : Nat := 256

/-- VLMAX (R306). -/
def vlmax (t : Nat) : Nat := if vGx t then min (vlenb / elemBytes t) (vlenb / 4) else vlenb / elemBytes t

/-- Type classes of R313. -/
def tyInt (t : Nat) : Bool := !vCx t && vSew t ≤ 4
def tyFx (t : Nat) : Bool := vSew t ≤ 3
def tyArith (t : Nat) : Bool := tyInt t || tyFx t
def tyAll (t : Nat) : Bool := tyArith t || (!vCx t && vSew t == 5)
def tyCx (t : Nat) : Bool := tyFx t && vCx t

/-! ## Elements -/

/-- Element `i` of a register value, as bits. -/
def elemAt (v bytes i : Nat) : Nat := v / 2 ^ (8 * bytes * i) % 2 ^ (8 * bytes)

/-- The parts of an element, signed. -/
def partsOf (t el : Nat) : List Int :=
  if vCx t then [sx (partVal t) el, sx (partVal t) (el / 2 ^ (8 * partBytes t))] else [sx (partVal t) el]

/-- An element from its parts; every e24 part written is sign-extended. -/
def joinParts (pb : Nat) (ps : List Int) : Nat := ps.foldr (fun p acc => toBits (8 * pb) p + 2 ^ (8 * pb) * acc) 0

/-- An element as it is written: e24 parts sign-extended (R9). -/
def ext24 (t el : Nat) : Nat := if vSew t = 2 then joinParts (partBytes t) (partsOf t el) else el

/-- Parts narrowed to `w` bits under SAT (R312), and whether one did not fit. -/
def fitParts (sat : Bool) (w : Nat) (ps : List Int) : List Int × Bool :=
  let fs := ps.map fun p => narrow sat w 0 p
  (fs.map (·.1), fs.any (·.2))

/-- The poison flag of the granule that holds element `i`. -/
def granuleOf (bytes i : Nat) : Nat := bytes * i / 16

/-- Element `i` of a vector register with its granule's flag. -/
def VR.elem (r : VR) (bytes i : Nat) : Nat × Bool := (elemAt r.v bytes i, bit r.p (granuleOf bytes i))

/-- A register rebuilt from its old contents and the elements an operation writes (R308, R322): `f i` gives the bits and
the poison of the operands of element `i`, none where the element keeps its value. -/
def VR.build (old : VR) (bytes : Nat) (f : Nat → Option (Nat × Bool)) : VR :=
  let n := vlenb / bytes
  let es := (List.range n).map f
  let v := es.zipIdx.foldr (fun e acc =>
    (match e.1 with | some x => x.1 % 2 ^ (8 * bytes) | none => elemAt old.v bytes e.2) + 2 ^ (8 * bytes) * acc) 0
  let per := 16 / bytes
  let poi := (List.range 16).foldr (fun g acc =>
    let es := (es.drop (g * per)).take per
    let written := es.any (·.isSome)
    let dirty := es.any fun e => match e with | some x => x.2 | none => false
    let keeps := es.any (·.isNone)
    b2n (if written then dirty || (keeps && bit old.p g) else bit old.p g) + 2 * acc) 0
  ⟨v, poi⟩

/-! ## Formats (R309) -/

/-- Fields of formats V and VM. -/
def vD (w : Nat) : Nat := bits w 33 29
def vA (w : Nat) : Nat := bits w 28 24
def vB (w : Nat) : Nat := bits w 23 19
def vMk (w : Nat) : Nat := bits w 18 16
def vMen (w : Nat) : Bool := bit w 15
def vSat (w : Nat) : Bool := bit w 14
def vSh (w : Nat) : Nat := bits w 13 8
def vVs (w : Nat) : Bool := bit w 7

/-- Which fields of format V an operation uses, and which types it accepts. -/
structure VUse where
  types : Nat → Bool
  va : Bool := true
  vb : Bool := false
  mask : Bool := true
  sat : Bool := false
  sh : Bool := false
  vs : Bool := false
  wideD : Bool := false
  wideA : Bool := false
  /-- VD, VA, VB name masks. -/
  maskD : Bool := false
  maskA : Bool := false
  maskB : Bool := false

/-- The operations of R313. -/
def vUse (opc : Nat) : Option VUse :=
  match opc with
  | 0x41 => some { types := tyInt, va := false }
  | 0x42 => some { types := tyAll }
  | 0x43 => some { types := tyArith, vb := true, mask := false }
  | 0x44 => some { types := tyArith, vb := true, mask := false }
  | 0x45 => some { types := fun _ => true, mask := false, maskA := true }
  | 0x46 => some { types := fun _ => true, mask := false, maskD := true }
  | 0x47 => some { types := tyAll, vb := true }
  | 0x48 => some { types := tyAll, vb := true }
  | 0x49 => some { types := tyAll, vb := true }
  | 0x4A => some { types := tyAll }
  | 0x50 => some { types := tyArith, vb := true, sat := true, vs := true }
  | 0x51 => some { types := tyArith, vb := true, sat := true, vs := true }
  | 0x52 => some { types := tyFx, vb := true, sat := true, sh := true, vs := true }
  | 0x53 => some { types := tyCx, vb := true, sat := true, sh := true, vs := true }
  | 0x54 => some { types := tyFx, vb := true, sat := true, vs := true, wideD := true }
  | 0x55 => some { types := tyCx, vb := true, sat := true, vs := true, wideD := true }
  | 0x56 => some { types := tyFx, vb := true, sat := true, vs := true, wideD := true }
  | 0x57 => some { types := tyFx, sat := true, sh := true, wideA := true }
  | 0x58 => some { types := tyArith, sat := true, sh := true }
  | 0x59 => some { types := tyArith, sat := true, sh := true }
  | 0x5A => some { types := tyInt, vb := true, vs := true }
  | 0x5B => some { types := tyInt, vb := true, vs := true }
  | 0x5C => some { types := tyAll, vb := true, vs := true }
  | 0x5D => some { types := tyAll, vb := true, vs := true }
  | 0x5E => some { types := tyAll, vb := true, vs := true }
  | 0x5F => some { types := tyCx, sat := true }
  | 0x60 => some { types := tyInt, vb := true, vs := true, maskD := true }
  | 0x61 => some { types := tyInt, vb := true, vs := true, maskD := true }
  | 0x62 => some { types := tyInt, vb := true, vs := true, maskD := true }
  | 0x68 => some { types := tyArith, sat := true }
  | 0x69 => some { types := tyInt }
  | 0x6A => some { types := tyInt }
  | 0x70 => some { types := fun _ => true, vb := true, mask := false, maskD := true, maskA := true, maskB := true }
  | 0x71 => some { types := fun _ => true, vb := true, mask := false, maskD := true, maskA := true, maskB := true }
  | 0x72 => some { types := fun _ => true, vb := true, mask := false, maskD := true, maskA := true, maskB := true }
  | 0x73 => some { types := fun _ => true, mask := false, maskD := true, maskA := true }
  | 0x74 => some { types := fun _ => true, mask := false, maskA := true }
  | 0x75 => some { types := fun _ => true, mask := false, maskA := true }
  | _ => none

/-- A V-format operation breaks R310. -/
def vBad (u : VUse) (opc w t : Nat) : Bool :=
  bits w 6 0 != 0 || !u.types t
    || (!u.va && vA w != 0) || (!u.vb && vB w != 0)
    || (!u.mask && (vMk w != 0 || vMen w)) || (!u.sat && vSat w) || (!u.sh && vSh w != 0) || (!u.vs && vVs w)
    || (u.sh && 16 * partBytes t ≤ vSh w)
    || (u.wideD && vD w % 2 == 1) || (u.wideA && vA w % 2 == 1)
    || (u.maskD && 7 < vD w) || (u.maskA && 7 < vA w) || (u.maskB && 7 < vB w)
    || (opc == 0x49 && !vMen w)

/-! ## Operands -/

/-- Element `i` is active (R308). -/
def Eng.active (x : Eng) (men : Bool) (mk i : Nat) : Bool := i < x.vl && (!men || bit (x.rdM mk).v i)

/-- Operand B: element `i` of a V register, or element 0 of a G register broadcast (R309). -/
def Eng.opB (x : Eng) (w bytes i : Nat) : Nat × Bool :=
  if vVs w then (elemAt (x.rdG (vB w)).v bytes 0, (x.rdG (vB w)).p) else (x.rdV (vB w)).elem bytes i

/-- Exact product of two elements; complex products follow R279. -/
def prodParts (a b : List Int) (conj : Bool) : List Int :=
  match a, b with
  | [ar, ai], [br, bi] => let p := cMul ar ai br bi conj; [p.1, p.2]
  | [x], [y] => [x * y]
  | _, _ => []

/-- Elementwise result in parts before narrowing, for the operations whose element depends on elements `i` of A and B
alone. -/
def vElem (opc sh : Nat) (a b : List Int) : Option (List Int) :=
  match opc with
  | 0x4A => some a
  | 0x50 => some (a.zipWith (· + ·) b)
  | 0x51 => some (a.zipWith (· - ·) b)
  | 0x52 => some ((prodParts a b false).map (roundDrop sh))
  | 0x53 => some ((prodParts a b true).map (roundDrop sh))
  | 0x58 => some (a.map (roundDrop sh))
  | 0x59 => some (a.map fun v => v * (2 ^ sh : Nat))
  | 0x5A => some (a.zipWith min b)
  | 0x5B => some (a.zipWith max b)
  | 0x5F => (match a with | [r, i] => some [r, -i] | _ => none)
  | _ => none

/-- Bitwise operations, on the bits of the parts. -/
def vBitwise (opc : Nat) (a b : Nat) : Option Nat :=
  match opc with
  | 0x5C => some (a &&& b)
  | 0x5D => some (a ||| b)
  | 0x5E => some (a ^^^ b)
  | _ => none

/-- Visibility distance of a vector result (R311). -/
def vDist (opc : Nat) : Nat :=
  if 0x70 ≤ opc && opc ≤ 0x73 then 1
  else if [0x52, 0x53, 0x54, 0x55, 0x56, 0x57].contains opc then 3
  else if 0x68 ≤ opc && opc ≤ 0x6A then 4
  else 2

/-- Deliver a vector result, with VOV where a part did not fit (R304, R312). -/
def Eng.outV (x : Eng) (dist r : Nat) (v : VR) (ovf : Bool) : Eng :=
  let x := x.produce dist (.v r) v.v v.p
  if ovf then x.produce dist .fx 4 0 else x

/-- Deliver a wide pair. -/
def Eng.outPair (x : Eng) (r : Nat) (v0 v1 : VR) (ovf wide : Bool) : Eng :=
  let x := { x with pend := x.pend ++
    [⟨0, x.grp + 3, .v r, v0.v, v0.p, true, wide⟩, ⟨0, x.grp + 3, .v (r + 1), v1.v, v1.p, true, wide⟩] }
  if ovf then x.produce 3 .fx 4 0 else x

/-- A sign-extended 128-bit result, or the two parts of a complex one in its halves. -/
def gParts (ps : List Int) : Nat :=
  match ps with
  | [r] => toBits 128 r
  | [r, i] => toBits 64 r + toBits 64 i * 2 ^ 64
  | _ => 0

/-- Write an element-by-element result: `f i` gives the parts and the poison of active element `i`. -/
def vWrite (e : Nat) (x : Eng) (t dist rd : Nat) (sat : Bool) (act : Nat → Bool) (f : Nat → List Int × Bool) : SlotOut :=
  let n := vlenb / elemBytes t
  let rs := (List.range n).map fun i =>
    if act i then
      let r := f i
      let q := fitParts sat (partVal t) r.1
      some (joinParts (partBytes t) q.1, r.2, q.2)
    else none
  let ovf := rs.any fun r => match r with | some q => q.2.2 | none => false
  let v := (x.rdV rd).build (elemBytes t) fun i =>
    match rs.getD i none with | some q => some (q.1, q.2.1) | none => none
  { fx := fun c => c.modEng e fun y => y.outV dist rd v ovf }

/-- W of R314: wide elements in one register. -/
def wideW (t : Nat) : Nat := vlmax t / 2

/-- Wide element `i` of a pair of registers. -/
def wideElem (v0 v1 : VR) (t i : Nat) : List Int × Bool :=
  let b := 2 * elemBytes t
  let r := if i < wideW t then v0.elem b i else v1.elem b (i - wideW t)
  let w := 16 * partBytes t
  ((if vCx t then [sx w r.1, sx w (r.1 / 2 ^ w)] else [sx w r.1]), r.2)

/-- Write a wide pair. -/
def vWriteWide (e : Nat) (t rd : Nat) (sat wide : Bool) (v0 v1 : VR) (act : Nat → Bool)
    (f : Nat → List Int × Bool) : SlotOut :=
  let n := 2 * wideW t
  let rs := (List.range n).map fun i =>
    if act i then
      let r := f i
      let q := fitParts sat (16 * partBytes t) r.1
      some (joinParts (2 * partBytes t) q.1, r.2, q.2)
    else none
  let ovf := rs.any fun r => match r with | some q => q.2.2 | none => false
  let pick := fun (i : Nat) => match rs.getD i none with | some q => some (q.1, q.2.1) | none => none
  let n0 := v0.build (2 * elemBytes t) fun p => if p < wideW t then pick p else none
  let n1 := v1.build (2 * elemBytes t) fun p => if p < wideW t then pick (wideW t + p) else none
  { fx := fun c => c.modEng e fun y => y.outPair rd n0 n1 ovf wide }

/-- Write mask bits: `f i` gives bit `i` and its poison where it is written (R308, R322). -/
def mWrite (e : Nat) (x : Eng) (dist rd : Nat) (f : Nat → Option (Bool × Bool)) : SlotOut :=
  let old := x.rdM rd
  let bs := (List.range vlenb).map f
  let v := bs.zipIdx.foldr (fun b acc => b2n (match b.1 with | some q => q.1 | none => bit old.v b.2) + 2 * acc) 0
  let p := (bs.any fun b => match b with | some q => q.2 | none => false) || (old.p && bs.any (·.isNone))
  { fx := fun c => c.modEng e fun y => y.produce dist (.m rd) v (b2n p) }

/-- A reduction or another result in a G register. -/
def gWrite (e dist rd v : Nat) (p ovf : Bool) : SlotOut :=
  { fx := fun c => c.modEng e fun y =>
      let y := y.produce dist (.g rd) v (b2n p)
      if ovf then y.produce dist .fx 4 0 else y }

/-! ## Operations -/

/-- SETVL (R307). -/
def setvl (e : Nat) (x : Eng) (w : Nat) : SlotOut :=
  let t := bits w 7 0
  let a := x.rdG (vA w)
  if bits w 23 8 ≠ 0 || bits t 7 5 ≠ 0 || !vValid t then .raise (.mk' .illegal 2)
  else if a.p then .raise (.mk' .poison 2 0 9)
  else
    let vl := if vA w = 0 then vlmax t else min (a.v % 2 ^ 64) (vlmax t)
    { fx := fun c => c.modEng e fun y => { y.produce 1 (.g (vD w)) vl 0 with vtype := t, vl := vl } }

/-- The V-format operations (R313), checked under R310 and R323. -/
def slotV (e : Nat) (x : Eng) (w : Nat) : SlotOut :=
  let opc := slOpc w
  let t := x.vtype
  let B := elemBytes t
  match vUse opc with
  | none => .raise (.mk' .illegal 2)
  | some u =>
    if vBad u opc w t then .raise (.mk' .illegal 2)
    else
      let s := x.rdG (vB w)
      if (vMen w && (x.rdM (vMk w)).p) || ([0x43, 0x44, 0x47, 0x48].contains opc && s.p) then .raise (.mk' .poison 2 0 9)
      else
        let act := x.active (vMen w) (vMk w)
        let va := x.rdV (vA w)
        let dist := vDist opc
        let rd := vD w
        let sat := vSat w
        let k := s.v % 2 ^ 16
        let ga := x.rdG (vA w)
        let el := fun (i : Nat) => va.elem B i
        let bEl := fun (i : Nat) => x.opB w B i
        match opc with
        | 0x41 => vWrite e x t dist rd false act fun i => ([(i : Int)], false)
        | 0x42 => vWrite e x t dist rd false act fun _ => (partsOf t (elemAt ga.v B 0), ga.p)
        | 0x43 =>
          let q := el (k % vlmax t)
          gWrite e dist rd (gParts (partsOf t q.1)) q.2 false
        | 0x44 =>
          vWrite e x t dist rd false (fun i => i == k % vlmax t) fun _ => (partsOf t (elemAt ga.v B 0), ga.p)
        | 0x45 =>
          let m := x.rdM (vA w)
          { fx := fun c => c.modEng e fun y => y.outV dist rd ⟨m.v, if m.p then 3 else 0⟩ false }
        | 0x46 =>
          { fx := fun c => c.modEng e fun y => y.produce dist (.m rd) (va.v % 2 ^ 256) (b2n (va.p % 4 != 0)) }
        | 0x47 =>
          vWrite e x t dist rd false act fun i =>
            if i + k < vlmax t then
              let q := el (i + k)
              (partsOf t q.1, q.2)
            else (partsOf t 0, false)
        | 0x48 =>
          vWrite e x t dist rd false (fun i => act i && k ≤ i) fun i =>
            let q := el (i - k)
            (partsOf t q.1, q.2)
        | 0x49 =>
          vWrite e x t dist rd false (fun i => i < x.vl) fun i =>
            let q := if bit (x.rdM (vMk w)).v i then el i else (x.rdV (vB w)).elem B i
            (partsOf t q.1, q.2)
        | 0x54 | 0x55 | 0x56 =>
          let macc := opc != 0x56
          let v0 := if macc then x.chainV rd else x.rdV rd
          let v1 := if macc then x.chainV (rd + 1) else x.rdV (rd + 1)
          vWriteWide e t rd sat macc v0 v1 act fun i =>
            let a := el i
            let b := bEl i
            let p := prodParts (partsOf t a.1) (partsOf t b.1) (opc == 0x55)
            if macc then
              let o := wideElem v0 v1 t i
              (o.1.zipWith (· + ·) p, a.2 || b.2 || o.2)
            else (p, a.2 || b.2)
        | 0x57 =>
          let v1 := x.rdV (vA w + 1)
          vWrite e x t dist rd sat act fun i =>
            let q := wideElem va v1 t i
            (q.1.map (roundDrop (vSh w)), q.2)
        | 0x5C | 0x5D | 0x5E =>
          vWrite e x t dist rd false act fun i =>
            let a := el i
            let b := bEl i
            (partsOf t ((vBitwise opc a.1 b.1).getD 0), a.2 || b.2)
        | 0x60 | 0x61 | 0x62 =>
          mWrite e x dist rd fun i =>
            if act i && i < vlenb / B then
              let a := el i
              let b := bEl i
              let l := (partsOf t a.1).headD 0
              let r := (partsOf t b.1).headD 0
              some ((if opc = 0x60 then l == r else if opc = 0x61 then decide (l < r) else decide (l ≤ r)), a.2 || b.2)
            else none
        | 0x68 =>
          let is := (List.range (vlenb / B)).filter act
          let sums := is.foldl (fun acc i => acc.zipWith (· + ·) (partsOf t (el i).1)) (partsOf t 0)
          let q := fitParts sat 64 sums
          gWrite e dist rd (gParts q.1) (is.any fun i => (el i).2) q.2
        | 0x69 | 0x6A =>
          let is := (List.range (vlenb / B)).filter act
          let z : Int := if opc = 0x69 then -(2 ^ 63 : Nat) else (2 ^ 63 : Nat) - 1
          let r := is.foldl (fun acc i =>
            let v := (partsOf t (el i).1).headD 0
            if opc = 0x69 then max acc v else min acc v) z
          gWrite e dist rd (toBits 128 r) (is.any fun i => (el i).2) false
        | 0x70 | 0x71 | 0x72 | 0x73 =>
          let a := x.rdM (vA w)
          let b := x.rdM (vB w)
          mWrite e x dist rd fun i =>
            if i < x.vl then
              let l := bit a.v i
              let r := bit b.v i
              some ((if opc = 0x70 then l && r else if opc = 0x71 then l || r else if opc = 0x72 then l != r else !l),
                a.p || (opc != 0x73 && b.p))
            else none
        | 0x74 =>
          let a := x.rdM (vA w)
          gWrite e dist rd ((List.range x.vl).filter (bit a.v)).length a.p false
        | 0x75 =>
          let a := x.rdM (vA w)
          gWrite e dist rd (match (List.range x.vl).find? (bit a.v) with | some i => i | none => 2 ^ 128 - 1) a.p false
        | _ =>
          vWrite e x t dist rd sat act fun i =>
            let a := el i
            let b := if u.vb then bEl i else (0, false)
            ((vElem opc (vSh w) (partsOf t a.1) (partsOf t b.1)).getD [], a.2 || b.2)

end Sys2Proof.Machine
end

