-- ==== Sys2Proof/Machine/EngineMem.lean ====
section
/-! DEFINITION. Slot X memory operations: scalar loads and stores, cached accesses and line operations
(spec/10_engine_programming.md R284–R289), vector memory operations (spec/11_engine_vectors.md R315–R321). A memory
access is made when its group issues; data that does not come from the engine's own cluster arrives by
LOAD_DATA_ARRIVE, and a control-space access is made when it arrives (log entry 26). -/
namespace Sys2Proof.Machine

/-! ## Addresses (R284) -/

/-- An effective address: EA, the base update if any, and whether the mode 3 checks of R284 fail. -/
structure Ea where
  ea : Nat
  upd : Option Nat := none
  circ : Bool := false

/-- EA and base update for MODE 0 to 3; `off` is the offset in bytes. -/
def Eng.eaOf (x : Eng) (mode cs ra size : Nat) (off : Int) : Ea :=
  let a : Int := ((x.rdG ra).v % 2 ^ 64 : Nat)
  match mode with
  | 0 => { ea := toBits 48 (a + off) }
  | 1 => { ea := toBits 48 a, upd := some (toBits 64 (a + off)) }
  | 2 => { ea := toBits 48 (a + off), upd := some (toBits 48 (a + off)) }
  | _ =>
    let cb : Int := (Tbl.get x.cb cs 0 : Nat)
    let cl := Tbl.get x.cln cs 0
    let rel := a - cb
    if cl = 0 || cl % size ≠ 0 || cb % (size : Nat) ≠ 0 || rel < 0 || (cl : Int) ≤ rel then
      { ea := toBits 48 a, circ := true }
    else { ea := toBits 48 a, upd := some (toBits 64 (cb + (rel + off) % (cl : Int))) }

/-- Apply the base update, visible at k + 1. -/
def Eng.baseUpd (x : Eng) (ra : Nat) (u : Option Nat) : Eng :=
  match u with
  | some v => x.produce 1 (.g ra) v 0
  | none => x

/-! ## Scalar accesses -/

/-- A scalar memory operation: size, whether it is a load, whether it sign-extends. -/
structure XOp where
  size : Nat
  load : Bool
  signed : Bool := false

/-- Loads and stores of R285; cached forms are 0x10 above. -/
def xOp (opc : Nat) : Option XOp :=
  match opc % 16 with
  | 1 => some ⟨16, true, false⟩
  | 2 => some ⟨8, true, true⟩
  | 3 => some ⟨4, true, true⟩
  | 4 => some ⟨4, true, false⟩
  | 5 => some ⟨2, true, true⟩
  | 6 => some ⟨2, true, false⟩
  | 7 => some ⟨1, true, true⟩
  | 8 => some ⟨1, true, false⟩
  | 9 => some ⟨16, false, false⟩
  | 10 => some ⟨8, false, false⟩
  | 11 => some ⟨4, false, false⟩
  | 12 => some ⟨2, false, false⟩
  | 13 => some ⟨1, false, false⟩
  | _ => none

/-- A loaded value extended to 128 bits. -/
def extend (size : Nat) (signed : Bool) (v : Nat) : Nat :=
  if signed then toBits 128 (sx (8 * size) v) else v % 2 ^ (8 * size)

/-- The engine's own cluster holds the address. -/
def isLocal (e addr : Nat) : Bool := match regionOf addr with | .cluster n _ => n == e / 16 | _ => false

/-- A read that meets a write of the other port in the same cycle: `busy` is the word written; the engine is on port B
(R382). -/
def Chip.clashB (c : Chip) (e addr : Nat) (busy : Option Nat) : Bool :=
  match regionOf addr with
  | .cluster n off =>
    n == e / 16 && busy == some (wordAddr addr) && bankOf off < 2
      && (let p := c.bankPorts (.engine e) n (bankOf off); p.2 && !p.1)
  | _ => false

/-- Read the word at an address for an engine; a clash returns undefined data, not poisoned, with status OK. -/
def Chip.engRead (c : Chip) (e addr : Nat) (busy : Option Nat) : Chip × WordRead × Bool :=
  if c.clashB e addr busy && c.accessStatus (.engine e) addr = .ok then
    let (k, c) := c.fresh
    (c, ⟨(Config.loadData k).toNat, false, .ok⟩, true)
  else
    let (c, r) := c.readWord (.engine e) addr
    (c, r, false)

/-- Queue an access whose completion comes later, with the result it fills in. -/
def Eng.queueAcc (x : Eng) (a : EngAcc) (dist : Option (Nat × Dst × Nat × Nat)) : Eng :=
  let id := x.nextAcc + 1
  let x := { x with nextAcc := id, acc := x.acc ++ [{ a with id := id }] }
  match dist with
  | some (d, dst, v, p) => { x with pend := x.pend ++ [⟨id, x.grp + d, dst, v, p, false, false⟩] }
  | none => x

/-- An access with nothing filled in. -/
def EngAcc.mk' (load control cached : Bool) (addr size : Nat) (signed : Bool) : EngAcc :=
  ⟨0, load, control, cached, addr, size, 0, false, signed, .ok, 0, false⟩

/-- An uncached scalar load that has passed its checks. -/
def Chip.engLoad (c : Chip) (e rd addr : Nat) (op : XOp) (busy : Option Nat) : Chip :=
  if regionOf addr = .control then
    c.modEng e fun x => x.queueAcc (.mk' true true false addr op.size op.signed) (some (4, .g rd, 0, 0))
  else
    let (c, r, b) := c.engRead e addr busy
    let v := extend op.size op.signed (r.data / 2 ^ (8 * (addr % 16)))
    if isLocal e addr then
      c.modEng e fun x => (x.produce 4 (.g rd) v (b2n r.poison)).ldNote true r.status 0 b
    else
      c.modEng e fun x => x.queueAcc { EngAcc.mk' true false false addr op.size op.signed with status := r.status }
        (some (4, .g rd, v, b2n r.poison))

/-- An uncached scalar store that has passed its checks. -/
def Chip.engStore (c : Chip) (e addr size : Nat) (v : PV) (busy : Option Nat) : Chip :=
  if regionOf addr = .control then
    c.modEng e fun x => x.queueAcc { EngAcc.mk' false true false addr size false with data := v.v % 2 ^ (8 * size) } none
  else
    let (c, s) := c.writeWord (.engine e) addr v.v v.p
    if isLocal e addr then
      let b := c.clashB e addr busy
      c.modEng e fun x =>
        let x := x.ldNote false s 0 false
        if b then { x with ldstat := setBit x.ldstat 9 true } else x
    else c.modEng e fun x => x.queueAcc { EngAcc.mk' false false false addr size false with status := s } none

/-! ## Cached accesses (R288) -/

/-- Ask for a line. -/
def Chip.ccWant (c : Chip) (e line : Nat) : Chip :=
  let n := e / 16
  let k := c.cluster n
  if (k.find line).isSome || k.fills.any (·.1 == line) then c
  else c.setCluster n { k with fills := k.fills ++ [(line, e)] }

/-- A cached load or store that finds its line: the value, or the merged line, which no other cache then holds. -/
def Chip.ccHit (c : Chip) (e : Nat) (l : CcLine) (a : EngAcc) : Chip × PV :=
  if a.load then (c, ⟨extend a.size a.signed (l.get a.addr a.size), l.poisonAt a.addr⟩)
  else
    let c := c.ccSnoop (e / 16) l.line true
    (c.setCluster (e / 16) ((c.cluster (e / 16)).put (l.merge a.addr a.size a.data a.poison)), {})

/-- A cached scalar load or store that has passed its checks. -/
def Chip.engCached (c : Chip) (e rd : Nat) (a : EngAcc) : Chip :=
  let line := ccLine a.addr
  let waiting := (c.eng e).acc.any fun b => b.cached && ccLine b.addr == line
  match (c.cluster (e / 16)).find line, waiting with
  | some l, false =>
    let (c, v) := c.ccHit e l a
    c.modEng e fun x =>
      let x := if a.load then x.produce 4 (.g rd) v.v (b2n v.p) else x
      x.ldNote a.load (if v.p then .poisoned else .ok) 0 false
  | _, _ =>
    (c.ccWant e line).modEng e fun x => x.queueAcc a (if a.load then some (4, .g rd, 0, 0) else none)

/-- CFLUSH, CCLEAN, CINV and PREF (R285). -/
def Chip.ccLineOp (c : Chip) (e opc line : Nat) : Chip :=
  let n := e / 16
  let k := c.cluster n
  match k.find line with
  | none => if opc = 0x23 then c.ccWant e line else c
  | some l =>
    match opc with
    | 0x20 => (c.when l.dirty (·.ccWriteBack n e l)).when true fun c => c.setCluster n ((c.cluster n).drop line)
    | 0x21 =>
      if l.dirty then
        let c := c.ccWriteBack n e l
        c.setCluster n ((c.cluster n).put { l with dirty := false })
      else c
    | 0x22 => c.setCluster n (k.drop line)
    | _ => c

/-- The address lies in the shared pool or HBM. -/
def cacheable (addr : Nat) : Bool := match regionOf addr with | .pool _ | .hbm _ => true | _ => false

/-! ## Slot X, scalar (R284–R286) -/

/-- Scalar memory and line operations. -/
def slotXScalar (c : Chip) (e w : Nat) (ext busy : Option Nat) : SlotOut :=
  let x := c.eng e
  let opc := slOpc w
  let mode := slMode w
  let cs := slCs w
  let ra := slRa w
  let rd := slRd w
  let lineOp := 0x20 ≤ opc && opc ≤ 0x23
  let op := if lineOp then some ⟨16, false, false⟩ else if opc < 0x20 then xOp opc else none
  let ill : SlotOut := .raise (.mk' .illegal 2)
  match op with
  | none => ill
  | some op =>
    let modify := mode == 1 || mode == 2 || mode == 3
    if 4 < mode || (mode ≠ 3 && cs ≠ 0) || (mode = 4 && (bits w 17 5 ≠ 0 || ext.isSome))
        || ((op.load || modify) && rd == ra) || (opc = 0x23 && rd ≠ 0) then ill
    else
      let off : Int := match ext with
        | some y => sx 50 (slImm18 w + y * 2 ^ 18)
        | none => sx 18 (slImm18 w) * (op.size : Int)
      let idx := x.rdG (slImm18 w % 32)
      let m : Ea := if mode = 4 then
          { ea := ((x.rdG ra).v % 2 ^ 64 + idx.v % 2 ^ 48) % 2 ^ 48 }
        else x.eaOf mode cs ra op.size off
      let addr := if lineOp then m.ea / 128 * 128 else m.ea
      let d := x.rdG rd
      let cached := 0x11 ≤ opc && opc < 0x20
      let ctl := regionOf addr = .control
      let exc : Option Exc :=
        if (x.rdG ra).p || (mode = 4 && idx.p) then some (.mk' .poison 2 addr 1)
        else if !op.load && !lineOp && ctl && !cached && d.p then
          some (.mk' .poison 2 addr (poisonKind (addr % 2 ^ 48)))
        else if !lineOp && addr % op.size ≠ 0 then some (.mk' .align 2 addr)
        else if m.circ then some (.mk' .circ 2 addr)
        else if (cached || lineOp) && !cacheable addr then some (.mk' .access 2 addr)
        else if !cached && !lineOp && ctl && op.size ≠ 4 && op.size ≠ 8 then some (.mk' .access 2 addr)
        else if !cached && !op.load && !lineOp && !ctl && regionOf addr ≠ .reserved && op.size ≠ 16 then
          some (.mk' .narrow 2 addr)
        else none
      match exc with
      | some y => if opc = 0x23 then {} else .raise y
      | none =>
        { fx := fun c =>
            let c := c.modEng e fun y => y.baseUpd ra m.upd
            if lineOp then c.ccLineOp e opc (ccLine addr)
            else if cached then
              c.engCached e rd { EngAcc.mk' op.load false true addr op.size op.signed with
                data := d.v % 2 ^ (8 * op.size), poison := d.p }
            else if op.load then c.engLoad e rd addr op busy
            else c.engStore e addr op.size d busy }

/-! ## Vector memory operations (R315–R321) -/

/-- Fields of format VM. -/
def vmMk (w : Nat) : Nat := bits w 17 15
def vmMen (w : Nat) : Bool := bit w 14
def vmIx (w : Nat) : Nat := bits w 13 9
def vmImm (w : Nat) : Nat := bits w 8 0

/-- A vector memory element: its index and its address. -/
structure VElt where
  i : Nat
  addr : Nat
  /-- Its gather or scatter index lies in a poisoned granule. -/
  bad : Bool := false

/-- The condition of R316 that stops an element. -/
def VElt.sub (x : VElt) (bytes : Nat) : Option Nat :=
  if x.bad then some 5
  else if x.addr % bytes ≠ 0 then some 2
  else if regionOf x.addr = .control || regionOf x.addr = .reserved then some 4
  else none

/-- A word a vector store writes: bytes gathered so far, their mask, their poison. -/
structure VWord where
  addr : Nat
  data : Nat
  mask : Nat
  poison : Bool

/-- Put the bytes of an element into the words it touches (R320): an element is aligned, so it lies in one word. -/
def putElem (l : List VWord) (addr bytes v : Nat) (p : Bool) : List VWord :=
  let sh := addr % 16
  let m := (2 ^ bytes - 1) * 2 ^ sh
  match l with
  | [] => [⟨addr / 16 * 16, v * 2 ^ (8 * sh), m, p⟩]
  | x :: r =>
    if x.addr = addr / 16 * 16 then
      { x with
        data := x.data - bits x.data (8 * sh + 8 * bytes - 1) (8 * sh) * 2 ^ (8 * sh) + v * 2 ^ (8 * sh)
        mask := x.mask ||| m
        poison := x.poison || p } :: r
    else x :: putElem r addr bytes v p

/-- Read the words of the elements in order; a word read for the element before serves the next as well. -/
def Chip.vRead (c : Chip) (e bytes : Nat) (busy : Option Nat) (last : Option (Nat × WordRead × Bool))
    (els : List VElt) : Chip × List (Nat × Nat × WordRead × Bool) :=
  match els with
  | [] => (c, [])
  | x :: r =>
    let wa := wordAddr x.addr
    let hit := match last with | some (a, q) => if a = wa then some q else none | none => none
    let (c, q) := match hit with
      | some q => (c, q)
      | none => c.engRead e x.addr busy
    let (c, l) := c.vRead e bytes busy (some (wa, q)) r
    (c, (x.i, q.1.data / 2 ^ (8 * (x.addr % 16)) % 2 ^ (8 * bytes), q.1, q.2) :: l)

/-- A vector load: elements read, VD built, status to LDSTAT when the last element has arrived (R321); e24 parts are written
sign-extended (R9). -/
def Chip.vLoad (c : Chip) (e vd t : Nat) (old : VR) (els : List VElt) (busy : Option Nat) : Chip :=
  let bytes := elemBytes t
  let (c, rs) := c.vRead e bytes busy none els
  let v := old.build bytes fun i => (rs.find? (·.1 == i)).map fun r => (ext24 t r.2.1, r.2.2.1.poison)
  let st := Status.worstOf (rs.map (·.2.2.1.status))
  let seen := rs.foldl (fun m r => m ||| r.2.2.1.status.mask) 0
  let busy := rs.any (·.2.2.2)
  if els.all fun x => isLocal e x.addr then
    c.modEng e fun x =>
      let x := x.produce 6 (.v vd) v.v v.p
      if els = [] then x else x.ldNote true st seen busy
  else
    c.modEng e fun x => x.queueAcc
      { EngAcc.mk' true false false (els.headD ⟨0, 0, false⟩).addr bytes false with status := st, seen := seen, busy := busy }
      (some (6, .v vd, v.v, v.p))

/-- Write the words of a vector store in order (R319). -/
def Chip.vStore (c : Chip) (e : Nat) (ws : List VWord) : Chip :=
  let (c, sts) := ws.foldl (fun (acc : Chip × List (Bool × Status)) w =>
    let (c, s) := acc.1.writeWord (.engine e) w.addr w.data w.poison
    (c, acc.2 ++ [(isLocal e w.addr, s)])) (c, [])
  let near := (sts.filter (·.1)).map (·.2)
  let far := (sts.filter (!·.1)).map (·.2)
  let c := c.when (near != []) fun c =>
    c.modEng e fun x => x.ldNote false (Status.worstOf near) (near.foldl (fun m s => m ||| s.mask) 0) false
  c.when (far != []) fun c =>
    c.modEng e fun x => x.queueAcc { EngAcc.mk' false false false 0 16 false with
      status := Status.worstOf far, seen := far.foldl (fun m s => m ||| s.mask) 0 } none

/-- A vector memory operation (R310, R315–R321, R323). -/
def slotVM (c : Chip) (e w : Nat) (ext busy : Option Nat) : SlotOut :=
  let x := c.eng e
  let opc := slOpc w
  let t := x.vtype
  let B := elemBytes t
  let mode := slMode w
  let cs := slCs w
  let ra := slRa w
  let ix := vmIx w
  let unit := opc ≤ 0x81
  let strided := opc = 0x82 || opc = 0x83
  let gather := opc = 0x84 || opc = 0x85
  let store := opc % 2 = 1
  let ill : SlotOut := .raise (.mk' .illegal 2)
  if !tyAll t || 4 < mode || (mode ≠ 3 && cs ≠ 0) || (!unit && mode ≠ 0)
      || (mode = 4 && (vmImm w ≠ 0 || ext.isSome)) || (unit && mode ≠ 4 && ix ≠ 0)
      || (gather && !vGx t && vlenb / 4 < x.vl) then ill
  else
    let base := x.rdG ra
    let g := x.rdG ix
    let iv := x.rdV ix
    let off : Int := match ext with
      | some y => sx 41 (vmImm w + y * 2 ^ 9)
      | none => if unit then sx 9 (vmImm w) * ((x.vl * B : Nat) : Int) else sx 9 (vmImm w)
    let m : Ea := if mode = 4 then { ea := (base.v % 2 ^ 64 + g.v % 2 ^ 48) % 2 ^ 48 } else x.eaOf mode cs ra B off
    let act := x.active (vmMen w) (vmMk w)
    let cb := Tbl.get x.cb cs 0
    let cl := Tbl.get x.cln cs 0
    let els : List VElt := ((List.range (min x.vl (vlenb / B))).filter act).map fun i =>
      if strided then { i := i, addr := toBits 48 ((m.ea : Int) + i * sx 64 g.v) }
      else if gather then
        { i := i, addr := (m.ea + elemAt iv.v 4 i) % 2 ^ 48, bad := bit iv.p (granuleOf 4 i) }
      else if mode = 3 then { i := i, addr := toBits 48 ((cb : Int) + (((base.v % 2 ^ 64 : Nat) : Int) - cb + (i * B : Nat)) % (cl : Int)) }
      else { i := i, addr := (m.ea + i * B) % 2 ^ 48 }
    let src := x.rdV (vD w)
    let words := if store then els.foldl (fun l y =>
        let q := src.elem B y.i
        putElem l y.addr B (ext24 t q.1) q.2) [] else []
    let short := words.find? fun q => q.mask % 2 ^ 16 ≠ 2 ^ 16 - 1 && regionOf q.addr ≠ .control
      && regionOf q.addr ≠ .reserved
    let bad := els.findSome? fun y => (y.sub B).map fun s => (y, s)
    if base.p || ((mode = 4 || strided) && g.p) then .raise (.mk' .poison 2 m.ea 1)
    else if vmMen w && (x.rdM (vmMk w)).p then .raise (.mk' .poison 2 0 9)
    else if m.circ then .raise (.mk' .circ 2 m.ea)
    else if store && !unit && vSew t ≠ 5 then .raise (.mk' .narrow 2)
    else
      match (if store && unit then short else none), bad with
      | some q, _ => .raise (.mk' .narrow 2 q.addr)
      | none, some (y, s) =>
        .raise ⟨.element, if s = 5 then .poisoned else .accessDenied, 2, y.addr, y.i, s, 1⟩
      | none, none =>
        { fx := fun c =>
            let c := c.modEng e fun y => y.baseUpd ra m.upd
            if store then
              let ws := if unit then words else els.map fun y =>
                let q := src.elem B y.i
                ⟨y.addr, ext24 t q.1, 2 ^ 16 - 1, q.2⟩
              c.vStore e ws
            else c.vLoad e (vD w) t src els busy }

/-- Slot X. -/
def slotX (c : Chip) (e w : Nat) (ext busy : Option Nat) : SlotOut :=
  let opc := slOpc w
  if opc = 0 then {}
  else if opc < 0x40 then slotXScalar c e w ext busy
  else if 0x80 ≤ opc && opc ≤ 0x85 then slotVM c e w ext busy
  else if ext.isSome then .raise (.mk' .illegal 2)
  else if opc = 0x40 then setvl e (c.eng e) w
  else slotV e (c.eng e) w

end Sys2Proof.Machine
end

