-- ==== Sys2Proof/Machine/EngineIssue.lean ====
section
/-! DEFINITION. The commands of the signal engines and control caches (spec/10_engine_programming.md R265–R303): the
issue of a group, interrupts, hold-off, the control cache's fills and write-backs, and engine debug. The arrival of load
data and store acknowledgements is in Machine/AccessCmds.lean, since they reach control space. -/
namespace Sys2Proof.Machine

/-! ## A group -/

/-- G registers a group's slots write, slot by slot (R272). -/
def sWrites (w : Nat) : List Nat :=
  let o := slOpc w
  if o = 0x22 then [31]
  else if (sIsR o && !([0x23, 0x26, 0x32, 0x34, 0x35, 0x36].contains o)) || (sIsI o && o != 0x31) then [slRd w] else []

def mWrites (w : Nat) : List Nat := if [0x20, 0x21, 0x22].contains (slOpc w) then [mRa w] else []

def xWrites (w : Nat) : List Nat :=
  let o := slOpc w
  let modify := slMode w == 1 || slMode w == 2 || slMode w == 3
  if o = 0 then []
  else if o < 0x40 then
    (match xOp o with | some p => if o < 0x20 && p.load then [slRd w] else [] | none => [])
      ++ (if modify then [slRa w] else [])
  else if 0x80 ≤ o && o ≤ 0x85 then (if modify then [slRa w] else [])
  else if [0x40, 0x43, 0x68, 0x69, 0x6A, 0x74, 0x75].contains o then [vD w] else []

/-- Two slots write the same G register; writes to G0 are discarded and do not count (log entry 25). -/
def dupWrite (s m x : List Nat) : Bool :=
  (s.any fun r => r != 0 && (m.contains r || x.contains r)) || (m.any fun r => r != 0 && x.contains r)

/-- A fetched group: its bits, or none for an uncorrectable error or a group outside the image's code (R266, R299). -/
def Chip.fetchGroup (c : Chip) (n pc : Nat) : Chip × Option Nat :=
  if (c.cluster n).codeLen ≤ pc then (c, none)
  else
    let k := 16384 * n + pc
    let g := Tbl.get c.clu.istore k 0
    let u := Tbl.get c.clu.istUpset k 0
    if u = 0 then (c, some g)
    else
      let d := secdedDecode (secdedEncode g false ^^^ u)
      let c := c.countError (32 + n) pc d.found
      (c, if d.poison then none else some d.data)

/-- The slots of a group, each executed on the state before the group; the exception the group raises (R270–R272,
R294). -/
def Chip.slots (c : Chip) (e g : Nat) (busy : Option Nat) : List SlotOut × Option Exc :=
  let hdr := grpHdr g
  let s := grpS g
  let m := grpM g
  let x := grpX g
  let ill : Option Exc := some (.mk' .illegal 3)
  if hdr = 3 then ([], ill)
  else
    let ext := bits m 31 0
    let badExt := hdr ≠ 0 && bits m 41 32 ≠ 0
    let os := slotS c e s (if hdr = 1 then some ext else none)
    let om : SlotOut := if hdr = 0 then slotM c e m else {}
    let ox := slotX c e x (if hdr = 2 then some ext else none) busy
    let dup := dupWrite (sWrites s) (if hdr = 0 then mWrites m else []) (xWrites x)
    ([ox, om, os], excOf [os.exc, om.exc, ox.exc, if badExt || dup then ill else none])

/-- What the next group of an engine would do. -/
def Chip.plan (c : Chip) (e : Nat) (busy : Option Nat) : Chip × List SlotOut × Option Exc :=
  match c.fetchGroup (eC e) (c.eng e).pc with
  | (c, none) => (c, [], some (.mk' .fetch 3))
  | (c, some g) =>
    let r := c.slots e g busy
    (c, r.1, r.2)

/-! ## Issue -/

/-- STATE of an engine that runs: HANDLER while IN_HANDLER is 1. -/
def Chip.showRun (c : Chip) (e : Nat) : Chip := c.setEngState e (if (c.eng e).inHandler then esHandler else esRun)

/-- An engine executes: started, not halted or out, its domain ON, in the modes of R267. -/
def Chip.engRuns (c : Chip) (e : Nat) : Bool :=
  let s := c.engState e
  1 ≤ s && s ≤ 4 && c.modeIn modesRun && c.domRuns (eC e)

/-- The watchdog has armed: the hold-off has reached HOLDOFF (R303). -/
def Eng.overdue (x : Eng) (tick : Nat) : Bool :=
  x.hoArmed || (x.heldOff && (match x.hoSince with
    | some t => cntSub tick t ≥ usTicks (max 1 x.holdoff)
    | none => false))

/-- Halt for TEST (CLU_ENG_CTRL). -/
def Chip.engHalt (c : Chip) (e : Nat) : Chip :=
  ((c.modEng e fun x => { x with haltReq := false, haltWhy := .test }).setEngState e esHalted).clrFields
    [F.CLU_ENG_CTRL_HALT, F.CLU_ENG_CTRL_STEP] (eC e) (eJ e)

/-- A boundary between two groups: a requested halt that is not before a delay group, or the end of a single step. -/
def Chip.engBoundary (c : Chip) (e : Nat) : Chip :=
  if c.flag F.CLU_ENG_CTRL_STEP (eC e) (eJ e) || ((c.eng e).haltReq && (c.eng e).brLeft = 0) then c.engHalt e else c

/-- The group that follows (R273, R290–R292): ERET, a skipped loop body, a branch with its delay groups, or the loop
levels decide. The flag says that an iteration boundary was passed. -/
def Eng.advance (x : Eng) : Eng × Bool :=
  let r : Eng × Bool :=
    if x.brLeft = 4 then ({ x with brLeft := 0 }.eret, false)
    else if x.brLeft = 5 then ({ x with brLeft := 0, pc := x.brTgt }, false)
    else if x.brLeft = 1 then ({ x with brLeft := 0, pc := x.brTgt, popDue := true }, false)
    else if 1 < x.brLeft then ({ x with brLeft := x.brLeft - 1, pc := pcPlus x.pc 1 }, false)
    else x.endLoops x.pc 4
  ({ r.1 with grp := r.1.grp + 1 }.settle, r.2)

/-- Take an interrupt (R302); one taken at a TASKW or WAITI that waits makes it wait again. -/
def Chip.takeIrq (c : Chip) (e : Nat) : Chip :=
  let st := c.engState e
  c.takeExc e (.mk' .interrupt 3) (c.eng e).pc (st == esTaskw || st == esWaiti)

/-- Issue the next group of an engine (R270–R275, R294, R302, R303). -/
def Chip.issue (c : Chip) (e : Nat) (busy : Option Nat) : Chip :=
  let x0 := c.eng e
  if x0.stalled then (if x0.irqTakeable then c.takeIrq e else c)
  else
    let c := c.when x0.popDue fun c => c.modEng e fun x => { x.popFor x.pc with popDue := false }
    let (c, outs, exc) := c.plan e busy
    match exc with
    | some y => (c.takeExc e y x0.pc true).engBoundary e
    | none =>
      if x0.irqTakeable then c.takeIrq e
      else
        match outs.find? (·.wait) with
        | some o => if o.waitState = esRun then c.showRun e else c.setEngState e o.waitState
        | none =>
          let late := x0.overdue c.tick
          let c := outs.foldl (fun c o => o.fx c) c
          let (x, boundary) := (c.eng e).advance
          let c := (c.setEng e (x.holdTrack c.tick)).showRun e
          let c := if boundary && late then c.takeExc e (.mk' .holdoff 3) x.pc false else c
          c.engBoundary e

/-- ISSUE_GROUP: `busy` is the dual-port word that the other port writes in this cycle. -/
def execIssueGroup (e : Fin 256) (busy : Option Nat) (s : State) : Host.Outcome State Fault Refusal :=
  s.run fun c => if c.engRuns e then c.issue e busy else c

/-- INTERRUPT_TAKEN: a fault of the group about to issue goes first, and the interrupt stays pending (R302). -/
def execInterruptTaken (e : Fin 256) (s : State) : Host.Outcome State Fault Refusal :=
  s.run fun c =>
    if c.engRuns e && (c.eng e).irqTakeable && ((c.eng e).stalled || (c.plan e none).2.2.isNone) then c.takeIrq e else c

/-- HOLDOFF_OVERRUN: the watchdog arms; the next iteration boundary raises the exception (R303). -/
def execHoldoffOverrun (e : Fin 256) (s : State) : Host.Outcome State Fault Refusal :=
  s.run fun c =>
    let x := c.eng e
    if c.engRuns e && x.overdue c.tick then c.setEng e { x with hoArmed := true } else c

/-- TCMP_TIMER (R296). -/
def execTcmpTimer (e : Fin 256) (s : State) : Host.Outcome State Fault Refusal :=
  s.run fun c =>
    let x := c.eng e
    if bit x.tcmp 32 && !tickLater (x.tcmp % 2 ^ 32) c.tick then
      (c.setEng e { x with tcmp := x.tcmp % 2 ^ 32 }).engIrq e 4
    else c

/-! ## The control cache -/

/-- Data of access `id` has arrived. -/
def Eng.arrive (x : Eng) (id v p : Nat) : Eng :=
  let f := fun (q : Pend) => if q.id = id then { q with val := v, poi := p, arrived := true } else q
  { x with pend := x.pend.map f, withheld := x.withheld.map (List.map f), acc := x.acc.filter (·.id != id) }.settle

/-- Complete the cached accesses of engine `e` that wait for a line (R288, R289). -/
def Chip.ccServe (c : Chip) (e line : Nat) (st : Status) : Chip :=
  let waiting := (c.eng e).acc.filter fun a => a.cached && ccLine a.addr == line
  waiting.foldl (fun c a =>
    match (c.cluster (e / 16)).find line with
    | none => c
    | some l =>
      let (c, v) := c.ccHit e l a
      let own : Status := if st != .ok then st else if v.p then .poisoned else .ok
      c.modEng e fun x => (x.ldNote a.load own 0 false).arrive a.id v.v (b2n v.p)) c

/-- A line fill returns (R289): every other copy is written back first, the line is installed, and the accesses that
wait for it are made. A fill that fails is recorded in LDSTAT. -/
def Chip.ccFill (c : Chip) (n : Nat) : Chip :=
  let k := c.cluster n
  match k.fills with
  | [] => c
  | (line, e) :: r =>
    let c := c.setCluster n { k with fills := r }
    let c := c.ccSnoop n line false
    let c := match k.wbs.find? fun w => w.1.line == line with
      | some w => (c.writeLine w.1).1
      | none => c
    let (c, l, st) := c.readLine line
    let c := (c.ccInstall n e l).incMod F.CLU_CC_STAT_MISSES n
    let served := (List.range 16).filter fun j =>
      (c.eng (16 * n + j)).acc.any fun a => a.cached && ccLine a.addr == line
    let c := c.when (st != .ok && served == []) fun c => c.modEng e fun x => x.ldNote false st 0 false
    served.foldl (fun c j => c.ccServe (16 * n + j) line st) c

/-- CC_FILL_COMPLETE: the oldest fill of a cluster's cache. -/
def execCcFillComplete (n : Fin 16) (s : State) : Host.Outcome State Fault Refusal := s.run fun c => c.ccFill n

/-- Write back every dirty line of a cluster's cache. -/
def Chip.ccCleanAll (c : Chip) (n : Nat) : Chip :=
  let dirty := (c.cluster n).lines.filter (·.dirty)
  let c := dirty.foldl (fun c l => c.ccWriteBack n 0x7FF l) c
  let k := c.cluster n
  let c := c.setCluster n { k with lines := k.lines.map fun l => { l with dirty := false } }
  if (c.cluster n).wbs = [] then c.wr F.CLU_CC_CTRL_CLEAN_ALL 0 n else c

/-- A write-back completes (R289): a failure is counted, and recorded in LDSTAT of the engine that caused it. -/
def Chip.ccWbDone (c : Chip) (n : Nat) : Chip :=
  match (c.cluster n).wbs with
  | [] => c
  | (l, e) :: r =>
    let c := c.setCluster n { c.cluster n with wbs := r }
    let (c, st) := c.writeLine l
    let c := c.when (st != .ok) fun c =>
      (c.incSat F.CLU_CC_STAT_WB_FAIL n).when (e < 256) fun c => c.modEng e fun x => x.ldNote false st 0 false
    if r = [] && c.flag F.CLU_CC_CTRL_CLEAN_ALL n then c.w1sEnd F.CLU_CC_CTRL_CLEAN_ALL n 0 (·.ccCleanAll n) else c

/-- CC_WRITEBACK_COMPLETE: the oldest write-back of a cluster's cache. -/
def execCcWritebackComplete (n : Fin 16) (s : State) : Host.Outcome State Fault Refusal := s.run fun c => c.ccWbDone n

/-- CC_CLEAN_ALL. -/
def execCcCleanAll (by_ : Port) (n : Fin 16) (s : State) : Host.Outcome State Fault Refusal :=
  s.run fun c => c.action by_ modesRun fun c => c.w1sStart F.CLU_CC_CTRL_CLEAN_ALL n 0 (·.ccCleanAll n)

/-- CLU_CC_CNT_CLR. -/
def execCluCcCntClr (by_ : Port) (n : Fin 16) (s : State) : Host.Outcome State Fault Refusal :=
  s.run fun c => c.action by_ modesRun (·.clrFields [F.CLU_CC_STAT_MISSES, F.CLU_CC_STAT_WB_FAIL] n)

/-! ## Engine debug and the mailbox -/

/-- An engine-debug write: in TEST, with PERMS bit 0 (R489). -/
def Chip.debugAction (c : Chip) (p : Port) (f : Chip → Chip) : Chip :=
  c.guarded p 0x80 fun c => if bit (c.rd F.TRUST_STATUS_TOKEN_PERMS) 0 then (f c).report p .ok else c.report p .accessDenied

/-- ENG_HALT. -/
def execEngHalt (by_ : Port) (e : Fin 256) (s : State) : Host.Outcome State Fault Refusal :=
  s.run fun c => c.debugAction by_ fun c =>
    let c := (c.modEng e fun x => { x with haltReq := true }).wr F.CLU_ENG_CTRL_HALT 1 (eC e) (eJ e)
    let st := c.engState e
    if 1 ≤ st && st ≤ 4 then c.engBoundary e else c

/-- ENG_STEP: one group, then halted again. A group that has to wait leaves the engine running and the bit set until it
has issued. -/
def execEngStep (by_ : Port) (e : Fin 256) (s : State) : Host.Outcome State Fault Refusal :=
  s.run fun c => c.debugAction by_ fun c =>
    if c.engState e = esHalted && (c.eng e).haltWhy = .test then
      let c := ((c.modEng e fun x => { x with haltWhy := .none }).showRun e).wr F.CLU_ENG_CTRL_STEP 1 (eC e) (eJ e)
      if c.engRuns e then c.issue e none else c
    else c

/-- ENG_RESUME: no effect after a double fault. -/
def execEngResume (by_ : Port) (e : Fin 256) (s : State) : Host.Outcome State Fault Refusal :=
  s.run fun c => c.debugAction by_ fun c =>
    if c.engState e = esHalted && (c.eng e).haltWhy = .test then
      (c.modEng e fun x => { x with haltWhy := .none, haltReq := false }).showRun e
    else c

/-- ENG_MBOX_WRITE (R297). -/
def execEngMboxWrite (by_ : Port) (e : Fin 256) (value : Nat) (s : State) : Host.Outcome State Fault Refusal :=
  s.run fun c => c.action by_ modesRun fun c =>
    (c.modEng e fun x => { x with mbox := value % 2 ^ 32 }).engIrq e 8

end Sys2Proof.Machine
end

