-- ==== Sys2Proof/Machine/FabCmds.lean ====
section
/-! DEFINITION. The commands of the on-chip network (spec/13_fabric.md): route changes, isolation and re-admission of
ports, link replays. PACKET_ARRIVE is in Machine/AccessCmds.lean, since a packet may reach control space. -/
namespace Sys2Proof.Machine

/-! ## Routes -/

/-- Entry of router `r` for destination `t` in the shadow table (R364). -/
def Chip.shadowRoute (c : Chip) (r t : Nat) : Nat :=
  bits (c.rd F.FAB_RT_SHADOW_ENTRY r (t / 16)) (4 * (t % 16) + 3) (4 * (t % 16))

/-- The router an output leads to, none off the mesh (R357). -/
def routerStep (r out : Nat) : Option Nat :=
  match out with
  | 0 => if 8 ≤ r then some (r - 8) else none
  | 1 => if r % 8 < 7 then some (r + 1) else none
  | 2 => if r < 72 then some (r + 8) else none
  | 3 => if 0 < r % 8 then some (r - 1) else none
  | _ => none

/-- Walk a route (R365): within 24 hops, no invalid entry, no EJECT away from the destination, no W move after a move
that is not W. -/
def walkOk (route : Nat → Nat → Nat) (fuel r t : Nat) (turned : Bool) : Bool :=
  let o := route r t
  if o = 4 then r == t
  else
    match fuel with
    | 0 => false
    | n + 1 =>
      if o = 3 && turned then false
      else
        match routerStep r o with
        | none => false
        | some r' => walkOk route n r' t (turned || o != 3)

/-- Every walk of the shadow tables is accepted (R365). -/
def Chip.shadowOk (c : Chip) : Bool :=
  (List.range 80).all fun r => (List.range 80).all fun t => walkOk c.shadowRoute 24 r t false

/-- Copy the shadow tables into the current ones (R365, step 3). -/
def Chip.copyRoutes (c : Chip) : Chip :=
  (List.range 80).foldl (fun c r => (List.range 5).foldl (fun c q =>
    c.wr F.FAB_RT_CUR_ENTRY (c.rd F.FAB_RT_SHADOW_ENTRY r q) r q) c) c

/-- A write of FAB_ROUTE_GEN (R365, R366). -/
def Chip.routeChange (c : Chip) (p : Port) (gen : Nat) : Chip :=
  c.guarded p modesAll fun c =>
    if c.flag F.FAB_ROUTE_GEN_BUSY then c.report p .accessDenied
    else if gen % 256 ≠ (c.rd F.FAB_ROUTE_GEN_GEN + 1) % 256 then c.report p .badDescriptor
    else if c.shadowOk then
      ((c.withFab { c.fab with change := some (gen % 256) }).wr F.FAB_ROUTE_GEN_BUSY 1).report p .ok
    else (c.wr F.FAB_ROUTE_GEN_LAST_STATUS Status.badDescriptor.code).report p .ok

/-- ROUTE_CHANGE. -/
def execRouteChange (p : Port) (gen : Nat) (s : State) : Host.Outcome State Fault Refusal :=
  s.run fun c => c.routeChange p gen

/-- The change completes: no packet of the old generation remains (R365, step 3). -/
def Chip.routeDrained (c : Chip) : Chip :=
  match c.fab.change with
  | none => c
  | some g =>
    let c := (c.copyRoutes.wr F.FAB_ROUTE_GEN_GEN g).wr F.FAB_ROUTE_GEN_BUSY 0
    (c.wr F.FAB_ROUTE_GEN_LAST_STATUS 0).withFab { c.fab with change := none }

/-- ROUTE_DRAIN_COMPLETE. -/
def execRouteDrainComplete (s : State) : Host.Outcome State Fault Refusal := s.run Chip.routeDrained

/-- The change is abandoned 2 µs after the switch; the refused tables stay in the shadow (R365, R366). -/
def Chip.routeTimeout (c : Chip) : Chip :=
  match c.fab.change with
  | none => c
  | some g =>
    let c := ((c.wr F.FAB_ROUTE_GEN_BUSY 0).incSat F.FAB_RECFG_TIMEOUT_COUNT).wr F.FAB_RECFG_TIMEOUT_LAST_GEN g
    (c.wr F.FAB_RECFG_TIMEOUT_SET 1).withFab { c.fab with change := none }

/-- ROUTE_CHANGE_TIMEOUT. -/
def execRouteChangeTimeout (s : State) : Host.Outcome State Fault Refusal := s.run Chip.routeTimeout

/-! ## Replays -/

/-- A flit fails its CRC on output `d` of router `r` (R362); `first` starts a new count of consecutive replays. -/
def Chip.flitFail (c : Chip) (r d : Nat) (first : Bool) : Chip :=
  let n := (if first then 0 else Tbl.get c.fab.replays (4 * r + d) 0) + 1
  let c := c.withFab { c.fab with replays := Tbl.set c.fab.replays (4 * r + d) n 0 }
  let c := c.incMod F.FAB_ERR_CNT_REPLAY
  c.when (n == 64) fun c =>
    (c.wr F.FAB_ERR_CNT_STUCK 1).post .targetIsolated srcFab evIsolated (4 * r + d + 2 * 2 ^ 16) 0

/-- FLIT_CRC_FAIL. -/
def execFlitCrcFail (r : Fin 80) (d : Fin 4) (first : Bool) (s : State) : Host.Outcome State Fault Refusal :=
  s.run fun c => c.flitFail r d first

/-! ## Isolation -/

/-- Units reached through a port (R369): a cluster's engines, the PLR task ports, a Press, a coding engine. -/
def Chip.portUnits (c : Chip) (p : Nat) : List Nat :=
  (List.range 320).filter fun u => isUnit u && c.portUnit u == p

/-- Isolate a port (R369): answer its requests, close it, post the event, take its units out of service. -/
def Chip.portIsolate (c : Chip) (p : Nat) : Chip :=
  let open_ := Tbl.get c.fab.open_ p []
  let reqs := open_ ++ Tbl.get c.fab.ante p []
  if open_.isEmpty || c.flag F.FAB_PORT_STAT_ISOLATED p then c
  else
    let units := c.portUnits p
    let unit := match units with | [u] => u | _ => 0x7FF
    let c := c.withFab { c.fab with
      open_ := Tbl.erase c.fab.open_ p
      ante := Tbl.erase c.fab.ante p }
    let c := reqs.foldl (fun c k => c.absorb k .targetIsolated) c
    let c := (c.wr F.FAB_PORT_STAT_ISOLATED 1 p).incSat F.FAB_ERR_CNT_ISOLATIONS
    let c := c.incSat F.FAB_PORT_STAT_ABSORBED p 0 reqs.length
    let c := c.post .targetIsolated srcFab evIsolated
      (p + 1 * 2 ^ 16 + unit * 2 ^ 32 + min reqs.length 0xFFFF * 2 ^ 48) (((open_.head?.map (·.addr)).getD 0) % 2 ^ 48)
    units.foldl (fun c u => if c.unitState u = uOut then c else c.unitDepart u 3 .targetIsolated) c

/-- PORT_ISOLATE. -/
def execPortIsolate (p : Fin 320) (s : State) : Host.Outcome State Fault Refusal := s.run fun c => c.portIsolate p

/-- FAB_READMIT.GO (R370): a unit's port is refused, any other is probed. -/
def Chip.fabReadmit (c : Chip) (p : Port) (port : Nat) : Chip :=
  c.action p 0xD8 fun c =>
    let c := c.wr F.FAB_READMIT_PORT port
    if !(c.portUnits (port % 512)).isEmpty then c.wr F.FAB_READMIT_LAST_STATUS Status.badDescriptor.code
    else c.w1sStart F.FAB_READMIT_GO 0 0 id

/-- FAB_READMIT. -/
def execFabReadmit (p : Port) (port : Nat) (s : State) : Host.Outcome State Fault Refusal :=
  s.run fun c => c.fabReadmit p port

/-- The probe read of R370 is answered within 10 µs, or is not. -/
def Chip.fabProbe (c : Chip) (ok : Bool) : Chip :=
  if !c.flag F.FAB_READMIT_GO then c
  else
    let c := if ok then (c.wr F.FAB_PORT_STAT_ISOLATED 0 (c.rd F.FAB_READMIT_PORT)).wr F.FAB_READMIT_LAST_STATUS 0
      else c.wr F.FAB_READMIT_LAST_STATUS Status.targetIsolated.code
    c.w1sEnd F.FAB_READMIT_GO 0 0 id

/-- FAB_PROBE_RESULT. -/
def execFabProbeResult (ok : Bool) (s : State) : Host.Outcome State Fault Refusal := s.run fun c => c.fabProbe ok

end Sys2Proof.Machine
end

