-- ==== Sys2Proof/Machine/MemCmds.lean ====
section
/-! DEFINITION. The commands of the memories (spec/14_memories.md): bank handovers and retention. The ends of a
retention transition and of an HBM fill are in Machine/AccessCmds.lean, since they let waiting accesses go on. -/
namespace Sys2Proof.Machine

/-! ## Handovers -/

/-- Owner of a bank port once every handover accepted before has taken effect (R378). -/
def Chip.ownerAfter (c : Chip) (n b : Nat) (portB : Bool) : Nat :=
  match c.mems.handovers.reverse.find? fun h => h.cluster == n && h.bank == b && h.portB == portB with
  | some h => h.owner
  | none => if portB then c.rd F.MEM_BANK_OWN_OWN_B n b else c.rd F.MEM_BANK_OWN_OWN_A n b

/-- An owner code that cluster `n` admits (R375). -/
def ownerCode (n k : Nat) : Bool :=
  k / 16 == n && k < 256 || (0x100 ≤ k && k < 0x108) || (0x110 ≤ k && k < 0x11C) || k == 0x7FE || k == 0x7FF

/-- The checks of R377 on a handover request, by the precedence of R36. -/
def Chip.handoverStatus (c : Chip) (n b : Nat) (portB : Bool) (expect owner : Nat) : Status :=
  if isUnit owner && (c.unitState owner == uOut || c.unitState owner == uTesting) then .accessDenied
  else if !ownerCode n owner || (portB && 2 ≤ b)
      || (b < 2 && owner ≠ 0x7FF && c.ownerAfter n b (!portB) == owner) then .badDescriptor
  else if expect ≠ 0x7FD && expect ≠ c.ownerAfter n b portB then .notOwner
  else .ok

/-- A write to MEM_BANK_OWN (R377): refused with its status, or accepted to take effect at the bank. -/
def Chip.bankHandover (c : Chip) (p : Port) (n b v : Nat) : Chip :=
  c.guarded p modesAll fun c =>
    let portB := bit v 40
    let owner := if portB then bits v 26 16 else bits v 10 0
    match c.handoverStatus n b portB (bits v 58 48) owner with
    | .ok => c.withMems { c.mems with handovers := c.mems.handovers ++ [⟨n, b, portB, owner, p⟩] }
    | st => ((c.wr F.MEM_BANK_OWN_LAST_STATUS st.code n b).incSat F.MEM_CNT_HANDOVER_FAIL).report p st

/-- BANK_HANDOVER. -/
def execBankHandover (p : Port) (n : Fin 16) (b : Fin 32) (v : Nat) (s : State) : Host.Outcome State Fault Refusal :=
  s.run fun c => c.bankHandover p n b v

/-- The oldest accepted handover takes effect and its write is answered (R377, R378). -/
def Chip.handoverApply (c : Chip) : Chip :=
  match c.mems.handovers with
  | [] => c
  | h :: r =>
    let c := c.withMems { c.mems with handovers := r }
    let c := if h.portB then c.wr F.MEM_BANK_OWN_OWN_B h.owner h.cluster h.bank
      else c.wr F.MEM_BANK_OWN_OWN_A h.owner h.cluster h.bank
    ((c.wr F.MEM_BANK_OWN_LAST_STATUS 0 h.cluster h.bank).incSat F.MEM_CNT_HANDOVERS).report h.by_ .ok

/-- HANDOVER_APPLY. -/
def execHandoverApply (s : State) : Host.Outcome State Fault Refusal := s.run Chip.handoverApply

/-! ## Retention -/

/-- Banks of a cluster, or the pool groups, by retention index. -/
def retIndices (cluster : Option Nat) : List Nat :=
  match cluster with
  | some n => (List.range 32).map (32 * n + ·)
  | none => (List.range 64).map (512 + ·)

/-- A write to MEM_CLU_RET or MEM_POOL_RET (R387). -/
def Chip.retWrite (c : Chip) (p : Port) (cluster : Option Nat) (v : Nat) : Chip :=
  c.guarded p modesAll fun c =>
    let c := match cluster with
      | some n => c.wr F.MEM_CLU_RET_REQ (v % 2 ^ 32) n
      | none => c.wr F.MEM_POOL_RET_REQ (v % 2 ^ 64)
    ((retIndices cluster).foldl Chip.retLeave c).report p .ok

/-- RET_REQUEST_WRITE: `target` below 16 names a cluster, 16 the pool. -/
def execRetRequestWrite (p : Port) (target : Fin 17) (v : Nat) (s : State) : Host.Outcome State Fault Refusal :=
  s.run fun c => c.retWrite p (if target.val < 16 then some target else none) v

/-- A bank whose request bit is 1 has been idle for a cycle and starts entry (R387). -/
def Chip.retEnter (c : Chip) (k : Nat) : Chip :=
  if c.retPhase k == .on && c.retReq k then c.setRetPhase k .entering else c

/-- BANK_RETAIN_ENTER. -/
def execBankRetainEnter (k : Fin 576) (s : State) : Host.Outcome State Fault Refusal := s.run fun c => c.retEnter k

/-- Entry or exit of a bank completes (R387): a bit changed meanwhile is applied. -/
def Chip.retDone (c : Chip) (k : Nat) : Chip :=
  match c.retPhase k with
  | .entering => (c.setRetPhase k .retained).retLeave k
  | .leaving => c.setRetPhase k .on
  | _ => c

/-- MEM_CNT_CLR: MEM_CTRL.CNT_CLR clears MEM_STAT and MEM_CNT. -/
def execMemCntClr (p : Port) (s : State) : Host.Outcome State Fault Refusal :=
  s.run fun c => c.action p modesAll fun c =>
    c.clrFields [F.MEM_STAT_NOT_OWNER, F.MEM_STAT_BUSY, F.MEM_STAT_NARROW, F.MEM_STAT_REPLAY, F.MEM_CNT_RET_WAKES,
      F.MEM_CNT_HANDOVERS, F.MEM_CNT_HANDOVER_FAIL]

end Sys2Proof.Machine
end

