-- ==== Sys2Proof/Machine/PlrCmds.lean ====
section
/-! DEFINITION. The commands of the programmable logic region (spec/16_programmable_logic.md R412–R426), but for the
fabric master's requests and the firing of a wake input, which reach other blocks. -/
namespace Sys2Proof.Machine

/-- PLR_LOAD_START (R415): the oldest verified image for the region reaches the loader; `img` is what the loader finds in
it. -/
def execPlrLoadStart (r : Fin 8) (img : PlrImage) (s : State) : Host.Outcome State Fault Refusal :=
  s.run fun c =>
    match c.plr.inbound.find? fun e => e.1 == r.val with
    | none => c
    | some e =>
      (c.withPlr { c.plr with inbound := c.plr.inbound.erase e }).rgRequest r (.load img e.2.1 e.2.2)

/-- PLR_DRAIN_TIMEOUT (R415): a port that is not OUT leaves with cause 4. -/
def execPlrDrainTimeout (r : Fin 8) (s : State) : Host.Outcome State Fault Refusal :=
  s.run fun c =>
    if c.rgState r = rgDraining then
      ((rgPorts r).foldl (fun c u => if c.unitState u = uDraining then c.unitDepart u 4 .ok else c) c).rgAdvance r
    else c

/-- PLR_FRAMES_DONE (R416): `found` is a frame check that failed, with its frame. -/
def execPlrFramesDone (r : Fin 8) (found : Option (Nat × Nat)) (s : State) : Host.Outcome State Fault Refusal :=
  s.run fun c =>
    match c.rgState r == rgLoading, (c.region r).op with
    | true, some (.load img _ _) =>
      match c.loadError r img found with
      | some (err, frame) => c.rgFail r err frame
      | none => ((c.claimPins r img).loadBlks r img).setRgState r rgChecking
    | _, _ => c

/-- PLR_CHECK_DONE (R415, steps 4 and 5). -/
def execPlrCheckDone (r : Fin 8) (pass : Bool) (s : State) : Host.Outcome State Fault Refusal :=
  s.run fun c =>
    match c.rgState r == rgChecking, (c.region r).op with
    | true, some (.load img src meas) => if pass then c.rgRelease r img src meas else c.rgFail r 7 img.frames
    | _, _ => c

/-- PLR_UNLOAD (R417). -/
def execPlrUnload (by_ : Port) (r : Fin 8) (s : State) : Host.Outcome State Fault Refusal :=
  s.run fun c => c.action by_ modesAll fun c =>
    (c.wr F.PLR_REGION_CTRL_UNLOAD 1 r).rgRequest r .unload

/-- PLR_TASK_ACCEPT (R418): the logic takes the oldest task offered, into the lowest free place, which T_SLOT names. -/
def execPlrTaskAccept (p : Fin 32) (s : State) : Host.Outcome State Fault Refusal :=
  s.run fun c =>
    let ps := c.portPlaces p
    let free := (List.range 4).find? fun k => !ps.any fun e => e.1 == k
    match c.rgRuns (portRegion p), (c.heldTasks (0x120 + p)).find? (!·.ran), free with
    | true, some t, some k =>
      let c := c.putTask { t with ran := true }
      let c := c.withPlr { c.plr with
        places := (c.plr.places.filter fun e => !(e.1 == p.val && e.2.1 == k)) ++ [(p.val, k, t.id)] }
      (c.portOut p "T_SLOT" k).portDl p
    | _, _, _ => c

/-- PLR_TASK_DONE (R418): a completion once the fabric writes before it are acknowledged. -/
def execPlrTaskDone (p : Fin 32) (slot : Fin 4) (status : Fin 256) (s : State) : Host.Outcome State Fault Refusal :=
  s.run fun c =>
    if !c.rgRuns (portRegion p) then c
    else
      match (c.portPlaces p).find? fun e => e.1 == slot.val with
      | none => c.incSat F.PLR_STAT_BAD_DONE
      | some (_, t) =>
        if 15 < status.val then (c.incSat F.PLR_STAT_BAD_STATUS).taskDone t .badDescriptor
        else c.taskDone t (.ofCode status)

/-- PLR_POISON_PULSE (R418): the event carries the kind on the CONS_KIND lines. -/
def execPlrPoisonPulse (r : Fin 8) (kind : Fin 16) (s : State) : Host.Outcome State Fault Refusal :=
  s.run fun c => if c.rgRuns r then c.postPoison 0x7FF srcPlr kind 0 else c

/-- PLR_STORM_CHECK (R424): the end of an always-on millisecond. -/
def execPlrStormCheck (s : State) : Host.Outcome State Fault Refusal :=
  s.run fun c =>
    let hot := c.plr.edges.filter fun e => 1024 < e.2
    let c := c.withPlr { c.plr with edges := [] }
    hot.foldl (fun c e =>
      let p := e.1
      let kind := b2n (c.flag F.PLR_PIN_CFG_IRQ_EN p) + 2 * b2n (c.flag F.PLR_PIN_CFG_WAKE p)
      let c := c.wr F.PLR_STORM_MASKED (setBit (c.rd F.PLR_STORM_MASKED (p / 64)) (p % 64) true) (p / 64)
      c.post .storm srcPlr evStorm (p + kind * 2 ^ 8 + min e.2 0xFFFF * 2 ^ 16) 0) c

/-- A source is unmasked (R424): its count restarts, and a level source still active fires once, which wakes the device in
SOAK where it is a wake source. -/
def Chip.pinUnmask (c : Chip) (p : Nat) : Chip :=
  let c := (c.withPlr { c.plr with edges := Tbl.erase c.plr.edges p }).pinRearm p
  if c.flag F.PLR_PIN_CFG_LEVEL p && c.pinActive p (c.pinLevel p) then
    (c.pinFire p).when (c.flag F.PLR_PIN_CFG_WAKE p) fun c => c.wakeBy 5 0
  else c

/-- PLR_STORM_UNMASK (R424): the masked sources whose bits are written 1 are unmasked. -/
def execPlrStormUnmask (by_ : Port) (q : Fin 3) (value : Nat) (s : State) : Host.Outcome State Fault Refusal :=
  s.run fun c => c.action by_ modesAll fun c =>
    let hit := c.rd F.PLR_STORM_MASKED q &&& value % 2 ^ (if q.val = 2 then 16 else 64)
    let c := c.wr F.PLR_STORM_MASKED (c.rd F.PLR_STORM_MASKED q - hit) q
    (bitsSet hit 64).foldl (fun c (k : Nat) => c.pinUnmask (64 * q.val + k)) c

/-- BANK_SUPPLY_CHANGE (R420): the measured supply of a bank, in mV. -/
def execBankSupplyChange (b : Fin 6) (mv : Nat) (s : State) : Host.Outcome State Fault Refusal :=
  s.run fun c => c.bankMeas b mv

/-- PLR_CNT_CLR (R418). -/
def execPlrCntClr (by_ : Port) (s : State) : Host.Outcome State Fault Refusal :=
  s.run fun c => c.action by_ modesAll (·.clrFields [F.PLR_STAT_BAD_DONE, F.PLR_STAT_BAD_STATUS])

end Sys2Proof.Machine
end

