-- ==== Sys2Proof/Machine/SensCmds.lean ====
section
/-! DEFINITION. Commands of the clocks, the sensors, the voltage target and the management and JTAG ports
(spec/20_clocks_pins.md, spec/21_service_life.md). PLL_RELOCK and the register accesses by I²C and JTAG are in
Machine/AccessCmds.lean. -/
namespace Sys2Proof.Machine

/-! ## PLLs and references (R495, R496) -/

/-- PLL_LOL: PLL `p` loses lock; the domains it feeds stop, the tick with PLL 0. -/
def execPllLol (p : Fin 12) (s : State) : Host.Outcome State Fault Refusal :=
  s.run fun c =>
    if bit (c.rd F.CLK_PLL_STAT_LOCK) p then
      ((c.wr F.CLK_PLL_STAT_LOCK (setBit (c.rd F.CLK_PLL_STAT_LOCK) p false)).wr F.CLK_PLL_STAT_LOL_SEEN
        (setBit (c.rd F.CLK_PLL_STAT_LOL_SEEN) p true))
    else c

/-- REFCLK_LOSS: REFCLK_A (`b` false) or REFCLK_B has been missing for 1 µs. PLL 0 goes over to the other reference where
that is present, and holds its frequency where it is not. -/
def execRefclkLoss (b : Bool) (s : State) : Host.Outcome State Fault Refusal :=
  s.run fun c =>
    if b then
      (c.wr F.CLK_REF_CFG_REF_B_OK 0).when (c.flag F.CLK_REF_CFG_REF_A_OK) fun c => c.wr F.CLK_REF_CFG_USING_B 0
    else (c.wr F.CLK_REF_CFG_REF_A_OK 0).when (c.flag F.CLK_REF_CFG_REF_B_OK) fun c => c.wr F.CLK_REF_CFG_USING_B 1

/-- REFCLK_RETURN: a reference is present again at its frequency; PLL 0 takes it where the other is missing. -/
def execRefclkReturn (b : Bool) (s : State) : Host.Outcome State Fault Refusal :=
  s.run fun c =>
    if b then
      if c.rd F.CLK_REF_CFG_B_FREQ = 3 then c
      else (c.wr F.CLK_REF_CFG_REF_B_OK 1).when (!c.flag F.CLK_REF_CFG_REF_A_OK) fun c => c.wr F.CLK_REF_CFG_USING_B 1
    else (c.wr F.CLK_REF_CFG_REF_A_OK 1).when (!c.flag F.CLK_REF_CFG_REF_B_OK) fun c => c.wr F.CLK_REF_CFG_USING_B 0

/-! ## Sensors (R511–R515) -/

/-- The THERMAL event (R514). -/
def Chip.postThermal (c : Chip) (st : Status) (kind n : Nat) : Chip :=
  c.post st srcSens evThermal (kind + n * 2 ^ 8 + toBits 16 (c.sensorTemp n) * 2 ^ 16) 0

/-- Temperatures in eighths at which the refresh rate rises (R391). -/
def refreshRate (cur : Nat) (t : Int) : Nat :=
  let up := if 760 < t then 2 else if 680 < t then 1 else 0
  let hold := if cur = 2 && 736 < t then 2 else if 1 ≤ cur && 656 < t then 1 else 0
  max up hold

/-- One sensor's conversion: a reading in eighths of a degree, or a failure; three in a row mark the sensor FAILED. A
stack whose supply is off gives none. -/
def Chip.convert (c : Chip) (n : Nat) (t : Option Int) : Chip :=
  if 64 ≤ n && c.domState (47 + (n - 64)) = dOff then c
  else
    match t with
    | some t =>
      let c := c.withSens { c.sens with
        fails := Tbl.erase c.sens.fails n
        seen := if c.sens.seen.contains n then c.sens.seen else c.sens.seen ++ [n] }
      if n < 64 then c.wr F.SENS_TEMP_TEMP (toBits 16 t) n
      else
        let c := c.withSens { c.sens with hbm := Tbl.set c.sens.hbm (n - 64) (toBits 16 t) 0 }
        if c.sens.failed.contains n then c
        else c.wr F.MEM_HBM_STAT_REFRESH (refreshRate (c.rd F.MEM_HBM_STAT_REFRESH (n - 64)) t) (n - 64)
    | none =>
      let k := Tbl.get c.sens.fails n 0 + 1
      let c := c.withSens { c.sens with fails := Tbl.set c.sens.fails n (min k 3) 0 }
      if 3 ≤ k && !c.sens.failed.contains n then
        ((c.withSens { c.sens with failed := c.sens.failed ++ [n] }).postThermal .ok 4 n)
      else c

/-- One voltage monitor's conversion in mV; monitors 10–15 watch the PLR banks (R420). -/
def Chip.voltRead (c : Chip) (n mv : Nat) : Chip :=
  let c := c.wr F.SENS_VOLT_VOLT mv n
  let c := c.wr F.SENS_VOLT_MIN (min (mv % 2 ^ 16) (c.rd F.SENS_VOLT_MIN n)) n
  c.when (decide (10 ≤ n)) fun c => c.bankMeas (n - 10) mv

/-- The hottest sensor that counts, the lowest-numbered of those that read the same. -/
def Chip.hottest (c : Chip) : Option Nat :=
  (List.range 66).foldl (fun best n =>
    if !c.sensorUsed n then best
    else
      match best with
      | none => some n
      | some b => if c.sensorTemp b < c.sensorTemp n then some n else best) none

/-- The thermal trip (R50): THERMTRIP_N asserted, the device reset into BYPASS. A device already held in BYPASS stays
held; while RESET_N is low the release waits for its rise (R53). -/
def Chip.thermTrip (c : Chip) : Chip :=
  if c.dev.thermtrip then c
  else
    let low := c.dev.held == .release
    let c := (c.resetDown .thermal F.DEV_RESET_CAUSE_THERMTRIP (if low then .release else .thermal)).emit
      (.pin "THERMTRIP_N" 0)
    c.withDev { c.dev with thermtrip := true }

/-- The ramps that take the clocks of R512 and R521 down or back up: the clusters', unless stage S2 holds them, and the
Press clock. -/
def Chip.slowRamps (c : Chip) (rising : Bool) : Chip :=
  (c.when (decide (c.stage < 2)) fun c => c.clockRamps rising).queueRamp ⟨none, rising⟩

/-- The throttle (R512) at a round whose highest reading is sensor `n`'s. -/
def Chip.throttleRule (c : Chip) (n : Nat) : Chip :=
  let t := c.sensorTemp n
  if !c.flag F.SENS_STAT_THROTTLE then
    if 880 ≤ t then
      let c := c.when (!c.slowHeld) fun c => c.slowRamps false
      ((c.wr F.SENS_STAT_THROTTLE 1).withSens { c.sens with lowRun := 0 }).postThermal .ok 1 n
    else c
  else
    let k := if t < 856 then c.sens.lowRun + 1 else 0
    if 100 ≤ k then
      let c := (c.wr F.SENS_STAT_THROTTLE 0).withSens { c.sens with lowRun := 0 }
      (c.when (!c.slowHeld) fun c => c.slowRamps true).postThermal .ok 2 n
    else c.withSens { c.sens with lowRun := k }

/-- SHED_TEMP_ON and SHED_TEMP_OFF as they act, in eighths of a degree. -/
def Chip.shedTemps (c : Chip) : Int × Int :=
  let on := min 120 (c.rd F.DEV_MODE_CFG_SHED_TEMP_ON)
  let off := c.rd F.DEV_MODE_CFG_SHED_TEMP_OFF
  let off : Int := if on ≤ off then (on : Int) - 5 else off
  (8 * (on : Int), 8 * off)

/-- Thermal SHED (R63, R64, R511) at a round whose highest reading is sensor `n`'s. -/
def Chip.thermShed (c : Chip) (n : Nat) : Chip :=
  let t := c.sensorTemp n
  if !bit c.dev.shedCauses 2 then
    let k := if c.shedTemps.1 ≤ t then c.sens.hotRun + 1 else 0
    if 10 ≤ k then
      ((c.withSens { c.sens with hotRun := 0, coolRun := 0 }).postThermal .shed 3 n).shedCause 2
    else c.withSens { c.sens with hotRun := k }
  else
    let k := if t < c.shedTemps.2 then c.sens.coolRun + 1 else 0
    if 1000 ≤ k then (c.withSens { c.sens with coolRun := 0 }).shedClear 2
    else c.withSens { c.sens with coolRun := k }

/-- One round of conversions, of every sensor and every monitor. -/
def Chip.convertAll (c : Chip) (temps : List (Option Int)) (volts : List (Option Nat)) : Chip :=
  let c := (List.range 66).foldl (fun c n => c.convert n (temps.getD n none)) c
  (List.range 16).foldl (fun c n => match volts.getD n none with | some mv => c.voltRead n mv | none => c) c

/-- SENSOR_ROUND: every sensor and voltage monitor is converted (eighths of a degree, mV; none: the conversion failed, or
the monitor gives nothing), then the rules act. While the device is held in BYPASS only the trip acts. -/
def execSensorRound (temps : List (Option Int)) (volts : List (Option Nat)) (s : State) :
    Host.Outcome State Fault Refusal :=
  s.run fun c =>
    if !c.sens.armed then c
    else
      let c := c.convertAll temps volts
      match c.hottest with
      | none => c
      | some n =>
        let c := (c.wr F.SENS_STAT_MAX_TEMP (toBits 16 (c.sensorTemp n))).wr F.SENS_STAT_HOT n
        if 1000 ≤ c.sensorTemp n then c.thermTrip
        else if c.dev.held != .none then c
        else (c.throttleRule n).thermShed n

/-! ## The voltage target (R503, R519–R521) -/

/-- The targets written on AVSBus on the way from one to another: steps of at most 5 mV. -/
def avsSteps (from_ to_ n : Nat) : List Nat :=
  match n with
  | 0 => []
  | n + 1 =>
    if from_ = to_ then []
    else
      let x := if from_ < to_ then min to_ (from_ + 5) else max to_ (from_ - 5)
      x :: avsSteps x to_ n

/-- AVS_TIMEOUT: the regulator has not answered for 10 ms; the target stays where it was last acknowledged, which is
0.75 V until a first answer. -/
def execAvsTimeout (s : State) : Host.Outcome State Fault Refusal :=
  s.run fun c =>
    if c.dev.held != .none then c else c.withSens { c.sens with avsBad := true }

/-- A list in rising order. -/
def sortInt (l : List Int) : List Int :=
  l.foldl (fun acc x => acc.takeWhile (fun y => decide (y ≤ x)) ++ x :: acc.dropWhile (fun y => decide (y ≤ x))) []

/-- SLOW of 32 counts in 0.01 %: the median of 1 − count/reference, 0 where negative (R519). -/
def slowOf (refs counts : List Nat) : Nat :=
  let xs := sortInt ((List.range 32).map fun k =>
    let r := max 1 (refs.getD k 1)
    roundDrop 1 (2 * ((10000 : Int) * ((r : Int) - (counts.getD k 0 : Int))) / (r : Int)))
  min 65535 (halfUp (xs.getD 15 0 + xs.getD 16 0)).toNat

/-- Modes in which SLOW is computed. -/
abbrev modesAge : Nat := 2 ^ mService + 2 ^ mShed + 2 ^ mSoak

/-- AGEING_COMPUTE (R519–R521): the oscillators' counts of the last window; `acked` says that the regulator has
acknowledged the target written. -/
def execAgeingCompute (counts : List Nat) (acked : Bool) (s : State) : Host.Outcome State Fault Refusal :=
  s.run fun c =>
    if !c.modeIn modesAge then c
    else
      let c := (List.range 32).foldl (fun c k => c.wr F.SENS_AGE_COUNT (counts.getD k 0) k) c
      let (n, c) := c.fresh
      let refs := (List.range 32).map fun k => (Config.ageRef n k).toNat
      let slow := if c.flag F.CAL_STAT_STORE_BAD then 0 else slowOf refs counts
      let c := c.wr F.SENS_AVS_SLOW slow
      let goal := c.avsGoal
      let high := decide (82300 ≤ goal)
      let c := c.when (high && !c.flag F.SENS_AVS_REDUCED) fun c =>
        (c.when (!c.slowHeld) fun c => c.slowRamps false).wr F.SENS_AVS_REDUCED 1
      let c := c.setFlag F.SENS_AVS_AT_LIMIT (decide (82000 < goal))
      let mv := min 820 (roundDiv goal 100).toNat
      let old := c.rd F.SENS_AVS_TARGET
      let c := (avsSteps old mv 1000).foldl (fun c v => c.emit (.avs v)) c
      if acked then
        (c.wr F.SENS_AVS_TARGET mv).withSens { c.sens with avsBad := false }
      else c

/-! ## I²C (R506) -/

/-- The port answers: supplied, and not in BYPASS. -/
def Chip.i2cAlive (c : Chip) : Bool := c.mode != mBypass

/-- I2C_WARM_RESET; without its key nothing happens. -/
def execI2cWarmReset (key : Fin 65536) (s : State) : Host.Outcome State Fault Refusal :=
  s.run fun c =>
    if c.i2cAlive && key.val == 0x5752 then c.warmReset F.DEV_RESET_CAUSE_WARM_MGMT else c

/-- I2C_WAKE: the management wake. -/
def execI2cWake (s : State) : Host.Outcome State Fault Refusal :=
  s.run fun c => if c.i2cAlive then c.wakeBy 6 0 else c

/-- I2C_STATUS: DEV_MODE and the status of the last access. -/
def execI2cStatus (s : State) : Host.Outcome State Fault Refusal :=
  s.run fun c =>
    if c.i2cAlive then c.emit (.i2c c.port.i2cLast.code (c.regVal G.DEV_MODE.fields 0 0) 0) else c

/-! ## JTAG (R507–R509) -/

/-- The instruction drives pins. -/
def Tap.drives (t : Tap) : Bool :=
  t == .extest || t == .clamp || t == .highz || t == .pulse || t == .train

/-- The condition of an instruction holds (R489, R507). -/
def Chip.tapAllows (c : Chip) (t : Tap) : Bool :=
  if t.drives then !c.dev.resetN || (c.mode == mTest && bit (c.rd F.TRUST_STATUS_TOKEN_PERMS) 2)
  else if t == .debug then c.mode == mTest && bit (c.rd F.TRUST_STATUS_TOKEN_PERMS) 1
  else true

/-- The pins go back to their states of R54 for the current mode. -/
def Chip.pinsBack (c : Chip) : Chip :=
  let c := c.emit (.pin "JTAG_DRIVE" 0)
  if c.mode = mBypass then c.emit (.pin "PLR_BANKS_FLOAT" 1)
  else
    let c := (List.range 6).foldl (fun c b => c.emit (.pin "PLR_BANK_SAFE" (c.rd F.PLR_BANK_SAFE_SAFE b))) c
    c.when c.port.seamWas fun c => c.setSeam true

/-- An instruction is loaded into the TAP: one whose condition is not met acts as BYPASS. While it drives pins, PLR pins
drive at code 0 with slow slew and the Seam is closed; the instruction that ends it gives the pins back. The TAP works
while VDD_AON is in range (R55). -/
def Chip.tapLoad (c : Chip) (t : Tap) : Chip :=
  if !c.dev.vddAon then c
  else
    let new := if c.tapAllows t then t else .bypass
    let was := c.port.tap.drives
    let c := c.when (was && !new.drives) Chip.pinsBack
    let c := c.when (!was && new.drives) fun c =>
      ((c.withPort { c.port with seamWas := c.flag F.DEV_MODE_SEAM_OPEN }).setSeam false).emit (.pin "PLR_JTAG_SLOW" 1)
    c.withPort { c.port with tap := new }

/-- JTAG_RESET: by TRST_N, or by VDD_AON entering its range. -/
def execJtagReset (s : State) : Host.Outcome State Fault Refusal := s.run fun c => c.tapLoad .idcode

/-- JTAG_BYPASS. -/
def execJtagBypass (s : State) : Host.Outcome State Fault Refusal := s.run fun c => c.tapLoad .bypass

/-- IDCODE of R509. -/
def idcode : Nat := 0x2 * 2 ^ 28 + 0x7256 * 2 ^ 12 + Config.manufacturer.toNat * 2 + 1

/-- JTAG_IDCODE. -/
def execJtagIdcode (s : State) : Host.Outcome State Fault Refusal :=
  s.run fun c => (c.tapLoad .idcode).when c.dev.vddAon fun c => c.emit (.jtag "IDCODE" idcode)

/-- The boundary register is shifted: what the pins gave comes out, the next pattern goes in. Under BYPASS only the
one-bit register is in the path. -/
def Chip.tapShift (c : Chip) (pins next : Nat) (drive : String) : Chip :=
  if !c.dev.vddAon then c
  else if c.port.tap = .bypass then c.emit (.jtag "BYPASS" 0)
  else
    let c := (c.emit (.jtag "BOUNDARY" pins)).withPort { c.port with bsr := next }
    c.when c.port.tap.drives fun c => c.emit (.pin drive next)

/-- JTAG_SAMPLE_PRELOAD: `pins` are the levels at the pins. -/
def execJtagSamplePreload (pins next : Nat) (s : State) : Host.Outcome State Fault Refusal :=
  s.run fun c => (c.tapLoad .sample).tapShift pins next "JTAG_DRIVE"

/-- JTAG_EXTEST. -/
def execJtagExtest (pins next : Nat) (s : State) : Host.Outcome State Fault Refusal :=
  s.run fun c => (c.tapLoad .extest).tapShift pins next "JTAG_DRIVE"

/-- JTAG_CLAMP: the pins hold the boundary register's values, the bypass register is in the path. -/
def execJtagClamp (s : State) : Host.Outcome State Fault Refusal :=
  s.run fun c =>
    let c := c.tapLoad .clamp
    c.when (c.dev.vddAon && c.port.tap == .clamp) fun c => c.emit (.pin "JTAG_DRIVE" c.port.bsr)

/-- JTAG_HIGHZ: every output goes to high impedance. -/
def execJtagHighz (s : State) : Host.Outcome State Fault Refusal :=
  s.run fun c =>
    let c := c.tapLoad .highz
    c.when (c.dev.vddAon && c.port.tap == .highz) fun c => c.emit (.pin "JTAG_HIGHZ" 1)

/-- JTAG_EXTEST_PULSE: the AC-coupled lanes send a pulse (IEEE 1149.6). -/
def execJtagExtestPulse (pins next : Nat) (s : State) : Host.Outcome State Fault Refusal :=
  s.run fun c => (c.tapLoad .pulse).tapShift pins next "JTAG_PULSE"

/-- JTAG_EXTEST_TRAIN: the AC-coupled lanes send a train of pulses (IEEE 1149.6). -/
def execJtagExtestTrain (pins next : Nat) (s : State) : Host.Outcome State Fault Refusal :=
  s.run fun c => (c.tapLoad .train).tapShift pins next "JTAG_TRAIN"

end Sys2Proof.Machine
end

