-- ==== Sys2Proof/Machine/RegAccess.lean ====
section
/-! DEFINITION. One access to control space (R15–R19): its width, alignment and mode checks, the fields it writes under
their access codes, and what a register of its own does with a write. A register whose write has a row of its own in the
opcode table is written through that row's meaning. -/
namespace Sys2Proof.Machine

/-! ## What a write does besides setting fields -/

/-- Run a row's meaning for a write made by `p`: the chip after it, and the status it reports. -/
def Chip.via (c : Chip) (row : State → Host.Outcome State Fault Refusal) : Chip × Status :=
  match row ⟨[], c⟩ with
  | .next s =>
    if s.chip.out.length = c.out.length + 1 || c.out.length + 1 < s.chip.out.length then
      match s.chip.out.getLast? with
      | some (.access _ st) => (s.chip.withOut s.chip.out.dropLast, st)
      | _ => (s.chip, .ok)
    else (s.chip, .ok)
  | _ => (c, .ok)

/-- The rows whose condition holds, one after the other; the status is the highest of theirs (R36). -/
def Chip.rows (c : Chip) (l : List (Bool × (State → Host.Outcome State Fault Refusal))) : Chip × Status :=
  l.foldl (fun (a : Chip × Status) e =>
    if e.1 then
      let (c, st) := a.1.via e.2
      (c, a.2.worst st)
    else a) (c, .ok)

/-- Fields written under their access codes, then the rows whose condition holds. -/
def Chip.fieldsThen (c : Chip) (r : RegInfo) (v i j : Nat)
    (l : List (Bool × (State → Host.Outcome State Fault Refusal))) : Chip × Status :=
  let (c, st) := c.wrFields r.fields v i j
  let (c, st') := c.rows l
  (c, st.worst st')

/-- A bit of a written value. -/
def Fld.on (f : Fld) (v : Nat) : Bool := f.of v == 1

/-- DEV, PWR, TRUST, CLK. -/
def Chip.wrDevice (c : Chip) (p : Port) (r : RegInfo) (v i j : Nat) : Option (Chip × Status) :=
  let b := r.base
  let d : Fin 64 := Fin.ofNat 64 i
  if b = G.DEV_MODE_REQ.base then
    some (c.via fun s => s.run fun c => c.modeWrite p (bits v 31 16) (bits v 2 0))
  else if b = G.DEV_MODE_PEND.base then
    some (c.fieldsThen r v i j [(F.DEV_MODE_PEND_CANCEL.on v, execModePendCancel p),
      (F.DEV_MODE_PEND_CNT_CLR.on v, execModePendCntClr p)])
  else if b = G.DEV_RESET_CTRL.base then
    if bits v 31 16 ≠ 0x5752 then some (c, .accessDenied)
    else some (c.rows [(bit v 0, execWarmReset p (Fin.ofNat 65536 (bits v 31 16)))])
  else if b = G.PWR_SHED_STAGE.base then
    some (c.fieldsThen r v i j [(F.PWR_SHED_STAGE_CLR.on v,
      execShedStageClrWrite p (Fin.ofNat 1024 (c.rd F.PWR_SHED_STAGE_VMEAS)))])
  else if b = G.PWR_DOM_REQ.base then some (c.via (execDomainRequest p d (Fin.ofNat 4 v)))
  else if b = G.PWR_DOM_PEND.base then
    some (c.fieldsThen r v i j [(F.PWR_DOM_PEND_CANCEL.on v, execDomPendCancel p d),
      (F.PWR_DOM_PEND_CNT_CLR.on v, execDomPendCntClr p d)])
  else if b = G.PWR_DOM_CFG.base then
    let base := F.PWR_DOM_CFG_SAVE_BASE.of v
    let len := min 256 (F.PWR_DOM_CFG_SAVE_LEN.of v)
    let overlap := (List.range 64).any fun e => e != i && 0 < len && 0 < c.saveLen e
      && base < c.rd F.PWR_DOM_CFG_SAVE_BASE e + c.saveLen e && c.rd F.PWR_DOM_CFG_SAVE_BASE e < base + len
    if c.mode = mRelay || c.mode = mVerify then
      if overlap || 4096 < base + len then some (c, .badDescriptor)
      else
        let (c, st) := c.wrFields r.fields v i j
        some (c.domLockUp i, st)
    else
      let same := [F.PWR_DOM_CFG_SAVE_BASE, F.PWR_DOM_CFG_SAVE_LEN, F.PWR_DOM_CFG_SVC_SET,
        F.PWR_DOM_CFG_POLICY_LOCK].all fun (f : Fld) => f.of v == c.rd f i
      some (c.wr F.PWR_DOM_CFG_SOAK_STATE v i, if same then .ok else .accessDenied)
  else if b = G.TRUST_CTRL.base then
    some (c.rows [(F.TRUST_CTRL_NEW_NONCE.on v, execNewNonce p), (F.TRUST_CTRL_HOST_DONE.on v, execHostDone p)])
  else if b = G.CLK_PLR.base then
    if (List.range 8).any fun g => (c.region g).img.any fun m => m.trees.any fun t => t.1 == i then
      some (c, .accessDenied)
    else none
  else none

/-- HIF. -/
def Chip.wrHif (c : Chip) (p : Port) (r : RegInfo) (v i j : Nat) : Option (Chip × Status) :=
  let b := r.base
  let f : Fin 64 := Fin.ofNat 64 i
  let ring : Fin 17 := Fin.ofNat 17 j
  let shut := c.flag F.RING_CFG_ENABLE i j || c.resetting i j
  if b = G.HIF_VERSION.base then some (c.via (execHifVersionWrite p f v))
  else if b = G.RING_BASE.base then
    if shut then some (c.wr F.HIF_FN_STAT_LAST_ERR Status.accessDenied.code i, .accessDenied) else none
  else if b = G.RING_CFG.base then
    if F.RING_CFG_RESET.on v then some (c.via (execRingReset p f ring))
    else if F.RING_CFG_ENABLE.on v then some (c.via (execRingEnable p f ring v))
    else if shut then some (c.wr F.HIF_FN_STAT_LAST_ERR Status.accessDenied.code i, .accessDenied)
    else none
  else if b = G.HIF_FN_CTRL.base then some (c.rows [(F.HIF_FN_CTRL_RESET_ALL.on v, execFnResetAll p f)])
  else if b = G.HIF_FN_STAT.base then
    some (c.when (bit v 31) fun c => c.wr F.HIF_FN_STAT_DB_DROP 0 i, .ok)
  else if b = G.HIF_FN_CELLS.base then
    if p = .host 0 then none else some (c, .accessDenied)
  else none

/-- ECV and ACH. -/
def Chip.wrRadio (c : Chip) (p : Port) (r : RegInfo) (v i j : Nat) : Option (Chip × Status) :=
  let b := r.base
  let l : Fin 18 := Fin.ofNat 18 i
  let n : Fin 256 := Fin.ofNat 256 i
  if b = G.ECV_LINK_STAT.base then
    some (c.fieldsThen { r with fields := [F.ECV_LINK_STAT_WAKE_SEEN] } v i j
      [(F.ECV_LINK_STAT_STORM.on v, execLinkStormClear p l)])
  else if b = G.ECV_LINK_CTRL.base then
    let was := c.flag F.ECV_LINK_CTRL_ENABLE i
    let en := F.ECV_LINK_CTRL_ENABLE.on v
    some (c.fieldsThen { r with fields := [F.ECV_LINK_CTRL_MAX_VER, F.ECV_LINK_CTRL_MAX_WIDTH] } v i j
      [(en && !was, execLinkEnable p l), (!en && was, execLinkDisable p l),
       (F.ECV_LINK_CTRL_RETRAIN.on v, execLinkRetrainReq p l), (F.ECV_LINK_CTRL_CNT_CLR.on v, execEcvCntClr p l)])
  else if b = G.ECV_SAMPLE_CFG.base then
    if i < 16 then some (c.via (execSampleCfgWrite p (Fin.ofNat 16 i) v)) else none
  else if b = G.ECV_LP_CTRL.base then
    if i < 16 && F.ECV_LP_CTRL_TX_POLICY.of v = 2 then some (c.via (execLpIdleNow p (Fin.ofNat 16 i) v)) else none
  else if b = G.ACH_CTRL.base then
    some (c.fieldsThen { r with fields := [F.ACH_CTRL_AUTO_READMIT] } v i j
      [(F.ACH_CTRL_LEAVE.on v, execAchLeave p n), (F.ACH_CTRL_READMIT.on v, execAchReadmit p n),
       (F.ACH_CTRL_CNT_CLR.on v, execAchCntClr p n)])
  else if b = G.ACH_COMMIT.base then
    if F.ACH_COMMIT_GO.on v then some (c.via (execCommitGo p n (bits v 63 32))) else none
  else none

/-- BRX, AE, CODE, CAL. -/
def Chip.wrProc (c : Chip) (p : Port) (r : RegInfo) (v i j : Nat) : Option (Chip × Status) :=
  let b := r.base
  let n : Fin 32 := Fin.ofNat 32 i
  if b = G.BRX_CNT_CLR.base then some (c.via (execBrCntClr p v))
  else if b = G.BRn_CFG.base then
    some (c.rows [(F.BRn_CFG_EN.on v, execBrEnable p n v), (!F.BRn_CFG_EN.on v, execBrDisable p n v)])
  else if b = G.BRn_OCC.base || b = G.BRn_THR.base || b = G.BRn_RING.base then
    if c.brFree i then none else some (c, .accessDenied)
  else if b = G.AE_CTRL.base then
    some (c.rows [(F.AE_CTRL_RES_INJECT.on v, execAeResInject p (Fin.ofNat 8 i)),
      (F.AE_CTRL_CNT_CLR.on v, execAeCntClr p (Fin.ofNat 8 i))])
  else if b = G.AE_JD_CFG.base then
    some (c.fieldsThen r v i j [(F.AE_JD_CFG_CNT_CLR.on v, execAeJdCntClr p)])
  else if b = G.AE_JD_RX.base then
    let a := F.AE_JD_RX_BASE.of v * 4096
    if c.flag (if i = 0 then F.AE_JD_CFG_JD_EN_W else F.AE_JD_CFG_JD_EN_E) then some (c, .accessDenied)
    else if F.AE_JD_RX_VALID.on v && !inPool a 0x20E2000 && !inHbm a 0x20E2000 then some (c, .badDescriptor)
    else none
  else if b = G.CODE_CTRL.base then
    some (c.fieldsThen { r with fields := [F.CODE_CTRL_DEF_ITER] } v i j
      [(F.CODE_CTRL_FLUSH.on v, execHarqFlush p), (F.CODE_CTRL_CNT_CLR.on v, execCodeCntClr p)])
  else if b = G.CAL_CTRL.base then
    some (c.fieldsThen r v i j [(F.CAL_CTRL_CNT_CLR.on v, execCalCntClr p)])
  else if b = G.CAL_STORE_CTRL.base then some (c.via (execCalStoreSave p v))
  else none

/-- A release ring lies at no reserved address. -/
def ringPlaced (base bytes : Nat) : Bool := regionOf base != .reserved && regionOf (base + bytes - 1) != .reserved

/-- CLU and SCHED. -/
def Chip.wrTask (c : Chip) (p : Port) (r : RegInfo) (v i j : Nat) : Option (Chip × Status) :=
  let b := r.base
  let n : Fin 16 := Fin.ofNat 16 i
  let e : Fin 256 := Fin.ofNat 256 (16 * i + j)
  if b = G.CLU_CC_CTRL.base then
    some (c.rows [(F.CLU_CC_CTRL_CLEAN_ALL.on v, execCcCleanAll p n), (F.CLU_CC_CTRL_CNT_CLR.on v, execCluCcCntClr p n)])
  else if b = G.CLU_ENG_CTRL.base then
    some (c.rows [(F.CLU_ENG_CTRL_HALT.on v, execEngHalt p e), (F.CLU_ENG_CTRL_RESUME.on v, execEngResume p e),
      (F.CLU_ENG_CTRL_STEP.on v, execEngStep p e)])
  else if b = G.CLU_ENG_MBOX.base then some (c.via (execEngMboxWrite p e v))
  else if b = G.SCHED_READMIT.base then
    let op := F.SCHED_READMIT_OP.of v
    if op = 0 then some (c, .ok)
    else some (c.via fun s => s.run fun c => c.readmitWrite p (F.SCHED_READMIT_UNIT.of v) op)
  else if b = G.SCHED_BUNDLE_LOAD.base then
    let k : Fin 1024 := Fin.ofNat 1024 (F.SCHED_BUNDLE_LOAD_INDEX.of v)
    some (c.rows [(F.SCHED_BUNDLE_LOAD_OP.of v == 1, execBundleLoad p k (F.SCHED_BUNDLE_LOAD_ADDR.of v * 64)),
      (F.SCHED_BUNDLE_LOAD_OP.of v == 2, execBundleUnload p k)])
  else if b = G.SCHED_CL_SUBMIT.base then some (c.via (execClSubmit p v))
  else if b = G.SCHED_CL_CANCEL.base then some (c.via (execClCancel p v))
  else if b = G.SCHED_SQ_CFG.base then some (c.via (execSqCfgWrite p (Fin.ofNat 288 i) v))
  else if b = G.SCHED_SQ_DB.base then some (c.via (execSqDoorbell p (Fin.ofNat 288 i) v))
  else if b = G.SCHED_FLOW_CFG.base then
    if c.rd F.SCHED_FLOW_STAT_OUT i ≠ 0 then some (c, .accessDenied)
    else if F.SCHED_FLOW_CFG_EN.on v
        && !ringPlaced (F.SCHED_FLOW_CFG_BASE.of v * 16) (16 * 2 ^ F.SCHED_FLOW_CFG_LOG2.of v) then
      some (c, .badDescriptor)
    else none
  else if b = G.SCHED_FLOW_PTR.base then some (c.via (execRelRdWrite p (Fin.ofNat 4096 i) v))
  else none

/-- FAB, MEM, INTEG. -/
def Chip.wrFabric (c : Chip) (p : Port) (r : RegInfo) (v i j : Nat) : Option (Chip × Status) :=
  let b := r.base
  if b = G.FAB_ROUTE_GEN.base then some (c.via (execRouteChange p (F.FAB_ROUTE_GEN_GEN.of v)))
  else if b = G.FAB_READMIT.base then
    if F.FAB_READMIT_GO.on v then some (c.via (execFabReadmit p (F.FAB_READMIT_PORT.of v))) else none
  else if b = G.FAB_RT_SHADOW.base then
    if c.flag F.FAB_ROUTE_GEN_BUSY then some (c, .accessDenied) else none
  else if b = G.MEM_CTRL.base then some (c.rows [(bit v 0, execMemCntClr p)])
  else if b = G.MEM_POOL_RET.base then some (c.via (execRetRequestWrite p 16 v))
  else if b = G.MEM_CLU_RET.base then some (c.via (execRetRequestWrite p (Fin.ofNat 17 i) v))
  else if b = G.MEM_BANK_OWN.base then some (c.via (execBankHandover p (Fin.ofNat 16 i) (Fin.ofNat 32 j) v))
  else if b = G.INTEG_CTRL.base then
    some (c.fieldsThen r v i j [(F.INTEG_CTRL_CNT_CLR.on v, execIntegCntClr p)])
  else if b = G.INTEG_INJECT.base then some (c.via (execIntegInjectArm p v))
  else none

/-- The pin fields that re-arm a source (R425). -/
def pinArmFields : List Fld := [F.PLR_PIN_CFG_IRQ_EN, F.PLR_PIN_CFG_LEVEL, F.PLR_PIN_CFG_ACTIVE_LOW, F.PLR_PIN_CFG_WAKE]

/-- PLR, ETH, TIME. -/
def Chip.wrEdge (c : Chip) (p : Port) (r : RegInfo) (v i j : Nat) : Option (Chip × Status) :=
  let b := r.base
  if b = G.PLR_CTRL.base then some (c.rows [(bit v 0, execPlrCntClr p)])
  else if b = G.PLR_REGION_CTRL.base then
    some (c.fieldsThen { r with fields := [F.PLR_REGION_CTRL_AUTO_READMIT] } v i j
      [(F.PLR_REGION_CTRL_UNLOAD.on v, execPlrUnload p (Fin.ofNat 8 i))])
  else if b = G.PLR_BANK_SAFE.base then
    let (c, st) := c.wrFields r.fields v i j
    some (c.emit (.pin "PLR_BANK_SAFE" (c.rd F.PLR_BANK_SAFE_SAFE i)), st)
  else if b = G.PLR_PIN_CFG.base then
    let early := c.mode = mRelay || c.mode = mVerify
    let caps := [F.PLR_PIN_CFG_DRIVE_CAP, F.PLR_PIN_CFG_SLOW_ONLY]
    let changed := pinArmFields.any fun (f : Fld) => f.of v != c.rd f i
    let same := caps.all fun (f : Fld) => f.of v == c.rd f i
    let (c, st) := c.wrFields (if early then r.fields else pinArmFields) v i j
    some (c.when changed (·.pinRearm i), if early || same then st else st.worst .accessDenied)
  else if b = G.PLR_STORM.base then some (c.via (execPlrStormUnmask p (Fin.ofNat 3 i) v))
  else if b = G.ETH_RU_CFG.base then
    if F.ETH_RU_CFG_EN.on v then some (c.via (execRuEnable p (Fin.ofNat 32 i) v))
    else
      let (c, st) := c.wrFields r.fields v i j
      some ((c.withEth { c.eth with
        start := Tbl.erase c.eth.start i, bufs := c.eth.bufs.filter fun x => x.ru != i }), st)
  else if b = G.ETH_RU_ADDR.base || b = G.ETH_RU_POOL.base || b = G.ETH_RU_WIN.base || b = G.ETH_RU_PRACH.base
      || b = G.ETH_RU_PRACH2.base then
    if c.flag F.ETH_RU_CFG_EN i then some (c, .accessDenied) else none
  else if b = G.ETH_RU_OWD.base then some (c.rows [(F.ETH_RU_OWD_GO.on v, execOwdRequest p (Fin.ofNat 32 i))])
  else if b = G.TIME_CTRL.base then
    let (c, st) := c.wrFields r.fields v i j
    some (c.ppsHold.timeEval, st)
  else if b = G.TIME_SRC_CFG.base then
    let (c, st) := c.wrFields r.fields v i j
    some (c.ringEval, st)
  else if b = G.TIME_PTP_CFG.base then
    let (c, st) := c.wrFields r.fields v i j
    some (c.timeEval, st)
  else if b = G.TIME_FRAME_CFG.base then
    let (c, st) := c.wrFields r.fields v i j
    some (c.withTime { c.time with counting := false }, st)
  else none

/-- A write to a register that passed the checks of R15 and R16. -/
def Chip.wrReg (c : Chip) (p : Port) (r : RegInfo) (v i j : Nat) : Chip × Status :=
  let own := (c.wrDevice p r v i j).orElse fun _ => (c.wrHif p r v i j).orElse fun _ =>
    (c.wrRadio p r v i j).orElse fun _ => (c.wrProc p r v i j).orElse fun _ => (c.wrTask p r v i j).orElse fun _ =>
      (c.wrFabric p r v i j).orElse fun _ => c.wrEdge p r v i j
  match own with
  | some x => x
  | none => c.wrFields r.fields v i j

/-! ## The MSI-X tables of the function pages (R77, R97) -/

/-- A 32-bit part of an MSI-X entry, as the PCIe specification lays it out (log entry 8). -/
def MsixEntry.part (m : MsixEntry) (k : Nat) : Nat :=
  match k with | 0 => m.addrLo | 1 => m.addrHi | 2 => m.data | _ => b2n m.masked

/-- A part of an MSI-X entry written; a vector that is unmasked fires if it is pending (R97). -/
def Chip.msixSet (c : Chip) (f v k x : Nat) : Chip :=
  let m := Tbl.get c.hif.msix (f * 32 + v) {}
  let put (c : Chip) (m : MsixEntry) : Chip := c.withHif { c.hif with msix := Tbl.set c.hif.msix (f * 32 + v) m {} }
  match k with
  | 0 => put c { m with addrLo := x }
  | 1 => put c { m with addrHi := x }
  | 2 => put c { m with data := x }
  | _ =>
    if bit x 0 then put c { m with masked := true }
    else if m.pending then (put c { m with masked := false, pending := false }).emit (.msix f v)
    else put c { m with masked := false }

/-- The pending-bit array of a function. -/
def Chip.msixPend (c : Chip) (f : Nat) : Nat :=
  (List.range 32).foldl (fun n v => n + b2n (Tbl.get c.hif.msix (f * 32 + v) {}).pending * 2 ^ v) 0

/-- The 32-bit part at an aligned offset of a function page's MSI-X structures. -/
def Chip.msixRead (c : Chip) (f off : Nat) : Nat :=
  if off < 0x1800 then (Tbl.get c.hif.msix (f * 32 + (off - 0x1000) / 16) {}).part (off % 16 / 4)
  else if off = 0x1800 then c.msixPend f else 0

/-! ## The access (R15, R16, R29, R33, R55, R77) -/

/-- The requester can reach the address: a virtual function its own page only, JTAG only under DEBUG_ACCESS. -/
def Chip.reachesAddr (c : Chip) (p : Port) (a : Nat) : Bool :=
  match p with
  | .host 0 => true
  | .host f => (fnPage a).any fun q => q.1 == f
  | q => c.reachesAll q

/-- Modes in which a register is written; PWR_DOM_CFG's SOAK_STATE has two more. -/
def RegInfo.writeModes (r : RegInfo) : Nat := if r.base = G.PWR_DOM_CFG.base then 0x8E else r.modes

/-- A write of `n` bytes at a control-space address by `p`, with the status it is answered with. -/
def Chip.regWrite (c : Chip) (p : Port) (a n v : Nat) : Chip × Status :=
  if !c.reachesAddr p a then (c, .accessDenied)
  else
    match fnPage a with
    | some (f, off) =>
      if isMsix off then
        if off % n ≠ 0 || (n ≠ 4 && n ≠ 8) || !c.modeIn modesAll then (c, .accessDenied)
        else if 0x1800 ≤ off then (c, .accessDenied)
        else
          let c := c.msixSet f ((off - 0x1000) / 16) (off % 16 / 4) (v % 2 ^ 32)
          (c.when (n == 8) fun c => c.msixSet f ((off - 0x1000) / 16) (off % 16 / 4 + 1) (v / 2 ^ 32 % 2 ^ 32), .ok)
      else plain c p a n v
    | none => plain c p a n v
where
  /-- A register of the map. -/
  plain (c : Chip) (p : Port) (a n v : Nat) : Chip × Status :=
    match regFind regMap a with
    | some (r, i, j) =>
      if r.bytes ≠ n || !c.modeIn r.writeModes then (c, .accessDenied) else c.wrReg p r (v % 2 ^ (8 * n)) i j
    | none => (c, .accessDenied)

/-- A read of `n` bytes: data and status. A read that is refused returns zero (R15). -/
def Chip.regRead (c : Chip) (p : Port) (a n : Nat) : Nat × Status :=
  if c.mode = mBypass || !c.reachesAddr p a then (0, .accessDenied)
  else
    match fnPage a with
    | some (f, off) =>
      if isMsix off then
        if off % n ≠ 0 || (n ≠ 4 && n ≠ 8) then (0, .accessDenied)
        else (c.msixRead f off + (if n = 8 then c.msixRead f (off + 4) * 2 ^ 32 else 0), .ok)
      else reg c a n
    | none => reg c a n
where
  /-- A register of the map. -/
  reg (c : Chip) (a n : Nat) : Nat × Status :=
    match regFind regMap a with
    | some (r, i, j) => if r.bytes ≠ n then (0, .accessDenied) else (c.regVal r.fields i j, .ok)
    | none => (0, .accessDenied)

end Sys2Proof.Machine
end

