-- ==== Sys2Proof/Machine/AccessCmds.lean ====
section
/-! DEFINITION. Requests on their way to a block or a memory (spec/13_fabric.md R358–R372) and every command that makes
one: register accesses, packets, engine accesses that come back, Clothesline writes, the PLR fabric masters, I²C, JTAG; and
the commands that let held requests go on. -/
namespace Sys2Proof.Machine

/-! ## At the endpoint port (R29, R367–R369) -/

/-- Endpoint port a packet is bound for. -/
def Chip.pktPort (c : Chip) (k : Pkt) : Option Nat :=
  match k.op with
  | .msg => if isUnit k.addr then some (c.portUnit k.addr) else none
  | _ => c.destPort k.addr

/-- What a request meets: it is answered with a status at once (R36 gives TARGET_ISOLATED precedence over DOMAIN_OFF), it
waits for a domain, or it passes. -/
inductive Gate
  | refuse (st : Status)
  | wait (d : Nat)
  | pass
  deriving DecidableEq, Repr

/-- The port and the domain of a request (R29, R367–R369); the domain's clocks must run (R495). -/
def Chip.gate (c : Chip) (port dom : Option Nat) : Gate :=
  match port with
  | none => .refuse .accessDenied
  | some p =>
    if c.flag F.FAB_PORT_STAT_ISOLATED p then .refuse .targetIsolated
    else
      match dom with
      | none => .pass
      | some d => if c.domLocked d then .refuse .domainOff else if c.domRuns d then .pass else .wait d

/-- The port of a requester of control space, as the source of its packets. -/
def srcPort (p : Port) : Nat :=
  match p with
  | .host _ => 12
  | .engine e => portCluster (e / 16)
  | .clothesline => 20
  | .plr _ => 24
  | _ => 0

/-! ## Serving a request -/

/-- What a request of a source port is to the ownership check (R375). -/
def whoFrom (src : Nat) : Who :=
  if (List.range 9).any fun n => portPress n == src then .pressFabric
  else match (List.range 12).find? fun k => portCe k == src with
    | some k => .coding k
    | none => .fabric

/-- An access to bank 0 or 1 of a cluster memory that goes by port B (R382). -/
def Chip.onPortB (c : Chip) (w : Who) (addr : Nat) : Bool :=
  match regionOf addr with
  | .cluster n off => let p := c.bankPorts w n (bankOf off); p.2 && !p.1
  | _ => false

/-- Words of memory space that a request of `n` bytes touches. -/
def wordsTouched (addr n : Nat) : Nat := (addr % 16 + n + 15) / 16

/-- A read of `n` bytes of memory space: data, poison flag by word, status. -/
def Chip.memRead (c : Chip) (w : Who) (addr n : Nat) : Chip × Nat × Nat × Status :=
  let (c, ws) := c.readWords w (wordAddr addr) (wordsTouched addr n)
  let v := ws.foldr (fun (x : WordRead) acc => x.data + acc * 2 ^ 128) 0
  let p := ws.foldr (fun (x : WordRead) acc => b2n x.poison + acc * 2) 0
  (c, v / 2 ^ (8 * (addr % 16)) % 2 ^ (8 * n), p, Status.worstOf (ws.map (·.status)))

/-- The status of a write that covers part of a word (R383): never checked for ownership. -/
def Chip.narrowStatus (c : Chip) (w : Who) (addr : Nat) : Status :=
  match c.accessStatus w addr with
  | .ok => .narrowWrite
  | .notOwner => .narrowWrite
  | st => st

/-- A write of `n` bytes to memory space, word by word; a word it covers in part is dropped and counted (R383). -/
def Chip.memWrite (c : Chip) (w : Who) (addr n data poison : Nat) : Chip × Status :=
  (List.range (wordsTouched addr n)).foldl (fun (a : Chip × Status) k =>
    let wa := wordAddr addr + 16 * k
    if addr ≤ wa && wa + 16 ≤ addr + n then
      let i := (wa - addr) / 16
      let (c, st) := a.1.writeWord w wa (data / 2 ^ (8 * (wa - addr)) % 2 ^ 128) (bit poison i)
      (c, a.2.worst st)
    else (a.1.incSat F.MEM_STAT_NARROW, a.2.worst (a.1.narrowStatus w wa))) (c, .ok)

/-- A request is served by its block or memory. A control-space write whose data is poisoned is refused, and the
consumption reported (R402, R406). `clash`: port A of a dual-port bank writes the same word in the same cycle (R382). -/
def Chip.serve (c : Chip) (k : Pkt) (clash : Bool) : Chip :=
  if regionOf k.addr = .control then
    let a := k.addr % 2 ^ 48
    let p := k.by_.getD .dev
    match k.op with
    | .rd =>
      let (v, st) := c.regRead p a k.bytes
      c.answer k st v (if ctlReserved a then 0xFF else 0)
    | .wr =>
      if k.poison ≠ 0 then (c.postPoison 0x7FF srcFab (poisonKind a) 0).answer k .poisoned 0 0
      else
        let (c, st) := c.regWrite p a k.bytes k.data
        c.answer k st 0 0
    | _ => c
  else
    let w := whoFrom k.src
    match k.op with
    | .rd =>
      let c := c.when (clash && c.onPortB w k.addr) (·.incSat F.MEM_STAT_REPLAY)
      let (c, v, p, st) := c.memRead w k.addr k.bytes
      c.answer k st v p
    | .wr =>
      let c := c.when (clash && c.onPortB w k.addr) (·.incSat F.MEM_STAT_BUSY)
      let (c, st) := c.memWrite w k.addr k.bytes k.data k.poison
      c.answer k st 0 0
    | _ => c

/-! ## Requests that wait at their memory (R386, R387, R390) -/

/-- A bank or pool group that the request is for is not ON. -/
def Chip.atSleepingBank (c : Chip) (addr : Nat) : Bool :=
  match retIndex addr with
  | some k => c.retPhase k != .on
  | none => false

/-- A request waits at its memory: for a fill to pass its words or for its bank to wake. -/
def Chip.mustWait (c : Chip) (k : Pkt) : Bool := c.behindFill k.addr k.bytes || c.atSleepingBank k.addr

/-- A request that reaches its block; one that must wait at its memory wakes the bank. -/
def Chip.reach (c : Chip) (k : Pkt) (clash : Bool) : Chip :=
  if c.mustWait k then
    let c := match retIndex k.addr with | some i => c.retRouse i | none => c
    c.withMems { c.mems with waiting := c.mems.waiting ++ [k] }
  else c.serve k clash

/-- Requests that waited at their memory and need wait no longer go on, in their order. -/
def Chip.waitServe (c : Chip) : Chip :=
  let ready := c.mems.waiting.filter fun (k : Pkt) => !c.mustWait k
  if ready.isEmpty then c
  else
    let rest := c.mems.waiting.filter fun (k : Pkt) => c.mustWait k
    ready.foldl (fun c k => c.serve k false) (c.withMems { c.mems with waiting := rest })

/-- BANK_RETAIN_DONE (R387): what waits at a bank that is now ON goes on. -/
def execBankRetainDone (k : Fin 576) (s : State) : Host.Outcome State Fault Refusal := s.run fun c => (c.retDone k).waitServe

/-! ## Anterooms (R367) -/

/-- A packet must follow one already held: to the same domain, or from the same source on the same VC. -/
def Chip.follows (c : Chip) (q k : Pkt) : Bool :=
  (q.src == k.src && q.cls == k.cls) || ((c.pktDomain k).isSome && c.pktDomain q == c.pktDomain k)

/-- Take a packet into a port's anteroom; those beyond 32 wait in the router's queues behind it. -/
def Chip.anteAdd (c : Chip) (p : Nat) (k : Pkt) : Chip :=
  c.withFab { c.fab with ante := Tbl.set c.fab.ante p (Tbl.get c.fab.ante p [] ++ [k]) [] }

/-- A wake request of the router for a sleeping domain (R367, R455). -/
def Chip.anteWake (c : Chip) (p d : Nat) : Chip :=
  c.when (c.domState d != dOn) fun c => (c.incSat F.FAB_PORT_STAT_WAKES p).hwWake d

/-- A request reaches its endpoint port (R29, R367–R369). An endpoint that does not answer it at once leaves it open. -/
def Chip.arrivePkt (c : Chip) (k : Pkt) (answered clash : Bool) : Chip :=
  let port := c.pktPort k
  let p := port.getD 0
  match c.gate port (c.pktDomain k) with
  | .refuse st => (c.absorb k st).when (st == .targetIsolated) fun c => c.incSat F.FAB_PORT_STAT_ABSORBED p
  | .wait d => (c.anteAdd p k).anteWake p d
  | .pass =>
    if (Tbl.get c.fab.ante p []).any fun q => c.follows q k then c.anteAdd p k
    else if answered then c.reach k clash
    else c.withFab { c.fab with open_ := Tbl.set c.fab.open_ p (Tbl.get c.fab.open_ p [] ++ [k]) [] }

/-- A held packet may be delivered: its port answers, its domain's clocks run, no packet before it is still held that it
must follow. -/
def Chip.anteReady (c : Chip) (k : Pkt) (kept : List Pkt) : Bool :=
  c.gate (c.pktPort k) (c.pktDomain k) == .pass && !kept.any fun q => c.follows q k

/-- Deliver what an anteroom may deliver, in arrival order. -/
def Chip.antePort (c : Chip) (p : Nat) : Chip :=
  let q := Tbl.get c.fab.ante p []
  let c := c.withFab { c.fab with ante := Tbl.erase c.fab.ante p }
  let r := q.foldl (fun (a : Chip × List Pkt) k =>
    if a.1.anteReady k a.2 then (a.1.reach k false, a.2) else (a.1, a.2 ++ [k])) (c, [])
  let c := r.1
  c.withFab { c.fab with ante := Tbl.set c.fab.ante p (r.2 ++ Tbl.get c.fab.ante p []) [] }

/-- Deliver what every anteroom may deliver. -/
def Chip.anteRelease (c : Chip) : Chip := (c.fab.ante.map (·.1)).foldl Chip.antePort c

/-! ## Requests of a port of control space -/

/-- A virtual function's access to memory space: it has no BAR4 (R33), so the address is a reserved one to it. -/
def vfMemory (k : Pkt) : Bool :=
  match k.by_ with
  | some (.host f) => f != 0 && k.op != .msg && regionOf k.addr != .control
  | _ => false

/-- The internal address that an offset of a function's BAR0 maps (R77): the PF's maps control space, a VF's its own page
in the first 8 KiB; every other offset is reserved. -/
def bar0 (f off : Nat) : Option Nat :=
  if f = 0 then (if off < 0x10000000 then some off else none)
  else if off < 0x2000 then some (0x180000 + f * 0x2000 + off) else none

/-- A function of the host accesses its BAR0: an offset that maps nothing meets a reserved address (R29, R77). -/
def Chip.bar0Access (c : Chip) (f : Nat) (write : Bool) (off bytes data : Nat) (go : Chip → Nat → Chip) : Chip :=
  match bar0 f off with
  | some a => go c a
  | none => c.absorb ⟨if write then .wr else .rd, 12, 0, 2, off, bytes, data, 0, some (.host f)⟩ .accessDenied

/-- An access that requester `p` makes: a requester that cannot reach the address meets a reserved one (R29, R33). -/
def Chip.request (c : Chip) (p : Port) (write : Bool) (addr bytes data poison : Nat) : Chip :=
  let k : Pkt := ⟨if write then .wr else .rd, srcPort p, 0, 2, addr, bytes, data, poison, some p⟩
  if c.mode = mBypass then c.answer k .accessDenied 0 0
  else if (regionOf addr = .control && !c.reachesAddr p (addr % 2 ^ 48)) || vfMemory k then c.absorb k .accessDenied
  else c.arrivePkt k true false

/-- REGISTER_WRITE (R15–R19). -/
def execRegisterWrite (by_ : Port) (addr : Fin 0x10000000) (bytes value : Nat) (s : State) :
    Host.Outcome State Fault Refusal :=
  s.run fun c => c.request by_ true addr bytes value 0

/-- An endpoint's response (R361, R369): it answers a request delivered to its port, or comes after the port's isolation
and is discarded and counted. -/
def Chip.response (c : Chip) (k : Pkt) : Chip :=
  if c.flag F.FAB_PORT_STAT_ISOLATED k.src then c.incSat F.FAB_PORT_STAT_LATE_RSP k.src
  else
    let l := Tbl.get c.fab.open_ k.src []
    match l.find? fun q => q.txn == k.txn with
    | none => c
    | some q => (c.withFab { c.fab with open_ := Tbl.set c.fab.open_ k.src (l.erase q) [] }).reach q false

/-- Endpoint ports of the host interface (R526). -/
def hifPorts : List Nat := [12, 13, 16, 17]

/-- A host access through BAR4 below the memory space (R32): a packet of a HIF port to control space that is no access of a
function through its BAR0. -/
def barFour (k : Pkt) : Bool :=
  hifPorts.contains k.src && k.by_.isNone && k.op != .msg && regionOf k.addr == .control

/-- PACKET_ARRIVE (R367): `answered` says that the endpoint answers at once, `clash` that port A of a dual-port bank
writes the same word in the same cycle. -/
def execPacketArrive (pkt : Pkt) (answered clash : Bool) (s : State) : Host.Outcome State Fault Refusal :=
  s.run fun c =>
    if c.mode = mBypass then c
    else
      match pkt.op with
      | .rsp => c.response pkt
      | _ =>
        if c.inWarm && hifPorts.contains pkt.src then
          c.emit (.tlp (if pkt.op == .rd then "unsupported request" else "posted write dropped"))
        else if barFour pkt || vfMemory pkt then c.absorb pkt .accessDenied
        else c.arrivePkt pkt answered clash

/-! ## What lets held requests go on -/

/-- DOMAIN_WAKE_DONE (R449, R453, R367); records held in SOAK go to a ring whose memory is now ON (R185). -/
def execDomainWakeDone (d : Fin 64) (s : State) : Host.Outcome State Fault Refusal :=
  s.run fun c => ((List.range 32).foldl (fun c n => c.brFlush n) (c.wakeDone d)).anteRelease

/-- PLL_RELOCK (R495). -/
def execPllRelock (p : Fin 12) (s : State) : Host.Outcome State Fault Refusal :=
  s.run fun c =>
    if c.dev.held != .none || bit (c.rd F.CLK_PLL_STAT_LOCK) p then c
    else (c.wr F.CLK_PLL_STAT_LOCK (setBit (c.rd F.CLK_PLL_STAT_LOCK) p true)).anteRelease

/-- HBM_FILL_COMPLETE (R390): the fill that began first ends, and with it one that began at the same tick. -/
def execHbmFillComplete (s : State) : Host.Outcome State Fault Refusal :=
  s.run fun c =>
    match c.mems.filling with
    | [] => c
    | x :: r =>
      let t := fun k => Tbl.get c.mems.fillTick k 0
      (c.withMems { c.mems with filling := r.filter fun k => t k != t x }).waitServe

/-! ## The Clothesline (R344, R347, R467) -/

/-- CL_FIRE_WRITE32: nothing where the next due entry is of another kind. -/
def execClFireWrite32 (s : State) : Host.Outcome State Fault Refusal :=
  s.run fun c =>
    match c.clNext with
    | some e =>
      if e.list < 48 && e.kind = 2 then
        (c.clTake e).request .clothesline true (bits e.arg 27 0) 4 (bits e.arg 59 28) 0
      else c
    | none => c

/-- The SOAK pre-wake (R467): SOAK_LEAD before a sampled occasion, domain 37 and the front-end groups of SOAK_LINKS. -/
def Chip.soakPrewake (c : Chip) : Chip :=
  if c.mode != mSoak || c.inTrans then c
  else
    let links := c.rd F.BRX_SOAK_CFG_SOAK_LINKS
    let ds := 37 :: ((List.range 8).filter fun g => bits links (2 * g + 1) (2 * g) != 0).map (25 + ·)
    ds.foldl (fun c d => c.hwWake d) (c.withPwr { c.pwr with
      soakReturn := c.pwr.soakReturn.filter fun d => !ds.contains d })

/-! ## Device entries -/

/-- CL_FIRE_DEVICE: the timed action of a device entry. -/
def execClFireDevice (act : DevAct) (s : State) : Host.Outcome State Fault Refusal :=
  match act with
  | .txStage n cc sym ready => s.stage fun c => c.stageStart n cc sym ready
  | .windowOpen n w => execTxWindowOpen n w s
  | .windowEnd n => execTxWindowEnd n s
  | .paEdge n w on => execPaEdge n w on s
  | .emergencyEnd n => execEmergencyRampEnd n s
  | .exchange clash => execGuardExchange clash s
  | .soakPrewake => s.run Chip.soakPrewake
  | .soakTx q => execSoakTx q s

/-! ## Engine accesses that come back (R274, R287) -/

/-- What control space answers a load of an engine with: value, poison, status (R287); none while its domain sleeps. -/
def Chip.ctlLoad (c : Chip) (e : Nat) (a : EngAcc) : Option (Nat × Bool × Status) :=
  match c.gate (c.portControl a.addr) (c.ctlDomain a.addr) with
  | .refuse st => some (0, true, st)
  | .wait _ => none
  | .pass =>
    let (v, st) := c.regRead (.engine e) a.addr a.size
    some (extend a.size a.signed v, ctlReserved a.addr, st)

/-- Data of access `id` as it was read at issue. -/
def Eng.readAt (x : Eng) (id : Nat) : Nat × Nat :=
  match (x.pend ++ x.withheld.flatten).find? fun (q : Pend) => q.id == id with
  | some q => (q.val, q.poi)
  | none => (0, 0)

/-- The wake that a waiting control-space access asks for. -/
def Chip.ctlWake (c : Chip) (addr : Nat) : Chip :=
  match c.portControl addr, c.ctlDomain addr with
  | some p, some d => c.anteWake p d
  | _, _ => c

/-- LOAD_DATA_ARRIVE: the data of the `k`-th outstanding uncached load of engine `e` arrives. -/
def execLoadDataArrive (e : Fin 256) (k : Nat) (s : State) : Host.Outcome State Fault Refusal :=
  s.run fun c =>
    match ((c.eng e).acc.filter fun (a : EngAcc) => a.load && !a.cached)[k]? with
    | none => c
    | some a =>
      if a.control then
        match c.ctlLoad e a with
        | none => c.ctlWake a.addr
        | some (v, p, st) => c.modEng e fun x => (x.ldNote true st 0 false).arrive a.id v (b2n p)
      else
        c.modEng e fun x => (x.ldNote true a.status a.seen a.busy).arrive a.id (x.readAt a.id).1 (x.readAt a.id).2

/-- STORE_ACK: the `k`-th outstanding store of engine `e` is acknowledged; one to control space takes effect. -/
def execStoreAck (e : Fin 256) (k : Nat) (s : State) : Host.Outcome State Fault Refusal :=
  s.run fun c =>
    match ((c.eng e).acc.filter fun (a : EngAcc) => !a.load && !a.cached)[k]? with
    | none => c
    | some a =>
      let done (c : Chip) (st : Status) : Chip :=
        c.modEng e fun x => { x with acc := x.acc.filter fun b => b.id != a.id }.ldNote false st a.seen false
      if a.control then
        match c.gate (c.portControl a.addr) (c.ctlDomain a.addr) with
        | .refuse st => done c st
        | .wait _ => c.ctlWake a.addr
        | .pass =>
          let (c, st) := c.regWrite (.engine e) a.addr a.size a.data
          done c st
      else done c a.status

/-! ## Units and PLR (R353, R415, R418, R423) -/

/-- UNIT_DRAIN_COMPLETE (R353): a DRAINING unit whose running tasks have ended reaches OUT; a PLR region whose last port
does so is fenced (R415). -/
def execUnitDrainComplete (u : Fin 320) (s : State) : Host.Outcome State Fault Refusal :=
  s.run fun c =>
    if !isUnit u || c.unitState u != uDraining || !(c.runningTasks u).isEmpty then c
    else
      let c := c.unitReachOut u
      if 0x120 ≤ u.val then c.rgAdvance (portRegion (u - 0x120)) else c

/-- Requests of a region's fabric master not yet answered. -/
def Chip.plrOutstanding (c : Chip) (r : Nat) : Nat :=
  let mine := fun (k : Pkt) => k.by_ == some (.plr r)
  ((c.fab.ante.flatMap fun (e : Nat × List Pkt) => e.2.filter mine) ++
    (c.fab.open_.flatMap fun (e : Nat × List Pkt) => e.2.filter mine) ++ c.mems.waiting.filter mine).length

/-- PLR_MASTER_REQUEST (R418): while the region's logic runs, and with fewer than 32 of its requests outstanding. -/
def execPlrMasterRequest (r : Fin 8) (write : Bool) (addr bytes data poison : Nat) (s : State) :
    Host.Outcome State Fault Refusal :=
  s.run fun c =>
    if c.rgRuns r && c.plrOutstanding r < 32 then c.request (.plr r) write addr bytes data poison else c

/-- PLR_INPUT_FIRE (R423): a filtered level at a pin; it reaches the region that claims the pin, and a wake input that fires
in SOAK wakes the device. -/
def execPlrInputFire (p : Fin 144) (lvl : Bool) (s : State) : Host.Outcome State Fault Refusal :=
  s.run fun c =>
    let (c, fired) := c.pinInput p lvl
    (c.pinShow p).when (fired && c.flag F.PLR_PIN_CFG_WAKE p) fun c => c.wakeBy 5 0

/-! ## Links and doorbells (R82, R127) -/

/-- WAKE_PATTERN_SEEN (R127, R144, R469): of a receiver in SLEEP. -/
def execWakePatternSeen (l : Fin 18) (s : State) : Host.Outcome State Fault Refusal :=
  s.run fun c =>
    if c.rd F.ECV_LINK_STAT_RX_LP l != 2 then c
    else ((c.wr F.ECV_LINK_STAT_WAKE_SEEN 1 l).linkEvent l 9 .ok 0 0).wakeBy 4 l

/-- CMD_DOORBELL (R82, R83, R469): a BAR2 write at an offset of the function's page; a doorbell in SOAK wakes the device. -/
def execCmdDoorbell (f : Fin 64) (off bytes value : Nat) (s : State) : Host.Outcome State Fault Refusal :=
  s.run fun c =>
    if c.mode = mBypass then c
    else if c.inWarm then c.emit (.tlp "posted write dropped")
    else
      let (c, ok) := c.doorbell f off bytes value
      c.when (ok && decide ((doorbellRing off).getD evRing < 8)) fun c => c.wakeBy 2 0

/-! ## I²C and JTAG (R506, R507) -/

/-- I2C_READ32. -/
def execI2cRead32 (addr : Fin 0x10000000) (s : State) : Host.Outcome State Fault Refusal :=
  s.run fun c => if c.i2cAlive then c.request .mgmt false addr 4 0 0 else c

/-- I2C_WRITE32. -/
def execI2cWrite32 (addr : Fin 0x10000000) (value : BitVec 32) (s : State) : Host.Outcome State Fault Refusal :=
  s.run fun c => if c.i2cAlive then c.request .mgmt true addr 4 value.toNat 0 else c

/-- I2C_READ64. -/
def execI2cRead64 (addr : Fin 0x10000000) (s : State) : Host.Outcome State Fault Refusal :=
  s.run fun c => if c.i2cAlive then c.request .mgmt false addr 8 0 0 else c

/-- I2C_WRITE64. -/
def execI2cWrite64 (addr : Fin 0x10000000) (value : BitVec 64) (s : State) : Host.Outcome State Fault Refusal :=
  s.run fun c => if c.i2cAlive then c.request .mgmt true addr 8 value.toNat 0 else c

/-- JTAG_DEBUG_ACCESS: the instruction is loaded, and an access made while it is in force. -/
def execJtagDebugAccess (acc : Option DebugAcc) (s : State) : Host.Outcome State Fault Refusal :=
  s.run fun c =>
    let c := c.tapLoad .debug
    match acc with
    | some a => if c.port.tap = .debug then c.request .jtag a.write a.addr a.bytes a.data 0 else c
    | none => c

end Sys2Proof.Machine
end

