-- ==== Sys2Proof/Machine/Dispatch.lean ====
section
/-! DEFINITION. The meaning of every command: one arm per constructor, one meaning per arm. -/
namespace Sys2Proof.Machine

/-- The effect of a command on everything but the queue of waiting commands. -/
def exec (i : Instr) (s : State) : Host.Outcome State Fault Refusal :=
  match i with
  | .registerWrite by_ addr bytes value => Sys2Proof.Machine.execRegisterWrite by_ addr bytes value s
  | .powerOnReset => Sys2Proof.Machine.execPowerOnReset s
  | .pinReset byResetN rises => Sys2Proof.Machine.execPinReset byResetN rises s
  | .warmReset by_ key => Sys2Proof.Machine.execWarmReset by_ key s
  | .pcieReset => Sys2Proof.Machine.execPcieReset s
  | .resetRelease straps => Sys2Proof.Machine.execResetRelease straps s
  | .relayReached => Sys2Proof.Machine.execRelayReached s
  | .modeReqRelay by_ key => Sys2Proof.Machine.execModeReqRelay by_ key s
  | .modeReqVerify by_ key => Sys2Proof.Machine.execModeReqVerify by_ key s
  | .modeReqService by_ key => Sys2Proof.Machine.execModeReqService by_ key s
  | .modeReqShed by_ key => Sys2Proof.Machine.execModeReqShed by_ key s
  | .modeReqSoak by_ key => Sys2Proof.Machine.execModeReqSoak by_ key s
  | .modeReqQuiesce by_ key => Sys2Proof.Machine.execModeReqQuiesce by_ key s
  | .modeReqTest by_ key => Sys2Proof.Machine.execModeReqTest by_ key s
  | .hwShedExit => Sys2Proof.Machine.execHwShedExit s
  | .transitionComplete => Sys2Proof.Machine.execTransitionComplete s
  | .drainEnd => Sys2Proof.Machine.execDrainEnd s
  | .drainTimeout => Sys2Proof.Machine.execDrainTimeout s
  | .modePendCancel by_ => Sys2Proof.Machine.execModePendCancel by_ s
  | .modePendCntClr by_ => Sys2Proof.Machine.execModePendCntClr by_ s
  | .hifVersionWrite by_ f value => Sys2Proof.Machine.execHifVersionWrite by_ f value s
  | .ringEnable by_ f r value => Sys2Proof.Machine.execRingEnable by_ f r value s
  | .ringReset by_ f r => Sys2Proof.Machine.execRingReset by_ f r s
  | .ringResetComplete f r => Sys2Proof.Machine.execRingResetComplete f r s
  | .fnResetAll by_ f => Sys2Proof.Machine.execFnResetAll by_ f s
  | .cmdDoorbell f off bytes value => Sys2Proof.Machine.execCmdDoorbell f off bytes value s
  | .cplDoorbell f off bytes value => Sys2Proof.Machine.execCplDoorbell f off bytes value s
  | .eventDoorbell f off bytes value => Sys2Proof.Machine.execEventDoorbell f off bytes value s
  | .commandFetch f r read => Sys2Proof.Machine.execCommandFetch f r read s
  | .ulSlot f r => Sys2Proof.Machine.execUlSlot f r s
  | .dlSlot f r => Sys2Proof.Machine.execDlSlot f r s
  | .nop f r => Sys2Proof.Machine.execNop f r s
  | .calStoreExport f r => Sys2Proof.Machine.execCalStoreExport f r s
  | .calStoreImport f r => Sys2Proof.Machine.execCalStoreImport f r s
  | .attestReport f r => Sys2Proof.Machine.execAttestReport f r s
  | .imageLoadLoad f r => Sys2Proof.Machine.execImageLoadLoad f r s
  | .imageLoadFlash f r => Sys2Proof.Machine.execImageLoadFlash f r s
  | .imageLoadCommit f r => Sys2Proof.Machine.execImageLoadCommit f r s
  | .imageLoadErase f r => Sys2Proof.Machine.execImageLoadErase f r s
  | .itemTableRead f r read => Sys2Proof.Machine.execItemTableRead f r read s
  | .hostWriteFailed f q => Sys2Proof.Machine.execHostWriteFailed f q s
  | .completionPost f r => Sys2Proof.Machine.execCompletionPost f r s
  | .coalesceTimeout f q => Sys2Proof.Machine.execCoalesceTimeout f q s
  | .msixUnmask f v => Sys2Proof.Machine.execMsixUnmask f v s
  | .linkEnable by_ l => Sys2Proof.Machine.execLinkEnable by_ l s
  | .linkDisable by_ l => Sys2Proof.Machine.execLinkDisable by_ l s
  | .linkRetrainReq by_ l => Sys2Proof.Machine.execLinkRetrainReq by_ l s
  | .ecvCntClr by_ l => Sys2Proof.Machine.execEcvCntClr by_ l s
  | .linkStormClear by_ l => Sys2Proof.Machine.execLinkStormClear by_ l s
  | .clkLaneDetected l => Sys2Proof.Machine.execClkLaneDetected l s
  | .clkLockAchieved l => Sys2Proof.Machine.execClkLockAchieved l s
  | .bitLockDone l lanes => Sys2Proof.Machine.execBitLockDone l lanes s
  | .alignDone l => Sys2Proof.Machine.execAlignDone l s
  | .capsComplete l => Sys2Proof.Machine.execCapsComplete l s
  | .rateUpDone l => Sys2Proof.Machine.execRateUpDone l s
  | .retrainRelockDone l => Sys2Proof.Machine.execRetrainRelockDone l s
  | .trainStateTimeout l => Sys2Proof.Machine.execTrainStateTimeout l s
  | .holdRetryTimer l => Sys2Proof.Machine.execHoldRetryTimer l s
  | .frameReceive l lanes frac => Sys2Proof.Machine.execFrameReceive l lanes frac s
  | .losAssert l => Sys2Proof.Machine.execLosAssert l s
  | .losDeassert l => Sys2Proof.Machine.execLosDeassert l s
  | .lolAssert l => Sys2Proof.Machine.execLolAssert l s
  | .lolDeassert l => Sys2Proof.Machine.execLolDeassert l s
  | .linkLossTimeout l => Sys2Proof.Machine.execLinkLossTimeout l s
  | .sampleCfgWrite by_ l value => Sys2Proof.Machine.execSampleCfgWrite by_ l value s
  | .sbCapsLo l => Sys2Proof.Machine.execSbCapsLo l s
  | .sbCapsHi l => Sys2Proof.Machine.execSbCapsHi l s
  | .sbAck l => Sys2Proof.Machine.execSbAck l s
  | .sbNak l => Sys2Proof.Machine.execSbNak l s
  | .sbRateGo l => Sys2Proof.Machine.execSbRateGo l s
  | .sbLpEnter l => Sys2Proof.Machine.execSbLpEnter l s
  | .sbTelem l => Sys2Proof.Machine.execSbTelem l s
  | .sbTileAlarm l => Sys2Proof.Machine.execSbTileAlarm l s
  | .sbTtTx l => Sys2Proof.Machine.execSbTtTx l s
  | .sbTtRx l => Sys2Proof.Machine.execSbTtRx l s
  | .sbTtTick l => Sys2Proof.Machine.execSbTtTick l s
  | .sbRingState l => Sys2Proof.Machine.execSbRingState l s
  | .sbAckTimeout l seq => Sys2Proof.Machine.execSbAckTimeout l seq s
  | .lpTxEnter l => Sys2Proof.Machine.execLpTxEnter l s
  | .lpIdleNow by_ l value => Sys2Proof.Machine.execLpIdleNow by_ l value s
  | .lpTxExit l => Sys2Proof.Machine.execLpTxExit l s
  | .wakePatternSeen l => Sys2Proof.Machine.execWakePatternSeen l s
  | .lpRxExit l => Sys2Proof.Machine.execLpRxExit l s
  | .listenComplete vw ve => Sys2Proof.Machine.execListenComplete vw ve s
  | .listenNoSignalTimeout p => Sys2Proof.Machine.execListenNoSignalTimeout p s
  | .ringMessageReceive p words => Sys2Proof.Machine.execRingMessageReceive p words s
  | .ringStateTimer => Sys2Proof.Machine.execRingStateTimer s
  | .peerChangeApply => Sys2Proof.Machine.execPeerChangeApply s
  | .slotBoundary n => Sys2Proof.Machine.execSlotBoundary n s
  | .symbolBoundary n => Sys2Proof.Machine.execSymbolBoundary n s
  | .frameBoundary => Sys2Proof.Machine.execFrameBoundary s
  | .commitGo by_ n tick => Sys2Proof.Machine.execCommitGo by_ n tick s
  | .achLeave by_ n => Sys2Proof.Machine.execAchLeave by_ n s
  | .achReadmit by_ n => Sys2Proof.Machine.execAchReadmit by_ n s
  | .achReadmitHeldStart n => Sys2Proof.Machine.execAchReadmitHeldStart n s
  | .achCntClr by_ n => Sys2Proof.Machine.execAchCntClr by_ n s
  | .rxSymbolDone n cc sym poisoned => Sys2Proof.Machine.execRxSymbolDone n cc sym poisoned s
  | .gainSymbolMeasured n => Sys2Proof.Machine.execGainSymbolMeasured n s
  | .gainStepApply n => Sys2Proof.Machine.execGainStepApply n s
  | .achTxStageStart n cc sym ready => Sys2Proof.Machine.execAchTxStageStart n cc sym ready s
  | .txWindowOpen n w => Sys2Proof.Machine.execTxWindowOpen n w s
  | .txWindowEnd n => Sys2Proof.Machine.execTxWindowEnd n s
  | .paEdge n w on => Sys2Proof.Machine.execPaEdge n w on s
  | .emergencyRampEnd n => Sys2Proof.Machine.execEmergencyRampEnd n s
  | .brEnable by_ n value => Sys2Proof.Machine.execBrEnable by_ n value s
  | .brDisable by_ n value => Sys2Proof.Machine.execBrDisable by_ n value s
  | .brStopComplete n => Sys2Proof.Machine.execBrStopComplete n s
  | .brOccasionStart n => Sys2Proof.Machine.execBrOccasionStart n s
  | .brWindowEval n j => Sys2Proof.Machine.execBrWindowEval n j s
  | .brGainBlock n poison => Sys2Proof.Machine.execBrGainBlock n poison s
  | .brReceptionClose n idx poison => Sys2Proof.Machine.execBrReceptionClose n idx poison s
  | .brSoakSpanEnd n => Sys2Proof.Machine.execBrSoakSpanEnd n s
  | .brCntClr by_ value => Sys2Proof.Machine.execBrCntClr by_ value s
  | .aeMatmul n => Sys2Proof.Machine.execAeMatmul n s
  | .aeGram n => Sys2Proof.Machine.execAeGram n s
  | .aeJdMfSend n => Sys2Proof.Machine.execAeJdMfSend n s
  | .aeJdGramSend n => Sys2Proof.Machine.execAeJdGramSend n s
  | .aeJdReqSend n => Sys2Proof.Machine.execAeJdReqSend n s
  | .aeCommandRead n => Sys2Proof.Machine.execAeCommandRead n s
  | .aeTileDone n mismatch => Sys2Proof.Machine.execAeTileDone n mismatch s
  | .aeCommandComplete n => Sys2Proof.Machine.execAeCommandComplete n s
  | .aeJdWaitTimeout n => Sys2Proof.Machine.execAeJdWaitTimeout n s
  | .aeResInject by_ n => Sys2Proof.Machine.execAeResInject by_ n s
  | .aeCntClr by_ n => Sys2Proof.Machine.execAeCntClr by_ n s
  | .aeJdCntClr by_ => Sys2Proof.Machine.execAeJdCntClr by_ s
  | .aeMemCopyDone => Sys2Proof.Machine.execAeMemCopyDone s
  | .ldpcDec k => Sys2Proof.Machine.execLdpcDec k s
  | .ldpcEnc k => Sys2Proof.Machine.execLdpcEnc k s
  | .polarDec k => Sys2Proof.Machine.execPolarDec k s
  | .polarEnc k => Sys2Proof.Machine.execPolarEnc k s
  | .turboDec k => Sys2Proof.Machine.execTurboDec k s
  | .turboEnc k => Sys2Proof.Machine.execTurboEnc k s
  | .convDec k => Sys2Proof.Machine.execConvDec k s
  | .convEnc k => Sys2Proof.Machine.execConvEnc k s
  | .codeHarqEntryRead k => Sys2Proof.Machine.execCodeHarqEntryRead k s
  | .codeBlockDone k => Sys2Proof.Machine.execCodeBlockDone k s
  | .codeJobComplete k => Sys2Proof.Machine.execCodeJobComplete k s
  | .harqFlush by_ => Sys2Proof.Machine.execHarqFlush by_ s
  | .harqFlushComplete => Sys2Proof.Machine.execHarqFlushComplete s
  | .harqTtlSweep => Sys2Proof.Machine.execHarqTtlSweep s
  | .codeCntClr by_ => Sys2Proof.Machine.execCodeCntClr by_ s
  | .despreadPeriodEnd n obs same => Sys2Proof.Machine.execDespreadPeriodEnd n obs same s
  | .guardExchange clash => Sys2Proof.Machine.execGuardExchange clash s
  | .sweepComplete res => Sys2Proof.Machine.execSweepComplete res s
  | .tempReadTimer => Sys2Proof.Machine.execTempReadTimer s
  | .calStoreSave by_ value => Sys2Proof.Machine.execCalStoreSave by_ value s
  | .calStoreWriteComplete => Sys2Proof.Machine.execCalStoreWriteComplete s
  | .eraseLeftoverDone => Sys2Proof.Machine.execEraseLeftoverDone s
  | .calCntClr by_ => Sys2Proof.Machine.execCalCntClr by_ s
  | .issueGroup e busy => Sys2Proof.Machine.execIssueGroup e busy s
  | .loadDataArrive e k => Sys2Proof.Machine.execLoadDataArrive e k s
  | .storeAck e k => Sys2Proof.Machine.execStoreAck e k s
  | .ccFillComplete n => Sys2Proof.Machine.execCcFillComplete n s
  | .ccWritebackComplete n => Sys2Proof.Machine.execCcWritebackComplete n s
  | .interruptTaken e => Sys2Proof.Machine.execInterruptTaken e s
  | .holdoffOverrun e => Sys2Proof.Machine.execHoldoffOverrun e s
  | .tcmpTimer e => Sys2Proof.Machine.execTcmpTimer e s
  | .ccCleanAll by_ n => Sys2Proof.Machine.execCcCleanAll by_ n s
  | .cluCcCntClr by_ n => Sys2Proof.Machine.execCluCcCntClr by_ n s
  | .engHalt by_ e => Sys2Proof.Machine.execEngHalt by_ e s
  | .engStep by_ e => Sys2Proof.Machine.execEngStep by_ e s
  | .engResume by_ e => Sys2Proof.Machine.execEngResume by_ e s
  | .engMboxWrite by_ e value => Sys2Proof.Machine.execEngMboxWrite by_ e value s
  | .taskAccept addr => Sys2Proof.Machine.execTaskAccept addr s
  | .sqDoorbell by_ n value => Sys2Proof.Machine.execSqDoorbell by_ n value s
  | .sqCfgWrite by_ n value => Sys2Proof.Machine.execSqCfgWrite by_ n value s
  | .sqDescriptorRead n => Sys2Proof.Machine.execSqDescriptorRead n s
  | .dispatch => Sys2Proof.Machine.execDispatch s
  | .taskComplete u k st => Sys2Proof.Machine.execTaskComplete u k st s
  | .foldRelease flow => Sys2Proof.Machine.execFoldRelease flow s
  | .taskDeadlinePassed => Sys2Proof.Machine.execTaskDeadlinePassed s
  | .taskHang => Sys2Proof.Machine.execTaskHang s
  | .relRdWrite by_ flow value => Sys2Proof.Machine.execRelRdWrite by_ flow value s
  | .bundleLoad by_ index addr => Sys2Proof.Machine.execBundleLoad by_ index addr s
  | .bundleUnload by_ index => Sys2Proof.Machine.execBundleUnload by_ index s
  | .bundleLoadComplete => Sys2Proof.Machine.execBundleLoadComplete s
  | .clSubmit by_ value => Sys2Proof.Machine.execClSubmit by_ value s
  | .clEntryInsert => Sys2Proof.Machine.execClEntryInsert s
  | .clCancel by_ value => Sys2Proof.Machine.execClCancel by_ value s
  | .clFireTask => Sys2Proof.Machine.execClFireTask s
  | .clFirePower => Sys2Proof.Machine.execClFirePower s
  | .clFireWrite32 => Sys2Proof.Machine.execClFireWrite32 s
  | .clFireDevice act => Sys2Proof.Machine.execClFireDevice act s
  | .schedLeave by_ u => Sys2Proof.Machine.execSchedLeave by_ u s
  | .schedReadmit by_ u => Sys2Proof.Machine.execSchedReadmit by_ u s
  | .schedSubst by_ u => Sys2Proof.Machine.execSchedSubst by_ u s
  | .unitDrainComplete u => Sys2Proof.Machine.execUnitDrainComplete u s
  | .spareSelftestDone u pass => Sys2Proof.Machine.execSpareSelftestDone u pass s
  | .unitAdmitComplete u => Sys2Proof.Machine.execUnitAdmitComplete u s
  | .routeChange by_ gen => Sys2Proof.Machine.execRouteChange by_ gen s
  | .routeDrainComplete => Sys2Proof.Machine.execRouteDrainComplete s
  | .routeChangeTimeout => Sys2Proof.Machine.execRouteChangeTimeout s
  | .packetArrive pkt answered clash => Sys2Proof.Machine.execPacketArrive pkt answered clash s
  | .flitCrcFail router out first => Sys2Proof.Machine.execFlitCrcFail router out first s
  | .portIsolate port => Sys2Proof.Machine.execPortIsolate port s
  | .fabReadmit by_ port => Sys2Proof.Machine.execFabReadmit by_ port s
  | .fabProbeResult ok => Sys2Proof.Machine.execFabProbeResult ok s
  | .bankHandover by_ cluster bank value => Sys2Proof.Machine.execBankHandover by_ cluster bank value s
  | .handoverApply => Sys2Proof.Machine.execHandoverApply s
  | .retRequestWrite by_ target value => Sys2Proof.Machine.execRetRequestWrite by_ target value s
  | .bankRetainEnter index => Sys2Proof.Machine.execBankRetainEnter index s
  | .bankRetainDone index => Sys2Proof.Machine.execBankRetainDone index s
  | .hbmFillComplete => Sys2Proof.Machine.execHbmFillComplete s
  | .memCntClr by_ => Sys2Proof.Machine.execMemCntClr by_ s
  | .darnerRepair bucket => Sys2Proof.Machine.execDarnerRepair bucket s
  | .patrolRead => Sys2Proof.Machine.execPatrolRead s
  | .patrolPeriodStart => Sys2Proof.Machine.execPatrolPeriodStart s
  | .tmrCheck upset => Sys2Proof.Machine.execTmrCheck upset s
  | .bucketUpdate => Sys2Proof.Machine.execBucketUpdate s
  | .integInjectArm by_ value => Sys2Proof.Machine.execIntegInjectArm by_ value s
  | .integCntClr by_ => Sys2Proof.Machine.execIntegCntClr by_ s
  | .plrLoadStart r img => Sys2Proof.Machine.execPlrLoadStart r img s
  | .plrDrainTimeout r => Sys2Proof.Machine.execPlrDrainTimeout r s
  | .plrFramesDone r found => Sys2Proof.Machine.execPlrFramesDone r found s
  | .plrCheckDone r pass => Sys2Proof.Machine.execPlrCheckDone r pass s
  | .plrUnload by_ r => Sys2Proof.Machine.execPlrUnload by_ r s
  | .plrTaskAccept p => Sys2Proof.Machine.execPlrTaskAccept p s
  | .plrTaskDone p slot status => Sys2Proof.Machine.execPlrTaskDone p slot status s
  | .plrMasterRequest r write addr bytes data poison => Sys2Proof.Machine.execPlrMasterRequest r write addr bytes data poison s
  | .plrPoisonPulse r kind => Sys2Proof.Machine.execPlrPoisonPulse r kind s
  | .plrInputFire p lvl => Sys2Proof.Machine.execPlrInputFire p lvl s
  | .plrStormCheck => Sys2Proof.Machine.execPlrStormCheck s
  | .plrStormUnmask by_ q value => Sys2Proof.Machine.execPlrStormUnmask by_ q value s
  | .bankSupplyChange b mv => Sys2Proof.Machine.execBankSupplyChange b mv s
  | .plrCntClr by_ => Sys2Proof.Machine.execPlrCntClr by_ s
  | .ethFrameReceive q f => Sys2Proof.Machine.execEthFrameReceive q f s
  | .uplaneReceive q m => Sys2Proof.Machine.execUplaneReceive q m s
  | .uplaneWindowClose r prach sfn sym => Sys2Proof.Machine.execUplaneWindowClose r prach sfn sym s
  | .cplaneSend f ring count => Sys2Proof.Machine.execCplaneSend f ring count s
  | .prachCplaneSend r slot => Sys2Proof.Machine.execPrachCplaneSend r slot s
  | .uplaneSend r sfn sym ready => Sys2Proof.Machine.execUplaneSend r sfn sym ready s
  | .ruEnable by_ r value => Sys2Proof.Machine.execRuEnable by_ r value s
  | .owdRequest by_ r => Sys2Proof.Machine.execOwdRequest by_ r s
  | .owdResponse r delay => Sys2Proof.Machine.execOwdResponse r delay s
  | .owdTimeout r => Sys2Proof.Machine.execOwdTimeout r s
  | .ptpMessageReceive q msg => Sys2Proof.Machine.execPtpMessageReceive q msg s
  | .ptpSendTimer q kind => Sys2Proof.Machine.execPtpSendTimer q kind s
  | .esmcSendTimer q => Sys2Proof.Machine.execEsmcSendTimer q s
  | .esmcReceive q ql => Sys2Proof.Machine.execEsmcReceive q ql s
  | .esmcTimeout q => Sys2Proof.Machine.execEsmcTimeout q s
  | .ppsInEdge half => Sys2Proof.Machine.execPpsInEdge half s
  | .ppsInLoss => Sys2Proof.Machine.execPpsInLoss s
  | .ppsOutEdge => Sys2Proof.Machine.execPpsOutEdge s
  | .timeLockTimer => Sys2Proof.Machine.execTimeLockTimer s
  | .revertWtrTimer => Sys2Proof.Machine.execRevertWtrTimer s
  | .timeAlarm => Sys2Proof.Machine.execTimeAlarm s
  | .ringHoldTimer => Sys2Proof.Machine.execRingHoldTimer s
  | .domainRequest by_ d st => Sys2Proof.Machine.execDomainRequest by_ d st s
  | .domainIdle d => Sys2Proof.Machine.execDomainIdle d s
  | .domainIdleTimeout d => Sys2Proof.Machine.execDomainIdleTimeout d s
  | .mangleRampDone => Sys2Proof.Machine.execMangleRampDone s
  | .domainWakeDone d => Sys2Proof.Machine.execDomainWakeDone d s
  | .domainEntryDone d => Sys2Proof.Machine.execDomainEntryDone d s
  | .domPendCancel by_ d => Sys2Proof.Machine.execDomPendCancel by_ d s
  | .domPendCntClr by_ d => Sys2Proof.Machine.execDomPendCntClr by_ d s
  | .shedStageEnter k v => Sys2Proof.Machine.execShedStageEnter k v s
  | .shedStageClear v => Sys2Proof.Machine.execShedStageClear v s
  | .pwrWarnAssert => Sys2Proof.Machine.execPwrWarnAssert s
  | .pwrWarnDeassert railDone => Sys2Proof.Machine.execPwrWarnDeassert railDone s
  | .shedStageClrWrite by_ v => Sys2Proof.Machine.execShedStageClrWrite by_ v s
  | .soakTx q => Sys2Proof.Machine.execSoakTx q s
  | .soakDomainReturn => Sys2Proof.Machine.execSoakDomainReturn s
  | .soakWake src link => Sys2Proof.Machine.execSoakWake src link s
  | .soakMaxSleepTimer => Sys2Proof.Machine.execSoakMaxSleepTimer s
  | .imageVerifyDone code => Sys2Proof.Machine.execImageVerifyDone code s
  | .hostDone by_ => Sys2Proof.Machine.execHostDone by_ s
  | .hostImageTimeout => Sys2Proof.Machine.execHostImageTimeout s
  | .newNonce by_ => Sys2Proof.Machine.execNewNonce by_ s
  | .fuseProgramDone => Sys2Proof.Machine.execFuseProgramDone s
  | .attestSignDone => Sys2Proof.Machine.execAttestSignDone s
  | .flashOpDone => Sys2Proof.Machine.execFlashOpDone s
  | .pllLol p => Sys2Proof.Machine.execPllLol p s
  | .pllRelock p => Sys2Proof.Machine.execPllRelock p s
  | .refclkLoss b => Sys2Proof.Machine.execRefclkLoss b s
  | .sensorRound temps volts => Sys2Proof.Machine.execSensorRound temps volts s
  | .avsTimeout => Sys2Proof.Machine.execAvsTimeout s
  | .ageingCompute counts acked => Sys2Proof.Machine.execAgeingCompute counts acked s
  | .i2cRead32 addr => Sys2Proof.Machine.execI2cRead32 addr s
  | .i2cWrite32 addr value => Sys2Proof.Machine.execI2cWrite32 addr value s
  | .i2cRead64 addr => Sys2Proof.Machine.execI2cRead64 addr s
  | .i2cWrite64 addr value => Sys2Proof.Machine.execI2cWrite64 addr value s
  | .i2cWarmReset key => Sys2Proof.Machine.execI2cWarmReset key s
  | .i2cWake => Sys2Proof.Machine.execI2cWake s
  | .i2cStatus => Sys2Proof.Machine.execI2cStatus s
  | .jtagReset => Sys2Proof.Machine.execJtagReset s
  | .jtagBypass => Sys2Proof.Machine.execJtagBypass s
  | .jtagIdcode => Sys2Proof.Machine.execJtagIdcode s
  | .jtagSamplePreload pins next => Sys2Proof.Machine.execJtagSamplePreload pins next s
  | .jtagExtest pins next => Sys2Proof.Machine.execJtagExtest pins next s
  | .jtagClamp => Sys2Proof.Machine.execJtagClamp s
  | .jtagHighz => Sys2Proof.Machine.execJtagHighz s
  | .jtagExtestPulse pins next => Sys2Proof.Machine.execJtagExtestPulse pins next s
  | .jtagExtestTrain pins next => Sys2Proof.Machine.execJtagExtestTrain pins next s
  | .jtagDebugAccess acc => Sys2Proof.Machine.execJtagDebugAccess acc s
  | .supplyLoss aon => Sys2Proof.Machine.execSupplyLoss aon s
  | .brownOutRelease => Sys2Proof.Machine.execBrownOutRelease s
  | .ttFrameSend l frac => Sys2Proof.Machine.execTtFrameSend l frac s
  | .sbUnsupportedCmd l => Sys2Proof.Machine.execSbUnsupportedCmd l s
  | .ethLinkChange q up => Sys2Proof.Machine.execEthLinkChange q up s
  | .osc10mPresenceChange => Sys2Proof.Machine.execOsc10mPresenceChange s
  | .refclkReturn b => Sys2Proof.Machine.execRefclkReturn b s
  | .pcieLinkUp gen width flit => Sys2Proof.Machine.execPcieLinkUp gen width flit s

end Sys2Proof.Machine
end

