-- ==== Sys2Proof/Machine/Tick.lean ====
section
/-! DEFINITION. What one tick of the counter does when no command waits (spec/00 R13; spec/12 R347; log entry 2): the
Clothesline's entries fall due, links end what the next tick ends, memory blocks of the PLR are clocked, a fill passes words,
HOLDOVER counts. -/
namespace Sys2Proof.Machine

/-- What waits for nothing any more goes on: anterooms (R367), requests that a fill has passed (R390), locks (R456). -/
def Chip.goOn (c : Chip) : Chip := c.anteRelease.waitServe.shedLocks

/-- The counter advances by one; it stands while PLL 0 has no lock (R495). -/
def Chip.tickOn (c : Chip) : Chip :=
  if !bit (c.rd F.CLK_PLL_STAT_LOCK) 0 then c.goOn
  else
    let c := c.withTick (tickAdd c.tick 1)
    let c := c.when (c.tick == 0) fun c => c.withTime { c.time with epoch := c.time.epoch.map (· + 1) }
    let c := c.when (c.rd F.TIME_STAT_STATE == 3) fun c =>
      c.withTime { c.time with holdTicks := c.time.holdTicks + 1 }
    c.clTick.linkTick.calTick.brTick.plrTick.goOn

end Sys2Proof.Machine
end

