-- ==== Sys2Proof/Safety.lean ====
section
/-! DEFINITION. What holds of every state a run should stay in: the tables of the state in canonical form, so that equal
contents are equal data; and the words in which claims about commands are stated. -/
namespace Sys2Proof.Machine

/-! ## Canonical forms -/

/-- Keys of the register table strictly rising. -/
def regsWf (t : Tbl Nat) : Bool := Tbl.rising 0 t

/-- Memory in canonical form: addresses strictly rising, no listed byte equal to 0, which is what an unlisted one reads
as (log entry 5). -/
def Memory.wf (t : Tbl Byte) : Bool := Tbl.wf (fun _ => 0) t

/-- Poison flags in canonical form: only words that are poisoned are listed. -/
def poisonWf (t : Tbl Bool) : Bool := Tbl.wf (fun _ => false) t

/-- Stored errors in canonical form: only words with an inverted bit are listed. -/
def upsetWf (t : Tbl Nat) : Bool := Tbl.wf (fun _ => 0) t

/-! ## Words of claims -/

/-- The state after a command whose effect leaves the chip as `c`: the queue of waiting commands as it was, and ALERT_N
following its conditions (R515), as the queue of postable completions does (R93). -/
def State.to (s : State) (c : Chip) : State := { s with chip := c.settle }

/-- No access is noted as having met a domain that is not ON, a bank in RETAIN or a fill (R38, R386, R390). Of the chip that a
stage's effect leaves, it says that none of the stage's own accesses had to wait. -/
def Chip.awake (c : Chip) : Bool := c.mems.asleep.isEmpty

/-- Requester `p` may write a register whose write modes are `modes`: the mode is one of them (R16), and the requester
reaches control space (R33, R507). -/
def State.may (s : State) (p : Port) (modes : Nat) : Bool := s.chip.modeIn modes && s.chip.reachesAll p

/-- The same of a register in the page of function `f` (R77). -/
def State.mayFn (s : State) (p : Port) (f modes : Nat) : Bool := s.chip.modeIn modes && s.chip.reachesFn p f

/-- Link `l` with the oldest received sideband message taken from those that wait, `t` being the rest (R116). -/
def Chip.sbRest (c : Chip) (l : Nat) (t : List Nat) : Chip := c.updLink l fun x => { x with sbRx := t }

/-- ALERT_N is asserted exactly when a condition of R515 holds. -/
def State.alertRight (s : State) : Prop := s.chip.dev.alert = s.chip.alertWanted

end Sys2Proof.Machine

namespace Sys2Proof

/-- The requester and the write modes of the registers that a command's row writes, for the rows that are a write of one
control register outside the function pages (the italic line of the register, R16; bit k: mode k). -/
def Instr.guard (i : Instr) : Option (Port × Nat) :=
  match i with
  | .warmReset p _ | .modeReqRelay p _ | .modeReqVerify p _ | .modeReqService p _ | .modeReqShed p _ | .modeReqSoak p _
  | .modeReqQuiesce p _ | .modeReqTest p _ | .modePendCancel p | .modePendCntClr p | .linkEnable p _ | .linkDisable p _
  | .linkRetrainReq p _ | .ecvCntClr p _ | .linkStormClear p _ | .achLeave p _ | .achReadmit p _ | .achCntClr p _
  | .brEnable p _ _ | .brDisable p _ _ | .brCntClr p _ | .aeResInject p _ | .aeCntClr p _ | .harqFlush p | .codeCntClr p
  | .calCntClr p | .sqDoorbell p _ _ | .sqCfgWrite p _ _ | .relRdWrite p _ _ | .schedLeave p _ | .schedReadmit p _
  | .schedSubst p _ | .routeChange p _ | .bankHandover p _ _ _ | .retRequestWrite p _ _ | .memCntClr p
  | .integInjectArm p _ | .integCntClr p | .plrUnload p _ | .plrStormUnmask p _ _ | .plrCntClr p
  | .shedStageClrWrite p _ => some (p, 0xFE)
  | .sampleCfgWrite p _ _ | .lpIdleNow p _ _ | .commitGo p _ _ | .aeJdCntClr p | .bundleLoad p _ _ | .bundleUnload p _
  | .ruEnable p _ _ | .hostDone p | .newNonce p => some (p, 0xBE)
  | .calStoreSave p _ => some (p, 0x9C)
  | .ccCleanAll p _ | .cluCcCntClr p _ | .engMboxWrite p _ _ | .fabReadmit p _ | .owdRequest p _ => some (p, 0xD8)
  | .engHalt p _ | .engStep p _ | .engResume p _ => some (p, 0x80)
  | .clSubmit p _ | .clCancel p _ | .domainRequest p _ _ | .domPendCancel p _ | .domPendCntClr p _ => some (p, 0xFC)
  | _ => none

/-- The commands that only set, clear or count registers and queues, and store nothing in any memory. -/
def Instr.storesNothing (i : Instr) : Bool :=
  match i with
  | .modePendCntClr _ | .ecvCntClr _ _ | .achCntClr _ _ | .brCntClr _ _ | .aeResInject _ _
  | .aeCntClr _ _ | .aeJdCntClr _ | .harqFlush _ | .codeCntClr _ | .calCntClr _ | .cluCcCntClr _ _ | .sqDoorbell _ _ _
  | .sqCfgWrite _ _ _ | .relRdWrite _ _ _ | .bundleLoad _ _ _ | .clSubmit _ _ | .clCancel _ _ | .routeChange _ _
  | .routeDrainComplete | .routeChangeTimeout | .fabReadmit _ _ | .fabProbeResult _ | .memCntClr _ | .bankHandover _ _ _ _
  | .integInjectArm _ _ | .integCntClr _ | .tmrCheck _ | .patrolPeriodStart | .plrCntClr _ | .domPendCntClr _ _
  | .shedStageClrWrite _ _ | .newNonce _ | .frameBoundary => true
  | _ => false

end Sys2Proof
end

