-- ==== Sys2Proof/Certificates/Slice0/Obligations.lean ====
section
/-! DEFINITION. The statements for the provers: for every command that it completes, and with which next state, in the states
and for the operands its rules name; and the rules of the spec that hold of the whole device. Each docstring names the rules
its statement rests on, and the log entry where the statement rests on a choice of the model. A completion statement gives the
whole next state, so it is the command's frame as well: what the change named in it does not write is unchanged. -/

open Sys2Proof Sys2Proof.Machine

/-! ## The fabric -/

/-- Routes, replays, isolation and re-admission (R362, R365, R369, R370): in the states each command is for, it answers a
next state with exactly these changes. The port of PORT_ISOLATE serves no unit here; the units' departure is R352's. -/
def Obligations.FabricCommandsComplete : Prop :=
  (∀ (s : State) (p : Port) (gen : Nat), s.may p 0xFE = true → s.chip.flag F.FAB_ROUTE_GEN_BUSY = false →
    gen % 256 = (s.chip.rd F.FAB_ROUTE_GEN_GEN + 1) % 256 → s.chip.shadowOk = true →
    exec (.routeChange p gen) s = .next (s.to
      (((s.chip.withFab { s.chip.fab with change := some (gen % 256) }).wr F.FAB_ROUTE_GEN_BUSY 1).report p .ok))) ∧
  (∀ (s : State) (g : Nat), s.chip.fab.change = some g →
    exec .routeDrainComplete s = .next (s.to ((((s.chip.copyRoutes.wr F.FAB_ROUTE_GEN_GEN g).wr F.FAB_ROUTE_GEN_BUSY
      0).wr F.FAB_ROUTE_GEN_LAST_STATUS 0).withFab { s.chip.copyRoutes.fab with change := none }))) ∧
  (∀ (s : State) (g : Nat), s.chip.fab.change = some g →
    exec .routeChangeTimeout s = .next (s.to (((((s.chip.wr F.FAB_ROUTE_GEN_BUSY 0).incSat F.FAB_RECFG_TIMEOUT_COUNT).wr
      F.FAB_RECFG_TIMEOUT_LAST_GEN g).wr F.FAB_RECFG_TIMEOUT_SET 1).withFab { s.chip.fab with change := none }))) ∧
  (∀ (s : State) (r : Fin 80) (d : Fin 4) (first : Bool),
    exec (.flitCrcFail r d first) s = .next (s.to (
      let n := (if first then 0 else Tbl.get s.chip.fab.replays (4 * r + d) 0) + 1
      let c := (s.chip.withFab { s.chip.fab with
        replays := Tbl.set s.chip.fab.replays (4 * r + d) n 0 }).incMod F.FAB_ERR_CNT_REPLAY
      if n = 64 then (c.wr F.FAB_ERR_CNT_STUCK 1).post .targetIsolated srcFab evIsolated (4 * r + d + 2 * 2 ^ 16) 0
      else c))) ∧
  (∀ (s : State) (q : Fin 320) (k : Pkt) (r : List Pkt), Tbl.get s.chip.fab.open_ q [] = k :: r →
    s.chip.flag F.FAB_PORT_STAT_ISOLATED q = false → s.chip.portUnits q = [] →
    exec (.portIsolate q) s = .next (s.to (
      let reqs := (k :: r) ++ Tbl.get s.chip.fab.ante q []
      let c := reqs.foldl (fun c k => c.absorb k .targetIsolated) (s.chip.withFab { s.chip.fab with
        open_ := Tbl.erase s.chip.fab.open_ q
        ante := Tbl.erase s.chip.fab.ante q })
      (((c.wr F.FAB_PORT_STAT_ISOLATED 1 q).incSat F.FAB_ERR_CNT_ISOLATIONS).incSat F.FAB_PORT_STAT_ABSORBED q 0
        reqs.length).post .targetIsolated srcFab evIsolated (q + 1 * 2 ^ 16 + 0x7FF * 2 ^ 32 + min reqs.length 0xFFFF * 2 ^ 48)
        (k.addr % 2 ^ 48)))) ∧
  (∀ (s : State) (p : Port) (port : Nat), s.may p 0xD8 = true → s.chip.flag F.FAB_READMIT_GO = false →
    s.chip.portUnits (port % 512) = [] →
    exec (.fabReadmit p port) s = .next (s.to (((s.chip.wr F.FAB_READMIT_PORT port).wr F.FAB_READMIT_GO 1).report p .ok))) ∧
  (∀ (s : State), s.chip.flag F.FAB_READMIT_GO = true → s.chip.again.contains (F.FAB_READMIT_GO.key 0 0) = false →
    exec (.fabProbeResult true) s = .next (s.to (((s.chip.wr F.FAB_PORT_STAT_ISOLATED 0 (s.chip.rd F.FAB_READMIT_PORT)).wr
      F.FAB_READMIT_LAST_STATUS 0).wr F.FAB_READMIT_GO 0)) ∧
    exec (.fabProbeResult false) s = .next (s.to ((s.chip.wr F.FAB_READMIT_LAST_STATUS Status.targetIsolated.code).wr
      F.FAB_READMIT_GO 0)))

/-! ## Memory and integrity -/

/-- Handovers, retention and the fills of HBM (R377, R378, R387, R390): in the states each command is for, it answers a next
state with exactly these changes. A stage of a unit whose accesses meet memory that is awake has its effect at once; one
that meets a sleeping domain, a bank in RETAIN or a fill wakes it, and nothing else of the stage has happened (R38, R367,
R386). -/
def Obligations.MemoryCommandsComplete : Prop :=
  (∀ (s : State) (p : Port) (n : Fin 16) (b : Fin 32) (v : Nat), s.may p 0xFE = true → bit v 40 = false →
    s.chip.handoverStatus n b false (bits v 58 48) (bits v 10 0) = .ok →
    exec (.bankHandover p n b v) s = .next (s.to (s.chip.withMems { s.chip.mems with
      handovers := s.chip.mems.handovers ++ [⟨n, b, false, bits v 10 0, p⟩] }))) ∧
  (∀ (s : State) (p : Port) (n : Fin 16) (b : Fin 32) (v : Nat), s.may p 0xFE = true → bit v 40 = true →
    s.chip.handoverStatus n b true (bits v 58 48) (bits v 26 16) = .ok →
    exec (.bankHandover p n b v) s = .next (s.to (s.chip.withMems { s.chip.mems with
      handovers := s.chip.mems.handovers ++ [⟨n, b, true, bits v 26 16, p⟩] }))) ∧
  (∀ (s : State) (h : Handover) (r : List Handover), s.chip.mems.handovers = h :: r →
    exec .handoverApply s = .next (s.to (
      let c := s.chip.withMems { s.chip.mems with handovers := r }
      let c := if h.portB then c.wr F.MEM_BANK_OWN_OWN_B h.owner h.cluster h.bank
        else c.wr F.MEM_BANK_OWN_OWN_A h.owner h.cluster h.bank
      ((c.wr F.MEM_BANK_OWN_LAST_STATUS 0 h.cluster h.bank).incSat F.MEM_CNT_HANDOVERS).report h.by_ .ok))) ∧
  (∀ (s : State) (p : Port) (n : Fin 17) (v : Nat), s.may p 0xFE = true → n.val < 16 →
    exec (.retRequestWrite p n v) s = .next (s.to (((retIndices (some n.val)).foldl Chip.retLeave
      (s.chip.wr F.MEM_CLU_RET_REQ (v % 2 ^ 32) n)).report p .ok))) ∧
  (∀ (s : State) (p : Port) (v : Nat), s.may p 0xFE = true →
    exec (.retRequestWrite p 16 v) s = .next (s.to (((retIndices none).foldl Chip.retLeave
      (s.chip.wr F.MEM_POOL_RET_REQ (v % 2 ^ 64))).report p .ok))) ∧
  (∀ (s : State) (k : Fin 576), s.chip.retPhase k = .on → s.chip.retReq k = true →
    exec (.bankRetainEnter k) s = .next (s.to (s.chip.setRetPhase k .entering))) ∧
  (∀ (s : State) (k : Fin 576), s.chip.retPhase k = .leaving →
    exec (.bankRetainDone k) s = .next (s.to (s.chip.setRetPhase k .on).waitServe)) ∧
  (∀ (s : State) (k : Fin 576), s.chip.retPhase k = .entering →
    exec (.bankRetainDone k) s = .next (s.to ((s.chip.setRetPhase k .retained).retLeave k).waitServe)) ∧
  (∀ (s : State) (p : Port), s.may p 0xFE = true →
    exec (.memCntClr p) s = .next (s.to ((s.chip.clrFields [F.MEM_STAT_NOT_OWNER, F.MEM_STAT_BUSY, F.MEM_STAT_NARROW,
      F.MEM_STAT_REPLAY, F.MEM_CNT_RET_WAKES, F.MEM_CNT_HANDOVERS, F.MEM_CNT_HANDOVER_FAIL]).report p .ok))) ∧
  (∀ (s : State) (x : Nat) (r : List Nat), s.chip.mems.filling = x :: r →
    exec .hbmFillComplete s = .next (s.to (s.chip.withMems { s.chip.mems with
      filling := r.filter fun k => Tbl.get s.chip.mems.fillTick k 0 != Tbl.get s.chip.mems.fillTick x 0 }).waitServe)) ∧
  (∀ (s : State) (f : Chip → Chip), s.chip.awake = true →
    ((f s.chip).awake = true → s.stage f = .next (s.to (f s.chip))) ∧
    ((f s.chip).awake = false → s.stage f = .next (s.to ((f s.chip).mems.asleep.foldl Chip.rouse s.chip))))

/-- The Darner, the triplicated words, the leaky buckets and injection (R397, R398, R401, R404, R411): in the states each
command is for, it answers a next state with exactly these changes. -/
def Obligations.IntegrityCommandsComplete : Prop :=
  (∀ (s : State) (b : Fin 128) (a : Nat) (r : List Nat), s.chip.darnerRuns = true →
    s.chip.flag F.INTEG_CTRL_REPAIR_EN = true → Tbl.get s.chip.integ.repair b [] = a :: r →
    exec (.darnerRepair b) s = .next (s.to (
      let c := s.chip.withInteg { s.chip.integ with repair := Tbl.set s.chip.integ.repair b r [] }
      if 112 ≤ b.val ∧ b.val < 120 then c.blkRewrite (b - 112) (a / 4608) (a / 16 % 288) else c.rewrite a))) ∧
  (∀ (s : State), s.chip.darnerRuns = true → s.chip.flag F.INTEG_CTRL_DARNER_EN = true → s.chip.integ.patrolWait = false →
    exec .patrolRead s = .next (s.to (
      let c := s.chip.patrolVisit s.chip.integ.patrolPos
      if c.integ.patrolPos + 1 < patrolWords then c.withInteg { c.integ with patrolPos := c.integ.patrolPos + 1 }
      else
        let d := (c.incMod F.INTEG_DARNER_STAT_PASSES).wr F.INTEG_DARNER_STAT_LAG 0
        d.withInteg { d.integ with
          patrolPos := 0
          patrolWait := !c.flag F.INTEG_DARNER_STAT_LAG }))) ∧
  (∀ (s : State), s.chip.darnerRuns = true → s.chip.flag F.INTEG_CTRL_DARNER_EN = true →
    s.chip.integ.patrolWait = false → s.chip.integ.patrolPos < patrolMem →
    s.chip.patrolReads (patrolAddr s.chip.integ.patrolPos) = false ∨
      (s.chip.decodeAt (patrolAddr s.chip.integ.patrolPos)).found = .clean →
    exec .patrolRead s = .next (s.to (s.chip.withInteg { s.chip.integ with
      patrolPos := s.chip.integ.patrolPos + 1 }))) ∧
  (∀ (s : State), s.chip.darnerRuns = true → s.chip.flag F.INTEG_CTRL_DARNER_EN = true →
    (s.chip.integ.patrolWait = true →
      exec .patrolPeriodStart s = .next (s.to (s.chip.withInteg { s.chip.integ with patrolWait := false }))) ∧
    (s.chip.integ.patrolWait = false →
      exec .patrolPeriodStart s = .next (s.to (s.chip.wr F.INTEG_DARNER_STAT_LAG 1)))) ∧
  (∀ (s : State) (l : List (Fin 96)), s.chip.mode ≠ mBypass →
    exec (.tmrCheck l) s = .next (s.to (l.foldl (fun (c : Chip) (w : Fin 96) => ((((c.incSat F.INTEG_TMR_FIX_FIXES).wr
      F.INTEG_TMR_FIX_LAST_WORD w.val).wr F.INTEG_TMR_FIX_SEEN 1).bucketAdd 120 1 5 0).incSat F.INTEG_BUCKET_STAT_CE 120)
      s.chip))) ∧
  (∀ (s : State), exec .bucketUpdate s = .next (s.to (
    let c := (List.range 128).foldl Chip.bucketStep (s.chip.withInteg { s.chip.integ with ms := s.chip.integ.ms + 1 })
    c.withInteg { c.integ with adds := [] }))) ∧
  (∀ (s : State) (p : Port) (v : Nat), s.may p 0xFE = true → bits v 1 0 = 1 → bits v 55 48 ≤ 137 →
    onDevice (bits v 47 4 * 16) = true →
    exec (.integInjectArm p v) s = .next (s.to (((((s.chip.wr F.INTEG_INJECT_KIND 1).wr F.INTEG_INJECT_BIT_A
      (bits v 55 48)).wr F.INTEG_INJECT_BIT_B (bits v 63 56)).wr F.INTEG_INJECT_ADDR (bits v 47 4)).report p .ok))) ∧
  (∀ (s : State) (p : Port) (v : Nat), s.may p 0xFE = true → bits v 1 0 = 2 → bits v 55 48 ≤ 137 → bits v 63 56 ≤ 137 →
    bits v 55 48 ≠ bits v 63 56 → onDevice (bits v 47 4 * 16) = true →
    exec (.integInjectArm p v) s = .next (s.to (((((s.chip.wr F.INTEG_INJECT_KIND 2).wr F.INTEG_INJECT_BIT_A
      (bits v 55 48)).wr F.INTEG_INJECT_BIT_B (bits v 63 56)).wr F.INTEG_INJECT_ADDR (bits v 47 4)).report p .ok))) ∧
  (∀ (s : State) (p : Port) (v : Nat), s.may p 0xFE = true → bits v 1 0 = 0 →
    exec (.integInjectArm p v) s = .next (s.to (((((s.chip.wr F.INTEG_INJECT_KIND 0).wr F.INTEG_INJECT_BIT_A
      (bits v 55 48)).wr F.INTEG_INJECT_BIT_B (bits v 63 56)).wr F.INTEG_INJECT_ADDR (bits v 47 4)).report p .ok))) ∧
  (∀ (s : State) (p : Port), s.may p 0xFE = true →
    exec (.integCntClr p) s = .next (s.to (s.chip.integClear.report p .ok)))

/-! ## The scheduler -/

/-- Submission, dispatch, completion and release (R326, R331, R334, R336, R339, R342): in the states each command is for, it
answers a next state with exactly these changes. A descriptor whose words arrive unpoisoned is accepted with the status
and the place that R326, R327 and R332 give. The accesses meet memory that is awake (R38). -/
def Obligations.TaskCommandsComplete : Prop :=
  (∀ (s : State) (addr : Nat) (c0 c : Chip) (x y : WordRead), s.chip.modeIn modesRun = true → 0 < s.chip.freeEntries →
    s.chip.readWord .fabric (addr / 32 * 32 % 2 ^ 48) = (c0, x) →
    c0.readWord .fabric (addr / 32 * 32 % 2 ^ 48 + 16) = (c, y) → s.chip.awake = true → c.awake = true →
    x.poison = false → x.status = .ok → y.poison = false → y.status = .ok →
    c.flag F.SCHED_FLOW_CFG_EN (bits x.data 35 24) = true →
    exec (.taskAccept addr) s = .next (s.to (
      let flow := bits x.data 35 24
      let dep := if bit x.data 22 then some (bits x.data 47 36, bits x.data 63 48) else none
      let met := c.depMet dep
      let st := c.acceptStatus x.data y.data false
      let t : Task :=
        { id := c.sched.nextId, flow := flow, seq := c.rd F.SCHED_FLOW_STAT_NEXT_SEQ flow, prio := bits x.data 15 12,
          target := bits x.data 10 0, deadline := if bit x.data 20 then some (bits x.data 95 64) else none,
          record := bit x.data 21, dep := dep, arg := bits y.data 63 0, tag := bits y.data 79 64,
          state := if st != .ok then .done else if met then .ready else .waiting, status := st }
      ((c.withSched { c.sched with
        tasks := c.sched.tasks ++ [t]
        nextId := c.sched.nextId + 1 }).incMod F.SCHED_FLOW_STAT_NEXT_SEQ flow).incMod F.SCHED_FLOW_STAT_OUT flow))) ∧
  (∀ (s : State) (p : Port) (n : Fin 288) (v : Nat), s.may p 0xFE = true → s.chip.flag F.SCHED_SQ_CFG_EN n = true →
    s.chip.flag F.SCHED_SQ_PTR_HALTED n = false →
    (cntSub (v % 2 ^ 32) (s.chip.sq n).2 ≤ 2 ^ s.chip.rd F.SCHED_SQ_CFG_LOG2 n →
      cntSub (v % 2 ^ 32) (s.chip.sq n).1 < 2 ^ 31 →
      exec (.sqDoorbell p n v) s = .next (s.to ((s.chip.setSq n (v % 2 ^ 32, (s.chip.sq n).2)).report p .ok))) ∧
    (2 ^ s.chip.rd F.SCHED_SQ_CFG_LOG2 n < cntSub (v % 2 ^ 32) (s.chip.sq n).2 →
      exec (.sqDoorbell p n v) s = .next (s.to ((s.chip.wr F.SCHED_SQ_PTR_HALTED 1 n).report p .ok)))) ∧
  (∀ (s : State) (p : Port) (n : Fin 288) (v : Nat), s.may p 0xFE = true → s.chip.flag F.SCHED_SQ_CFG_EN n = false →
    (F.SCHED_SQ_CFG_EN.of v = 0 ∨ (4 ≤ F.SCHED_SQ_CFG_LOG2.of v ∧ F.SCHED_SQ_CFG_LOG2.of v ≤ 12)) →
    exec (.sqCfgWrite p n v) s = .next (s.to ((((s.chip.wr F.SCHED_SQ_CFG_BASE (F.SCHED_SQ_CFG_BASE.of v) n).wr
      F.SCHED_SQ_CFG_LOG2 (F.SCHED_SQ_CFG_LOG2.of v) n).wr F.SCHED_SQ_CFG_EN (F.SCHED_SQ_CFG_EN.of v) n).report p .ok))) ∧
  (∀ (s : State) (p : Port) (n : Fin 288) (v : Nat), s.may p 0xFE = true → s.chip.flag F.SCHED_SQ_CFG_EN n = true →
    F.SCHED_SQ_CFG_EN.of v = 0 → F.SCHED_SQ_CFG_LOG2.of v = s.chip.rd F.SCHED_SQ_CFG_LOG2 n →
    F.SCHED_SQ_CFG_BASE.of v = s.chip.rd F.SCHED_SQ_CFG_BASE n →
    exec (.sqCfgWrite p n v) s = .next (s.to ((((s.chip.wr F.SCHED_SQ_CFG_EN 0 n).wr F.SCHED_SQ_PTR_HALTED 0 n).setSq n
      (0, 0)).report p .ok))) ∧
  (∀ (s : State) (n : Fin 288) (a : Nat) (c : Chip) (x : WordRead),
    a = s.chip.rd F.SCHED_SQ_CFG_BASE n * 32 + (s.chip.sq n).2 % 2 ^ s.chip.rd F.SCHED_SQ_CFG_LOG2 n * 32 →
    s.chip.readWord .fabric a = (c, x) →
    s.chip.modeIn modesRun = true → s.chip.flag F.SCHED_SQ_CFG_EN n = true → s.chip.flag F.SCHED_SQ_PTR_HALTED n = false →
    (s.chip.sq n).1 ≠ (s.chip.sq n).2 → min 8192 (s.chip.rd F.SCHED_CFG_RESERVE) < s.chip.freeEntries →
    s.chip.rd F.SCHED_FLOW_STAT_OUT (bits x.data 35 24) < s.chip.maxOut (bits x.data 35 24) →
    s.chip.awake = true → (s.chip.acceptAt a).1.awake = true →
    exec (.sqDescriptorRead n) s =
      .next (s.to ((s.chip.acceptAt a).1.setSq n ((s.chip.sq n).1, ((s.chip.sq n).2 + 1) % 2 ^ 32)))) ∧
  (∀ (s : State) (t : Task) (c c' : Chip) (u : Nat), s.chip.nextTask = some t →
    s.chip.leafOf t.flow s.chip.depth t.target = (c, some u) → c.domLocked (c.unitDom u) = false →
    c' = c.putTask { t with state := .held u c.sched.nextOrd, unit := u } →
    exec .dispatch s = .next (s.to ((((c'.withSched { c'.sched with nextOrd := c'.sched.nextOrd + 1 }).when
      ((c'.withSched { c'.sched with nextOrd := c'.sched.nextOrd + 1 }).domState (c.unitDom u) != dOn)
        (·.hwWake (c.unitDom u))).when (decide (u < 256) && (c.currentTask u).isSome) (·.engIrq u 1)).when
      (decide (0x120 ≤ u)) (·.portOffer (u - 0x120) t)))) ∧
  (∀ (s : State) (u : Fin 320) (k : Fin 4) (st : Fin 16) (t : Task), (s.chip.runningTasks u)[k.val]? = some t →
    s.chip.deadlinePassed t.deadline = false →
    exec (.taskComplete u k st) s = .next (s.to (s.chip.putTask { t with
      state := .done
      status := .ofCode st
      ran := true }))) ∧
  (∀ (s : State) (flow : Fin 4096) (t : Task), s.chip.nextRelease flow = some t → s.chip.awake = true →
    (s.chip.writeRecord t).awake = true →
    exec (.foldRelease flow) s = .next (s.to (
      let c := (s.chip.writeRecord t).incMod F.SCHED_FLOW_STAT_REL_NEXT flow
      let c := c.withSched { c.sched with tasks := c.sched.tasks.filter (·.id != t.id) }
      let c := c.wr F.SCHED_FLOW_STAT_OUT (c.rd F.SCHED_FLOW_STAT_OUT flow - 1) flow
      let c := c.when (c.rd F.SCHED_FLOW_STAT_OUT flow == 0) fun c =>
        c.withSched { c.sched with bars := c.sched.bars.filter (·.2 != flow) }
      let c := c.withHif { c.hif with
        inflight := c.hif.inflight.map fun (h : HostCmd) =>
          if h.task = some t.id then { h with stage := .finished, rel := some (t.status, t.ran) } else h }
      c.meetDeps))) ∧
  (∀ (s : State) (t : Task), s.chip.sched.tasks.find? (fun t => t.state != .done && !t.late
      && s.chip.deadlinePassed t.deadline) = some t → (t.state = .ready ∨ t.state = .waiting) →
    exec .taskDeadlinePassed s = .next (s.to (s.chip.putTask { t with
      state := .done
      status := .deadlineMissed
      ran := false
      unit := 0x7FF }))) ∧
  (∀ (s : State) (t : Task), s.chip.sched.tasks.find? s.chip.hung = some t →
    exec .taskHang s = .next (s.to (s.chip.unitDepart t.unit 4 .ok))) ∧
  (∀ (s : State) (p : Port) (flow : Fin 4096) (v : Nat), s.may p 0xFE = true →
    exec (.relRdWrite p flow v) s = .next (s.to ((s.chip.wr F.SCHED_FLOW_PTR_REL_RD (v % 2 ^ 32) flow).report p .ok)))

/-- Bundles (R337, R338): a load starts unless one is in progress, ends by the descriptor it has read, and an unload turns
the bundle's waiting tasks into tombstones. -/
def Obligations.BundleCommandsComplete : Prop :=
  (∀ (s : State) (p : Port) (i : Fin 1024) (addr : Nat), s.may p 0xBE = true →
    s.chip.flag F.SCHED_BUNDLE_STAT_BUSY = false →
    exec (.bundleLoad p i addr) s = .next (s.to (((s.chip.withSched { s.chip.sched with
      loading := some (1, i.val, addr / 64 * 64 % 2 ^ 48) }).wr F.SCHED_BUNDLE_STAT_BUSY 1).report p .ok))) ∧
  (∀ (s : State) (k i addr : Nat) (b : Bundle) (c : Chip) (w0 w1 w2 w3 : Nat),
    s.chip.sched.loading = some (k, i, addr) →
    s.chip.readWords .fabric addr 4 =
      (c, [⟨w0, false, .ok⟩, ⟨w1, false, .ok⟩, ⟨w2, false, .ok⟩, ⟨w3, false, .ok⟩]) →
    c.bundleOf i w0 w1 w2 w3 = some b → s.chip.awake = true → c.awake = true →
    exec .bundleLoadComplete s = .next (s.to ((((c.putBundle i b).withSched { (c.putBundle i b).sched with
      loading := none }).wr F.SCHED_BUNDLE_STAT_BUSY 0).wr F.SCHED_BUNDLE_STAT_LAST_STATUS Status.ok.code))) ∧
  (∀ (s : State) (p : Port) (i : Fin 1024), s.may p 0xBE = true → s.chip.flag F.SCHED_BUNDLE_STAT_BUSY = false →
    (s.chip.bundle (0x200 + i)).isSome = true →
    (s.chip.sched.bundles.any fun e => e.1 != i && e.2.members.any (·.1 == 0x200 + i)) = false →
    exec (.bundleUnload p i) s = .next (s.to (
      let c := s.chip.withSched { s.chip.sched with bundles := Tbl.erase s.chip.sched.bundles i }
      (((c.sched.tasks.filter fun t => t.target == 0x200 + i.val && (t.state == .ready || t.state == .waiting)).foldl
        (fun c t => c.tombstone t .badDescriptor) c).wr F.SCHED_BUNDLE_STAT_LAST_STATUS Status.ok.code).report p .ok)))

/-- The Clothesline (R344–R348): batches, entries read, entries withdrawn, and what a due entry of each kind does when it is
the next to fire. -/
def Obligations.ClotheslineCommandsComplete : Prop :=
  (∀ (s : State) (p : Port) (v : Nat), s.may p 0xFC = true → s.chip.sched.batches.length < 64 →
    exec (.clSubmit p v) s = .next (s.to ((s.chip.withSched { s.chip.sched with
      batches := s.chip.sched.batches ++ [(F.SCHED_CL_SUBMIT_ADDR.of v * 16, F.SCHED_CL_SUBMIT_COUNT_M1.of v + 1)] }).report
      p .ok))) ∧
  (∀ (s : State) (p : Port) (v : Nat), s.may p 0xFC = true → 64 ≤ s.chip.sched.batches.length →
    exec (.clSubmit p v) s = .next (s.to ((s.chip.incSat F.SCHED_CL_CNT_BATCH_DROP).report p .ok))) ∧
  (∀ (s : State) (addr n w : Nat) (r : List (Nat × Nat)) (c : Chip), s.chip.sched.batches = (addr, n) :: r →
    s.chip.readWord .fabric addr = (c, ⟨w, false, .ok⟩) → clEntryOk w = true → 8192 < c.clFree →
    c.clLate (bits w 31 0) = false → s.chip.awake = true → c.awake = true →
    exec .clEntryInsert s = .next (s.to (c.withSched { c.sched with
      batches := if n ≤ 1 then r else (addr + 16, n - 1) :: r
      cl := c.sched.cl ++ [⟨bits w 41 36, bits w 31 0, bits w 35 32, bits w 127 64, false, false, false⟩] }))) ∧
  (∀ (s : State) (p : Port) (v : Nat), s.may p 0xFC = true →
    exec (.clCancel p v) s = .next (s.to ((s.chip.withSched { s.chip.sched with
      cl := s.chip.sched.cl.filter fun e => !(e.list < 48 && bit v e.list && !e.due) }).report p .ok))) ∧
  (∀ (s : State) (e : ClEntry) (c : Chip), s.chip.clNext = some e → e.list < 48 → e.held = false →
    c = s.chip.withSched { s.chip.sched with
      cl := s.chip.sched.cl.erase e
      clFired := s.chip.sched.clFired + 1 } →
    (e.kind = 0 → s.chip.awake = true → (c.acceptAt (e.arg % 2 ^ 48)).1.awake = true → exec .clFireTask s = .next (s.to (c.acceptAt (e.arg % 2 ^ 48)).1)) ∧
    (e.kind = 1 → exec .clFirePower s = .next (s.to (c.domReq (bits e.arg 5 0) (bits e.arg 7 6) false).1)) ∧
    (e.kind = 2 → exec .clFireWrite32 s =
      .next (s.to (c.request .clothesline true (bits e.arg 27 0) 4 (bits e.arg 59 28) 0)))) ∧
  (∀ (s : State) (act : DevAct), exec (.clFireDevice act) s =
    match act with
    | .txStage n cc sym ready => exec (.achTxStageStart n cc sym ready) s
    | .windowOpen n w => exec (.txWindowOpen n w) s
    | .windowEnd n => exec (.txWindowEnd n) s
    | .paEdge n w on => exec (.paEdge n w on) s
    | .emergencyEnd n => exec (.emergencyRampEnd n) s
    | .exchange clash => exec (.guardExchange clash) s
    | .soakPrewake => .next (s.to s.chip.soakPrewake)
    | .soakTx q => exec (.soakTx q) s)

/-- Units leaving and entering service (R352–R356): requests, the end of a drain, of a self-test, of an admission. -/
def Obligations.UnitCommandsComplete : Prop :=
  (∀ (s : State) (p : Port) (u : Fin 2048), s.may p 0xFE = true → isUnit u = true → s.chip.unitState u = uIn →
    exec (.schedLeave p u) s = .next (s.to (((s.chip.unitDepart u 1 .ok).unitStatus u .ok).report p .ok))) ∧
  (∀ (s : State) (p : Port) (u : Fin 2048), s.may p 0xFE = true → s.chip.modeIn 0x98 = true → isUnit u = true → s.chip.unitState u = uOut →
    u.val < 0x120 → s.chip.domState (s.chip.unitDom u) = dOn → s.chip.domLocked (s.chip.unitDom u) = false →
    s.chip.rd F.PWR_DOM_STAT_LOCK_SRC (s.chip.unitDom u) ≠ 1 →
    exec (.schedReadmit p u) s = .next (s.to (((s.chip.unitUnhold u).wr F.SCHED_UNIT_STAT_STATE uAdmitting u).report p
      .ok))) ∧
  (∀ (s : State) (p : Port) (u : Fin 2048), s.may p 0xFE = true → u.val < 0x110 → isUnit u = true →
    s.chip.spareFree u = true → s.chip.unitState u = uIn →
    exec (.schedSubst p u) s = .next (s.to (((s.chip.unitDepart u 5 .ok).unitHold u ⟨3, true⟩).report p .ok))) ∧
  (∀ (s : State) (u : Fin 320), isUnit u = true → s.chip.unitState u = uDraining → s.chip.runningTasks u = [] →
    u.val < 0x120 →
    exec (.unitDrainComplete u) s = .next (s.to (s.chip.unitReachOut u))) ∧
  (∀ (s : State) (u : Fin 320), s.chip.unitState u = uTesting → u.val < 256 →
    exec (.spareSelftestDone u true) s = .next (s.to (((s.chip.wr F.SCHED_UNIT_STAT_SPARE_FAIL 0 u).wr F.CLU_ENG_STAT_PHYS 16
      (eC u) (eJ u)).wr F.SCHED_UNIT_STAT_STATE uAdmitting u))) ∧
  (∀ (s : State) (u : Fin 320), s.chip.unitState u = uTesting → s.chip.sched.pend = [] →
    exec (.spareSelftestDone u false) s = .next (s.to (((s.chip.wr F.SCHED_UNIT_STAT_SPARE_FAIL 1 u).wr
      F.SCHED_UNIT_STAT_STATE uOut u).unitStatus u .targetIsolated))) ∧
  (∀ (s : State) (u : Fin 320), s.chip.unitState u = uAdmitting → s.chip.domState (s.chip.unitDom u) = dOn →
    exec (.unitAdmitComplete u) s = .next (s.to (s.chip.unitAdmit u)))

/-! ## Programmable logic -/

/-- Regions of programmable logic (R415–R417): an image starts to load, its frames and its check end, a region unloads, a
drain runs out of time. The forms in which a check fails or a request waits are those of R416 and R417. -/
def Obligations.RegionCommandsComplete : Prop :=
  (∀ (s : State) (r : Fin 8) (img : PlrImage) (e : Nat × Option CmdRef × Meas),
    (s.chip.plr.inbound.find? fun e => e.1 == r.val) = some e →
    exec (.plrLoadStart r img) s = .next (s.to ((s.chip.withPlr { s.chip.plr with
      inbound := s.chip.plr.inbound.erase e }).rgRequest r (.load img e.2.1 e.2.2)))) ∧
  (∀ (s : State) (r : Fin 8), s.chip.rgState r = rgDraining →
    exec (.plrDrainTimeout r) s = .next (s.to (((rgPorts r).foldl (fun c u =>
      if c.unitState u = uDraining then c.unitDepart u 4 .ok else c) s.chip).rgAdvance r))) ∧
  (∀ (s : State) (r : Fin 8) (img : PlrImage) (src : Option CmdRef) (m : Meas) (found : Option (Nat × Nat)),
    s.chip.rgState r = rgLoading → (s.chip.region r).op = some (.load img src m) →
    (s.chip.loadError r img found = none →
      exec (.plrFramesDone r found) s =
        .next (s.to (((s.chip.claimPins r img).loadBlks r img).setRgState r rgChecking))) ∧
    (∀ err frame, s.chip.loadError r img found = some (err, frame) →
      exec (.plrFramesDone r found) s = .next (s.to (s.chip.rgFail r err frame)))) ∧
  (∀ (s : State) (r : Fin 8) (img : PlrImage) (src : Option CmdRef) (m : Meas), s.chip.rgState r = rgChecking →
    (s.chip.region r).op = some (.load img src m) →
    exec (.plrCheckDone r true) s = .next (s.to (s.chip.rgRelease r img src m)) ∧
    exec (.plrCheckDone r false) s = .next (s.to (s.chip.rgFail r 7 img.frames))) ∧
  (∀ (s : State) (p : Port) (r : Fin 8), s.may p 0xFE = true →
    exec (.plrUnload p r) s = .next (s.to (((s.chip.wr F.PLR_REGION_CTRL_UNLOAD 1 r).rgRequest r .unload).report p .ok)))

/-- The boundary of programmable logic (R418, R420, R423, R424): task ports, the poison lines, pins and their storms, bank
supplies, the fabric master. -/
def Obligations.BoundaryCommandsComplete : Prop :=
  (∀ (s : State) (p : Fin 32) (t : Task) (k : Nat), s.chip.rgRuns (portRegion p) = true →
    ((s.chip.heldTasks (0x120 + p)).find? (!·.ran)) = some t →
    ((List.range 4).find? fun k => !(s.chip.portPlaces p).any fun e => e.1 == k) = some k →
    exec (.plrTaskAccept p) s = .next (s.to ((((s.chip.putTask { t with ran := true }).withPlr { s.chip.plr with
      places := (s.chip.plr.places.filter fun e => !(e.1 == p.val && e.2.1 == k)) ++ [(p.val, k, t.id)] }).portOut p
        "T_SLOT" k).portDl p))) ∧
  (∀ (s : State) (p : Fin 32) (slot : Fin 4) (st : Fin 256) (k : Nat) (t : Task), s.chip.rgRuns (portRegion p) = true →
    ((s.chip.portPlaces p).find? fun e => e.1 == slot.val) = some (k, t) →
    (st.val ≤ 15 → exec (.plrTaskDone p slot st) s = .next (s.to (s.chip.taskDone t (.ofCode st)))) ∧
    (15 < st.val → exec (.plrTaskDone p slot st) s =
      .next (s.to ((s.chip.incSat F.PLR_STAT_BAD_STATUS).taskDone t .badDescriptor)))) ∧
  (∀ (s : State) (p : Fin 32) (slot : Fin 4) (st : Fin 256), s.chip.rgRuns (portRegion p) = true →
    ((s.chip.portPlaces p).find? fun e => e.1 == slot.val) = none →
    exec (.plrTaskDone p slot st) s = .next (s.to (s.chip.incSat F.PLR_STAT_BAD_DONE))) ∧
  (∀ (s : State) (r : Fin 8) (kind : Fin 16), s.chip.rgRuns r = true →
    exec (.plrPoisonPulse r kind) s = .next (s.to (s.chip.postPoison 0x7FF srcPlr kind 0))) ∧
  (∀ (s : State) (r : Fin 8) (w : Bool) (addr bytes data poison : Nat), s.chip.rgRuns r = true →
    s.chip.plrOutstanding r < 32 →
    exec (.plrMasterRequest r w addr bytes data poison) s =
      .next (s.to (s.chip.request (.plr r) w addr bytes data poison))) ∧
  (∀ (s : State) (p : Fin 144) (lvl : Bool), (s.chip.pinInput p lvl).2 = false →
    8 ≤ (s.chip.pinInput p lvl).1.rd F.PLR_PIN_CFG_REGION p →
    exec (.plrInputFire p lvl) s = .next (s.to (s.chip.pinInput p lvl).1)) ∧
  (∀ (s : State) (p : Fin 144) (lvl : Bool), (s.chip.pinInput p lvl).2 = true →
    (s.chip.pinInput p lvl).1.rd F.PLR_PIN_CFG_REGION p < 8 →
    (s.chip.pinInput p lvl).1.flag F.PLR_PIN_CFG_WAKE p = false →
    exec (.plrInputFire p lvl) s = .next (s.to ((s.chip.pinInput p lvl).1.emit
      (.plr ((s.chip.pinInput p lvl).1.rd F.PLR_PIN_CFG_REGION p) "PIN" (2 * p + b2n lvl))))) ∧
  (∀ (s : State) (p : Fin 144) (lvl : Bool), (s.chip.pinInput p lvl).2 = false →
    (s.chip.pinInput p lvl).1.rd F.PLR_PIN_CFG_REGION p < 8 →
    exec (.plrInputFire p lvl) s = .next (s.to ((s.chip.pinInput p lvl).1.emit
      (.plr ((s.chip.pinInput p lvl).1.rd F.PLR_PIN_CFG_REGION p) "PIN"
        (2 * p + b2n ((s.chip.pinInput p lvl).1.pinSeen p)))))) ∧
  (∀ (s : State), s.chip.plr.edges = [] →
    exec .plrStormCheck s = .next (s.to s.chip)) ∧
  (∀ (s : State) (p : Fin 144) (n : Nat), s.chip.plr.edges = [(p.val, n)] → 1024 < n →
    exec .plrStormCheck s = .next (s.to (
      let c := s.chip.withPlr { s.chip.plr with edges := [] }
      let kind := b2n (c.flag F.PLR_PIN_CFG_IRQ_EN p) + 2 * b2n (c.flag F.PLR_PIN_CFG_WAKE p)
      let c := c.wr F.PLR_STORM_MASKED (setBit (c.rd F.PLR_STORM_MASKED (p / 64)) (p % 64) true) (p / 64)
      c.post .storm srcPlr evStorm (p + kind * 2 ^ 8 + min n 0xFFFF * 2 ^ 16) 0))) ∧
  (∀ (s : State) (p : Port) (q : Fin 3) (v hit : Nat), s.may p 0xFE = true →
    hit = s.chip.rd F.PLR_STORM_MASKED q &&& v % 2 ^ (if q.val = 2 then 16 else 64) →
    exec (.plrStormUnmask p q v) s = .next (s.to (((bitsSet hit 64).foldl (fun (c : Chip) (k : Nat) =>
      let c := (c.withPlr { c.plr with edges := Tbl.erase c.plr.edges (64 * q.val + k) }).pinRearm (64 * q.val + k)
      if c.flag F.PLR_PIN_CFG_LEVEL (64 * q.val + k) && c.pinActive (64 * q.val + k) (c.pinLevel (64 * q.val + k))
      then (c.pinFire (64 * q.val + k)).when (c.flag F.PLR_PIN_CFG_WAKE (64 * q.val + k)) fun c => c.wakeBy 5 0
      else c)
      (s.chip.wr F.PLR_STORM_MASKED (s.chip.rd F.PLR_STORM_MASKED q - hit) q)).report p .ok))) ∧
  (∀ (s : State) (b : Fin 6) (mv : Nat),
    exec (.bankSupplyChange b mv) s = .next (s.to (
      let ok := match voltMv (s.chip.rd F.PLR_BANK_CFG_VOLT b) with
        | some n => decide (9 * n ≤ 10 * mv) && decide (10 * mv ≤ 11 * n)
        | none => false
      let c := ((s.chip.wr F.PLR_BANK_CFG_VMEAS (min (mv / 20) 255) b).setFlag F.PLR_BANK_CFG_SUPPLY_OK ok b).setFlag
        F.PLR_BANK_CFG_VMISMATCH (!ok && decide (300 ≤ mv)) b
      if ok = s.chip.flag F.PLR_BANK_CFG_SUPPLY_OK b then c
      else (List.range 24).foldl (fun (c : Chip) (k : Nat) => c.pinShow (24 * b + k)) c))) ∧
  (∀ (s : State) (p : Port), s.may p 0xFE = true →
    exec (.plrCntClr p) s = .next (s.to (((s.chip.wr F.PLR_STAT_BAD_DONE 0).wr F.PLR_STAT_BAD_STATUS 0).report p .ok)))

/-! ## Links -/

/-- Registers of a link (R103, R113, R125, R129, R130, R144): enable, disable, retrain, counters, storm, sample
configuration, low power by register. -/
def Obligations.LinkControlComplete : Prop :=
  (∀ (s : State) (p : Port) (l : Fin 18), s.may p 0xFE = true → (s.chip.link l).shutting = true →
    exec (.linkEnable p l) s = .next (s.to (((s.chip.wr F.ECV_LINK_CTRL_ENABLE 1 l).wr F.ECV_LINK_STAT_ENABLE_PENDING 1
      l).report p .ok))) ∧
  (∀ (s : State) (p : Port) (l : Fin 18), s.may p 0xFE = true → (s.chip.link l).shutting = false → isRadio l = true →
    exec (.linkEnable p l) s = .next (s.to (((s.chip.wr F.ECV_LINK_CTRL_ENABLE 1 l).linkStart l).report p .ok))) ∧
  (∀ (s : State) (p : Port) (l : Fin 18), s.may p 0xFE = true → (s.chip.link l).shutting = false → isRadio l = false →
    exec (.linkEnable p l) s = .next (s.to ((((s.chip.wr F.ECV_LINK_CTRL_ENABLE 1 l).linkStart l).linkStart
      (33 - l.val)).report p .ok))) ∧
  (∀ (s : State) (p : Port) (l : Fin 18), s.may p 0xFE = true →
    exec (.linkDisable p l) s = .next (s.to (
      let c := (s.chip.wr F.ECV_LINK_CTRL_ENABLE 0 l).wr F.ECV_LINK_STAT_ENABLE_PENDING 0 l
      let c := if isRadio l then c
        else if (c.setSeam false).lkUp (33 - l.val) || (c.setSeam false).lkState (33 - l.val) == lkRetrain
          then (c.setSeam false).linkListen (33 - l.val)
        else c.setSeam false
      (if c.lkState l = lkOff then c
        else ((c.linkLost l 0).updLink l fun x => { x with shutting := true }).emit
          (.linkAct l "electrical idle" 2)).report p .ok))) ∧
  (∀ (s : State) (p : Port) (l : Fin 18), s.may p 0xFE = true → s.chip.lkUp l = true →
    exec (.linkRetrainReq p l) s = .next (s.to ((s.chip.linkDetect l 1).report p .ok))) ∧
  (∀ (s : State) (p : Port) (l : Fin 18), s.may p 0xFE = true →
    exec (.ecvCntClr p l) s = .next (s.to (((((s.chip.wr F.ECV_ERR_CNT_RETRAINS 0 l).wr F.ECV_ERR_CNT_CRC_ERR 0 l).wr
      F.ECV_ERR_CNT_GAP_GROUPS 0 l).wr F.ECV_RING_STAT_DISCARD 0 l).report p .ok))) ∧
  (∀ (s : State) (p : Port) (l : Fin 18), s.may p 0xFE = true → s.chip.flag F.ECV_LINK_STAT_STORM l = true →
    exec (.linkStormClear p l) s = .next (s.to (
      let c := (s.chip.wr F.ECV_LINK_STAT_STORM 0 l).updLink l (fun x => { x with edges := [] })
      (if c.lkState l = lkHold then c.linkDetect l 0 else c).report p .ok))) ∧
  (∀ (s : State) (p : Port) (l : Fin 16) (v : Nat), s.may p 0xBE = true →
    ((linkChans l).any fun n => s.chip.svc n != acOut) = false → bits v 5 4 ≤ 1 → mantOk (bits v 3 0) = true →
    s.chip.cfgFaults l (bits v 3 0) (bits v 5 4) = [] →
    exec (.sampleCfgWrite p l v) s = .next (s.to (
      let c := (s.chip.wr F.ECV_SAMPLE_CFG_MANT (bits v 3 0) l).wr F.ECV_SAMPLE_CFG_RATE (bits v 5 4) l
      (if c.lkUp l then c.sendFormat l else c).report p .ok))) ∧
  (∀ (s : State) (p : Port) (l : Fin 16) (v : Nat), s.may p 0xBE = true →
    exec (.lpIdleNow p l v) s = .next (s.to (((((s.chip.wr F.ECV_LP_CTRL_MIN_IDLE (bits v 31 16) l).wr F.ECV_LP_CTRL_FOLLOW
      (bits v 2 2) l).wr F.ECV_LP_CTRL_TX_POLICY 2 l).lpEnter l).report p .ok)))

/-- Training and its ends (R103, R104, R106, R107, R121, R123): each step of a link in the state it is for moves the link to
the state the table gives, by these changes. -/
def Obligations.LinkTrainingComplete : Prop :=
  (∀ (s : State) (l : Fin 18), s.chip.lkState l = lkDetect → s.chip.flag F.ECV_LINK_STAT_LOS l = false →
    (s.chip.link l).shutting = false →
    exec (.clkLaneDetected l) s = .next (s.to (s.chip.setLk l lkClkLock))) ∧
  (∀ (s : State) (l : Fin 18), s.chip.lkState l = lkClkLock →
    exec (.clkLockAchieved l) s = .next (s.to (s.chip.setLk l lkBitLock))) ∧
  (∀ (s : State) (l : Fin 18) (lanes : Fin 256), s.chip.lkState l = lkBitLock →
    (8 ≤ s.chip.maxWidth l → lanes = 255 → exec (.bitLockDone l lanes) s =
      .next (s.to ((s.chip.wr F.ECV_LINK_STAT_WIDTH 8 l).setLk l lkAlign))) ∧
    (1 ≤ s.chip.maxWidth l → lanes.val % 4 = 1 → exec (.bitLockDone l lanes) s =
      .next (s.to ((s.chip.wr F.ECV_LINK_STAT_WIDTH 1 l).setLk l lkAlign))) ∧
    (lanes.val % 2 = 0 → exec (.bitLockDone l lanes) s = .next (s.to (s.chip.linkDetect l 0)))) ∧
  (∀ (s : State) (l : Fin 18), s.chip.lkState l = lkAlign →
    exec (.alignDone l) s = .next (s.to (((s.chip.updLink l fun x => { x with
      capCnt := 0
      sbRx := []
      sbCarry := none }).setLk l lkCaps).sendCaps l))) ∧
  (∀ (s : State) (l : Fin 18), s.chip.lkState l = lkCaps → 3 ≤ (s.chip.link l).capCnt →
    (s.chip.link l).retraining = false →
    let word := (s.chip.link l).capSeen
    let w := widestOf (bits word 15 12) (s.chip.rd F.ECV_LINK_STAT_WIDTH l)
    let v := commonVersion (s.chip.ownCaps l) word
    let c := s.chip.wr F.ECV_LINK_STAT_PARTNER_ROLE (bits word 7 4) l
    let d := ((c.wr F.ECV_CAPS_PARTNER_CAPS word l).wr F.ECV_LINK_STAT_WIDTH w l).wr F.ECV_LINK_STAT_VERSION v l
    (∀ st, c.capsHold l word = some st → exec (.capsComplete l) s = .next (s.to (c.linkHold l 6 st))) ∧
    (c.capsHold l word = none → w = 0 → exec (.capsComplete l) s = .next (s.to (c.linkDetect l 0))) ∧
    (c.capsHold l word = none → w ≠ 0 → v < 3 → exec (.capsComplete l) s = .next (s.to
      ((if (s.chip.link l).capped then d else d.wr F.ECV_LINK_STAT_DOWNGRADED 0 l).linkActive l 1))) ∧
    (c.capsHold l word = none → w ≠ 0 → 3 ≤ v →
      (isRadio l = true ∨ d.rd F.ECV_RING_STAT_LOCAL_ID l ≤ bits word 31 24 →
        exec (.capsComplete l) s = .next (s.to ((d.sbEmit l (sbMsg 5 0 0 0)).rateUp l))) ∧
      (isRadio l = false → bits word 31 24 < d.rd F.ECV_RING_STAT_LOCAL_ID l →
        exec (.capsComplete l) s = .next (s.to (if (s.chip.link l).rateGo then d.rateUp l else d))))) ∧
  (∀ (s : State) (l : Fin 18), s.chip.lkState l = lkRateUp →
    exec (.rateUpDone l) s = .next (s.to (((s.chip.wr F.ECV_LINK_STAT_VERSION 3 l).wr F.ECV_LINK_STAT_DOWNGRADED 0
      l).linkActive l 1))) ∧
  (∀ (s : State) (l : Fin 18), s.chip.lkState l = lkRetrain → 3 ≤ (s.chip.link l).capCnt →
    exec (.retrainRelockDone l) s = .next (s.to (s.chip.retrainCaps l))) ∧
  (∀ (s : State) (l : Fin 18),
    (s.chip.lkState l = lkClkLock ∨ s.chip.lkState l = lkAlign ∨ s.chip.lkState l = lkCaps →
      exec (.trainStateTimeout l) s = .next (s.to (s.chip.linkDetect l 0))) ∧
    (s.chip.lkState l = lkRateUp → exec (.trainStateTimeout l) s = .next (s.to ((((s.chip.linkDetect l 0).wr
      F.ECV_LINK_STAT_DOWNGRADED 1 l).updLink l fun x => { x with capped := true }).linkEvent l 8 .ok 0 0))) ∧
    (s.chip.lkState l = lkRetrain → exec (.trainStateTimeout l) s = .next (s.to ((s.chip.setLk l lkBitLock).updLink l fun x => { x with retraining := true })))) ∧
  (∀ (s : State) (l : Fin 18), s.chip.lkState l = lkHold → s.chip.flag F.ECV_LINK_STAT_STORM l = false →
    exec (.holdRetryTimer l) s = .next (s.to (s.chip.linkDetect l 0)))

/-- Signal, lock, frames and their loss (R110, R111, R116, R120–R125): what each edge and each received frame changes. -/
def Obligations.LinkSignalComplete : Prop :=
  (∀ (s : State) (l : Fin 18), s.chip.flag F.ECV_LINK_STAT_LOS l = false →
    exec (.losAssert l) s = .next (s.to (
      let c := (s.chip.wr F.ECV_LINK_STAT_LOS 1 l).updLink l (fun x => { x with
        edges := s.chip.tick :: x.edges.filter fun e => tickDiff s.chip.tick e < 30720 })
      if s.chip.lossExpected l || s.chip.lkState l == lkOff then c
      else
        let d := (if c.lkUp l then c.linkRetrain l 2 else c).linkEvent l 2 .ok 0 0
        if 1024 < (d.link l).edges.length && !d.flag F.ECV_LINK_STAT_STORM l
        then (d.wr F.ECV_LINK_STAT_STORM 1 l).linkHold l 7 .storm else d))) ∧
  (∀ (s : State) (l : Fin 18),
    exec (.losDeassert l) s = .next (s.to (s.chip.wr F.ECV_LINK_STAT_LOS 0 l)) ∧
    exec (.lolDeassert l) s = .next (s.to (s.chip.wr F.ECV_LINK_STAT_LOL 0 l))) ∧
  (∀ (s : State) (l : Fin 18),
    exec (.lolAssert l) s = .next (s.to (
      let c := s.chip.wr F.ECV_LINK_STAT_LOL 1 l
      if c.lkUp l && !c.lossExpected l then c.linkRetrain l 3 else c))) ∧
  (∀ (s : State) (l : Fin 16), (s.chip.link l).lossTick.isSome = true → s.chip.lkUp l = false →
    exec (.linkLossTimeout l) s = .next (s.to (s.chip.chansOut l 2))) ∧
  (∀ (s : State) (l : Fin 18) (lanes : List LaneFrame) (frac : Fin 1024), lanes ≠ [] → s.chip.lkState l = lkCaps →
    s.chip.rd F.ECV_LINK_STAT_RX_LP l = 0 →
    ((lanes.map (·.marker)).getD 0 0 % 2 ^ 16 = mkSync → (s.chip.link l).prev = [] →
      exec (.frameReceive l lanes frac) s = .next (s.to (((s.chip.incSat F.ECV_ERR_CNT_CRC_ERR l 0 0).updLink l fun x =>
        { x with
          prev := []
          noSync := 0 }).frameSideband l (lanes.map (·.marker))))) ∧
    ((lanes.map (·.marker)).getD 0 0 % 2 ^ 16 ≠ mkSync → (s.chip.link l).noSync + 1 ≠ 4 →
      exec (.frameReceive l lanes frac) s = .next (s.to (s.chip.updLink l fun x =>
        { x with noSync := (s.chip.link l).noSync + 1 })))) ∧
  (∀ (s : State) (l : Fin 18), s.chip.rd F.ECV_LINK_STAT_RX_LP l = 2 →
    exec (.wakePatternSeen l) s = .next (s.to (((s.chip.wr F.ECV_LINK_STAT_WAKE_SEEN 1 l).linkEvent l 9 .ok 0 0).wakeBy 4
      l))) ∧
  (∀ (s : State) (l : Fin 18), exec (.lpRxExit l) s = .next (s.to ((s.chip.wr F.ECV_LINK_STAT_RX_LP 0 l).lkShow l))) ∧
  (∀ (s : State) (l : Fin 18), exec (.lpTxExit l) s = .next (s.to (s.chip.lpExit l))) ∧
  (∀ (s : State) (l : Fin 18), ((isRadio l && s.chip.rd F.ECV_LP_CTRL_TX_POLICY l = 1) || s.chip.ecv.lpReq.contains l.val)
      = true →
    exec (.lpTxEnter l) s = .next (s.to ((s.chip.withEcv { s.chip.ecv with
      lpReq := s.chip.ecv.lpReq.filter (· != l.val) }).lpEnter l)))

/-- Sideband messages (R105, R107, R117–R119, R126, R139, R140, R446): the oldest received message of a link carries the
command, and is taken; the message's own effect follows. -/
def Obligations.SidebandCommandsComplete : Prop :=
  (∀ (s : State) (l : Fin 18) (m : Nat) (t : List Nat), (s.chip.link l).sbRx = m :: t →
    (sbCmd m = 1 → exec (.sbCapsLo l) s = .next (s.to ((s.chip.sbRest l t).updLink l fun x =>
      { x with capLo := sbArg m }))) ∧
    (sbCmd m = 2 → exec (.sbCapsHi l) s = .next (s.to ((s.chip.sbRest l t).updLink l fun x => { x with
      capSeen := x.capLo + sbArg m * 2 ^ 32
      capCnt := if x.capLo + sbArg m * 2 ^ 32 = x.capSeen then x.capCnt + 1 else 1 }))) ∧
    (sbCmd m = 3 → exec (.sbAck l) s = .next (s.to (((s.chip.sbRest l t).updLink l fun x => { x with
      sent := x.sent.filter fun e => sbSeq e.msg != sbArg m % 16 }).sbFlush l))) ∧
    (sbCmd m = 4 → ((s.chip.sbRest l t).link l).sent.find? (fun e => sbSeq e.msg == sbArg m % 16) = none →
      exec (.sbNak l) s = .next (s.to (s.chip.sbRest l t))) ∧
    (sbCmd m = 4 → sbExt m = 1 →
      (((s.chip.sbRest l t).link l).sent.find? (fun e => sbSeq e.msg == sbArg m % 16)).isSome = true →
      exec (.sbNak l) s = .next (s.to ((s.chip.sbRest l t).sbRepeat l (sbArg m % 16)))) ∧
    (sbCmd m = 5 → isRadio l = true → exec (.sbRateGo l) s = .next (s.to ((s.chip.sbRest l t).sbNak l 0 3))) ∧
    (sbCmd m = 5 → isRadio l = false → (s.chip.sbRest l t).lkState l = lkCaps →
      (s.chip.sbRest l t).rd F.ECV_LINK_STAT_VERSION l = 3 →
      exec (.sbRateGo l) s = .next (s.to ((s.chip.sbRest l t).rateUp l))) ∧
    (sbCmd m = 0x15 → (s.chip.sbRest l t).lkUp l = true → 2 ≤ (s.chip.sbRest l t).rd F.ECV_LINK_STAT_VERSION l →
      (sbExt m % 4 = 1 ∨ sbExt m % 4 = 2) →
      exec (.sbLpEnter l) s = .next (s.to (((s.chip.sbRest l t).wr F.ECV_LINK_STAT_RX_LP (sbExt m % 4) l).lkShow l))) ∧
    (sbCmd m = 0x20 → sbExt m ≠ 3 → exec (.sbTelem l) s = .next (s.to ((s.chip.sbRest l t).updLink l fun x => { x with
      telem := Tbl.set x.telem (256 * sbAnt m + sbExt m) (sbArg m) 0 }))) ∧
    (sbCmd m = 0x21 → exec (.sbTileAlarm l) s = .next (s.to ((s.chip.sbRest l t).updLink l fun x =>
      { x with alarm := sbExt m }))) ∧
    (sbCmd m = 0x30 → exec (.sbTtTx l) s = .next (s.to (((s.chip.sbRest l t).updLink l fun x =>
      { x with t3 := some (sbExt m, sbArg m) }).ttExchange l))) ∧
    (sbCmd m = 0x31 → exec (.sbTtRx l) s = .next (s.to (((s.chip.sbRest l t).updLink l fun x =>
      { x with t2 := some (sbExt m, sbArg m) }).ttExchange l))) ∧
    (sbCmd m = 0x32 → isRadio l = true → exec (.sbTtTick l) s = .next (s.to ((s.chip.sbRest l t).updLink l fun x =>
      { x with partnerTick := sbArg m }))) ∧
    (sbCmd m = 0x40 → isRadio l = false → exec (.sbRingState l) s = .next (s.to (((s.chip.sbRest l t).wr
      F.ECV_RING_STAT_PARTNER_ID (bits (sbArg m) 4 0) l).updLink l fun x => { x with
        ringState := some (sbArg m, sbExt m)
        peerNext := some (peerOf (sbArg m) (sbExt m)) }))) ∧
    (s.chip.sbAccepts l (sbCmd m) = false →
      exec (.sbUnsupportedCmd l) s = .next (s.to ((s.chip.sbRest l t).sbNak l (sbSeq m) 3)))) ∧
  (∀ (s : State) (l : Fin 18) (m : Nat) (t : List Nat) (x : LinkX) (t1 : Nat × Nat) (k t3 t2 t4 : Nat) (e : Int × Nat)
      (ex : List (Int × Nat)),
    (s.chip.link l).sbRx = m :: t → sbCmd m = 0x31 → x = (s.chip.sbRest l t).link l → t2 = sbArg m →
    x.t1.find? (fun e => e.1 == sbExt m) = some t1 → x.t3 = some (k, t3) → x.t4 = some (k, t4) →
    (s.chip.sbRest l t).lkUp l = true → (s.chip.sbRest l t).ttMaster l = false → x.exchN + 1 < 256 →
    e = ttCompute t1.2 t2 t3 t4 (sx 16 ((s.chip.sbRest l t).rd F.ECV_TT_ASYM_ASYM l)) →
    ex = (x.exch ++ [e]).drop (x.exch.length + 1 - 256) →
    ∃ c, exec (.sbTtRx l) s = .next (s.to c) ∧
      c.rd F.ECV_TT_OFFSET l = toBits 32 (meanOf (ex.map (·.1))) % 2 ^ F.ECV_TT_OFFSET.w) ∧
  (∀ (s : State) (l : Fin 18) (seq : Fin 16) (e : SbSent), (s.chip.link l).sent.find? (fun e => sbSeq e.msg == seq.val)
      = some e →
    (e.repeats < 2 → exec (.sbAckTimeout l seq) s = .next (s.to ((s.chip.updLink l fun x => { x with
      sent := x.sent.map fun e' => if sbSeq e'.msg = seq.val then { e' with repeats := e'.repeats + 1 } else e' }).sbEmit l
        e.msg))) ∧
    (2 ≤ e.repeats → exec (.sbAckTimeout l seq) s = .next (s.to (((s.chip.updLink l fun x => { x with
      sent := x.sent.filter fun e' => sbSeq e'.msg != seq.val }).sbLost l e.msg true).sbFlush l)))) ∧
  (∀ (s : State) (l : Fin 18) (frac : Fin 1024), s.chip.lkUp l = true →
    2 ≤ s.chip.rd F.ECV_LINK_STAT_VERSION l → s.chip.rd F.ECV_LINK_STAT_TX_LP l = 0 →
    exec (.ttFrameSend l frac) s = .next (s.to (
      let seq := ((s.chip.link l).txSeq + 4095) % 4096 / 16
      let c := s.chip.updLink l (fun x => { x with t1 := Tbl.insert (Tbl.erase x.t1 seq) seq (s.chip.stamp frac) })
      (c.sbEmit l (sbMsg 0x30 0 (s.chip.stamp frac) seq)).sbEmit l (sbMsg 0x32 0 c.tick (c.ttExt l)))))

/-- The ring (R133, R137): listening ends, RING_STATE goes out, a peer change takes effect at the slot boundary. -/
def Obligations.RingCommandsComplete : Prop :=
  (∀ (s : State) (q : Fin 2), s.chip.lkState (16 + q) = lkListen → s.chip.flag F.ECV_LINK_STAT_LOS (16 + q) = true →
    exec (.listenNoSignalTimeout q) s = .next (s.to (s.chip.updLink (16 + q) fun x => { x with noSignal := true }))) ∧
  (∀ (s : State) (vw ve : Fin 4), (∀ l, l = 16 ∨ l = 17 → s.chip.lkState l = lkListen ∧
      ((s.chip.link l).noSignal = true ∨ s.chip.flag F.ECV_LINK_STAT_LOS l = false)) →
    exec (.listenComplete vw ve) s = .next (s.to (
      let c := s.chip.setSeam true
      if (c.link 16).noSignal || (c.link 17).noSignal || vw = 0 || ve = 0 then (c.linkDetect 16 0).linkDetect 17 0
      else (c.linkJoin 16 vw).linkJoin 17 ve))) ∧
  (∀ (s : State), s.chip.lkUp 16 = false → s.chip.lkUp 17 = true →
    exec .ringStateTimer s = .next (s.to (s.chip.sbSend 17 (sbMsg 0x40 0 (s.chip.rd F.ECV_RING_STAT_LOCAL_ID 17
      + s.chip.mode * 2 ^ 5 + b2n s.chip.jdRuns * 2 ^ 8 + s.chip.rd F.ECV_RING_STAT_PEER_ID 16 * 2 ^ 9
      + s.chip.rd F.ECV_RING_STAT_PEER_VALID 16 * 2 ^ 14) (s.chip.rd F.ECV_RING_STAT_PEER_HOPS 16))))) ∧
  (∀ (s : State) (v : Bool) (id hops : Nat), (s.chip.link 16).peerNext = some (v, id, hops) →
    exec .peerChangeApply s = .next (s.to (((((s.chip.updLink 16 fun x => { x with peerNext := none }).setFlag
      F.ECV_RING_STAT_PEER_VALID v 16).wr F.ECV_RING_STAT_PEER_ID id 16).wr F.ECV_RING_STAT_PEER_HOPS hops 16).peerApply
      17)))

/-! ## Antenna channels -/

/-- Boundaries, commits and service states of antenna channels (R145, R152, R166–R170, R445): what each changes, in the states
it is for. -/
def Obligations.ChannelServiceComplete : Prop :=
  (∀ (s : State) (n : Fin 256),
    let c := (s.chip.updAch n (fun x => { x with
      hist := ((s.chip.tick, s.chip.svc n == acIn) :: x.hist).take 4 })).coefStep n
    (s.chip.svc n = acLeaving → exec (.slotBoundary n) s = .next (s.to ((c.achOut n 1).achHeld n))) ∧
    (s.chip.svc n = acConv → s.chip.flag F.CAL_ANT_STAT_CONVERGED n = true →
      exec (.slotBoundary n) s = .next (s.to ((c.wr F.ACH_STAT_SVC_STATE acIn n).updAch n fun x =>
        { x with convTick := none }))) ∧
    (s.chip.svc n = acIn ∨ s.chip.svc n = acOut → exec (.slotBoundary n) s = .next (s.to c))) ∧
  (∀ (s : State) (n : Fin 256), (s.chip.achX n).loadCoef = false → s.chip.rd F.ACH_GAIN_CFG_MODE n = 1 →
    exec (.symbolBoundary n) s = .next (s.to (s.chip.updAch n fun x => { x with
      rxBeta := s.chip.rd F.ACH_IQ_CFG_RX_BETA n
      txBeta := s.chip.rd F.ACH_IQ_CFG_TX_BETA n
      comp := (List.range 16).map fun k => (k, s.chip.rd F.ACH_GAIN_COMP_FACTOR n k) }))) ∧
  (∀ (s : State) (n : Fin 256), (s.chip.achX n).loadCoef = false → s.chip.rd F.ACH_GAIN_CFG_MODE n = 0 →
    s.chip.flag F.ACH_GAIN_CFG_FREEZE n = false → s.chip.svc n ≠ acOut → (s.chip.achX n).step = none →
    s.chip.clampCode n (s.chip.rd F.ACH_GAIN_CFG_MAN_CODE n) ≠ s.chip.rd F.ACH_GAIN_STAT_CODE n →
    exec (.symbolBoundary n) s = .next (s.to (
      let c := s.chip.updAch n (fun x => { x with
        rxBeta := s.chip.rd F.ACH_IQ_CFG_RX_BETA n
        txBeta := s.chip.rd F.ACH_IQ_CFG_TX_BETA n
        comp := (List.range 16).map fun k => (k, s.chip.rd F.ACH_GAIN_COMP_FACTOR n k) })
      c.gainStep n (s.chip.clampCode n (s.chip.rd F.ACH_GAIN_CFG_MAN_CODE n)) s.chip.tick))) ∧
  (∀ (s : State) (sfn : Nat), s.chip.sfnHere = some sfn →
    exec .frameBoundary s = .next (s.to (
      let c := (s.chip.wr F.TIME_FRAME_STAT_SFN sfn).withAch { s.chip.ach with frameTick := s.chip.tick }
      let c := c.withTime { s.chip.time with counting := true }
      let c := if sfn = 0 then c.wr F.TIME_FRAME_STAT_SFN0_TICK s.chip.tick else c
      (List.range 256).foldl (fun c n => c.commitApply n) (c.withEth { s.chip.eth with
        start := s.chip.eth.start.filter fun (e : Nat × Nat) => tickLater e.2 s.chip.tick })))) ∧
  (∀ (s : State), s.chip.sfnHere = none → exec .frameBoundary s = .next (s.to s.chip)) ∧
  (∀ (s : State) (p : Port) (n : Fin 256) (tick : Nat), s.may p 0xBE = true →
    let c := (s.chip.wr F.ACH_COMMIT_TICK tick n).wr F.ACH_COMMIT_GO 1 n
    (c.shadowCfg n).ccFaults (c.rd F.ECV_SAMPLE_CFG_RATE (achLink n)) (c.rd F.ECV_LINK_STAT_VERSION (achLink n)) = [] →
    ((c.shadowCfg n).winsOk && (c.shadowCfg n).rampOk) = true → 0 ≤ tickDiff (tick % tickMod) c.tick →
    3072 ≤ tickDiff (c.frameAt (tick % tickMod)) c.tick → (c.achX n).pend = none →
    exec (.commitGo p n tick) s = .next (s.to (((c.updAch n fun x => { x with
      pend := some (c.shadowCfg n, c.frameAt (tick % tickMod)) }).wr F.ACH_STAT_COMMIT_PEND 1 n).report p .ok))) ∧
  (∀ (s : State) (p : Port) (n : Fin 256), s.may p 0xFE = true → (s.chip.svc n = acIn ∨ s.chip.svc n = acConv) →
    exec (.achLeave p n) s = .next (s.to (((((s.chip.wr F.ACH_STAT_SVC_STATE acLeaving n).wr F.ACH_CTRL_LEAVE 1 n).wr
      F.CAL_ANT_STAT_CONVERGED 0 n).updAch n fun x => { x with convTick := none }).report p .ok))) ∧
  (∀ (s : State) (p : Port) (n : Fin 256), s.may p 0xFE = true → s.chip.svc n = acOut →
    (s.chip.achMayStart n = true → exec (.achReadmit p n) s = .next (s.to ((s.chip.achConverge n).report p .ok))) ∧
    (s.chip.achMayStart n = false → exec (.achReadmit p n) s = .next (s.to (((s.chip.wr F.ACH_CTRL_READMIT 1 n).wr
      F.ACH_STAT_ENABLE_PENDING 1 n).report p .ok)))) ∧
  (∀ (s : State) (n : Fin 256), s.chip.svc n = acOut → s.chip.flag F.ACH_STAT_ENABLE_PENDING n = true →
    s.chip.achMayStart n = true →
    exec (.achReadmitHeldStart n) s = .next (s.to (s.chip.achConverge n))) ∧
  (∀ (s : State) (p : Port) (n : Fin 256), s.may p 0xFE = true →
    exec (.achCntClr p n) s = .next (s.to ((s.chip.clrFields [F.ACH_CNT_FD_SAT, F.ACH_CNT_CFR_CLIP, F.ACH_CNT_TX_OUTSIDE,
      F.ACH_CNT_GAIN_LOST, F.ACH_GAIN_STAT_STEPS] n).report p .ok)))

/-- Receive, gain, transmit (R145, R147, R151, R154–R165): a received symbol is written with its status word, zeros for a
channel that is OUT and else the samples that arrived, through the chain of R145; the gain loop decides on the largest
received value and steps, windows open and end, PA edges are sent, a symbol goes out. The memories written and read are
awake (R38). -/
def Obligations.ChannelSignalComplete : Prop :=
  (∀ (s : State) (n : Fin 256) (cc : Fin 8) (sym : Nat),
    let g := s.chip.cfgDone n cc sym
    let w := g.ccw cc
    let t := (s.chip.symWhen w sym).1
    let base := 0x300000000 + 128 * cpUl (g.pool cc) + sym % cpBuf (g.pool cc) * 128 * cpStride (g.pool cc)
    let put := fun (v : Nat → Nat) (sat : Bool) =>
      ((s.chip.writeWords .fabric base (packWords (ccSc w) v) false).1.writeWord .fabric (base + 16 * ((ccSc w + 3) / 4))
        (rxStatus .ok sat (s.chip.codeAt n t) (s.chip.stepIn n t (symTicks w sym)) t sym (s.chip.symWhen w sym).2) false).1
    let vals := (List.range (ccSc w)).map fun k =>
      fdScale w (s.chip.rxSub n w (s.chip.tapSamples n t (symTicks w sym)) k)
    ccType w ≠ 0 → sym < ccSyms w → s.chip.rxRuns w t = true → s.chip.awake = true →
    (s.chip.rxZeros n w sym t = true → (put (fun _ => 0) false).awake = true →
      exec (.rxSymbolDone n cc sym false) s = .next (s.to (put (fun _ => 0) false))) ∧
    (s.chip.rxZeros n w sym t = false → s.chip.gapIn n t (symTicks w sym) = false →
      (put (fun k => (vals.getD k (0, false)).1) (vals.any (·.2))).awake = true →
      exec (.rxSymbolDone n cc sym false) s = .next (s.to (
        let c := put (fun k => (vals.getD k (0, false)).1) (vals.any (·.2))
        if vals.any (·.2) then c.incSat F.ACH_CNT_FD_SAT n else c)))) ∧
  (∀ (s : State) (n : Fin 256) (w : Nat), s.chip.refCarrier n = some w →
    let st := s.chip.symOf w (tickAdd (s.chip.symOf w s.chip.tick).2 (tickMod - 1))
    let len := symTicks w st.1
    let peak := (s.chip.tapsIn n st.2 len).foldl (fun m p => max m p.peak) 0
    let d := s.chip.gainDecide n peak
    s.chip.rd F.ACH_GAIN_CFG_MODE n = 1 → s.chip.svc n ≠ acOut → (s.chip.achX n).step = none →
    (∀ g, (s.chip.achX n).lastStep = some g → tickLater g st.2 = false) → s.chip.paOver n st.2 len = false →
    s.chip.exchOver st.2 len = false → s.chip.gapIn n st.2 len = false →
    exec (.gainSymbolMeasured n) s = .next (s.to (
      let c := s.chip.updAch n (fun x => { x with dnRun := d.2 })
      if d.1 = s.chip.rd F.ACH_GAIN_STAT_CODE n then c else c.gainStep n d.1 (tickAdd st.2 len)))) ∧
  (∀ (s : State) (n : Fin 256) (code t : Nat), (s.chip.achX n).step = some (code, t) →
    exec (.gainStepApply n) s = .next (s.to ((((s.chip.setAch n { s.chip.achX n with
      step := none
      prevCode := s.chip.rd F.ACH_GAIN_STAT_CODE n
      lastStep := some t
      dnRun := 0 }).wr F.ACH_GAIN_STAT_CODE code n).wr F.ACH_GAIN_STAT_STEP_PEND 0 n).incSat F.ACH_GAIN_STAT_STEPS n))) ∧
  (∀ (s : State) (n : Fin 256) (w : Fin 8), ((s.chip.achX n).cfg.win w).isSome = true → s.chip.txOpenOk n = true →
    (s.chip.achX n).skip.contains w.val = false → (s.chip.achX n).win = none →
    exec (.txWindowOpen n w) s = .next (s.to ((s.chip.setAch n { s.chip.achX n with
      win := some w.val
      up := some s.chip.tick
      down := none }).emit (.radio n "ramp up" s.chip.tick [16 * (s.chip.achX n).cfg.ramp])))) ∧
  (∀ (s : State) (n : Fin 256) (w : Nat), (s.chip.achX n).win = some w → (s.chip.achX n).emer = false →
    exec (.txWindowEnd n) s = .next (s.to ((s.chip.setAch n { s.chip.achX n with
      win := none
      down := some (s.chip.tick, (s.chip.achX n).cfg.ramp) }).emit (.radio n "ramp down"
        s.chip.tick [16 * (s.chip.achX n).cfg.ramp])))) ∧
  (∀ (s : State) (n : Fin 256) (w : Fin 8) (t : Nat) (v : Nat × Nat), s.chip.paEdgeTick n w true = some t →
    (s.chip.achX n).cfg.win w = some v → s.chip.txOpenOk n = true →
    let c := s.chip.setAch n { s.chip.achX n with
      skip := (s.chip.achX n).skip.filter (· != w.val)
      pa := true }
    (tickDiff t s.chip.tick < leadTicks → exec (.paEdge n w true) s = .next (s.to (s.chip.setAch n { s.chip.achX n with
      skip := ((s.chip.achX n).skip.filter (· != w.val)) ++ [w.val] }))) ∧
    (leadTicks ≤ tickDiff t s.chip.tick → s.chip.sameEdge (achLink n) t true = false →
      (c.sbSend (achLink n) (sbMsg 0x11 (n.val % 16) t 1)).injRuns = false →
      exec (.paEdge n w true) s = .next (s.to (c.sbSend (achLink n) (sbMsg 0x11 (n.val % 16) t 1))))) ∧
  (∀ (s : State) (n : Fin 256), (s.chip.achX n).emer = true →
    let c := (s.chip.setAch n { s.chip.achX n with
      emer := false
      win := none
      up := none
      down := none
      pa := false }).muteLink (achLink n)
    (s.chip.dev.warm = none → exec (.emergencyRampEnd n) s = .next (s.to c)) ∧
    (∀ f, s.chip.dev.warm = some f →
      exec (.emergencyRampEnd n) s = .next (s.to (if c.ramping then c else c.warmBegin f)))) ∧
  (∀ (s : State) (n : Fin 256) (cc : Fin 8) (sym : Nat) (ready : Bool),
    let g := s.chip.cfgNext n cc sym
    let w := dlWord (g.ccw cc)
    let t := s.chip.symNext w sym
    let c := if ready then (if g.inWindow [] t (symTicks w sym) true then s.chip else s.chip.incSat F.ACH_CNT_TX_OUTSIDE n)
      else
        let c := match s.chip.dlCommand w t with
          | some h => s.chip.dlMissed h.ref
          | none => s.chip
        c.withAch { c.ach with
          zeroed := (c.ach.zeroed.filter fun (e : Nat × Nat) => tickDiff c.tick e.2 < frameTicks) ++ [(ccCell w, t)] }
    let d := if g.inWindow (c.achX n).skip t (symTicks w sym) false then c.txSend g n cc sym t ready else c
    ccType w ≠ 0 → sym < ccSyms w → s.chip.txRuns n w t = true → s.chip.awake = true → d.awake = true →
    exec (.achTxStageStart n cc sym ready) s = .next (s.to d))

/-! ## Calibration -/

/-- Tracking, sweeps, temperature (R243–R251): in the states each command is for, it answers a next state with exactly
these changes: a despreading period ends with or without an estimate, or is discarded when it was cut short; a guard exchange is
skipped or scheduled; a sweep ends; the temperatures are asked for and followed. What is measured are free values of the model
(log entries 4 and 80). -/
def Obligations.SteamerCommandsComplete : Prop :=
  (∀ (s : State) (n : Fin 256) (obs same : Bool), s.chip.svc n ≠ acOut → s.chip.calTrack = true →
    s.chip.cal.cut = false ∨ s.chip.cal.since.contains n.val = true →
    let c1 := (s.chip.setCalAnt n { s.chip.calAnt n with lost := false }).setFlag F.CAL_ANT_STAT_OBS_OK
      (obs && (s.chip.setCalAnt n { s.chip.calAnt n with lost := false }).injRuns) n
    let held := c1.flag F.CAL_ANT_STAT_DIVERGED n
    let c2 := if (c1.injRuns && obs && !held && !(s.chip.calAnt n).lost) = true then c1.calDrift n else c1
    let c3 := if (c2.flag F.CAL_CTRL_ULT_EN && !held && c2.ulMapped n) = true then c2.calTrackRx n else c2
    exec (.despreadPeriodEnd n obs same) s = .next (s.to ((c3.setCalAnt n { c3.calAnt n with
      periods := (c3.calAnt n).periods + 1
      pairOk := (c3.calAnt n).pairOk || (1 ≤ (c3.calAnt n).periods && same) }).calConverge n))) ∧
  (∀ (s : State) (n : Fin 256) (obs same : Bool), s.chip.svc n ≠ acOut → s.chip.calTrack = true →
    s.chip.cal.cut = true → s.chip.cal.since.contains n.val = false →
    exec (.despreadPeriodEnd n obs same) s = .next (s.to
      ((s.chip.setCalAnt n { s.chip.calAnt n with lost := false }).withCal
        { (s.chip.setCalAnt n { s.chip.calAnt n with lost := false }).cal with since := n.val :: s.chip.cal.since }))) ∧
  (∀ (s : State), s.chip.calRun = true → s.chip.flag F.CAL_CTRL_EXCH_EN = true →
    s.chip.paEdgeTick (s.chip.rd F.CAL_CTRL_REF_ANT) (s.chip.rd F.CAL_EXCH_CFG_EXCH_WIN) false = none →
    ∀ clash, exec (.guardExchange clash) s = .next (s.to (s.chip.incSat F.CAL_CNT_EXCH_SKIPPED))) ∧
  (∀ (s : State) (t : Nat), s.chip.calRun = true → s.chip.flag F.CAL_CTRL_EXCH_EN = true →
    s.chip.paEdgeTick (s.chip.rd F.CAL_CTRL_REF_ANT) (s.chip.rd F.CAL_EXCH_CFG_EXCH_WIN) false = some t →
    exec (.guardExchange true) s = .next (s.to (s.chip.incSat F.CAL_CNT_EXCH_SKIPPED))) ∧
  (∀ (s : State) (t : Nat), s.chip.calRun = true → s.chip.flag F.CAL_CTRL_EXCH_EN = true →
    s.chip.paEdgeTick (s.chip.rd F.CAL_CTRL_REF_ANT) (s.chip.rd F.CAL_EXCH_CFG_EXCH_WIN) false = some t →
    (∀ n ∈ s.chip.calChans, ∀ w < 8, ∀ e, s.chip.paEdgeTick n w true = some e →
      tickDiff e t < 0 ∨ (max 256 (s.chip.rd F.CAL_EXCH_CFG_EXCH_TICKS) : Int) + 31 < tickDiff e t) →
    let len := max 256 (s.chip.rd F.CAL_EXCH_CFG_EXCH_TICKS)
    let g := s.chip.exchEnd.cal.group
    let c0 := s.chip.exchEnd.when (g == 0) fun c => c.withCal { c.cal with
      ref := s.chip.rd F.CAL_CTRL_REF_ANT, lost := [] }
    let c1 := (List.range 16).foldl (fun c l => c.updLink l fun x => { x with calLost := false }) c0
    let c2 := c1.calChans.foldl (fun c n => (c.sbSend (achLink n) (sbMsg 0x13 (n % 16) t (if n % 16 = g then 2 else 3))).sbSend
      (achLink n) (sbMsg 0x13 (n % 16) (tickAdd t len) 0)) c1
    let c3 := (c2.calChans.filter fun n => n % 16 == g).foldl (fun c n =>
      c.emit (.radio n "exchange burst" t [len, c.rd F.CAL_EXCH_CFG_EXCH_ATT])) c2
    let gc := c3.rd F.CAL_EXCH_CFG_GC_DIV != 0 && c3.rd F.CAL_EXCH_CFG_GC_DIV ≤ c3.cal.gcSweeps
    let c4 := c3.when gc fun c =>
      c.withCal { c.cal with gcSweeps := 0, gcOdd := !c.cal.gcOdd, gcPend := some c.cal.gcOdd }
    exec (.guardExchange false) s = .next (s.to (c4.withCal { c4.cal with
      exchOn := true
      exch := some (t, len)
      group := (g + 1) % 16
      sweepTick := if g = 0 then some c4.tick else c4.cal.sweepTick }))) ∧
  (∀ (s : State) (t : Nat) (res : List SweepRes), s.chip.cal.group = 0 → s.chip.cal.sweepTick = some t →
    s.chip.calRun = true →
    let c := s.chip.exchEnd.incMod F.CAL_STAT_SWEEPS
    exec (.sweepComplete res) s = .next (s.to (res.foldl (fun c r => c.sweepAnt t r)
      (c.withCal { c.cal with
        sweepTick := none
        gcSweeps := c.cal.gcSweeps + 1 })))) ∧
  (∀ (s : State),
    let c := (List.range 16).foldl (fun c l => if c.lkUp l then c.sbSend l (sbMsg 0x14 0xF 0 3) else c) s.chip
    c.calRun = true →
    exec .tempReadTimer s = .next (s.to (c.calChans.foldl (fun c n =>
      if (c.calAnt n).temp = (c.calAnt n).tempUsed then c
      else (c.askMove n ((c.calAnt n).temp - (c.calAnt n).tempUsed)).setCalAnt n { c.calAnt n with
        tempUsed := (c.calAnt n).temp }) c)))

/-- The calibration store (R258–R264): a save and an erase start and end, an export writes the set in force or
waits, an import that passes its checks starts, one that fails is answered with its status. -/
def Obligations.StoreCommandsComplete : Prop :=
  (∀ (s : State) (p : Port) (v : Nat), s.may p 0x9C = true → bits v 31 16 = 0x5356 → bit v 0 = true →
    exec (.calStoreSave p v) s = .next (s.to (((s.chip.wr F.CAL_STORE_CTRL_SAVE 1).storeStart .save).report p .ok))) ∧
  (∀ (s : State) (t : Tbl Byte), s.chip.cal.op = some (.save, t) →
    let old := s.chip.rd F.CAL_STORE_STAT_AREA
    let c := (((s.chip.withCal { s.chip.cal with
      op := none
      areas := Tbl.set (Tbl.set s.chip.cal.areas (1 - old) { bytes := t, intact := true } {}) old {} {} }).wr
        F.CAL_STORE_STAT_AREA (1 - old)).showStore).wr F.CAL_STORE_STAT_LAST_STATUS 0
    let c2 := (c.post .ok srcCal evCal (3 + 0x1FF * 2 ^ 8 + c.rd F.CAL_STORE_STAT_WRITES * 2 ^ 32) 0).showDigest
    exec .calStoreWriteComplete s = .next (s.to
      (if c2.cal.held.contains .save = true then c2
       else c2.w1sEnd F.CAL_STORE_CTRL_SAVE 0 0 id).exportWaiting.storeNext)) ∧
  (∀ (s : State), s.chip.flag F.CAL_STORE_STAT_ERASE_PEND = true →
    exec .eraseLeftoverDone s = .next (s.to ((s.chip.wr F.CAL_STORE_STAT_ERASE_PEND 0).withCal { s.chip.cal with
      areas := Tbl.set s.chip.cal.areas (1 - s.chip.rd F.CAL_STORE_STAT_AREA) {} {} }))) ∧
  (∀ (s : State) (p : Port), s.may p 0xFE = true →
    exec (.calCntClr p) s = .next (s.to ((s.chip.clrFields [F.CAL_CNT_EXCH_SKIPPED, F.CAL_CNT_DIVERGED,
      F.CAL_CNT_UPDATES]).report p .ok))) ∧
  (∀ (s : State) (f : Fin 64) (r : Fin 8) (h : HostCmd), s.chip.nextFetched f r = some h → h.op = 0x10 →
    s.chip.svcFaults h (h.bufOk (bits h.w2 31 0) && h.w2 / 2 ^ 32 == 0 && storeBytes ≤ bits h.w2 31 0) 0xBE = [] →
    (s.chip.cal.op = none →
      exec (.calStoreExport f r) s = .next (s.to ((s.chip.storeExport h).cmdEnd h [] 0 0))) ∧
    (s.chip.cal.op ≠ none →
      exec (.calStoreExport f r) s = .next (s.to ((s.chip.putCmd { h with stage := .started }).withCal
        { s.chip.cal with exports := s.chip.cal.exports ++ [h.ref] })))) ∧
  (∀ (s : State) (f : Fin 64) (r : Fin 8) (h : HostCmd), s.chip.nextFetched f r = some h → h.op = 0x11 →
    s.chip.svcFaults h (h.bufOk (bits h.w2 31 0) && h.w2 / 2 ^ 32 == 0 && bits h.w2 31 0 ≤ 0x110000
      && manBytes + storeBytes ≤ bits h.w2 31 0) 0x86 = [] →
    exec (.calStoreImport f r) s = .next (s.to
      (match s.chip.importFails (s.chip.hostImg h.buf) with
      | (none, _) => (s.chip.putCmd { h with stage := .started }).storeStart (.import_
          ((List.range storeBytes).filterMap fun k =>
            if s.chip.hostImg h.buf (manBytes + k) = 0 then none
            else some (k, BitVec.ofNat 8 (s.chip.hostImg h.buf (manBytes + k))))
          (s.chip.hostImg h.buf (manBytes + 6)) (some h.ref))
      | (some st, none) => s.chip.cmdEnd h [st] 0 0
      | (some st, some (n, st')) => (s.chip.imageNote n st' (Img.type (s.chip.hostImg h.buf))
          (Img.target (s.chip.hostImg h.buf))).cmdEnd h [st] 0 0)))

/-! ## The host interface -/

/-- Versions, rings and doorbells (R79–R83, R97–R99): in the states each command is for, it answers a next state with
exactly these changes. -/
def Obligations.RingControlComplete : Prop :=
  (∀ (s : State) (p : Port) (f : Fin 64) (v r : Nat), s.mayFn p f 0xFE = true → r < 17 →
    s.chip.flag F.RING_CFG_ENABLE f r = true →
    exec (.hifVersionWrite p f v) s = .next (s.to ((s.chip.wr F.HIF_FN_STAT_LAST_ERR Status.accessDenied.code f).report p
      .accessDenied))) ∧
  (∀ (s : State) (p : Port) (f : Fin 64) (v : Nat), s.mayFn p f 0xFE = true →
    (∀ r < 17, s.chip.flag F.RING_CFG_ENABLE f r = false) →
    let c := (s.chip.wr F.HIF_VERSION_HOST_MAJOR (bits v 15 12) f).wr F.HIF_VERSION_HOST_MINOR (bits v 11 8) f
    (bits v 15 12 = 1 → exec (.hifVersionWrite p f v) s = .next (s.to ((((c.wr F.HIF_VERSION_AGREED_VALID 1 f).wr
      F.HIF_VERSION_AGREED_MAJOR 1 f).wr F.HIF_VERSION_AGREED_MINOR (min (bits v 11 8) 1) f).report p .ok))) ∧
    (bits v 15 12 ≠ 1 → exec (.hifVersionWrite p f v) s = .next (s.to (((c.clrFields [F.HIF_VERSION_AGREED_VALID,
      F.HIF_VERSION_AGREED_MAJOR, F.HIF_VERSION_AGREED_MINOR] f).wr F.HIF_FN_STAT_LAST_ERR
      Status.versionMismatch.code f).report p .ok)))) ∧
  (∀ (s : State) (p : Port) (f : Fin 64) (r : Fin 17) (v : Nat), s.mayFn p f 0xFE = true →
    s.chip.flag F.RING_CFG_ENABLE f r = false → s.chip.resetting f r = false → (s.chip.ringX f r).mustReset = false →
    6 ≤ bits v 36 32 → bits v 36 32 ≤ 16 →
    s.chip.rd F.RING_BASE_BASE f r * 4096 + 2 ^ bits v 36 32 * ringEntryBytes r ≤ hostTop →
    s.chip.flag F.HIF_VERSION_AGREED_VALID f = true →
    exec (.ringEnable p f r v) s = .next (s.to ((((s.chip.wrFields [F.RING_CFG_VECTOR, F.RING_CFG_CPL_RING, F.RING_CFG_PRIO,
      F.RING_CFG_LOG2_SIZE, F.RING_CFG_COAL_TIME, F.RING_CFG_COAL_COUNT] v f r).1.wr F.RING_CFG_ENABLE 1 f r).setRingX f r
      {}).report p .ok))) ∧
  (∀ (s : State) (p : Port) (f : Fin 64) (r : Fin 17), s.mayFn p f 0xFE = true →
    exec (.ringReset p f r) s = .next (s.to ((s.chip.ringReset f r).report p .ok))) ∧
  (∀ (s : State) (f : Fin 64) (r : Fin 17), s.chip.resetting f r = true → s.chip.ringQuiet f r = true →
    let c := (s.chip.ringZero f r).w1sEnd F.RING_CFG_RESET f r (fun c => c.setRingX f r { c.ringX f r with
      resetting := true })
    (∀ k < 17, c.resetting f k = false) →
    exec (.ringResetComplete f r) s = .next (s.to (c.wr F.HIF_FN_CTRL_RESET_ALL 0 f))) ∧
  (∀ (s : State) (p : Port) (f : Fin 64), s.mayFn p f 0xFE = true →
    exec (.fnResetAll p f) s = .next (s.to (((List.range 17).foldl (fun c r => c.ringResetOne f r)
      (s.chip.wr F.HIF_FN_CTRL_RESET_ALL 1 f)).report p .ok))) ∧
  (∀ (s : State) (f : Fin 64) (k : Fin 8) (v : Nat), s.chip.mode ≠ mBypass → s.chip.inWarm = false →
    s.chip.flag F.RING_CFG_ENABLE f (8 + k) = true →
    s.chip.resetting f (8 + k) = false →
    (s.chip.doorbellOk f (8 + k) (v % 2 ^ 32) = true → exec (.cplDoorbell f (0x100 + 8 * k) 8 v) s =
      .next (s.to ((s.chip.wr F.RING_PTR_HOST_COUNT (v % 2 ^ 32) f (8 + k)).stallUp f (8 + k)))) ∧
    (s.chip.doorbellOk f (8 + k) (v % 2 ^ 32) = false → exec (.cplDoorbell f (0x100 + 8 * k) 8 v) s =
      .next (s.to (s.chip.ringError f (8 + k) .badDescriptor)))) ∧
  (∀ (s : State) (f : Fin 64) (v : Nat), s.chip.mode ≠ mBypass → s.chip.inWarm = false → s.chip.flag F.RING_CFG_ENABLE f 16 = true →
    s.chip.resetting f 16 = false → s.chip.doorbellOk f 16 (v % 2 ^ 32) = true →
    exec (.eventDoorbell f 0x180 8 v) s =
      .next (s.to ((s.chip.wr F.RING_PTR_HOST_COUNT (v % 2 ^ 32) f 16).postLost f))) ∧
  (∀ (s : State) (f : Fin 64) (q : Fin 9), s.chip.flag F.RING_CFG_ENABLE f (8 + q) = true →
    exec (.hostWriteFailed f q) s = .next (s.to (s.chip.ringError f (8 + q) .targetIsolated))) ∧
  (∀ (s : State) (f : Fin 64) (q : Fin 9), 0 < (s.chip.ringX f (8 + q)).coalN →
    s.chip.rd F.RING_CFG_COAL_TIME f (8 + q) ≠ 0 →
    exec (.coalesceTimeout f q) s = .next (s.to ((s.chip.setRingX f (8 + q) { s.chip.ringX f (8 + q) with
      coalN := 0
      coalTick := 0 }).fireVector f (s.chip.rd F.RING_CFG_VECTOR f (8 + q))))) ∧
  (∀ (s : State) (f : Fin 64) (v : Fin 32) (m : MsixEntry), Tbl.get s.chip.hif.msix (f * 32 + v) {} = m →
    (m.pending = true → exec (.msixUnmask f v) s = .next (s.to ((s.chip.withHif { s.chip.hif with
      msix := Tbl.set s.chip.hif.msix (f * 32 + v) { m with
        masked := false
        pending := false } {} }).emit (.msix f v)))) ∧
    (m.pending = false → exec (.msixUnmask f v) s = .next (s.to (s.chip.withHif { s.chip.hif with
      msix := Tbl.set s.chip.hif.msix (f * 32 + v) { m with masked := false } {} }))))

/-- Commands of the host, from their fetch to their completion (R82–R94, R98): a fetched entry waits in flight with a
completion entry reserved; a slot command whose entry is right has its item table read, and one whose table is right is
submitted; a finished command is completed. -/
def Obligations.HostCommandsComplete : Prop :=
  (∀ (s : State) (f : Fin 64) (r : Fin 8),
    let n := s.chip.rd F.RING_PTR_DEV_COUNT f r
    let q := cplRing (s.chip.rd F.RING_CFG_CPL_RING f r)
    let c := s.chip.stallUp f q
    s.chip.mode ≠ mBypass → s.chip.flag F.RING_CFG_ENABLE f r = true → s.chip.resetting f r = false →
    s.chip.rd F.RING_PTR_HOST_COUNT f r ≠ n → s.chip.cplFree f q = true → (c.ringCmds f r).length < 32 →
    c.hif.inflight.length < 512 → 0 < c.freeEntries →
    (∀ k < 2, c.flag F.SCHED_FLOW_CFG_EN (c.rd F.SCHED_SLOT_MAP_FLOW k) = true →
      c.rd F.SCHED_FLOW_STAT_OUT (c.rd F.SCHED_SLOT_MAP_FLOW k) < c.maxOut (c.rd F.SCHED_SLOT_MAP_FLOW k)) →
    let a := c.ringEntry f r n 64
    let h : HostCmd := {
      fn := f
      ring := r
      count := n
      w0 := c.hostRead a 16
      w1 := c.hostRead (a + 16) 16
      w2 := c.hostRead (a + 32) 16
      stage := .fetched
      status := .ok
      cond := 0
      nOk := 0
      nFail := 0
      slot := none
      task := none
      discard := c.dev.pcieDiscard
      minor := c.rd F.HIF_VERSION_AGREED_MINOR f
      fetchTick := c.tick }
    let h2 : HostCmd := { h with
      carrier := c.cellCarrier h.cell (h.op == 2)
      cellOk := bit (c.rd F.HIF_FN_CELLS_CELLS f) h.cell }
    let c2 := c.withHif { c.hif with inflight := c.hif.inflight ++ [h2] }
    exec (.commandFetch f r .ok) s = .next (s.to (((((c2.setRingX f q { c2.ringX f q with
      reserved := (s.chip.ringX f q).reserved + 1 }).incMod F.RING_PTR_DEV_COUNT f r).incMod F.RING_STAT_IN_FLIGHT f
        r).stallUp f q)))) ∧
  (∀ (s : State) (f : Fin 64) (r : Fin 8) (h : HostCmd), s.chip.nextFetched f r = some h → s.chip.mode ≠ mSoak →
    let c := s.chip.setRingX h.fn h.ring { s.chip.ringX h.fn h.ring with lastStart := some h.start }
    Chip.entryFaults h = [] → c.intakeClosed = false → s.chip.slotEntryFaults h = [] →
    tickLater h.fetchTick h.start = false →
    (h.op = 2 → exec (.dlSlot f r) s = .next (s.to (c.putCmd { h with
      stage := .table
      status := .ok
      cond := 0 }))) ∧
    (∀ w l, h.op = 1 → tickLater c.tick h.deadline = false → h.carrier = some (w, l) →
      symInSlot w h.slotNo 14 ≤ tickDiff h.deadline h.start →
      exec (.ulSlot f r) s = .next (s.to (c.putCmd { h with
        stage := .table
        status := .ok
        cond := 0 })))) ∧
  (∀ (s : State) (f : Fin 64) (r : Fin 8) (h : HostCmd), s.chip.nextFetched f r = some h → h.op = 3 →
    Chip.entryFaults h = [] →
    (h.nopReserved = false → exec (.nop f r) s = .next (s.to (s.chip.putCmd { h with
      stage := .finished
      status := .ok
      cond := condAdd h.cond .ok
      nOk := 0
      nFail := 0 }))) ∧
    (h.nopReserved = true → exec (.nop f r) s = .next (s.to (s.chip.putCmd { h with
      stage := .finished
      status := .badDescriptor
      cond := condAdd h.cond .badDescriptor
      nOk := 0
      nFail := 0 })))) ∧
  (∀ (s : State) (f : Fin 64) (r : Fin 8) (h : HostCmd) (k : Nat),
    (s.chip.ringCmds f r).find? (fun h => h.stage == .table) = some h → h.status = .ok → s.chip.freeSlot = some k →
    let h1 : HostCmd := { h with table := s.chip.readTable h }
    let h2 : HostCmd := { h1 with shed := s.chip.shedItems h1 }
    (h2.itemsOk = true → s.chip.cpMissed h2 = false →
      exec (.itemTableRead f r .ok) s = .next (s.to (s.chip.slotSubmit h2 k))) ∧
    (h2.itemsOk = false → exec (.itemTableRead f r .ok) s =
      .next (s.to ((s.chip.resultsAll h2 .badDescriptor).cmdEnd h2 [.badDescriptor] 0 h.items))) ∧
    exec (.itemTableRead f r .poisoned) s = .next (s.to ((s.chip.ringError f r .poisoned).cmdEnd h [.poisoned] 0 0)) ∧
    exec (.itemTableRead f r .failed) s =
      .next (s.to ((s.chip.ringError f r .targetIsolated).cmdEnd h [.targetIsolated] 0 0))) ∧
  (∀ (s : State) (f : Fin 64) (r : Fin 8) (h : HostCmd) (t : List HostCmd), s.chip.ringCmds f r = h :: t →
    h.stage = .finished → s.chip.postTurn h = true →
    exec (.completionPost f r) s = .next (s.to (s.chip.complete h)))

/-! ## Trust -/

/-- Images, attestation and the trust block's own actions (R475–R492): a service command whose entry is right is put to the
trust block in its turn; checks, fuse programming, signing and flash actions end with the change and the status given. -/
def Obligations.TrustCommandsComplete : Prop :=
  (∀ (s : State) (f : Fin 64) (r : Fin 8) (h : HostCmd), s.chip.nextFetched f r = some h → h.op = 0x12 →
    s.chip.svcFaults h (h.buf % 128 == 0 && h.w1 / 2 ^ 96 == 0 && 9328 ≤ bits h.w1 95 64
      && h.buf + bits h.w1 95 64 ≤ hostTop) 0xBE = [] →
    exec (.attestReport f r) s = .next (s.to ((s.chip.putCmd { h with stage := .started }).trustAsk
      (.attest h.ref [])))) ∧
  (∀ (s : State) (f : Fin 64) (r : Fin 8) (h : HostCmd) (im : Img) (len : Nat), s.chip.nextFetched f r = some h →
    h.op = 0x13 → im = s.chip.hostImg h.buf → len = bits h.w2 31 0 →
    (h.dest = 0 → s.chip.svcFaults h (h.bufOk len && h.w2 / 2 ^ 34 == 0
        && (len == manBytes + Img.bodyLen im && Img.type im != 5)) (loadModes 0 (Img.type im)) = [] →
      exec (.imageLoadLoad f r) s = .next (s.to ((s.chip.putCmd { h with stage := .started }).trustAsk
        (.image h.ref)))) ∧
    (h.dest = 1 → s.chip.svcFaults h (h.bufOk len && h.w2 / 2 ^ 34 == 0 && len == manBytes + Img.bodyLen im) 0x9E = [] →
      exec (.imageLoadFlash f r) s = .next (s.to ((s.chip.putCmd { h with stage := .started }).trustAsk
        (.image h.ref)))) ∧
    (h.dest = 2 → s.chip.svcFaults h (h.bufOk len && h.w2 / 2 ^ 34 == 0) 0x9E = [] →
      exec (.imageLoadCommit f r) s = .next (s.to ((s.chip.putCmd { h with stage := .started }).trustAsk
        (.commit h.ref)))) ∧
    (h.dest = 3 → s.chip.svcFaults h (h.bufOk len && h.w2 / 2 ^ 34 == 0) 0x9E = [] →
      exec (.imageLoadErase f r) s = .next (s.to ((s.chip.putCmd { h with stage := .started }).trustAsk
        (.erase h.ref))))) ∧
  (∀ (s : State) (code : List EngImage), s.chip.trust.op = some .boot →
    exec (.imageVerifyDone code) s = .next (s.to (s.chip.bootImage code))) ∧
  (∀ (s : State) (code : List EngImage) (ref : CmdRef), s.chip.trust.op = some (.image ref) → s.chip.trust.act = none →
    s.chip.trust.fuse = none →
    exec (.imageVerifyDone code) s = .next (s.to (s.chip.imageDone code ref))) ∧
  (∀ (s : State) (p : Port), s.may p 0xBE = true → s.chip.trust.hostWait = true →
    exec (.hostDone p) s = .next (s.to (((s.chip.wr F.TRUST_CTRL_HOST_DONE 1).verifyEnd
      (if (needSet s.chip.trust.passed).isNone then .ok else .versionMismatch) 3).report p .ok))) ∧
  (∀ (s : State), s.chip.trust.hostWait = true →
    exec .hostImageTimeout s = .next (s.to (s.chip.verifyEnd .deadlineMissed 0))) ∧
  (∀ (s : State) (p : Port) (n : Nat), s.may p 0xBE = true → n = (Config.nonce s.chip.free).toNat →
    exec (.newNonce p) s = .next (s.to ((((((s.chip.withFree (s.chip.free + 1)).wr F.TRUST_NONCE_NONCE n 0).wr
      F.TRUST_NONCE_NONCE (n / 2 ^ 64) 1).withTrust { s.chip.trust with token := none }).wr F.TRUST_STATUS_TOKEN_OK
      0).report p .ok))) ∧
  (∀ (s : State) (rsa slh floor : Nat) (ref : CmdRef) (u : Fuses), s.chip.trust.fuse = some (rsa, slh, floor, ref) →
    u = { s.chip.trust.fuses with
      revRsa := s.chip.trust.fuses.revRsa ||| rsa
      revSlh := s.chip.trust.fuses.revSlh ||| slh
      svn := max s.chip.trust.fuses.svn floor } →
    exec .fuseProgramDone s = .next (s.to ((s.chip.withTrust { s.chip.trust with
      fuse := none
      fuses := u }).loadFuses.imageEnd ref .ok))) ∧
  (∀ (s : State) (ref : CmdRef) (rep : List Byte) (h : HostCmd) (d : BitVec 384), s.chip.trust.op = some (.attest ref rep) →
    d = Config.sha384 rep → (s.chip.withFree (s.chip.free + 1)).cmdOf ref = some h → h.discard = false →
    s.chip.dev.pcieDiscard = false →
    exec .attestSignDone s = .next (s.to (((s.chip.withFree (s.chip.free + 1)).hostWrite h.buf
      (rep ++ toBytes 384 (Config.rsaSign d s.chip.free).toNat
        ++ toBytes 7856 (Config.slhSign d s.chip.free).toNat)).imageEnd ref .ok))) ∧
  (∀ (s : State) (a : FlashAct) (c : Chip), s.chip.trust.act = some a → s.chip.flag F.TRUST_STATUS_FLASH_BUSY = true →
    c = ((((s.chip.withTrust { s.chip.trust with act := none }).wr F.TRUST_STATUS_FLASH_BUSY 0).flashApply a).storeHeld) →
    (∀ ref, c.trust.op = some (.image ref) ∨ c.trust.op = some (.commit ref) ∨ c.trust.op = some (.erase ref) →
      exec .flashOpDone s = .next (s.to (c.imageEnd ref .ok))) ∧
    (c.trust.op = none → exec .flashOpDone s = .next (s.to c)))

/-! ## Presses -/

/-- Commands of the Presses, from their reading to their record (R194–R211): in the states each is for, it answers a next
state with exactly these changes. What a tile delivers is what the model's own operations give; the values of a tile whose
last attempt failed are free (log entry 4). -/
def Obligations.PressCommandsComplete : Prop :=
  (∀ (s : State) (n : Fin 8) (t : Task), s.chip.aeReady n = none → s.chip.aeNext n = some t → t.arg % 128 = 0 →
    let c := (s.chip.readWords (.pressStream n) t.arg 8).1
    let ws := (s.chip.readWords (.pressStream n) t.arg 8).2
    (∀ w ∈ ws, w.poison = false) → s.chip.awake = true → c.awake = true →
    exec (.aeCommandRead n) s =
      .next (s.to (c.setAe n { c.aeX n with ready := some ⟨t.id, t.arg, ws.map (·.data)⟩ }))) ∧
  (∀ (s : State) (n : Fin 8) (q : AeCmd) (t t' : Task) (c2 : Chip) (m : Nat), s.chip.aeReady n = some q →
    s.chip.aeRun n = none → s.chip.aeRuns n = true →
    let c := s.chip.setAe n { s.chip.aeX n with
      ready := none
      run := none }
    let c' := c.putTask { t with ran := true }
    c.task q.task = some t → c'.task q.task = some t' → c'.aeOk q = true → bits (q.word 0) 11 8 = 1 →
    c'.deadlinePassed t'.deadline = false →
    (if (q.maskK || q.maskM) = true then c'.aeMask q.cell q.tick else (c', some 0)) = (c2, some m) →
    s.chip.awake = true → c2.awake = true →
    let r : AeRun := {
      cmd := q
      mask := m
      maxRe := min 2 (c'.rd F.AE_TILE_CFG_MAX_RECOMP n)
      finished := false
      cond := 0 }
    (q.op = 1 → exec (.aeMatmul n) s = .next (s.to (c2.aeGo n r))) ∧
    (q.op = 2 → exec (.aeGram n) s = .next (s.to (c2.aeGo n r))) ∧
    (q.op = 3 → c2.jdOn (16 + q.port) = true → exec (.aeJdMfSend n) s = .next (s.to (c2.aeGo n r))) ∧
    (q.op = 4 → c2.jdOn (16 + q.port) = true → exec (.aeJdGramSend n) s = .next (s.to (c2.aeGo n r))) ∧
    (q.op = 5 → c2.jdOn (16 + q.port) = true →
      let c3 := (c2.readWords (.pressStream n) q.mIn.addr q.n).1
      let ws := (c2.readWords (.pressStream n) q.mIn.addr q.n).2
      let c4 := c3.jdSend q.port (c3.rd F.ECV_RING_STAT_PEER_ID (16 + q.port)) 0 q.tick
        (jdHead q.kind q.carrier q.slotPar 0 0 0 0 (if q.kind = 3 then 5 else 0) 0 0 q.tick :: ws.map (·.data))
      (∀ w ∈ ws, w.poison = false ∧ w.status = .ok) → (c4.aeGo n { r with finished := true }).awake = true →
      exec (.aeJdReqSend n) s = .next (s.to (c4.aeGo n { r with finished := true })))) ∧
  (∀ (s : State) (n : Fin 8) (r : AeRun) (rem : AeWords) (entry : Option (Nat × Nat)) (c c2 : Chip) (o : AeOut),
    s.chip.aeRun n = some r → r.finished = false → r.cmd.ring = false ∨ s.chip.jdOn (16 + r.cmd.port) = true →
    let x := r.cmd.tileOf r.tile
    s.chip.aeMerge n r x = (c, rem, entry, false) → c.flag F.AE_CTRL_RES_INJECT n = false →
    c.aeCompute n r x rem entry = (c2, o) → s.chip.awake = true →
    ((c2.aeDeliver n { r with waiting := false } x o false).awake = true →
      exec (.aeTileDone n false) s = .next (s.to (c2.aeDeliver n { r with waiting := false } x o false))) ∧
    (let c3 := (c2.aeFail n r r.injected false).aeGo n { r with
        attempt := r.attempt + 1
        waiting := false
        injected := r.injected
        cycles := r.cycles + r.cmd.cycles x }
     r.attempt < r.maxRe → c3.awake = true → exec (.aeTileDone n true) s = .next (s.to c3))) ∧
  (∀ (s : State) (n : Fin 8) (r : AeRun), s.chip.aeRun n = some r → r.waiting = true →
    exec (.aeJdWaitTimeout n) s = .next (s.to (s.chip.aeGo n { r with timedOut := true }))) ∧
  (∀ (s : State) (n : Fin 8) (r : AeRun), s.chip.aeRun n = some r → r.finished = true → s.chip.awake = true →
    let seen := if r.shed = true then condAdd r.cond .shed else r.cond
    let cond := if seen = 0 then 1 else seen
    let c := if r.cmd.statEn then (s.chip.writeWord (.pressStream n) r.cmd.statAddr (r.record (maskWorst cond) cond) false).1
      else s.chip
    let c2 := ((c.setAe n { c.aeX n with run := none }).aeFinish n r.cmd.task (maskWorst cond)).shedLocks
    c2.awake = true → exec (.aeCommandComplete n) s = .next (s.to c2)) ∧
  (∀ (s : State) (p : Port) (n : Fin 8), s.may p 0xFE = true → s.chip.flag F.AE_CTRL_RES_INJECT n = false →
    exec (.aeResInject p n) s = .next (s.to ((s.chip.wr F.AE_CTRL_RES_INJECT 1 n).report p .ok))) ∧
  (∀ (s : State) (p : Port) (n : Fin 8), s.may p 0xFE = true →
    exec (.aeCntClr p n) s = .next (s.to ((s.chip.clrFields [F.AE_RES_CNT_MISMATCH, F.AE_RES_CNT_RECOMPUTED,
      F.AE_RES_CNT_HARD, F.AE_RES_CNT_OUT_SAT, F.AE_CMD_CNT_COMMANDS, F.AE_CMD_CNT_TILES] n).report p .ok))) ∧
  (∀ (s : State) (p : Port), s.may p 0xBE = true →
    exec (.aeJdCntClr p) s = .next (s.to (((s.chip.clrFields [F.AE_JD_STAT_SENT, F.AE_JD_STAT_RECEIVED,
      F.AE_JD_STAT_LOCAL_ONLY, F.AE_JD_STAT_DECLINES, F.AE_JD_STAT_UNSENT] 0).clrFields [F.AE_JD_STAT_SENT,
      F.AE_JD_STAT_RECEIVED, F.AE_JD_STAT_LOCAL_ONLY, F.AE_JD_STAT_DECLINES, F.AE_JD_STAT_UNSENT] 1).report p .ok))) ∧
  (∀ (s : State) (n : Nat),
    ((List.range 8).find? fun n => s.chip.sched.tested.contains (0x100 + n) && s.chip.unitState (0x100 + n) == uTesting) =
      some n → s.chip.awake = true →
    let c := (s.chip.aeCopyErrors n).withSched { (s.chip.aeCopyErrors n).sched with
      tested := (s.chip.aeCopyErrors n).sched.tested.filter (· != 0x100 + n) }
    let map := c.rd F.AE_MAP_PHYS
    let spare := c.rd F.AE_MAP_SPARE_PHYS
    let c2 := ((((c.wr F.AE_MAP_PHYS (map - bits map (4 * n + 3) (4 * n) * 2 ^ (4 * n)
      + spare * 2 ^ (4 * n))).wr F.AE_MAP_SPARE_PHYS 0xF).wr F.AE_MAP_SPARE_FREE 0).hwWake (16 + spare)).wr
      F.SCHED_UNIT_STAT_STATE uAdmitting (0x100 + n)
    c2.awake = true → exec .aeMemCopyDone s = .next (s.to c2)) ∧
  (∀ (s : State) (p : Fin 2) (h : Nat) (body : List Nat), s.chip.lkUp (16 + p) = true →
    s.chip.flag F.DEV_MODE_SEAM_OPEN = true → bits h 47 32 = body.length → body ≠ [] → body.length ≤ 4096 →
    bits h 7 0 = 1 →
    (bits h 127 96 ≠ ringCrc h body → exec (.ringMessageReceive p (h :: body)) s =
      .next (s.to (s.chip.incSat F.ECV_RING_STAT_DISCARD (16 + p)))) ∧
    (bits h 127 96 = ringCrc h body → s.chip.jdRuns = true →
      bits h 20 16 = s.chip.rd F.ECV_RING_STAT_LOCAL_ID (16 + p) →
      exec (.ringMessageReceive p (h :: body)) s = .next (s.to (s.chip.jdReceive p (bits h 12 8) body))) ∧
    (bits h 127 96 = ringCrc h body → s.chip.jdRuns = false →
      bits h 20 16 ≠ s.chip.rd F.ECV_RING_STAT_LOCAL_ID (16 + p) → bits h 25 24 ≠ 2 → s.chip.lkUp (33 - (16 + p)) = true →
      exec (.ringMessageReceive p (h :: body)) s = .next (s.to (s.chip.ringPut (33 - (16 + p)) true
        ((h % 2 ^ 96 + 2 ^ 24 + ringCrc (h % 2 ^ 96 + 2 ^ 24) body * 2 ^ 96) :: body)))))

/-! ## Coding -/

/-- Jobs of the coding engines and the HARQ state (R218–R238): in the states each command is for, it answers a next state
with exactly these changes: a job is read with its input and starts, or is kept ready while another runs; its HARQ entry is read;
a code block ends; the job completes with its outputs, entry and record. Decoded bits are free values where the code does not
determine them (log entries 4 and 49). -/
def Obligations.CodingCommandsComplete : Prop :=
  (∀ (s : State) (k : Nat) (t : Task), s.chip.codeReady k = none → s.chip.codeRuns k = true →
    s.chip.flag F.CODE_CTRL_FLUSH = false → (s.chip.heldTasks (0x110 + k)).find? (fun t => !t.ran) = some t →
    let c1 := (s.chip.readWords (.coding k) t.arg 3).1
    let ws := (s.chip.readWords (.coding k) t.arg 3).2
    let r0 : CodeRun := {
      task := t.id
      addr := t.arg
      w := ws.map (·.data) }
    (∀ w ∈ ws, w.poison = false) → c1.codeRefusal k r0 = none →
    let c2 := (if r0.dec then c1.codeInput k r0 else c1.codePayload k r0).1
    let r := (if r0.dec then c1.codeInput k r0 else c1.codePayload k r0).2
    let c3 := (c2.putTask { t with ran := true }).setCode k (some r)
    let c4 := c2.withCode { c2.code with eng := Tbl.set c2.code.eng k { c2.codeX k with ready := some r } {} }
    let c := if (s.chip.codeRun k).isSome then c4 else c3
    (c2.putTask { t with ran := true }).deadlinePassed t.deadline = false → s.chip.awake = true → c.awake = true →
    (∀ e : Fin 8, k = e → (r0.op = 1 → exec (.ldpcDec e) s = .next (s.to c)) ∧
      (r0.op = 2 → exec (.ldpcEnc e) s = .next (s.to c))) ∧
    (∀ e : Fin 2, k = 8 + e → (r0.op = 3 → exec (.polarDec e) s = .next (s.to c)) ∧
      (r0.op = 4 → exec (.polarEnc e) s = .next (s.to c))) ∧
    (∀ e : Fin 2, k = 10 + e → (r0.op = 5 → exec (.turboDec e) s = .next (s.to c)) ∧
      (r0.op = 6 → exec (.turboEnc e) s = .next (s.to c)) ∧ (r0.op = 7 → exec (.convDec e) s = .next (s.to c)) ∧
      (r0.op = 8 → exec (.convEnc e) s = .next (s.to c)))) ∧
  (∀ (s : State) (k : Fin 12) (r : CodeRun) (t : Task), s.chip.codeRun k = some r → r.harqEn = true → r.harq = none →
    r.finished = false → s.chip.flag F.CODE_CTRL_FLUSH = false → s.chip.task r.task = some t →
    s.chip.entryBusy k r t.ord = false → s.chip.awake = true → (s.chip.harqRead k r).awake = true →
    exec (.codeHarqEntryRead k) s = .next (s.to (s.chip.harqRead k r))) ∧
  (∀ (s : State) (k : Fin 12) (r : CodeRun), s.chip.codeRun k = some r → r.finished = false →
    (r.harqEn = true → r.harq ≠ none) → s.chip.awake = true →
    let c := if r.dec then s.chip.codeDecBlock k r else s.chip.codeEncBlock k r
    c.awake = true → exec (.codeBlockDone k) s = .next (s.to c)) ∧
  (∀ (s : State) (k : Fin 12) (r : CodeRun) (c c2 : Chip) (m m2 : Nat) (kept : Bool),
    s.chip.codeRun k = some r → r.finished = true →
    (if r.crcPass then s.chip.codePut k r.outAddr (beBytes ((r.a + 7) / 8) (r.payload * 2 ^ (8 * ((r.a + 7) / 8) - r.a)))
      r.outBad else (s.chip, 0)) = (c, m) → c.harqEnd k r r.crcPass = (c2, kept, m2) →
    let seen := (if r.shed then condAdd r.cond .shed else r.cond) ||| m ||| m2
    let cond := if seen = 0 then 1 else seen
    let st := Status.worstOf ((bitsSet cond 16).map .ofCode)
    let lack := match r.harq with | some h => h.lack | none => false
    let reset := match r.harq with | some h => h.reset | none => false
    let c3 := if r.statEn then (c2.writeWord (.coding k) r.statAddr (st.code + b2n r.crcPass * 2 ^ 8 + b2n kept * 2 ^ 9
        + b2n lack * 2 ^ 10 + b2n reset * 2 ^ 11 + r.iter % 2 ^ 8 * 2 ^ 16 + r.cbFail % 2 ^ 16 * 2 ^ 32
        + r.seg.c % 2 ^ 16 * 2 ^ 48 + r.cycles % 2 ^ 32 * 2 ^ 64 + cond % 2 ^ 16 * 2 ^ 96) false).1 else c2
    let c4 := if st = .deadlineMissed then c3.incSat F.CODE_CNT_JOBS_MISSED k else c3
    let c5 := ((c4.setCode k none).codeFinish k r.task st).shedLocks
    s.chip.awake = true → c5.awake = true → exec (.codeJobComplete k) s = .next (s.to c5)) ∧
  (∀ (s : State) (p : Port), s.may p 0xFE = true → s.chip.flag F.CODE_CTRL_FLUSH = false →
    exec (.harqFlush p) s = .next (s.to ((s.chip.wr F.CODE_CTRL_FLUSH 1).report p .ok))) ∧
  (∀ (s : State), s.chip.flag F.CODE_CTRL_FLUSH = true → s.chip.harqIdle = true →
    exec .harqFlushComplete s = .next (s.to (((((s.chip.harqWords.foldl Chip.entryInvalid s.chip).withCode
      { (s.chip.harqWords.foldl Chip.entryInvalid s.chip).code with used := [] }).wr F.CODE_HARQ_STAT_LEAKED 0).w1sEnd
      F.CODE_CTRL_FLUSH 0 0 id)))) ∧
  (∀ (s : State), (s.chip.harqWords = [] → exec .harqTtlSweep s = .next (s.to s.chip)) ∧
    (∀ (w : Nat) (d : Decoded) (c : Chip) (l : List Nat), s.chip.harqWords = [w] → d = s.chip.decodeAt (16 * w) →
      bit d.data 0 = true → d.poison = false → (∀ k < 12, s.chip.codeRun k = none) →
      (30720 * max 1 (s.chip.rd F.CODE_HARQ_TTL_TTL) : Nat) < tickDiff s.chip.tick (bits d.data 127 96) →
      s.chip.slabChain 0 (bits d.data 31 16) (bits d.data 63 32) = (c, l) →
      exec .harqTtlSweep s = .next (s.to ((c.dropSlabs l).entryInvalid w)))) ∧
  (∀ (s : State) (p : Port), s.may p 0xFE = true →
    exec (.codeCntClr p) s = .next (s.to ((((List.range 12).foldl (fun c k =>
      c.clrFields [F.CODE_CNT_BLOCKS, F.CODE_CNT_CB_FAIL, F.CODE_CNT_JOBS_MISSED] k) s.chip).clrFields
      [F.CODE_HARQ_STAT_ALLOC_FAIL, F.CODE_HARQ_STAT_LEAKED]).report p .ok)))

/-! ## Burst receivers -/

/-- Burst receivers (R173–R187): in the states each command is for, it answers a next state with exactly these changes. The
detector's outputs rest on free values of the model (log entry 50). -/
def Obligations.BurstCommandsComplete : Prop :=
  (∀ (s : State) (p : Port) (n : Fin 32) (v : Nat), s.may p 0xFE = true →
    let c := s.chip.brCfg n (setBit v 63 true)
    (c.br n).stopping = false → c.flag F.BRn_CFG_EN n = false →
    exec (.brEnable p n v) s = .next (s.to ((c.brEnable n).report p .ok))) ∧
  (∀ (s : State) (p : Port) (n : Fin 32) (v : Nat), s.may p 0xFE = true →
    let c := (s.chip.brCfg n (setBit v 63 false)).wr F.BRn_STAT_ENABLE_PENDING 0 n
    c.flag F.BRn_CFG_EN n = true →
    exec (.brDisable p n v) s = .next (s.to (((c.wr F.BRn_CFG_EN 0 n).setBr n { c.br n with
      stopping := true }).report p .ok))) ∧
  (∀ (s : State) (n : Fin 32), (s.chip.br n).stopping = true → (s.chip.br n).recs = [] →
    s.chip.brInSpan n = false →
    let c := (s.chip.setBr n { s.chip.br n with
      stopping := false
      occ := none
      frozen := false }).wr F.BRn_STAT_ENABLE_PENDING 0 n
    exec (.brStopComplete n) s =
      .next (s.to (if s.chip.flag F.BRn_STAT_ENABLE_PENDING n then c.brEnable n else c))) ∧
  (∀ (s : State) (n : Fin 32) (start : Nat) (k : Int), s.chip.brLast n = (start, k) → s.chip.brRuns n = true →
    s.chip.domRuns 37 = true → (∀ o, (s.chip.br n).occ = some o → o.start ≠ start) →
    (∀ b, (s.chip.br n).notBefore = some b → tickLater b start = false) →
    s.chip.mode ≠ mSoak ∨ k % ((max 1 (s.chip.rd F.BRX_SOAK_CFG_SOAK_DIV) : Nat) : Int) = 0 →
    exec (.brOccasionStart n) s = .next (s.to (s.chip.setBr n { s.chip.br n with
      occ := some {
        start := start
        coefs := s.chip.brLatch n }
      grid := some (start, k)
      notBefore := none }))) ∧
  (∀ (s : State) (n : Fin 32) (j : Nat) (o : BrOcc), (s.chip.br n).occ = some o →
    s.chip.brTseq n + j * (s.chip.brTseq n / 2) ≤ s.chip.rd F.BRn_THR_SPAN n →
    s.chip.brTseq n + j * (s.chip.brTseq n / 2) ≤ cntSub s.chip.tick o.start → o.coefs ≠ [] → s.chip.domRuns 37 = true →
    let t := tickAdd o.start (j * (s.chip.brTseq n / 2))
    let poison := s.chip.brPoisonIn n t
    let gap := s.chip.brGap n t (s.chip.brTseq n)
    let c := (s.chip.brMark n poison gap).brCloseEnded n
    let good := ((c.brPeaks n t o).filter fun p => c.brThr n ≤ p.metric).mergeSort brBefore
    let c1 := good.foldl (fun c p => c.brTake n p) c
    exec (.brWindowEval n j) s = .next (s.to ((if good.isEmpty then c1 else c1.brSoakSignal n).brMark n poison gap))) ∧
  (∀ (s : State) (n : Fin 32) (idx : Fin 64) (poison : Bool) (r : BrRec),
    (s.chip.br n).recs.find? (fun (r : BrRec) => r.idx == idx.val) = some r → s.chip.brEnded n r = true →
    exec (.brReceptionClose n idx poison) s = .next (s.to (s.chip.brClose n r .ok poison))) ∧
  (∀ (s : State) (n : Fin 32) (poison : Bool) (o : BrOcc), (s.chip.br n).occ = some o →
    let b := s.chip.brBlock n
    let len := 64 * brSample (s.chip.rd F.BRn_CFG_SCS n)
    let t := tickAdd b (tickMod - len)
    let dg := s.chip.rd F.BRn_STAT_DG n
    let sat := s.chip.brSat n t 64
    let c := s.chip.setBr n { s.chip.br n with
      blocks := ⟨t, dg, poison⟩ :: (s.chip.br n).blocks.take 63
      frozen := !(s.chip.br n).recs.isEmpty
      recs := (s.chip.br n).recs.map fun (r : BrRec) => { r with
        sat := r.sat || ((s.chip.br n).frozen && sat)
        poison := r.poison || poison
        gap := r.gap || s.chip.brGap n t len } }
    let c2 := c.setBr n { c.br n with recs := (c.br n).recs.map (c.brAccum n b) }
    ((s.chip.br n).recs ≠ [] → exec (.brGainBlock n poison) s = .next (s.to c2)) ∧
    ((s.chip.br n).recs = [] → exec (.brGainBlock n poison) s = .next (s.to (c2.wr F.BRn_STAT_DG
      (brGain dg (sx 8 (c2.rd F.BRn_THR_TARGET n)) (c2.brPower n t dg) sat) n)))) ∧
  (∀ (s : State) (n : Fin 32) (o : BrOcc), (s.chip.br n).occ = some o → s.chip.mode = mSoak →
    n.val = s.chip.rd F.BRX_SOAK_CFG_SOAK_BR → o.cand = false →
    s.chip.rd F.BRn_THR_SPAN n + 1536 ≤ cntSub s.chip.tick o.start →
    let ds := 37 :: ((List.range 8).filter fun g =>
      bits (s.chip.rd F.BRX_SOAK_CFG_SOAK_LINKS) (2 * g + 1) (2 * g) != 0).map (25 + ·)
    exec (.brSoakSpanEnd n) s = .next (s.to (s.chip.withPwr { s.chip.pwr with
      soakReturn := (s.chip.pwr.soakReturn.filter fun d => !ds.contains d) ++ ds }))) ∧
  (∀ (s : State) (p : Port) (v : Nat), s.may p 0xFE = true →
    exec (.brCntClr p v) s = .next (s.to (((bitsSet v 32).foldl (fun c n =>
      c.clrFields [F.BRn_STAT_LOST, F.BRn_STAT_IGNORED, F.BRn_STAT_REC_DROP] n) s.chip).report p .ok)))

/-! ## Power -/

/-- Domains and the Mangle (R451–R459): in the states each command is for, it answers a next state with exactly these
changes. -/
def Obligations.DomainCommandsComplete : Prop :=
  (∀ (s : State) (p : Port) (d : Fin 64) (st : Fin 4), s.may p 0xFC = true →
    exec (.domainRequest p d st) s =
      .next (s.to ((s.chip.domReq d st false).1.report p (s.chip.domReq d st false).2))) ∧
  (∀ (s : State) (d : Fin 64), s.chip.flag F.PWR_DOM_STAT_IDLE_WAIT d = true → s.chip.domIdle d = true →
    s.chip.pwr.ramps.length < 128 →
    exec (.domainIdle d) s = .next (s.to ((s.chip.wr F.PWR_DOM_STAT_IDLE_WAIT 0 d).queueRamp ⟨some d, false⟩))) ∧
  (∀ (s : State) (d : Fin 64), s.chip.flag F.PWR_DOM_STAT_IDLE_WAIT d = true →
    exec (.domainIdleTimeout d) s = .next (s.to (((((s.chip.withEcv { s.chip.ecv with
      lpReq := s.chip.ecv.lpReq.filter fun l => !(25 ≤ d.val && d.val < 33 && l / 2 == d.val - 25) }).domEnd d dOn
      .deadlineMissed).domEval d).anteOff d)))) ∧
  (∀ (s : State) (r : Ramp) (rest : List Ramp), s.chip.pwr.ramps = r :: rest →
    let c := (s.chip.withPwr { s.chip.pwr with ramps := rest }).incMod F.PWR_MANGLE_STAT_RAMPS
    (∀ d, r.dom = some d → exec .mangleRampDone s =
      .next (s.to (c.setDomX d { c.domX d with ramped := true }).evalWaiting)) ∧
    (r.dom = none → exec .mangleRampDone s = .next (s.to c.evalWaiting))) ∧
  (∀ (s : State) (d : Fin 64), exec (.domainEntryDone d) s = .next (s.to (s.chip.entryDone d))) ∧
  (∀ (s : State) (d : Fin 64), exec (.domainWakeDone d) s =
    .next (s.to (((List.range 32).foldl (fun c n => c.brFlush n) (s.chip.wakeDone d)).anteRelease))) ∧
  (∀ (s : State) (p : Port) (d : Fin 64), s.may p 0xFC = true → s.chip.flag F.PWR_DOM_PEND_PEND_VALID d = true →
    s.chip.flag F.PWR_DOM_PEND_HW_PEND d = false →
    exec (.domPendCancel p d) s = .next (s.to ((s.chip.clrFields [F.PWR_DOM_PEND_PEND_VALID, F.PWR_DOM_PEND_PEND_STATE,
      F.PWR_DOM_STAT_ENABLE_PENDING] d).report p .ok))) ∧
  (∀ (s : State) (p : Port) (d : Fin 64), s.may p 0xFC = true →
    exec (.domPendCntClr p d) s = .next (s.to ((s.chip.wr F.PWR_DOM_PEND_SUPERSEDED_CNT 0 d).report p .ok)))

/-- The shed ladder and SOAK (R463–R470): stages enter and clear with every stage between, PWR_WARN brings at least S4, a
SOAK transmission wakes its domains and sends, domains return to their SOAK states, a source wakes the device. -/
def Obligations.ShedAndSoakComplete : Prop :=
  (∀ (s : State) (k : Fin 7) (v : Fin 1024), s.chip.mode ≠ mBypass →
    let c := (s.chip.wr F.PWR_SHED_STAGE_VMEAS v).wr F.PWR_SHED_STAGE_VMIN (min v.val (s.chip.rd
      F.PWR_SHED_STAGE_VMIN))
    (c.stage < k.val → v.val < stageThr k → exec (.shedStageEnter k v) s = .next (s.to (c.stageUp k false))) ∧
    (stageThr c.stage + 10 ≤ v.val → c.stage ≠ 4 ∨ c.flag F.PWR_SHED_STAGE_WARN = false →
      exec (.shedStageClear v) s = .next (s.to (c.stageDown false)))) ∧
  (∀ (s : State), s.chip.mode ≠ mBypass → let c := s.chip.wr F.PWR_SHED_STAGE_WARN 1
    (c.stage < 4 → exec .pwrWarnAssert s = .next (s.to ((c.withDev { c.dev with
      shedCauses := setBit c.dev.shedCauses 1 true }).stageUp 4 true))) ∧
    (4 ≤ c.stage → exec .pwrWarnAssert s = .next (s.to (c.shedCause 1)))) ∧
  (∀ (s : State) (done : Bool), let c := (s.chip.wr F.PWR_SHED_STAGE_WARN 0).shedClear 1
    exec (.pwrWarnDeassert done) s = .next (s.to (if done = true ∧ c.stage = 4 then c.stageDown true else c))) ∧
  (∀ (s : State) (p : Port) (v : Fin 1024), s.may p 0xFE = true →
    exec (.shedStageClrWrite p v) s = .next (s.to ((((s.chip.wr F.PWR_SHED_STAGE_VMEAS v).wr F.PWR_SHED_STAGE_VMIN v).wr
      F.PWR_SHED_STAGE_PEAK s.chip.stage).report p .ok))) ∧
  (∀ (s : State) (q : Fin 4) (t : Nat), s.chip.mode = mSoak → s.chip.flag F.PWR_SOAK_TX_EN q = true →
    let ds := s.chip.soakTxDomains (s.chip.rd F.PWR_SOAK_TX_CC q)
    let c := s.chip.withPwr { s.chip.pwr with soakReturn := s.chip.pwr.soakReturn.filter fun d => !ds.contains d }
    let per := soakPeriod (s.chip.rd F.PWR_SOAK_TX_PERIOD q)
    (s.chip.soakNow q = some (t, false) →
      exec (.soakTx q) s = .next (s.to (ds.foldl (fun c d => c.hwWake d) (c.soakNote q (t, true))))) ∧
    (s.chip.soakNow q = some (t, true) → tickLater t s.chip.tick = false →
      exec (.soakTx q) s = .next (s.to (((s.chip.soakNote q (tickAdd t per, false)).soakSend q t).soakReturnAdd ds))) ∧
    (s.chip.soakNow q = none → exec (.soakTx q) s = .next (s.to s.chip))) ∧
  (∀ (s : State), s.chip.mode = mSoak → s.chip.inTrans = false →
    exec .soakDomainReturn s = .next (s.to (s.chip.pwr.soakReturn.foldl (fun c d =>
      match c.soakState d with | some st => (c.domReq d st true).1 | none => c)
      (s.chip.withPwr { s.chip.pwr with soakReturn := [] })))) ∧
  (∀ (s : State) (src : Fin 9) (link : Fin 18), s.chip.wakeEnabled src link = true →
    (src.val = 4 → exec (.soakWake src link) s =
      .next (s.to ((s.chip.wr F.PWR_WAKE_STAT_LAST_LINK link).soakWake src))) ∧
    (src.val ≠ 4 → exec (.soakWake src link) s = .next (s.to (s.chip.soakWake src)))) ∧
  (∀ (s : State), s.chip.rd F.PWR_WAKE_CFG_MAX_SLEEP_S ≠ 0 →
    exec .soakMaxSleepTimer s = .next (s.to (s.chip.soakWake 7)))

/-! ## Time -/

/-- The timing unit (R439–R446, R496): in the states each command is for, it answers a next state with exactly these
changes. -/
def Obligations.TimingCommandsComplete : Prop :=
  (∀ (s : State) (q : Fin 16) (st : Nat), s.chip.ptpRuns q = true → s.chip.ptpMay q st = true →
    exec (.ptpMessageReceive q (.announce st)) s = .next (s.to (s.chip.wr F.TIME_PTP_PORT_PORT_STATE st q).timeEval)) ∧
  (∀ (s : State) (q : Fin 16) (sec ns : Nat) (half : Fin 66), s.chip.ptpRuns q = true →
    s.chip.rd F.TIME_PTP_PORT_PORT_STATE q = 9 → s.chip.rd F.TIME_STAT_PHASE_SRC = 1 →
    exec (.ptpMessageReceive q (.sync sec ns half)) s =
      .next (s.to ((s.chip.withTai sec ns).servo (s.chip.srcOffset sec ns half)))) ∧
  (∀ (s : State) (q : Fin 16), s.chip.ptpRuns q = true → s.chip.rd F.TIME_PTP_PORT_PORT_STATE q = 6 →
    exec (.ptpMessageReceive q .delayReq) s = .next (s.to (s.chip.ptpSend q "PTP Delay_Resp")) ∧
    exec (.ptpSendTimer q 0) s = .next (s.to (s.chip.ptpSend q "PTP Sync")) ∧
    exec (.ptpSendTimer q 2) s = .next (s.to (s.chip.ptpSend q "PTP Announce"))) ∧
  (∀ (s : State) (q : Fin 16), s.chip.ptpRuns q = true →
    (s.chip.rd F.TIME_PTP_PORT_PORT_STATE q = 8 ∨ s.chip.rd F.TIME_PTP_PORT_PORT_STATE q = 9) →
    exec (.ptpSendTimer q 1) s = .next (s.to (s.chip.ptpSend q "PTP Delay_Req"))) ∧
  (∀ (s : State) (q : Fin 16), s.chip.synceRuns q = true →
    (s.chip.rd F.TIME_STAT_FREQ_SRC = 3 → q.val = s.chip.rd F.TIME_SRC_CFG_SYNCE_PORT →
      exec (.esmcSendTimer q) s = .next (s.to (s.chip.emit (.eth q "ESMC" [15])))) ∧
    (s.chip.rd F.TIME_STAT_FREQ_SRC ≠ 3 →
      exec (.esmcSendTimer q) s = .next (s.to (s.chip.emit (.eth q "ESMC" [s.chip.qlInUse]))))) ∧
  (∀ (s : State) (q : Fin 16) (ql : Fin 16), s.chip.synceRuns q = true →
    let c := s.chip.withEth { s.chip.eth with ql := Tbl.set s.chip.eth.ql q (ql + 1) 0 }
    exec (.esmcReceive q ql) s = .next (s.to c.timeEval)) ∧
  (∀ (s : State) (q : Fin 16), let c := s.chip.withEth { s.chip.eth with ql := Tbl.erase s.chip.eth.ql q }
    exec (.esmcTimeout q) s = .next (s.to c.timeEval)) ∧
  (∀ (s : State) (half : Fin 66), s.chip.mode ≠ mBypass → s.chip.flag F.TIME_CTRL_PPS_IN_EN = true →
    let c := s.chip.withTime { s.chip.time with
      ppsOk := s.chip.ppsNear
      ppsTick := some s.chip.tick }
    let sec := c.rd F.TIME_TOD_TOD
    (s.chip.rd F.TIME_STAT_PHASE_SRC ≠ 2 → exec (.ppsInEdge half) s = .next (s.to c.timeEval)) ∧
    (s.chip.rd F.TIME_STAT_PHASE_SRC = 2 → s.chip.ppsOff = false →
      exec (.ppsInEdge half) s = .next (s.to (((c.incMod F.TIME_TOD_TOD).withTai sec 0).servo (c.srcOffset sec 0 half)).timeEval)) ∧
    (s.chip.rd F.TIME_STAT_PHASE_SRC = 2 → s.chip.ppsOff = true →
      exec (.ppsInEdge half) s = .next (s.to (s.chip.incSat F.TIME_STAT_PPS_DROP)))) ∧
  (∀ (s : State) (t : Nat), s.chip.time.ppsTick = some t → ppsTicks < cntSub s.chip.tick t →
    let c := s.chip.withTime { s.chip.time with
      ppsOk := false
      ppsTick := none }
    exec .ppsInLoss s = .next (s.to c.timeEval)) ∧
  (∀ (s : State), s.chip.mode ≠ mBypass → s.chip.flag F.TIME_CTRL_PPS_OUT_EN = true →
    s.chip.rd F.TIME_STAT_STATE ≠ 0 →
    exec .ppsOutEdge s = .next (s.to ((s.chip.withTime { s.chip.time with ppsOut := !s.chip.time.ppsOut }).emit
      (.pin "PPS_OUT" (b2n !s.chip.time.ppsOut))))) ∧
  (∀ (s : State), s.chip.rd F.TIME_STAT_STATE = 1 → s.chip.time.offset.natAbs ≤ 50 →
    exec .timeLockTimer s = .next (s.to ((s.chip.wr F.TIME_STAT_STATE 2).withTime { s.chip.time with
      locked := true }).ringEval)) ∧
  (∀ (s : State), let b := s.chip.bestSrc
    let cur := s.chip.rd F.TIME_STAT_PHASE_SRC
    s.chip.flag F.TIME_CTRL_REVERT = true → b ≠ 0 → cur ≠ 0 → s.chip.srcPrio b < s.chip.srcPrio cur →
    exec .revertWtrTimer s = .next (s.to (s.chip.srcSelect b).ringEval)) ∧
  (∀ (s : State), s.chip.mode ≠ mBypass →
    (s.chip.rd F.TIME_CTRL_TE_LIMIT < s.chip.teEst.natAbs → exec .timeAlarm s =
      .next (s.to ((s.chip.wr F.TIME_STAT_ALARM 1).wr F.TIME_STAT_ALARM_SEEN 1))) ∧
    (s.chip.teEst.natAbs ≤ s.chip.rd F.TIME_CTRL_TE_LIMIT → exec .timeAlarm s =
      .next (s.to (s.chip.wr F.TIME_STAT_ALARM 0)))) ∧
  (∀ (s : State), s.chip.flag F.TIME_RING_STAT_HOLD = true →
    exec .ringHoldTimer s = .next (s.to (s.chip.wr F.TIME_RING_STAT_HOLD 0).ringEval)) ∧
  (∀ (s : State) (q : Fin 16), s.chip.mode ≠ mBypass → s.chip.ethPort q = true →
    (s.chip.domState (s.chip.ethDomain q) = dOn →
      let c := (s.chip.wr F.ETH_PORT_STAT_LINK_UP 1 q).wr F.ETH_PORT_STAT_SPEED
        (if s.chip.rd F.ETH_CFG_MODE = 1 then 1 else 2) q
      exec (.ethLinkChange q true) s = .next (s.to (if c.flag F.ETH_PORT_CFG_ROLE_PTP q then
        c.wr F.TIME_PTP_PORT_PORT_STATE 4 q else c).timeEval)) ∧
    (let c := (s.chip.wr F.ETH_PORT_STAT_LINK_UP 0 q).wr F.ETH_PORT_STAT_SPEED 0 q
     let c' := if c.flag F.ETH_PORT_CFG_ROLE_PTP q then c.wr F.TIME_PTP_PORT_PORT_STATE 2 q else c
     exec (.ethLinkChange q false) s =
        .next (s.to (c'.withEth { c'.eth with ql := Tbl.erase c'.eth.ql q }).timeEval))) ∧
  (∀ (s : State), let c := s.chip.withTime { s.chip.time with osc10m := !s.chip.time.osc10m }
    exec .osc10mPresenceChange s = .next (s.to c.timeEval))

/-! ## Ethernet -/

/-- The Ethernet ports and the RUs (R428–R438): in the states each command is for, it answers a next state with exactly
these changes. -/
def Obligations.EthernetCommandsComplete : Prop :=
  (∀ (s : State) (q : Fin 16) (f : EthFrame), s.chip.ethRuns q = true →
    let c := s.chip.incSat F.ETH_PORT_STAT_FEC_UNCORR q 0 f.fec
    (9216 < f.bytes ∨ f.fcsOk = false → exec (.ethFrameReceive q f) s =
      .next (s.to (c.incMod F.ETH_PORT_STAT_RX_DROP q))) ∧
    (f.bytes ≤ 9216 → f.fcsOk = true → f.body = .other → exec (.ethFrameReceive q f) s =
      .next (s.to (c.incMod F.ETH_PORT_STAT_RX_DROP q))) ∧
    (∀ action id, f.bytes ≤ 9216 → f.fcsOk = true → f.body = .owd 1 false action id → s.chip.fhRuns q = true →
      (action = 0 ∨ action = 1 → exec (.ethFrameReceive q f) s =
        .next (s.to (c.emit (.eth q "eCPRI OWD response" [id])))) ∧
      (action = 3 → exec (.ethFrameReceive q f) s =
        .next (s.to (c.emit (.eth q "eCPRI OWD request" [id])))))) ∧
  (∀ (s : State) (q : Fin 16) (m : UMsg), s.chip.ethRuns q = true → s.chip.fhRuns q = true →
    s.chip.ruFind q m.eaxc = none →
    exec (.uplaneReceive q m) s = .next (s.to (s.chip.ruDiscard q none))) ∧
  (∀ (s : State) (q : Fin 16) (m : UMsg) (r p at_ close first : Nat), s.chip.ethRuns q = true →
    s.chip.fhRuns q = true → s.chip.ruFind q m.eaxc = some (r, p, false) →
    Tbl.get s.chip.eth.seqRx (65536 * r + m.eaxc) 0 = m.seq % 256 →
    let c := s.chip.withEth { s.chip.eth with seqRx := Tbl.set s.chip.eth.seqRx (65536 * r + m.eaxc) ((m.seq + 1) % 256) 0 }
    c.ulWindow r false (m.frame % 256) 8 m.sym = (at_, close, first) → tickLater at_ c.tick = false →
    (tickLater close c.tick = false →
      exec (.uplaneReceive q m) s = .next (s.to (c.incSat F.ETH_RU_CNT_LATE r))) ∧
    (tickLater close c.tick = true →
      let b : UlBuf := match c.ulBuf r p false at_ with
        | some b => b
        | none => {
          ru := r
          port := p
          prach := false
          at_ := at_
          sym := first
          sfn := c.sfnAt at_ }
      let x := c.ulSecs b 0 (c.rd F.ETH_RU_CFG_N_RB r) m.secs
      exec (.uplaneReceive q m) s = .next (s.to (x.1.putUl x.2)))) ∧
  (∀ (s : State) (r : Fin 32) (prach : Bool) (sfn : Fin 1024) (sym at_ close first : Nat),
    s.chip.ulWindow r prach sfn 10 sym = (at_, close, first) → s.chip.ruRuns r = true → s.chip.modeIn modesRu = true →
    tickLater close s.chip.tick = false → s.chip.awake = true →
    let c := (List.range (s.chip.rd F.ETH_RU_CFG_N_PORT_M1 r + 1)).foldl (fun c p =>
      c.ulClose r p prach at_ first sfn (prach || c.ulAsked r at_)) s.chip
    c.awake = true → exec (.uplaneWindowClose r prach sfn sym) s = .next (s.to c)) ∧
  (∀ (s : State) (f : Fin 64) (ring : Fin 8) (count r a z t0 t1 : Nat) (h : HostCmd),
    (s.chip.ringCmds f ring).find? (fun h => h.count == count) = some h → s.chip.ruOf h.cell = some r →
    h.itemSpan = (a, z) → h.cpTimes (s.chip.ruCarrier r) = (t0, t1) → h.isSlot = true → h.stage = .started →
    h.discard = false → s.chip.ruRuns r = true → s.chip.modeIn modesRu = true → h.op ≠ 2 ∨ s.chip.mode ≠ mShed →
    (∀ x ∈ s.chip.eth.sent, x.ref ≠ h.ref) →
    tickLater (s.chip.cpInstant h r (s.chip.ruCarrier r)) s.chip.tick = false →
    s.chip.ethRuns (s.chip.rd F.ETH_RU_CFG_PORT r) = true →
    let c := s.chip.withEth { s.chip.eth with
      sent := (s.chip.eth.sent.filter fun x => tickDiff s.chip.tick x.stop < 2 ^ 20) ++ [⟨r, h.op == 2, t0, t1, h.ref⟩] }
    let g := ruCfgOf (c.ruVal r)
    exec (.cplaneSend f ring count) s = .next (s.to ((List.range g.ports).foldl (fun c p =>
      c.ruSend r (g.base + p) "C-plane type 1" [b2n (h.op == 2), c.sfnAt t0 % 256, h.slotNo, a, z - a, g.nRb, 0xFFF]) c))) ∧
  (∀ (s : State) (r : Fin 32) (slot : Nat),
    let w := s.chip.ruCarrier r
    let sps := frameTicks / ccSlotTicks w
    let at_ := s.chip.airOf w (slot / sps % 1024) 10 (slot % sps * ccSlotSyms w + s.chip.rd F.ETH_RU_PRACH_START_SYM r)
    let per := s.chip.rd F.ETH_RU_PRACH_PERIOD r
    s.chip.ruRuns r = true → s.chip.modeIn modesRu = true → s.chip.flag F.ETH_RU_PRACH_EN r = true → per ≠ 0 →
    slot < 1024 * sps → ((slot : Int) - s.chip.rd F.ETH_RU_PRACH_SLOT_OFF r) % per = 0 →
    tickLater (tickAdd at_ (tickMod - s.chip.rd F.ETH_RU_WIN_TCP_ADV_UL r)) s.chip.tick = false →
    s.chip.ethRuns (s.chip.rd F.ETH_RU_CFG_PORT r) = true →
    let c := (s.chip.readWord .fabric (0x300000000 + 128 * s.chip.rd F.ETH_RU_PRACH2_PRACH_OFF r - 16)).1
    let x := (s.chip.readWord .fabric (0x300000000 + 128 * s.chip.rd F.ETH_RU_PRACH2_PRACH_OFF r - 16)).2
    (x.poison = true → exec (.prachCplaneSend r slot) s = .next (s.to (c.incSat F.ETH_RU_CNT_DISCARD r))) ∧
    (x.poison = false → x.status = .ok → x.data < 2 ^ 24 →
      let g := ruCfgOf (c.ruVal r)
      let b := c.rd F.ETH_RU_PRACH2_PRACH_BASE r / 2 ^ g.ruBits * 2 ^ g.ruBits
      exec (.prachCplaneSend r slot) s = .next (s.to ((List.range g.ports).foldl (fun c p =>
        c.ruSend r (b + p) "C-plane type 3" [c.sfnAt at_ % 256, slot % sps, c.rd F.ETH_RU_PRACH_START_SYM r,
          c.rd F.ETH_RU_PRACH_N_SYM_M1 r + 1, c.rd F.ETH_RU_PRACH_N_PRBC r, c.rd F.ETH_RU_PRACH2_FILTER_IDX r,
          c.rd F.ETH_RU_PRACH2_FS_SCS r, c.rd F.ETH_RU_PRACH2_FFT r, x.data]) c)))) ∧
  (∀ (s : State) (r : Fin 32) (sfn : Fin 1024) (sym : Nat) (x : CpSpan) (ready : Bool),
    let at_ := s.chip.airOf (s.chip.ruCarrier r) sfn 10 sym
    s.chip.eth.sent.find? (fun (x : CpSpan) => x.ru == r.val && x.dl && 0 ≤ tickDiff at_ x.first
      && 0 < tickDiff x.stop at_) = some x → s.chip.ruRuns r = true → s.chip.modeIn modesRu = true → s.chip.mode ≠ mShed →
    tickLater (tickAdd at_ (tickMod - s.chip.rd F.ETH_RU_WIN_T1A_UP r)) s.chip.tick = false →
    s.chip.ethRuns (s.chip.rd F.ETH_RU_CFG_PORT r) = true → s.chip.awake = true →
    let c := if ready then s.chip else s.chip.dlMissed x.ref
    let c2 := (List.range (c.rd F.ETH_RU_CFG_N_PORT_M1 r + 1)).foldl (fun c p => c.dlPort r p sym sfn (!ready)) c
    c2.awake = true → exec (.uplaneSend r sfn sym ready) s = .next (s.to c2)) ∧
  (∀ (s : State) (p : Port) (r : Fin 32) (v : Nat), s.may p 0xBE = true →
    let c := G.ETH_RU_CFG.fields.foldl (fun c f => c.wr f (f.of (setBit v 63 true)) r) s.chip
    (s.chip.ruOk r (ruCfgOf v) = true → s.chip.flag F.ETH_RU_CFG_EN r = false →
      exec (.ruEnable p r v) s = .next (s.to ((c.withEth { c.eth with
        start := Tbl.insert (Tbl.erase c.eth.start r) r (c.slotNext (c.ruCarrier r)) }).report p .ok))) ∧
    (s.chip.ruOk r (ruCfgOf v) = true → s.chip.flag F.ETH_RU_CFG_EN r = true →
      exec (.ruEnable p r v) s = .next (s.to (c.report p .ok))) ∧
    (s.chip.ruOk r (ruCfgOf v) = false →
      exec (.ruEnable p r v) s = .next (s.to (s.chip.report p .badDescriptor)))) ∧
  (∀ (s : State) (p : Port) (r : Fin 32), s.may p modesRu = true → s.chip.flag F.ETH_RU_OWD_GO r = false →
    exec (.owdRequest p r) s = .next (s.to (((s.chip.wr F.ETH_RU_OWD_GO 1 r).owdSend r).report p .ok))) ∧
  (∀ (s : State) (r : Fin 32) (delay : Int), s.chip.flag F.ETH_RU_OWD_GO r = true →
    exec (.owdResponse r delay) s = .next (s.to (((s.chip.wr F.ETH_RU_OWD_DELAY_NS (toBits 32 delay) r).wr
      F.ETH_RU_OWD_VALID 1 r).w1sEnd F.ETH_RU_OWD_GO r 0 (fun c => c.owdSend r))) ∧
    exec (.owdTimeout r) s = .next (s.to ((s.chip.wr F.ETH_RU_OWD_VALID 0 r).w1sEnd F.ETH_RU_OWD_GO r 0
      (fun c => c.owdSend r))))

/-! ## Sensors, clocks, management port -/

/-- PLLs, references, sensors, the supply target (R495, R496, R503, R511–R521): in the states each command is for, it
answers a next state with exactly these changes. The oscillators' reference counts are free values (log entry 4). -/
def Obligations.SensorCommandsComplete : Prop :=
  (∀ (s : State) (p : Fin 12), bit (s.chip.rd F.CLK_PLL_STAT_LOCK) p = true →
    exec (.pllLol p) s = .next (s.to ((s.chip.wr F.CLK_PLL_STAT_LOCK (setBit (s.chip.rd F.CLK_PLL_STAT_LOCK) p false)).wr
      F.CLK_PLL_STAT_LOL_SEEN (setBit (s.chip.rd F.CLK_PLL_STAT_LOL_SEEN) p true)))) ∧
  (∀ (s : State) (p : Fin 12), s.chip.dev.held = .none → bit (s.chip.rd F.CLK_PLL_STAT_LOCK) p = false →
    exec (.pllRelock p) s = .next (s.to (s.chip.wr F.CLK_PLL_STAT_LOCK (setBit (s.chip.rd F.CLK_PLL_STAT_LOCK) p
      true)).anteRelease)) ∧
  (∀ (s : State), (s.chip.flag F.CLK_REF_CFG_REF_A_OK = true → exec (.refclkLoss true) s =
      .next (s.to ((s.chip.wr F.CLK_REF_CFG_REF_B_OK 0).wr F.CLK_REF_CFG_USING_B 0))) ∧
    (s.chip.flag F.CLK_REF_CFG_REF_B_OK = true → exec (.refclkLoss false) s =
      .next (s.to ((s.chip.wr F.CLK_REF_CFG_REF_A_OK 0).wr F.CLK_REF_CFG_USING_B 1))) ∧
    (s.chip.rd F.CLK_REF_CFG_B_FREQ ≠ 3 → s.chip.flag F.CLK_REF_CFG_REF_A_OK = true → exec (.refclkReturn true) s =
      .next (s.to (s.chip.wr F.CLK_REF_CFG_REF_B_OK 1))) ∧
    (s.chip.flag F.CLK_REF_CFG_REF_B_OK = false → exec (.refclkReturn false) s =
      .next (s.to ((s.chip.wr F.CLK_REF_CFG_REF_A_OK 1).wr F.CLK_REF_CFG_USING_B 0)))) ∧
  (∀ (s : State) (temps : List (Option Int)) (volts : List (Option Nat)) (n : Nat), s.chip.sens.armed = true →
    let c := s.chip.convertAll temps volts
    let c2 := (c.wr F.SENS_STAT_MAX_TEMP (toBits 16 (c.sensorTemp n))).wr F.SENS_STAT_HOT n
    c.hottest = some n →
    (1000 ≤ c2.sensorTemp n → exec (.sensorRound temps volts) s = .next (s.to c2.thermTrip)) ∧
    (c2.sensorTemp n < 1000 → c2.dev.held = .none →
      exec (.sensorRound temps volts) s = .next (s.to ((c2.throttleRule n).thermShed n)))) ∧
  (∀ (s : State), s.chip.dev.held = .none →
    exec .avsTimeout s = .next (s.to (s.chip.withSens { s.chip.sens with avsBad := true }))) ∧
  (∀ (s : State) (counts : List Nat), s.chip.modeIn modesAge = true →
    let c := (List.range 32).foldl (fun c k => c.wr F.SENS_AGE_COUNT (counts.getD k 0) k) s.chip
    let c1 := c.withFree (c.free + 1)
    let slow := if c1.flag F.CAL_STAT_STORE_BAD then 0
      else slowOf ((List.range 32).map fun k => (Config.ageRef c.free k).toNat) counts
    let c2 := c1.wr F.SENS_AVS_SLOW slow
    let goal := c2.avsGoal
    let c3 := c2.when (decide (82300 ≤ goal) && !c2.flag F.SENS_AVS_REDUCED) fun c =>
      (c.when (!c.slowHeld) fun c => c.slowRamps false).wr F.SENS_AVS_REDUCED 1
    let c4 := c3.setFlag F.SENS_AVS_AT_LIMIT (decide (82000 < goal))
    let mv := min 820 (roundDiv goal 100).toNat
    let c5 := (avsSteps (c4.rd F.SENS_AVS_TARGET) mv 1000).foldl (fun c v => c.emit (.avs v)) c4
    exec (.ageingCompute counts true) s = .next (s.to ((c5.wr F.SENS_AVS_TARGET mv).withSens { (c5.wr F.SENS_AVS_TARGET
      mv).sens with avsBad := false })) ∧
    exec (.ageingCompute counts false) s = .next (s.to c5))

/-- The management port and JTAG (R506–R509): its commands act while the port answers; an instruction whose condition holds
is in force, one whose condition does not hold acts as BYPASS. -/
def Obligations.PortCommandsComplete : Prop :=
  (∀ (s : State), s.chip.mode ≠ mBypass →
    exec (.i2cWarmReset 0x5752) s = .next (s.to (s.chip.warmReset F.DEV_RESET_CAUSE_WARM_MGMT)) ∧
    (s.chip.flag F.PWR_WAKE_CFG_MGMT = true → exec .i2cWake s = .next (s.to (s.chip.soakWake 6))) ∧
    exec .i2cStatus s = .next (s.to (s.chip.emit (.i2c s.chip.port.i2cLast.code
      (s.chip.regVal G.DEV_MODE.fields 0 0) 0)))) ∧
  (∀ (s : State) (a : Fin 0x10000000) (q n : Nat), s.chip.mode ≠ mBypass →
    let k : Pkt := ⟨.rd, 0, 0, 2, a, n, 0, 0, some .mgmt⟩
    s.chip.pktPort k = some q → s.chip.gate (some q) (s.chip.pktDomain k) = .pass → Tbl.get s.chip.fab.ante q [] = [] →
    s.chip.reachesAddr .mgmt a = true →
    let x := s.chip.regRead .mgmt a n
    let c := s.chip.answer k x.2 x.1 (if ctlReserved a then 0xFF else 0)
    (n = 4 → exec (.i2cRead32 a) s = .next (s.to c)) ∧
    (n = 8 → exec (.i2cRead64 a) s = .next (s.to c))) ∧
  (∀ (s : State) (a : Fin 0x10000000) (q n : Nat) (v : BitVec 64), s.chip.mode ≠ mBypass →
    n = 4 ∧ v.toNat < 2 ^ 32 ∨ n = 8 →
    let k : Pkt := ⟨.wr, 0, 0, 2, a, n, v.toNat, 0, some .mgmt⟩
    s.chip.pktPort k = some q → s.chip.gate (some q) (s.chip.pktDomain k) = .pass → Tbl.get s.chip.fab.ante q [] = [] →
    s.chip.reachesAddr .mgmt a = true →
    let x := s.chip.regWrite .mgmt a n v.toNat
    (n = 4 → exec (.i2cWrite32 a (v.setWidth 32)) s = .next (s.to (x.1.answer k x.2 0 0))) ∧
    (n = 8 → exec (.i2cWrite64 a v) s = .next (s.to (x.1.answer k x.2 0 0)))) ∧
  (∀ (s : State) (pins next : Nat), s.chip.dev.vddAon = true → s.chip.port.tap.drives = false →
    exec .jtagReset s = .next (s.to (s.chip.withPort { s.chip.port with tap := .idcode })) ∧
    exec .jtagBypass s = .next (s.to (s.chip.withPort { s.chip.port with tap := .bypass })) ∧
    exec .jtagIdcode s = .next (s.to ((s.chip.withPort { s.chip.port with tap := .idcode }).emit
      (.jtag "IDCODE" idcode))) ∧
    exec (.jtagSamplePreload pins next) s = .next (s.to (((s.chip.withPort { s.chip.port with tap := .sample }).emit
      (.jtag "BOUNDARY" pins)).withPort { s.chip.port with
        tap := .sample
        bsr := next })) ∧
    (s.chip.tapAllows .extest = false → exec (.jtagExtest pins next) s =
      .next (s.to ((s.chip.withPort { s.chip.port with tap := .bypass }).emit (.jtag "BYPASS" 0)))) ∧
    (s.chip.dev.resetN = false →
      let c := ((s.chip.withPort { s.chip.port with
        seamWas := s.chip.flag F.DEV_MODE_SEAM_OPEN }).setSeam false).emit (.pin "PLR_JTAG_SLOW" 1)
      exec (.jtagExtest pins next) s = .next (s.to ((((c.withPort { c.port with tap := .extest }).emit
        (.jtag "BOUNDARY" pins)).withPort { c.port with
          tap := .extest
          bsr := next }).emit (.pin "JTAG_DRIVE" next))) ∧
      exec (.jtagExtestPulse pins next) s = .next (s.to ((((c.withPort { c.port with tap := .pulse }).emit
        (.jtag "BOUNDARY" pins)).withPort { c.port with
          tap := .pulse
          bsr := next }).emit (.pin "JTAG_PULSE" next))) ∧
      exec (.jtagExtestTrain pins next) s = .next (s.to ((((c.withPort { c.port with tap := .train }).emit
        (.jtag "BOUNDARY" pins)).withPort { c.port with
          tap := .train
          bsr := next }).emit (.pin "JTAG_TRAIN" next))) ∧
      exec .jtagClamp s = .next (s.to ((c.withPort { c.port with tap := .clamp }).emit
        (.pin "JTAG_DRIVE" c.port.bsr))) ∧
      exec .jtagHighz s = .next (s.to ((c.withPort { c.port with tap := .highz }).emit (.pin "JTAG_HIGHZ" 1))))) ∧
  (∀ (s : State) (a : DebugAcc), s.chip.dev.vddAon = true → s.chip.port.tap.drives = false →
    (s.chip.tapAllows .debug = true → exec (.jtagDebugAccess (some a)) s =
      .next (s.to ((s.chip.withPort { s.chip.port with tap := .debug }).request .jtag a.write a.addr a.bytes a.data 0))) ∧
    (s.chip.tapAllows .debug = false → exec (.jtagDebugAccess (some a)) s =
      .next (s.to (s.chip.withPort { s.chip.port with tap := .bypass }))))

/-! ## Engines -/

/-- Signal engines and control caches (R270–R303, R489): in the states each command is for, it answers a next state with
exactly these changes. -/
def Obligations.EngineCommandsComplete : Prop :=
  (∀ (s : State) (e : Fin 256) (busy : Option Nat) (c c2 : Chip) (outs : List SlotOut) (x : Eng) (b : Bool),
    s.chip.engRuns e = true → (s.chip.eng e).stalled = false → (s.chip.eng e).popDue = false →
    s.chip.plan e busy = (c, outs, none) → (s.chip.eng e).irqTakeable = false → (∀ o ∈ outs, o.wait = false) →
    c2 = outs.foldl (fun c o => o.fx c) c → (c2.eng e).advance = (x, b) → (s.chip.eng e).overdue c.tick = false →
    exec (.issueGroup e busy) s =
      .next (s.to (((c2.setEng e (x.holdTrack c2.tick)).showRun e).engBoundary e))) ∧
  (∀ (s : State) (e : Fin 256) (busy : Option Nat) (c : Chip) (outs : List SlotOut) (y : Exc),
    s.chip.engRuns e = true → (s.chip.eng e).stalled = false → (s.chip.eng e).popDue = false →
    s.chip.plan e busy = (c, outs, some y) →
    exec (.issueGroup e busy) s = .next (s.to ((c.takeExc e y (s.chip.eng e).pc true).engBoundary e))) ∧
  (∀ (s : State) (e : Fin 256), s.chip.engRuns e = true → (s.chip.eng e).irqTakeable = true →
    ((s.chip.eng e).stalled = true ∨ (s.chip.plan e none).2.2 = none) →
    exec (.interruptTaken e) s = .next (s.to (s.chip.takeIrq e))) ∧
  (∀ (s : State) (e : Fin 256), s.chip.engRuns e = true → (s.chip.eng e).overdue s.chip.tick = true →
    exec (.holdoffOverrun e) s = .next (s.to (s.chip.setEng e { s.chip.eng e with hoArmed := true }))) ∧
  (∀ (s : State) (e : Fin 256), bit (s.chip.eng e).tcmp 32 = true →
    tickLater ((s.chip.eng e).tcmp % 2 ^ 32) s.chip.tick = false →
    exec (.tcmpTimer e) s = .next (s.to ((s.chip.setEng e { s.chip.eng e with
      tcmp := (s.chip.eng e).tcmp % 2 ^ 32 }).engIrq e 4))) ∧
  (∀ (s : State) (p : Port) (e : Fin 256) (v : Nat), s.may p modesRun = true →
    exec (.engMboxWrite p e v) s = .next (s.to (((s.chip.setEng e { s.chip.eng e with
      mbox := v % 2 ^ 32 }).engIrq e 8).report p .ok))) ∧
  (∀ (s : State) (p : Port) (e : Fin 256) (c : Chip), s.may p 0x80 = true →
    bit (s.chip.rd F.TRUST_STATUS_TOKEN_PERMS) 0 = true →
    c = (s.chip.setEng e { s.chip.eng e with haltReq := true }).wr F.CLU_ENG_CTRL_HALT 1 (eC e) (eJ e) →
    (1 ≤ c.engState e → c.engState e ≤ 4 →
      exec (.engHalt p e) s = .next (s.to ((c.engBoundary e).report p .ok)))) ∧
  (∀ (s : State) (p : Port) (e : Fin 256) (c : Chip), s.may p 0x80 = true →
    bit (s.chip.rd F.TRUST_STATUS_TOKEN_PERMS) 0 = true → s.chip.engState e = esHalted → (s.chip.eng e).haltWhy = .test →
    (c = ((s.chip.setEng e { s.chip.eng e with haltWhy := .none }).showRun e).wr F.CLU_ENG_CTRL_STEP 1 (eC e) (eJ e) →
      c.engRuns e = true → exec (.engStep p e) s = .next (s.to ((c.issue e none).report p .ok))) ∧
    (c = s.chip.setEng e { s.chip.eng e with
        haltWhy := .none
        haltReq := false } →
      exec (.engResume p e) s = .next (s.to ((c.showRun e).report p .ok)))) ∧
  (∀ (s : State) (e : Fin 256) (k : Nat) (a : EngAcc),
    ((s.chip.eng e).acc.filter fun (a : EngAcc) => a.load && !a.cached)[k]? = some a →
    (a.control = false → exec (.loadDataArrive e k) s = .next (s.to (s.chip.setEng e
      ((((s.chip.eng e).ldNote true a.status a.seen a.busy)).arrive a.id
        ((s.chip.eng e).readAt a.id).1 ((s.chip.eng e).readAt a.id).2)))) ∧
    (∀ v p st, a.control = true → s.chip.ctlLoad e a = some (v, p, st) →
      exec (.loadDataArrive e k) s = .next (s.to (s.chip.setEng e
        (((s.chip.eng e).ldNote true st 0 false).arrive a.id v (b2n p)))))) ∧
  (∀ (s : State) (e : Fin 256) (k : Nat) (a : EngAcc) (c : Chip) (st : Status),
    ((s.chip.eng e).acc.filter fun (a : EngAcc) => !a.load && !a.cached)[k]? = some a →
    (if a.control then s.chip.gate (s.chip.portControl a.addr) (s.chip.ctlDomain a.addr) = .pass ∧
      s.chip.regWrite (.engine e) a.addr a.size a.data = (c, st) else c = s.chip ∧ st = a.status) →
    exec (.storeAck e k) s = .next (s.to (c.setEng e
      ({ c.eng e with acc := (c.eng e).acc.filter fun b => b.id != a.id }.ldNote false st a.seen false)))) ∧
  (∀ (s : State) (n : Fin 16) (line e : Nat) (r : List (Nat × Nat)) (c c2 c3 : Chip) (l : CcLine),
    (s.chip.cluster n).fills = (line, e) :: r →
    c = (s.chip.setCluster n { s.chip.cluster n with fills := r }).ccSnoop n line false →
    (s.chip.cluster n).wbs.find? (fun w => w.1.line == line) = none → c.readLine line = (c2, l, .ok) →
    c3 = (c2.ccInstall n e l).incMod F.CLU_CC_STAT_MISSES n →
    exec (.ccFillComplete n) s = .next (s.to (((List.range 16).filter fun j =>
      (c3.eng (16 * n + j)).acc.any fun a => a.cached && ccLine a.addr == line).foldl
        (fun c j => c.ccServe (16 * n + j) line .ok) c3))) ∧
  (∀ (s : State) (n : Fin 16) (l : CcLine) (e : Nat) (r : List (CcLine × Nat)) (c : Chip) (st : Status),
    (s.chip.cluster n).wbs = (l, e) :: r →
    (s.chip.setCluster n { s.chip.cluster n with wbs := r }).writeLine l = (c, st) →
    c.flag F.CLU_CC_CTRL_CLEAN_ALL n = false →
    (st = .ok → exec (.ccWritebackComplete n) s = .next (s.to c)) ∧
    (st ≠ .ok → e < 256 → ((c.incSat F.CLU_CC_STAT_WB_FAIL n).setEng e
        (((c.incSat F.CLU_CC_STAT_WB_FAIL n).eng e).ldNote false st 0 false)).flag F.CLU_CC_CTRL_CLEAN_ALL n = false →
      exec (.ccWritebackComplete n) s = .next (s.to ((c.incSat F.CLU_CC_STAT_WB_FAIL n).setEng e
        (((c.incSat F.CLU_CC_STAT_WB_FAIL n).eng e).ldNote false st 0 false))))) ∧
  (∀ (s : State) (p : Port) (n : Fin 16), s.may p modesRun = true →
    (s.chip.flag F.CLU_CC_CTRL_CLEAN_ALL n = false →
      exec (.ccCleanAll p n) s = .next (s.to (((s.chip.wr F.CLU_CC_CTRL_CLEAN_ALL 1 n).ccCleanAll n).report p .ok))) ∧
    exec (.cluCcCntClr p n) s = .next (s.to ((s.chip.clrFields [F.CLU_CC_STAT_MISSES, F.CLU_CC_STAT_WB_FAIL] n).report p
      .ok)))

/-! ## Accesses -/

/-- Requests that reach their endpoint at once (R15–R19, R33, R82, R83, R361, R367, R382): a register write is carried out and
answered, a packet is served, a response ends the request it answers; a doorbell sets HOST_COUNT and wakes the device from
SOAK. -/
def Obligations.AccessCommandsComplete : Prop :=
  (∀ (s : State) (p : Port) (a : Fin 0x10000000) (n v q : Nat), s.chip.mode ≠ mBypass → s.chip.reachesAddr p a = true →
    let k : Pkt := ⟨.wr, srcPort p, 0, 2, a, n, v, 0, some p⟩
    s.chip.pktPort k = some q → s.chip.gate (some q) (s.chip.pktDomain k) = .pass → Tbl.get s.chip.fab.ante q [] = [] →
    let x := s.chip.regWrite p a n v
    exec (.registerWrite p a n v) s = .next (s.to (x.1.answer k x.2 0 0))) ∧
  (∀ (s : State) (k : Pkt) (q : Nat) (clash : Bool), s.chip.mode ≠ mBypass →
    s.chip.inWarm = false ∨ hifPorts.contains k.src = false → k.op = .rd ∨ k.op = .wr → barFour k = false →
    vfMemory k = false → s.chip.pktPort k = some q → s.chip.gate (some q) (s.chip.pktDomain k) = .pass →
    Tbl.get s.chip.fab.ante q [] = [] →
    (s.chip.mustWait k = false → exec (.packetArrive k true clash) s = .next (s.to (s.chip.serve k clash))) ∧
    exec (.packetArrive k false clash) s = .next (s.to (s.chip.withFab { s.chip.fab with
      open_ := Tbl.set s.chip.fab.open_ q (Tbl.get s.chip.fab.open_ q [] ++ [k]) [] }))) ∧
  (∀ (s : State) (k q : Pkt) (answered clash : Bool), s.chip.mode ≠ mBypass → k.op = .rsp →
    s.chip.flag F.FAB_PORT_STAT_ISOLATED k.src = false →
    (Tbl.get s.chip.fab.open_ k.src []).find? (fun q => q.txn == k.txn) = some q →
    let c := s.chip.withFab { s.chip.fab with
      open_ := Tbl.set s.chip.fab.open_ k.src ((Tbl.get s.chip.fab.open_ k.src []).erase q) [] }
    c.mustWait q = false → exec (.packetArrive k answered clash) s = .next (s.to (c.serve q false))) ∧
  (∀ (s : State) (f : Fin 64) (r : Fin 8) (v : Nat), s.chip.mode ≠ mBypass → s.chip.inWarm = false →
    s.chip.flag F.RING_CFG_ENABLE f r = true → s.chip.resetting f r = false → s.chip.doorbellOk f r (v % 2 ^ 32) = true →
    exec (.cmdDoorbell f (8 * r) 8 v) s =
      .next (s.to ((s.chip.wr F.RING_PTR_HOST_COUNT (v % 2 ^ 32) f r).soakWake 2)))

/-! ## Reset and modes -/

/-- Resets (R50–R58): supplies, pins, warm and PCIe resets, the release and the boot that follows it. Each clause gives the
next state for every state that meets conditions on it alone; the commands that reset the device leave DEV_MODE reading
BYPASS, and RELAY_REACHED leaves it reading RELAY. A warm reset begins once no transmit ramp runs (R52); a trigger during one
is part of it (log entry 72). -/
def Obligations.ResetCommandsComplete : Prop :=
  (∀ (s : State), s.chip.dev.vddAon = false ∨ s.chip.dev.vddSvc = true →
    exec .powerOnReset s = .next (s.to (
      let c := s.chip.withDev { s.chip.dev with
        vddAon := true
        vddSvc := true }
      let c := (c.resetDown .powerOn F.DEV_RESET_CAUSE_POR .release).clrFields [F.DEV_RESET_CAUSE_PCIE,
        F.DEV_RESET_CAUSE_WARM_MGMT, F.DEV_RESET_CAUSE_WARM_SW, F.DEV_RESET_CAUSE_SVC_LOSS, F.DEV_RESET_CAUSE_THERMTRIP,
        F.DEV_RESET_CAUSE_BROWNOUT, F.DEV_RESET_CAUSE_PIN]
      (c.withDev { c.dev with thermtrip := false }).withPort {}))) ∧
  (∀ (s : State), s.chip.dev.vddAon = true → s.chip.dev.vddSvc = false →
    exec .powerOnReset s = .next (s.to ((s.chip.withDev { s.chip.dev with
      vddAon := true
      vddSvc := true }).resetDown .svcLoss F.DEV_RESET_CAUSE_SVC_LOSS .release))) ∧
  (∀ (s : State), exec (.supplyLoss false) s = .next (s.to (
    let c := ((s.chip.withDev { s.chip.dev with vddSvc := false }).resetPins 0).wipe .svcLoss
    c.withDev { c.dev with held := .release }))) ∧
  (∀ (s : State), s.chip.dev.thermtrip = false → exec (.supplyLoss true) s = .next (s.to (
    let c := ((s.chip.withDev { s.chip.dev with vddAon := false }).resetPins 0).wipe .powerOn
    (c.withDev { c.dev with
      thermtrip := false
      held := .release }).withPwr { c.pwr with bleed := true }))) ∧
  (∀ (s : State), exec (.pinReset true false) s = .next (s.to (
    let c := s.chip.resetDown .pin F.DEV_RESET_CAUSE_PIN .release
    c.withDev { c.dev with resetN := false }))) ∧
  (∀ (s : State), s.chip.dev.thermtrip = false → exec (.pinReset true true) s = .next (s.to (
    let c := s.chip.resetDown .pin F.DEV_RESET_CAUSE_PIN .release
    c.withDev { c.dev with resetN := true }))) ∧
  (∀ (s : State), exec (.pinReset false false) s = .next (s.to (
    let c := s.chip.resetDown .pin F.DEV_RESET_CAUSE_PIN .release
    (c.withDev { c.dev with pwrgd := false }).withPwr { c.pwr with bleed := true }))) ∧
  (∀ (s : State), (∀ i ∈ [Instr.powerOnReset, .supplyLoss false, .supplyLoss true, .pinReset true false, .pinReset true true,
    .pinReset false false], ∃ t, exec i s = .next t ∧ t.chip.mode = mBypass ∧ t.pending = s.pending)) ∧
  (∀ (s : State) (p : Port), s.may p 0xFE = true → s.chip.inWarm = false →
    ((s.chip.report p .ok).rampDown.ramping = false → exec (.warmReset p 0x5752) s =
      .next (s.to ((s.chip.report p .ok).rampDown.warmBegin F.DEV_RESET_CAUSE_WARM_SW.id))) ∧
    ((s.chip.report p .ok).rampDown.ramping = true → exec (.warmReset p 0x5752) s = .next (s.to (
      let c := (s.chip.report p .ok).rampDown
      c.withDev { c.dev with
        warm := some F.DEV_RESET_CAUSE_WARM_SW.id
        cfgRetry := true })))) ∧
  (∀ (s : State), s.chip.mode = mBypass →
    exec .pcieReset s = .next (s.to (s.chip.pcieWipe.wr F.DEV_RESET_CAUSE_PCIE 1))) ∧
  (∀ (s : State), s.chip.mode = mRelay ∨ s.chip.mode = mVerify ∨ s.chip.mode = mTest →
    exec .pcieReset s = .next (s.to ((s.chip.pcieWipe.wr F.DEV_RESET_CAUSE_PCIE 1).hifZeroRings.modeHw mQuiesce))) ∧
  (∀ (s : State), s.chip.mode = mService ∨ s.chip.mode = mShed ∨ s.chip.mode = mSoak →
    exec .pcieReset s = .next (s.to (
      let c := s.chip.pcieWipe.wr F.DEV_RESET_CAUSE_PCIE 1
      (c.withDev { c.dev with pcieDiscard := true }).modeHw mQuiesce))) ∧
  (∀ (s : State) (straps : Nat), s.chip.dev.held = .release → s.chip.dev.vddAon = true → s.chip.dev.vddSvc = true →
    s.chip.dev.thermtrip = false →
    exec (.resetRelease straps) s = .next (s.to (
      let c := (s.chip.withDev { s.chip.dev with
        resetN := true
        pwrgd := true }).withPwr { s.chip.pwr with bleed := false }
      (G.DEV_STRAPS.fields.foldl (fun c f => c.wr f (f.of straps))
        (c.withDev { c.dev with strapPins := straps })).bootRun))) ∧
  (∀ (s : State), s.chip.dev.held = .brownOut → exec .brownOutRelease s = .next (s.to s.chip.bootRun)) ∧
  (∀ (s : State) (t : Trans), s.chip.dev.trans = some t → t.phase = .boot →
    exec .relayReached s = .next (s.to (
      let c := s.chip.withDev { s.chip.dev with
        trans := none
        autoVerify := false
        cfgRetry := false }
      let c := ((c.wr F.DEV_MODE_MODE mRelay).wr F.DEV_MODE_TARGET_MODE mRelay).wr F.DEV_MODE_IN_TRANSITION 0
      let c := (((c.incMod F.DEV_MODE_TRANS_COUNT).rgHolds).postMode .ok mRelay true).modeEval
      if s.chip.dev.autoVerify && s.chip.flag F.DEV_STRAPS_AUTO_VERIFY && !c.inTrans then c.startVerify true else c))) ∧
  (∀ (s : State) (t : Trans), s.chip.dev.trans = some t → t.phase = .warm →
    exec .relayReached s = .next (s.to (
      let c := s.chip.withDev { s.chip.dev with
        trans := none
        cfgRetry := false }
      ((c.wr F.DEV_MODE_IN_TRANSITION 0).rgHolds).modeEval))) ∧
  (∀ (s : State) (gen : Fin 8) (width : Fin 32) (flit : Bool), s.chip.flag F.DEV_STRAPS_PCIE_EN = true →
    s.chip.domState 62 = dOn → pcieLink gen width flit = true → s.chip.inWarm = false → s.chip.dev.trans = none →
    exec (.pcieLinkUp gen width flit) s = .next (s.to (
      let c := ((s.chip.wr F.HIF_LINK_STAT_GEN gen).wr F.HIF_LINK_STAT_WIDTH width).setFlag F.HIF_LINK_STAT_FLIT flit
      c.withDev { c.dev with cfgRetry := false })))

/-- Modes (R47, R63–R71): with no transition in progress, a request that the table of R63 allows in the present mode, under
that table's own conditions (no hardware cause of SHED in force, the debug token, SOAK set up), starts its transition and is
answered OK; a request for the present mode is answered OK and starts nothing; during a transition with no hardware request
held the request is held (R71). A hardware exit from SHED starts the return; a transition that is ready ends; a drain ends,
with what is left after 100 ms as tombstones; a held software request is withdrawn. -/
def Obligations.ModeCommandsComplete : Prop :=
  (∀ (s : State) (p : Port), s.may p 0xFE = true → s.chip.inTrans = false →
    (s.chip.mode = mVerify →
      exec (.modeReqRelay p 0x4D4F) s = .next (s.to ((s.chip.transBegin mRelay .run false).report p .ok))) ∧
    (s.chip.mode = mRelay →
      exec (.modeReqVerify p 0x4D4F) s = .next (s.to ((s.chip.startVerify false).report p .ok))) ∧
    (s.chip.mode = mVerify ∨ s.chip.mode = mShed ∨ s.chip.mode = mSoak → s.chip.dev.shedCauses = 0 →
      exec (.modeReqService p 0x4D4F) s = .next (s.to ((s.chip.startService false 3).report p .ok))) ∧
    (s.chip.mode = mService ∨ s.chip.mode = mSoak →
      exec (.modeReqShed p 0x4D4F) s = .next (s.to ((s.chip.transBegin mShed .run false).rampDown.report p .ok))) ∧
    (s.chip.mode = mService → s.chip.dev.shedCauses = 0 → s.chip.brSoakOk = true → s.chip.soakTxBad = false →
      exec (.modeReqSoak p 0x4D4F) s = .next (s.to ((s.chip.transBegin mSoak .drain false).closeIntake.report p .ok))) ∧
    (s.chip.mode = mShed → s.chip.dev.shedCauses = 0 → s.chip.brSoakOk = true → s.chip.soakTxBad = false →
      exec (.modeReqSoak p 0x4D4F) s = .next (s.to ((s.chip.transBegin mSoak .run false).soakDomains.report p .ok))) ∧
    (s.chip.mode = mService ∨ s.chip.mode = mShed ∨ s.chip.mode = mSoak →
      exec (.modeReqQuiesce p 0x4D4F) s = .next (s.to ((((s.chip.transBegin mRelay .drain false).wr F.DEV_MODE_MODE
        mQuiesce).closeIntake.modeIrq.calHalt).report p .ok))) ∧
    (s.chip.mode = mRelay → s.chip.flag F.TRUST_STATUS_TOKEN_OK = true →
      exec (.modeReqTest p 0x4D4F) s = .next (s.to ((s.chip.dropToken.transBegin mTest .run false).report p .ok)))) ∧
  (∀ (s : State) (p : Port), s.may p 0xFE = true →
    ∀ e ∈ [(Instr.modeReqRelay p 0x4D4F, mRelay), (.modeReqVerify p 0x4D4F, mVerify), (.modeReqService p 0x4D4F, mService),
      (.modeReqShed p 0x4D4F, mShed), (.modeReqSoak p 0x4D4F, mSoak), (.modeReqQuiesce p 0x4D4F, mQuiesce),
      (.modeReqTest p 0x4D4F, mTest)],
    (s.chip.inTrans = false → s.chip.mode = e.2 → exec e.1 s = .next (s.to (s.chip.report p .ok))) ∧
    (s.chip.inTrans = true → s.chip.flag F.DEV_MODE_PEND_HW_PEND = false →
      exec e.1 s = .next (s.to ((s.chip.modeHold e.2 false).report p .ok))) ∧
    exec e.1 s = .next (s.to ((s.chip.modeReq e.2).1.report p (s.chip.modeReq e.2).2))) ∧
  (∀ (s : State), s.chip.mode = mShed → s.chip.inTrans = false → s.chip.flag F.DEV_MODE_SHED_BY_SW = false →
    s.chip.dev.shedCauses = 0 →
    (s.chip.rd F.DEV_MODE_RETURN_MODE = mService →
      exec .hwShedExit s = .next (s.to (s.chip.transBegin mService .run true))) ∧
    (s.chip.rd F.DEV_MODE_RETURN_MODE = mSoak →
      exec .hwShedExit s = .next (s.to ((s.chip.transBegin mSoak .run true).soakDomains)))) ∧
  (∀ (s : State) (t : Trans), s.chip.dev.trans = some t → s.chip.transReady t = true →
    exec .transitionComplete s = .next (s.to (s.chip.transEnd t))) ∧
  (∀ (s : State) (t : Trans), s.chip.dev.trans = some t → t.phase = .drain →
    (∀ h ∈ s.chip.hif.inflight, h.isSlot = false) →
    (t.target = mSoak → exec .drainEnd s = .next (s.to (((s.chip.withDev { s.chip.dev with
      trans := some { t with phase := .run } }).brStopAll .deadlineMissed).closeWindows false).soakDomains)) ∧
    (t.target ≠ mSoak → exec .drainEnd s = .next (s.to (
      let c := ((s.chip.withDev { s.chip.dev with
        trans := some { t with phase := .run } }).brStopAll .deadlineMissed).closeWindows true
      ((c.endAllTasks .deadlineMissed).foldAll c.sched.tasks.length).stopEngines)))) ∧
  (∀ (s : State) (t : Trans), s.chip.dev.trans = some t → t.phase = .drain →
    exec .drainTimeout s = .next (s.to ((s.chip.endAllTasks .deadlineMissed).foldAll s.chip.sched.tasks.length))) ∧
  (∀ (s : State) (p : Port), s.may p 0xFE = true →
    (s.chip.flag F.DEV_MODE_PEND_PEND_VALID = true → s.chip.flag F.DEV_MODE_PEND_HW_PEND = false →
      exec (.modePendCancel p) s = .next (s.to (s.chip.modeSupersede.modeUnhold.report p .ok))) ∧
    exec (.modePendCntClr p) s = .next (s.to ((s.chip.wr F.DEV_MODE_PEND_SUPERSEDED_CNT 0).report p .ok)))

/-! ## The queue, ALERT_N, reset -/

/-- A step runs the command at the front of the queue, on the state with the rest of the queue; with an empty queue a tick
passes (log entry 2). -/
def Obligations.StepRunsFrontCommand : Prop :=
  (∀ (s : State) (i : Instr) (r : List Instr), s.pending = i :: r → step s = exec i { s with pending := r }) ∧
  (∀ s : State, s.pending = [] → step s = .next (s.to s.chip.tickOn))

/-- No step faults or is refused: each takes one command from the queue, first in, first out, and adds none. -/
def Obligations.EveryStepAnswers : Prop :=
  ∀ s : State, ∃ t : State, step s = .next t ∧ t.pending = s.pending.tail

/-- After every step outside BYPASS, ALERT_N is asserted exactly while a source of R515 holds, and SENS_ALERT shows each
source; in BYPASS it is released (R54). -/
def Obligations.AlertFollowsItsSources : Prop :=
  ∀ s t : State, step s = .next t →
    (t.chip.mode = mBypass → t.chip.dev.alert = false) ∧
    (t.chip.mode ≠ mBypass →
      (t.chip.dev.alert = true ↔ (t.chip.rd F.TIME_STAT_ALARM = 1 ∨ t.chip.rd F.SENS_STAT_THROTTLE = 1 ∨
        t.chip.rd F.CLK_PLL_STAT_LOCK ≠ 0xFFF ∨ t.chip.rd F.CLK_PLL_STAT_LOL_SEEN ≠ 0 ∨ t.chip.sens.avsBad = true ∨
        t.chip.sens.failed ≠ []))) ∧
    t.chip.regVal G.SENS_ALERT.fields 0 0 = b2n t.chip.sens.avsBad * 16 + b2n (!t.chip.sens.failed.isEmpty) * 8
      + b2n (t.chip.rd F.CLK_PLL_STAT_LOCK != 0xFFF || t.chip.rd F.CLK_PLL_STAT_LOL_SEEN != 0) * 4
      + t.chip.rd F.SENS_STAT_THROTTLE % 2 * 2 + t.chip.rd F.TIME_STAT_ALARM % 2

/-- ALERT_N is right in the state after reset. -/
def Obligations.AlertRightAtReset : Prop := State.reset.alertRight

/-- The state after reset: BYPASS, no command waiting, every field at the reset value of its table but for the power-on
cause, the memories empty and in canonical form, both route tables in dimension order with generation 0 (R50, R75, R364).
What an unlisted byte reads as is the model's choice (log entry 5), as are the values of fields without a stated one
(log entry 3). -/
def Obligations.ResetState : Prop :=
  State.reset.pending = [] ∧ State.reset.chip.mode = mBypass ∧ State.reset.chip.rd F.DEV_RESET_CAUSE_POR = 1 ∧
  (∀ (f : Fld) (i j : Nat), f.key i j ≠ F.DEV_RESET_CAUSE_POR.key 0 0 → State.reset.chip.rd f i j = f.reset i j) ∧
  (∀ a : Nat, State.reset.chip.rdByte a = 0) ∧ State.reset.chip.out = [] ∧
  (∀ r q : Nat, State.reset.chip.rd F.FAB_RT_SHADOW_ENTRY r q = dimOrderWord r q ∧
    State.reset.chip.rd F.FAB_RT_CUR_ENTRY r q = dimOrderWord r q) ∧ State.reset.chip.rd F.FAB_ROUTE_GEN_GEN = 0

/-- Causes of a reset (R75): a reset into BYPASS sets its own bit and leaves the others; a power-on reset by VDD_AON leaves
POR alone set, one by VDD_SVC adds SVC_LOSS. -/
def Obligations.ResetCauses : Prop :=
  ∀ causes : List Fld, causes = [F.DEV_RESET_CAUSE_PCIE, F.DEV_RESET_CAUSE_WARM_MGMT, F.DEV_RESET_CAUSE_WARM_SW,
    F.DEV_RESET_CAUSE_SVC_LOSS, F.DEV_RESET_CAUSE_THERMTRIP, F.DEV_RESET_CAUSE_BROWNOUT, F.DEV_RESET_CAUSE_PIN,
    F.DEV_RESET_CAUSE_POR] →
  (∀ (c : Chip) (form : ResetForm) (held : Held) (f g : Fld), f ∈ causes → g ∈ causes →
    (c.resetDown form f held).rd g = if g = f then 1 else c.rd g) ∧
  (∀ s t : State, exec .powerOnReset s = .next t → ∀ g ∈ causes,
    t.chip.rd g = if s.chip.dev.vddAon = true ∧ s.chip.dev.vddSvc = false then
      (if g = F.DEV_RESET_CAUSE_SVC_LOSS then 1 else s.chip.rd g)
    else if g = F.DEV_RESET_CAUSE_POR then 1 else 0) ∧
  (∀ (s t : State) (byResetN rises : Bool), exec (.pinReset byResetN rises) s = .next t → ∀ g ∈ causes,
    t.chip.rd g = if g = F.DEV_RESET_CAUSE_PIN then 1 else s.chip.rd g)

/-! ## Numbers and statuses -/

/-- Little-endian values (R7): byte k of a value of n bytes holds its bits 8k+7 to 8k, the bytes stored at an address lie
there in that order, and the value is read back from them. -/
def Obligations.LittleEndianValues : Prop :=
  (∀ n v k : Nat, k < n → (toBytes n v)[k]? = some (BitVec.ofNat 8 (bits v (8 * k + 7) (8 * k)))) ∧
  (∀ (c : Chip) (a n v k : Nat), k < n →
    (c.wrBytes a (toBytes n v)).rdByte (a + k) = BitVec.ofNat 8 (bits v (8 * k + 7) (8 * k))) ∧
  (∀ (c : Chip) (a n v : Nat), (c.wrBytes a (toBytes n v)).rdBytes a n = v % 2 ^ (8 * n)) ∧
  (∀ n v : Nat, ofBytes (toBytes n v) = v % 2 ^ (8 * n))

/-- A saturating operation gives the representable value nearest to its result, a non-saturating one keeps the low-order
bits (R12). -/
def Obligations.SaturationAndWrap : Prop :=
  (∀ (w : Nat) (x : Int), 0 < w → -(2 ^ (w - 1) : Int) ≤ satS w x ∧ satS w x ≤ 2 ^ (w - 1) - 1 ∧
    (∀ y : Int, -(2 ^ (w - 1) : Int) ≤ y → y ≤ 2 ^ (w - 1) - 1 → |x - satS w x| ≤ |x - y|)) ∧
  (∀ (w : Nat) (x : Int), (toBits w x : Int) = x % 2 ^ w ∧ toBits w x < 2 ^ w)

/-- Rounding half up (R11): n bits are dropped after one half of the result's least significant bit has been added; 2.5
rounds to 3 and −2.5 to −2. -/
def Obligations.RoundingHalfUp : Prop :=
  (∀ (n : Nat) (x : Int), 0 < n → 2 ^ n * roundDrop n x ≤ x + 2 ^ (n - 1) ∧
    x + 2 ^ (n - 1) < 2 ^ n * (roundDrop n x + 1)) ∧
  (∀ x : Int, roundDrop 1 x = halfUp x) ∧ roundDrop 1 5 = 3 ∧ roundDrop 1 (-5) = -2

/-- Ticks wrap at 2^32 (R13) and are compared by their signed difference (R88): a tick is later than another by d when d
is below 2^31, also across the wrap. -/
def Obligations.TicksCompareAcrossTheWrap : Prop :=
  ∀ a d : Nat, a < 2 ^ 32 → d < 2 ^ 31 → tickDiff (tickAdd a d) a = d ∧
    tickLater (tickAdd a d) a = decide (0 < d) ∧ tickLater a (tickAdd a d) = false

/-- Of several conditions the earliest in the order of R36 is reported, a condition mask has a bit for each, and a
recomputed tile with poisoned input reports POISONED. -/
def Obligations.StatusPrecedence : Prop :=
  (∀ l : List Status, l ≠ [] → ([.accessDenied, .badDescriptor, .versionMismatch, .abortedByQuiesce, .shed, .storm,
    .targetIsolated, .domainOff, .notOwner, .narrowWrite, .deadlineMissed, .poisoned, .gap, .superseded, .recomputed,
    .ok] : List Status).find? (l.contains ·) = some (Status.worstOf l)) ∧
  (∀ (m k : Nat) (s : Status), bit (condAdd m s) k = (bit m k || k == s.code)) ∧
  Status.worst .recomputed .poisoned = .poisoned

/-! ## Control space -/

/-- Every register is 4 or 8 bytes wide at a multiple of its width, and an access of another width or alignment changes
nothing, reads zero and is answered ACCESS_DENIED (R15). The MSI-X tables, whose layout is the PCIe specification's (log
entry 8), are no registers of the map. -/
def Obligations.AccessWidths : Prop :=
  (∀ r ∈ regMap, (r.bytes = 4 ∨ r.bytes = 8) ∧ ∀ i j : Nat, r.addr i j % r.bytes = 0) ∧
  (∀ (c : Chip) (p : Port) (a n v : Nat), (∀ f off, fnPage a = some (f, off) → isMsix off = false) →
    (∀ r i j, regFind regMap a = some (r, i, j) → r.bytes ≠ n) →
    c.regWrite p a n v = (c, .accessDenied) ∧ c.regRead p a n = (0, .accessDenied))

/-- A write outside the write modes of its register is dropped with ACCESS_DENIED, one to a register without write modes in
every mode; the same of the commands that stand for such a write (R16). -/
def Obligations.WritesOutsideTheirModes : Prop :=
  (∀ (c : Chip) (p : Port) (a n v : Nat) (r : RegInfo) (i j : Nat),
    (∀ f off, fnPage a = some (f, off) → isMsix off = false) → regFind regMap a = some (r, i, j) →
    c.modeIn r.writeModes = false ∨ r.writeModes = 0 → c.regWrite p a n v = (c, .accessDenied)) ∧
  (∀ (s : State) (i : Instr) (p : Port) (modes : Nat), i.guard = some (p, modes) → s.may p modes = false →
    exec i s = .next (s.to (s.chip.report p .accessDenied)))

/-- The fields of one register after a write (R17–R19): each by its access code, a locked LCK field unchanged and the write
answered ACCESS_DENIED exactly where one would have changed, every field of another register as it was; values that
differ in reserved bits alone have the same effect. -/
def Obligations.FieldsOfAWrittenRegister : Prop :=
  (∀ (c : Chip) (fs : List Fld) (v i j : Nat), (fs.map Fld.id).Nodup →
    (∀ f ∈ fs, (c.wrFields fs v i j).1.rd f i j =
      if f.acc = .rw ∨ f.acc = .rwv ∨ f.acc = .lck ∧ c.dev.lckOpen = true then f.of v
      else if f.acc = .w1c then (c.rd f i j - (c.rd f i j &&& f.of v)) % 2 ^ f.w
      else c.rd f i j) ∧
    ((c.wrFields fs v i j).2 = .accessDenied ↔
      c.dev.lckOpen = false ∧ ∃ f ∈ fs, f.acc = .lck ∧ f.of v ≠ c.rd f i j) ∧
    (∀ (g : Fld) (k l : Nat), (∀ f ∈ fs, g.key k l ≠ f.key i j) → (c.wrFields fs v i j).1.rd g k l = c.rd g k l)) ∧
  (∀ (c : Chip) (fs : List Fld) (v v' i j : Nat), (∀ f ∈ fs, f.of v = f.of v') →
    c.wrFields fs v i j = c.wrFields fs v' i j)

/-- A host access through BAR4 below 0x1_0000_0000, to control space or to the reserved addresses behind it, is answered as
one to a reserved address (R32); so is a request to a reserved address of the memory space (R29). During a warm reset the host
interface answers the host itself (R52). -/
def Obligations.ReservedAddressesRefused : Prop :=
  (∀ (s : State) (k : Pkt) (answered clash : Bool), s.chip.mode ≠ mBypass → s.chip.inWarm = false → k.op = .rd ∨ k.op = .wr →
    k.by_ = none → k.src ∈ [12, 13, 16, 17] → k.addr < 0x100000000 →
    exec (.packetArrive k answered clash) s = .next (s.to (s.chip.withFab { s.chip.fab with
      rsp := s.chip.fab.rsp ++ [⟨k.src, k.txn, .accessDenied, 0, if k.op = .rd then 0xFF else 0⟩] }))) ∧
  (∀ (s : State) (k : Pkt) (answered clash : Bool), s.chip.mode ≠ mBypass → s.chip.inWarm = false → k.op = .rd ∨ k.op = .wr →
    k.by_ = none → regionOf k.addr = .reserved →
    exec (.packetArrive k answered clash) s = .next (s.to (s.chip.withFab { s.chip.fab with
      rsp := s.chip.fab.rsp ++ [⟨k.src, k.txn, .accessDenied, 0, if k.op = .rd then 0xFF else 0⟩] })))

/-- Software requests for a mode (R63, R68, R72), while no transition is in progress: one for the current mode is answered
OK and starts nothing, one that the transition table lacks is rejected with ACCESS_DENIED; during a transition, one made
while hardware holds the pending slot is rejected with SHED or ABORTED_BY_QUIESCE. The mode stays in every one of these. -/
def Obligations.ModeRequestsRefused : Prop :=
  (∀ c : Chip, c.inTrans = false → c.modeReq c.mode = (c, .ok)) ∧
  (∀ (c : Chip) (m : Nat), c.inTrans = false → c.mode < 8 → m ≠ c.mode →
    (c.mode, m) ∉ [(1, 2), (1, 7), (2, 3), (2, 1), (3, 4), (5, 4), (4, 3), (4, 5), (3, 5), (5, 3), (3, 6), (4, 6), (5, 6)] →
    (c.modeReq m).2 = .accessDenied ∧ (c.modeReq m).1.mode = c.mode ∧ (c.modeReq m).1.inTrans = false) ∧
  (∀ (c : Chip) (m : Nat), c.inTrans = true → c.flag F.DEV_MODE_PEND_HW_PEND = true →
    (c.modeReq m).2 = (if c.rd F.DEV_MODE_PEND_PEND_MODE = mShed then .shed else .abortedByQuiesce) ∧
    (c.modeReq m).1.mode = c.mode)

/-! ## Memory -/

/-- The code of R392–R394: a word stored without error is delivered as written; any one of its 138 bits inverted is found and
the word delivered as written; any two inverted are found, and the word is delivered poisoned. -/
def Obligations.SecdedCorrectsAndDetects : Prop :=
  ∀ (d : Nat) (p : Bool), d < 2 ^ 128 →
    secdedDecode (secdedEncode d p) = ⟨d, p, .clean⟩ ∧
    (∀ i < 138, secdedDecode (secdedEncode d p ^^^ 2 ^ i) = ⟨d, p, .correctable⟩) ∧
    (∀ i < 138, ∀ j < 138, i ≠ j → (secdedDecode (secdedEncode d p ^^^ 2 ^ i ^^^ 2 ^ j)).found = .uncorrectable ∧
      (secdedDecode (secdedEncode d p ^^^ 2 ^ i ^^^ 2 ^ j)).poison = true)

/-- A stored word (R392, R394, R411): it reads back as it was written, every other word as before; with an injection armed at
it, one inverted bit is corrected and two are found. -/
def Obligations.StoredWordsReadBack : Prop :=
  ∀ (c : Chip) (a d : Nat) (p : Bool), a % 16 = 0 → d < 2 ^ 128 →
    (c.rd F.INTEG_INJECT_KIND = 0 ∨ c.rd F.INTEG_INJECT_ADDR ≠ a / 16 →
      (c.writeStored a d p).decodeAt a = ⟨d, p, .clean⟩) ∧
    (c.rd F.INTEG_INJECT_KIND = 1 → c.rd F.INTEG_INJECT_ADDR = a / 16 → c.rd F.INTEG_INJECT_BIT_A < 138 →
      (c.writeStored a d p).decodeAt a = ⟨d, p, .correctable⟩) ∧
    (c.rd F.INTEG_INJECT_KIND = 2 → c.rd F.INTEG_INJECT_ADDR = a / 16 → c.rd F.INTEG_INJECT_BIT_A < 138 →
      c.rd F.INTEG_INJECT_BIT_B < 138 → c.rd F.INTEG_INJECT_BIT_A ≠ c.rd F.INTEG_INJECT_BIT_B →
      ((c.writeStored a d p).decodeAt a).found = .uncorrectable ∧ ((c.writeStored a d p).decodeAt a).poison = true) ∧
    (∀ b : Nat, b % 16 = 0 → b ≠ a → (c.writeStored a d p).decodeAt b = c.decodeAt b)

/-- Writing words keeps memory in canonical form (log entry 5). -/
def Obligations.WritesKeepMemoryCanonical : Prop :=
  ∀ (c : Chip), Memory.wf c.mem = true →
    (∀ (w : Who) (addr d : Nat) (p : Bool), Memory.wf (c.writeWord w addr d p).1.mem = true) ∧
    (∀ (w : Who) (addr : Nat) (ds : List Nat) (p : Bool), Memory.wf (c.writeWords w addr ds p).1.mem = true) ∧
    (∀ (w : Who) (addr n d p : Nat), Memory.wf (c.memWrite w addr n d p).1.mem = true)

/-- A word write that is answered OK stores its 16 bytes, unless it is one to host memory that the host interface drops, and
changes no byte outside them; one that is refused changes no byte (R375, R383). Poisoned data for host memory, which posts
an event besides (R100), is left out of the first two clauses. -/
def Obligations.WordWritesChangeTheirWordOnly : Prop :=
  ∀ (c : Chip) (w : Who) (addr d : Nat) (p : Bool),
    (c.accessStatus w addr = .ok →
      onDevice addr = true ∨ p = false ∧ (∀ bus : Nat, regionOf addr = .host bus → c.hostDrops bus 16 = false) →
      (c.writeWord w addr d p).2 = .ok ∧ ∀ k : Nat, k < 16 →
        (c.writeWord w addr d p).1.rdByte (wordAddr (addr % 2 ^ 48) + k) = BitVec.ofNat 8 (bits d (8 * k + 7) (8 * k))) ∧
    (p = false ∨ onDevice addr = true → ∀ x : Nat, x < wordAddr (addr % 2 ^ 48) ∨ wordAddr (addr % 2 ^ 48) + 16 ≤ x →
      (c.writeWord w addr d p).1.rdByte x = c.rdByte x) ∧
    ((c.writeWord w addr d p).2 ≠ .ok → ∀ x : Nat, (c.writeWord w addr d p).1.rdByte x = c.rdByte x)

/-- An access to a bank that its owner code does not admit (R376): a write is dropped, a read returns a poisoned zero word,
both with NOT_OWNER and counted. The owners of R375: an engine of the bank's cluster under its own code, any other
fabric requester as FABRIC, and on banks 0 and 1 the owner of either port. A write of 4 or 8 bytes to memory is dropped
with NARROW_WRITE, counted, and never checked for ownership (R383). -/
def Obligations.BankOwnership : Prop :=
  (∀ (c : Chip) (w : Who) (addr d : Nat) (p : Bool), c.accessStatus w addr = .notOwner →
    c.readWord w addr = (c.incSat F.MEM_STAT_NOT_OWNER, ⟨0, true, .notOwner⟩) ∧
    c.writeWord w addr d p = (c.incSat F.MEM_STAT_NOT_OWNER, .notOwner)) ∧
  (∀ (c : Chip) (e n off : Nat), c.owns (.engine e) n off = true ↔
    (c.rd F.MEM_BANK_OWN_OWN_A n (bankOf off) = (if e / 16 = n then e else 0x7FE) ∨
      bankOf off < 2 ∧ c.rd F.MEM_BANK_OWN_OWN_B n (bankOf off) = (if e / 16 = n then e else 0x7FE))) ∧
  (∀ (c : Chip) (n off : Nat), c.owns .pressFabric n off = false) ∧
  (∀ (c : Chip) (w : Who) (addr n d p : Nat), n = 4 ∨ n = 8 → addr % n = 0 →
    c.accessStatus w (wordAddr addr) = .ok ∨ c.accessStatus w (wordAddr addr) = .notOwner →
    c.memWrite w addr n d p = (c.incSat F.MEM_STAT_NARROW, .narrowWrite))

/-- The commands of `Instr.storesNothing` leave every byte of memory, every poison flag and every stored error alone. -/
def Obligations.ControlCommandsStoreNothing : Prop :=
  ∀ (i : Instr) (s t : State), i.storesNothing = true → exec i s = .next t →
    (∀ a : Nat, t.chip.rdByte a = s.chip.rdByte a) ∧ t.chip.poison = s.chip.poison ∧ t.chip.upset = s.chip.upset

/-- Releasing an item stores its record and nothing else (R342): no byte outside the 16 at BASE + 16 · (REL_WR mod
2^LOG2) changes, and none at all where no item is released or its record is not asked for. -/
def Obligations.ReleaseStoresItsRecordOnly : Prop :=
  ∀ (s t : State) (flow : Fin 4096), exec (.foldRelease flow) s = .next t →
    ∀ x : Nat,
      (x < wordAddr ((s.chip.rd F.SCHED_FLOW_CFG_BASE flow * 16
          + s.chip.rd F.SCHED_FLOW_PTR_REL_WR flow % 2 ^ s.chip.rd F.SCHED_FLOW_CFG_LOG2 flow * 16) % 2 ^ 48) ∨
        wordAddr ((s.chip.rd F.SCHED_FLOW_CFG_BASE flow * 16
          + s.chip.rd F.SCHED_FLOW_PTR_REL_WR flow % 2 ^ s.chip.rd F.SCHED_FLOW_CFG_LOG2 flow * 16) % 2 ^ 48) + 16 ≤ x ∨
        s.chip.nextRelease flow = none) →
      t.chip.rdByte x = s.chip.rdByte x

/-! ## Fabric, buckets, links, carriers -/

/-- A bucket whose level and the weight added in the millisecond stay within its threshold does not overflow: its level
rises by at most that weight, nothing is counted or posted (R404). -/
def Obligations.BucketsBelowTheirThreshold : Prop :=
  ∀ (c : Chip) (b : Nat), c.rd F.INTEG_BUCKET_CFG_THRESHOLD b ≤ 255 →
    c.rd F.INTEG_BUCKET_STAT_LEVEL b + (Tbl.get c.integ.adds b {}).weight ≤ c.rd F.INTEG_BUCKET_CFG_THRESHOLD b →
    ∃ l : Nat, c.bucketStep b = c.wr F.INTEG_BUCKET_STAT_LEVEL l b ∧
      l ≤ c.rd F.INTEG_BUCKET_STAT_LEVEL b + (Tbl.get c.integ.adds b {}).weight ∧
      (c.integ.ms % max 1 (c.rd F.INTEG_BUCKET_CFG_LEAK_MS b) ≠ 0 →
        l = c.rd F.INTEG_BUCKET_STAT_LEVEL b + (Tbl.get c.integ.adds b {}).weight)

/-- Scrambling twice with one seed restores the payload (R108). The bit order is the model's reading (log entry 30). -/
def Obligations.DescramblingRestores : Prop :=
  ∀ n v seed : Nat, scramble n (scramble n v seed) seed = v % 2 ^ n

/-- A carrier set that spans more than 200 MHz is not accepted on a channel whose link trained at version 1.0 or 1.1: the set
in force stays, no set is pending, and where nothing of higher precedence speaks against it the commit's status is
VERSION_MISMATCH (R45). Edges are counted in units of 5 kHz. -/
def Obligations.WideCarrierSetsRejected : Prop :=
  ∀ (s t : State) (p : Port) (n : Fin 256) (tick : Nat), s.may p 0xBE = true →
    40000 < ((s.chip.shadowCfg n).span.2 - (s.chip.shadowCfg n).span.1) →
    s.chip.rd F.ECV_LINK_STAT_VERSION (achLink n) = 1 ∨ s.chip.rd F.ECV_LINK_STAT_VERSION (achLink n) = 2 →
    exec (.commitGo p n tick) s = .next t →
    (t.chip.achX n).cfg = (s.chip.achX n).cfg ∧ (t.chip.achX n).pend = none ∧
    ((s.chip.shadowCfg n).ccFaults (s.chip.rd F.ECV_SAMPLE_CFG_RATE (achLink n))
        (s.chip.rd F.ECV_LINK_STAT_VERSION (achLink n)) = [.versionMismatch] →
      (s.chip.shadowCfg n).winsOk = true → (s.chip.shadowCfg n).rampOk = true →
      t.chip.rd F.ACH_STAT_COMMIT_STATUS n = Status.versionMismatch.code)
end

