-- ==== Sys2Proof/Laws/Tbl.lean ====
section
/-! SUPPORT. Laws of tables: reading after a set, and that every operation keeps the canonical form. -/
namespace Sys2Proof.Machine

variable {α : Type}

/-! ## Reading -/

@[simp] theorem Tbl.get_nil (k : Nat) (d : α) : Tbl.get [] k d = d := rfl

theorem Tbl.get_insert_same (t : Tbl α) (k : Nat) (v d : α) (h : ∀ e ∈ t, e.1 ≠ k) :
    Tbl.get (Tbl.insert t k v) k d = v := by
  fun_induction Tbl.insert t k v <;> simp_all [Tbl.get, Ne.symm]

theorem Tbl.get_insert_ne (t : Tbl α) (k k' : Nat) (v d : α) (h : k' ≠ k) :
    Tbl.get (Tbl.insert t k v) k' d = Tbl.get t k' d := by
  fun_induction Tbl.insert t k v <;> simp_all [Tbl.get]

theorem Tbl.erase_no_key (t : Tbl α) (k : Nat) : ∀ e ∈ Tbl.erase t k, e.1 ≠ k := by
  intro e he
  simp [Tbl.erase] at he
  exact he.2

theorem Tbl.get_of_no_key (t : Tbl α) (k : Nat) (d : α) (h : ∀ e ∈ t, e.1 ≠ k) : Tbl.get t k d = d := by
  fun_induction Tbl.get t k d <;> simp_all

theorem Tbl.get_erase_ne (t : Tbl α) (k k' : Nat) (d : α) (h : k' ≠ k) :
    Tbl.get (Tbl.erase t k) k' d = Tbl.get t k' d := by
  fun_induction Tbl.get t k' d <;> simp_all [Tbl.erase, Tbl.get, List.filter_cons]
  split <;> simp_all [Tbl.get]

/-- What was set is read back. -/
@[simp] theorem Tbl.get_set_same [DecidableEq α] (t : Tbl α) (k : Nat) (v d : α) :
    Tbl.get (Tbl.set t k v d) k d = v := by
  by_cases h : v = d
  · simp [Tbl.set, h, Tbl.get_of_no_key _ k d (Tbl.erase_no_key t k)]
  · simp [Tbl.set, h, Tbl.get_insert_same _ k v d (Tbl.erase_no_key t k)]

/-- Setting a key leaves every other key alone. -/
theorem Tbl.get_set_ne [DecidableEq α] (t : Tbl α) (k k' : Nat) (v d d' : α) (h : k' ≠ k) :
    Tbl.get (Tbl.set t k v d) k' d' = Tbl.get t k' d' := by
  by_cases hv : v = d
  · simp [Tbl.set, hv, Tbl.get_erase_ne t k k' d' h]
  · simp [Tbl.set, hv, Tbl.get_insert_ne _ k k' v d' h, Tbl.get_erase_ne t k k' d' h]

/-! ## The canonical form -/

theorem Tbl.rising_mono (t : Tbl α) {lo lo' : Nat} (h : lo' ≤ lo) (ht : Tbl.rising lo t = true) :
    Tbl.rising lo' t = true := by
  cases t with
  | nil => rfl
  | cons e r =>
    simp [Tbl.rising] at ht ⊢
    exact ⟨le_trans h ht.1, ht.2⟩

theorem Tbl.rising_filter (t : Tbl α) (lo : Nat) (p : Nat × α → Bool) (h : Tbl.rising lo t = true) :
    Tbl.rising lo (t.filter p) = true := by
  fun_induction Tbl.rising lo t <;> simp_all [List.filter_cons, Tbl.rising]
  split
  · simp_all [Tbl.rising]
  · exact Tbl.rising_mono _ (Nat.le_succ_of_le h.1) ‹_›

theorem Tbl.rising_insert (t : Tbl α) (lo k : Nat) (v : α) (h : Tbl.rising lo t = true) (hk : lo ≤ k)
    (hn : ∀ e ∈ t, e.1 ≠ k) : Tbl.rising lo (Tbl.insert t k v) = true := by
  fun_induction Tbl.insert t k v generalizing lo <;> simp_all [Tbl.rising]
  rename_i hlt ih
  exact ih _ h.2 (by omega)

theorem Tbl.mem_insert (t : Tbl α) (k : Nat) (v : α) (e : Nat × α) (h : e ∈ Tbl.insert t k v) : e = (k, v) ∨ e ∈ t := by
  fun_induction Tbl.insert t k v <;> simp_all
  tauto

/-- Removing entries keeps the canonical form. -/
theorem Tbl.wf_filter [DecidableEq α] (d : Nat → α) (t : Tbl α) (p : Nat × α → Bool) (h : Tbl.wf d t = true) :
    Tbl.wf d (t.filter p) = true := by
  simp [Tbl.wf] at h ⊢
  exact ⟨Tbl.rising_filter t 0 p h.1, fun a b ha => .inr (h.2 a b ha)⟩

theorem Tbl.wf_erase [DecidableEq α] (d : Nat → α) (t : Tbl α) (k : Nat) (h : Tbl.wf d t = true) :
    Tbl.wf d (Tbl.erase t k) = true := Tbl.wf_filter d t _ h

theorem Tbl.wf_eraseIf [DecidableEq α] (d : Nat → α) (t : Tbl α) (p : Nat → Bool) (h : Tbl.wf d t = true) :
    Tbl.wf d (Tbl.eraseIf t p) = true := Tbl.wf_filter d t _ h

/-- Setting a key against its default keeps the canonical form. -/
theorem Tbl.wf_set [DecidableEq α] (d : Nat → α) (t : Tbl α) (k : Nat) (v : α) (h : Tbl.wf d t = true) :
    Tbl.wf d (Tbl.set t k v (d k)) = true := by
  by_cases hv : v = d k
  · simpa [Tbl.set, hv] using Tbl.wf_erase d t k h
  · have he := Tbl.wf_erase d t k h
    simp only [Tbl.wf, Bool.and_eq_true, List.all_eq_true, bne_iff_ne] at he ⊢
    simp only [Tbl.set, hv, if_false]
    refine ⟨Tbl.rising_insert _ 0 k v he.1 (Nat.zero_le k) (Tbl.erase_no_key t k), fun e hm => ?_⟩
    rcases Tbl.mem_insert _ k v e hm with rfl | hm
    · exact hv
    · exact he.2 e hm

end Sys2Proof.Machine
end

