-- ==== Sys2Proof/Laws/State.lean ====
section
/-! SUPPORT. What each update of the state leaves alone: one lemma per field of `Chip` per update, true by rfl. -/
namespace Sys2Proof.Machine

variable (c : Chip)

/-! ## Named updates -/

section
variable (x : Tbl Nat)
@[simp] theorem Chip.withRegs_regs : Chip.regs (c.withRegs x) = x := rfl
@[simp] theorem Chip.withRegs_mem : Chip.mem (c.withRegs x) = c.mem := rfl
@[simp] theorem Chip.withRegs_poison : Chip.poison (c.withRegs x) = c.poison := rfl
@[simp] theorem Chip.withRegs_upset : Chip.upset (c.withRegs x) = c.upset := rfl
@[simp] theorem Chip.withRegs_tick : Chip.tick (c.withRegs x) = c.tick := rfl
@[simp] theorem Chip.withRegs_free : Chip.free (c.withRegs x) = c.free := rfl
@[simp] theorem Chip.withRegs_again : Chip.again (c.withRegs x) = c.again := rfl
@[simp] theorem Chip.withRegs_out : Chip.out (c.withRegs x) = c.out := rfl
@[simp] theorem Chip.withRegs_dev : Chip.dev (c.withRegs x) = c.dev := rfl
@[simp] theorem Chip.withRegs_hif : Chip.hif (c.withRegs x) = c.hif := rfl
@[simp] theorem Chip.withRegs_pwr : Chip.pwr (c.withRegs x) = c.pwr := rfl
@[simp] theorem Chip.withRegs_fab : Chip.fab (c.withRegs x) = c.fab := rfl
@[simp] theorem Chip.withRegs_mems : Chip.mems (c.withRegs x) = c.mems := rfl
@[simp] theorem Chip.withRegs_integ : Chip.integ (c.withRegs x) = c.integ := rfl
@[simp] theorem Chip.withRegs_sched : Chip.sched (c.withRegs x) = c.sched := rfl
@[simp] theorem Chip.withRegs_clu : Chip.clu (c.withRegs x) = c.clu := rfl
@[simp] theorem Chip.withRegs_plr : Chip.plr (c.withRegs x) = c.plr := rfl
@[simp] theorem Chip.withRegs_ecv : Chip.ecv (c.withRegs x) = c.ecv := rfl
@[simp] theorem Chip.withRegs_ach : Chip.ach (c.withRegs x) = c.ach := rfl
@[simp] theorem Chip.withRegs_cal : Chip.cal (c.withRegs x) = c.cal := rfl
@[simp] theorem Chip.withRegs_trust : Chip.trust (c.withRegs x) = c.trust := rfl
@[simp] theorem Chip.withRegs_brx : Chip.brx (c.withRegs x) = c.brx := rfl
@[simp] theorem Chip.withRegs_ae : Chip.ae (c.withRegs x) = c.ae := rfl
@[simp] theorem Chip.withRegs_code : Chip.code (c.withRegs x) = c.code := rfl
@[simp] theorem Chip.withRegs_eth : Chip.eth (c.withRegs x) = c.eth := rfl
@[simp] theorem Chip.withRegs_time : Chip.time (c.withRegs x) = c.time := rfl
@[simp] theorem Chip.withRegs_sens : Chip.sens (c.withRegs x) = c.sens := rfl
@[simp] theorem Chip.withRegs_port : Chip.port (c.withRegs x) = c.port := rfl
end

section
variable (x : Tbl Byte)
@[simp] theorem Chip.withMem_regs : Chip.regs (c.withMem x) = c.regs := rfl
@[simp] theorem Chip.withMem_mem : Chip.mem (c.withMem x) = x := rfl
@[simp] theorem Chip.withMem_poison : Chip.poison (c.withMem x) = c.poison := rfl
@[simp] theorem Chip.withMem_upset : Chip.upset (c.withMem x) = c.upset := rfl
@[simp] theorem Chip.withMem_tick : Chip.tick (c.withMem x) = c.tick := rfl
@[simp] theorem Chip.withMem_free : Chip.free (c.withMem x) = c.free := rfl
@[simp] theorem Chip.withMem_again : Chip.again (c.withMem x) = c.again := rfl
@[simp] theorem Chip.withMem_out : Chip.out (c.withMem x) = c.out := rfl
@[simp] theorem Chip.withMem_dev : Chip.dev (c.withMem x) = c.dev := rfl
@[simp] theorem Chip.withMem_hif : Chip.hif (c.withMem x) = c.hif := rfl
@[simp] theorem Chip.withMem_pwr : Chip.pwr (c.withMem x) = c.pwr := rfl
@[simp] theorem Chip.withMem_fab : Chip.fab (c.withMem x) = c.fab := rfl
@[simp] theorem Chip.withMem_mems : Chip.mems (c.withMem x) = c.mems := rfl
@[simp] theorem Chip.withMem_integ : Chip.integ (c.withMem x) = c.integ := rfl
@[simp] theorem Chip.withMem_sched : Chip.sched (c.withMem x) = c.sched := rfl
@[simp] theorem Chip.withMem_clu : Chip.clu (c.withMem x) = c.clu := rfl
@[simp] theorem Chip.withMem_plr : Chip.plr (c.withMem x) = c.plr := rfl
@[simp] theorem Chip.withMem_ecv : Chip.ecv (c.withMem x) = c.ecv := rfl
@[simp] theorem Chip.withMem_ach : Chip.ach (c.withMem x) = c.ach := rfl
@[simp] theorem Chip.withMem_cal : Chip.cal (c.withMem x) = c.cal := rfl
@[simp] theorem Chip.withMem_trust : Chip.trust (c.withMem x) = c.trust := rfl
@[simp] theorem Chip.withMem_brx : Chip.brx (c.withMem x) = c.brx := rfl
@[simp] theorem Chip.withMem_ae : Chip.ae (c.withMem x) = c.ae := rfl
@[simp] theorem Chip.withMem_code : Chip.code (c.withMem x) = c.code := rfl
@[simp] theorem Chip.withMem_eth : Chip.eth (c.withMem x) = c.eth := rfl
@[simp] theorem Chip.withMem_time : Chip.time (c.withMem x) = c.time := rfl
@[simp] theorem Chip.withMem_sens : Chip.sens (c.withMem x) = c.sens := rfl
@[simp] theorem Chip.withMem_port : Chip.port (c.withMem x) = c.port := rfl
@[simp] theorem Chip.rd_withMem (f : Fld) (i j : Nat) : (c.withMem x).rd f i j = c.rd f i j := rfl
@[simp] theorem Chip.flag_withMem (f : Fld) (i j : Nat) : (c.withMem x).flag f i j = c.flag f i j := rfl
end

section
variable (x : Tbl Bool)
@[simp] theorem Chip.withPoison_regs : Chip.regs (c.withPoison x) = c.regs := rfl
@[simp] theorem Chip.withPoison_mem : Chip.mem (c.withPoison x) = c.mem := rfl
@[simp] theorem Chip.withPoison_poison : Chip.poison (c.withPoison x) = x := rfl
@[simp] theorem Chip.withPoison_upset : Chip.upset (c.withPoison x) = c.upset := rfl
@[simp] theorem Chip.withPoison_tick : Chip.tick (c.withPoison x) = c.tick := rfl
@[simp] theorem Chip.withPoison_free : Chip.free (c.withPoison x) = c.free := rfl
@[simp] theorem Chip.withPoison_again : Chip.again (c.withPoison x) = c.again := rfl
@[simp] theorem Chip.withPoison_out : Chip.out (c.withPoison x) = c.out := rfl
@[simp] theorem Chip.withPoison_dev : Chip.dev (c.withPoison x) = c.dev := rfl
@[simp] theorem Chip.withPoison_hif : Chip.hif (c.withPoison x) = c.hif := rfl
@[simp] theorem Chip.withPoison_pwr : Chip.pwr (c.withPoison x) = c.pwr := rfl
@[simp] theorem Chip.withPoison_fab : Chip.fab (c.withPoison x) = c.fab := rfl
@[simp] theorem Chip.withPoison_mems : Chip.mems (c.withPoison x) = c.mems := rfl
@[simp] theorem Chip.withPoison_integ : Chip.integ (c.withPoison x) = c.integ := rfl
@[simp] theorem Chip.withPoison_sched : Chip.sched (c.withPoison x) = c.sched := rfl
@[simp] theorem Chip.withPoison_clu : Chip.clu (c.withPoison x) = c.clu := rfl
@[simp] theorem Chip.withPoison_plr : Chip.plr (c.withPoison x) = c.plr := rfl
@[simp] theorem Chip.withPoison_ecv : Chip.ecv (c.withPoison x) = c.ecv := rfl
@[simp] theorem Chip.withPoison_ach : Chip.ach (c.withPoison x) = c.ach := rfl
@[simp] theorem Chip.withPoison_cal : Chip.cal (c.withPoison x) = c.cal := rfl
@[simp] theorem Chip.withPoison_trust : Chip.trust (c.withPoison x) = c.trust := rfl
@[simp] theorem Chip.withPoison_brx : Chip.brx (c.withPoison x) = c.brx := rfl
@[simp] theorem Chip.withPoison_ae : Chip.ae (c.withPoison x) = c.ae := rfl
@[simp] theorem Chip.withPoison_code : Chip.code (c.withPoison x) = c.code := rfl
@[simp] theorem Chip.withPoison_eth : Chip.eth (c.withPoison x) = c.eth := rfl
@[simp] theorem Chip.withPoison_time : Chip.time (c.withPoison x) = c.time := rfl
@[simp] theorem Chip.withPoison_sens : Chip.sens (c.withPoison x) = c.sens := rfl
@[simp] theorem Chip.withPoison_port : Chip.port (c.withPoison x) = c.port := rfl
@[simp] theorem Chip.rd_withPoison (f : Fld) (i j : Nat) : (c.withPoison x).rd f i j = c.rd f i j := rfl
@[simp] theorem Chip.flag_withPoison (f : Fld) (i j : Nat) : (c.withPoison x).flag f i j = c.flag f i j := rfl
end

section
variable (x : Tbl Nat)
@[simp] theorem Chip.withUpset_regs : Chip.regs (c.withUpset x) = c.regs := rfl
@[simp] theorem Chip.withUpset_mem : Chip.mem (c.withUpset x) = c.mem := rfl
@[simp] theorem Chip.withUpset_poison : Chip.poison (c.withUpset x) = c.poison := rfl
@[simp] theorem Chip.withUpset_upset : Chip.upset (c.withUpset x) = x := rfl
@[simp] theorem Chip.withUpset_tick : Chip.tick (c.withUpset x) = c.tick := rfl
@[simp] theorem Chip.withUpset_free : Chip.free (c.withUpset x) = c.free := rfl
@[simp] theorem Chip.withUpset_again : Chip.again (c.withUpset x) = c.again := rfl
@[simp] theorem Chip.withUpset_out : Chip.out (c.withUpset x) = c.out := rfl
@[simp] theorem Chip.withUpset_dev : Chip.dev (c.withUpset x) = c.dev := rfl
@[simp] theorem Chip.withUpset_hif : Chip.hif (c.withUpset x) = c.hif := rfl
@[simp] theorem Chip.withUpset_pwr : Chip.pwr (c.withUpset x) = c.pwr := rfl
@[simp] theorem Chip.withUpset_fab : Chip.fab (c.withUpset x) = c.fab := rfl
@[simp] theorem Chip.withUpset_mems : Chip.mems (c.withUpset x) = c.mems := rfl
@[simp] theorem Chip.withUpset_integ : Chip.integ (c.withUpset x) = c.integ := rfl
@[simp] theorem Chip.withUpset_sched : Chip.sched (c.withUpset x) = c.sched := rfl
@[simp] theorem Chip.withUpset_clu : Chip.clu (c.withUpset x) = c.clu := rfl
@[simp] theorem Chip.withUpset_plr : Chip.plr (c.withUpset x) = c.plr := rfl
@[simp] theorem Chip.withUpset_ecv : Chip.ecv (c.withUpset x) = c.ecv := rfl
@[simp] theorem Chip.withUpset_ach : Chip.ach (c.withUpset x) = c.ach := rfl
@[simp] theorem Chip.withUpset_cal : Chip.cal (c.withUpset x) = c.cal := rfl
@[simp] theorem Chip.withUpset_trust : Chip.trust (c.withUpset x) = c.trust := rfl
@[simp] theorem Chip.withUpset_brx : Chip.brx (c.withUpset x) = c.brx := rfl
@[simp] theorem Chip.withUpset_ae : Chip.ae (c.withUpset x) = c.ae := rfl
@[simp] theorem Chip.withUpset_code : Chip.code (c.withUpset x) = c.code := rfl
@[simp] theorem Chip.withUpset_eth : Chip.eth (c.withUpset x) = c.eth := rfl
@[simp] theorem Chip.withUpset_time : Chip.time (c.withUpset x) = c.time := rfl
@[simp] theorem Chip.withUpset_sens : Chip.sens (c.withUpset x) = c.sens := rfl
@[simp] theorem Chip.withUpset_port : Chip.port (c.withUpset x) = c.port := rfl
@[simp] theorem Chip.rd_withUpset (f : Fld) (i j : Nat) : (c.withUpset x).rd f i j = c.rd f i j := rfl
@[simp] theorem Chip.flag_withUpset (f : Fld) (i j : Nat) : (c.withUpset x).flag f i j = c.flag f i j := rfl
end

section
variable (x : Nat)
@[simp] theorem Chip.withTick_regs : Chip.regs (c.withTick x) = c.regs := rfl
@[simp] theorem Chip.withTick_mem : Chip.mem (c.withTick x) = c.mem := rfl
@[simp] theorem Chip.withTick_poison : Chip.poison (c.withTick x) = c.poison := rfl
@[simp] theorem Chip.withTick_upset : Chip.upset (c.withTick x) = c.upset := rfl
@[simp] theorem Chip.withTick_tick : Chip.tick (c.withTick x) = x := rfl
@[simp] theorem Chip.withTick_free : Chip.free (c.withTick x) = c.free := rfl
@[simp] theorem Chip.withTick_again : Chip.again (c.withTick x) = c.again := rfl
@[simp] theorem Chip.withTick_out : Chip.out (c.withTick x) = c.out := rfl
@[simp] theorem Chip.withTick_dev : Chip.dev (c.withTick x) = c.dev := rfl
@[simp] theorem Chip.withTick_hif : Chip.hif (c.withTick x) = c.hif := rfl
@[simp] theorem Chip.withTick_pwr : Chip.pwr (c.withTick x) = c.pwr := rfl
@[simp] theorem Chip.withTick_fab : Chip.fab (c.withTick x) = c.fab := rfl
@[simp] theorem Chip.withTick_mems : Chip.mems (c.withTick x) = c.mems := rfl
@[simp] theorem Chip.withTick_integ : Chip.integ (c.withTick x) = c.integ := rfl
@[simp] theorem Chip.withTick_sched : Chip.sched (c.withTick x) = c.sched := rfl
@[simp] theorem Chip.withTick_clu : Chip.clu (c.withTick x) = c.clu := rfl
@[simp] theorem Chip.withTick_plr : Chip.plr (c.withTick x) = c.plr := rfl
@[simp] theorem Chip.withTick_ecv : Chip.ecv (c.withTick x) = c.ecv := rfl
@[simp] theorem Chip.withTick_ach : Chip.ach (c.withTick x) = c.ach := rfl
@[simp] theorem Chip.withTick_cal : Chip.cal (c.withTick x) = c.cal := rfl
@[simp] theorem Chip.withTick_trust : Chip.trust (c.withTick x) = c.trust := rfl
@[simp] theorem Chip.withTick_brx : Chip.brx (c.withTick x) = c.brx := rfl
@[simp] theorem Chip.withTick_ae : Chip.ae (c.withTick x) = c.ae := rfl
@[simp] theorem Chip.withTick_code : Chip.code (c.withTick x) = c.code := rfl
@[simp] theorem Chip.withTick_eth : Chip.eth (c.withTick x) = c.eth := rfl
@[simp] theorem Chip.withTick_time : Chip.time (c.withTick x) = c.time := rfl
@[simp] theorem Chip.withTick_sens : Chip.sens (c.withTick x) = c.sens := rfl
@[simp] theorem Chip.withTick_port : Chip.port (c.withTick x) = c.port := rfl
@[simp] theorem Chip.rd_withTick (f : Fld) (i j : Nat) : (c.withTick x).rd f i j = c.rd f i j := rfl
@[simp] theorem Chip.flag_withTick (f : Fld) (i j : Nat) : (c.withTick x).flag f i j = c.flag f i j := rfl
end

section
variable (x : Nat)
@[simp] theorem Chip.withFree_regs : Chip.regs (c.withFree x) = c.regs := rfl
@[simp] theorem Chip.withFree_mem : Chip.mem (c.withFree x) = c.mem := rfl
@[simp] theorem Chip.withFree_poison : Chip.poison (c.withFree x) = c.poison := rfl
@[simp] theorem Chip.withFree_upset : Chip.upset (c.withFree x) = c.upset := rfl
@[simp] theorem Chip.withFree_tick : Chip.tick (c.withFree x) = c.tick := rfl
@[simp] theorem Chip.withFree_free : Chip.free (c.withFree x) = x := rfl
@[simp] theorem Chip.withFree_again : Chip.again (c.withFree x) = c.again := rfl
@[simp] theorem Chip.withFree_out : Chip.out (c.withFree x) = c.out := rfl
@[simp] theorem Chip.withFree_dev : Chip.dev (c.withFree x) = c.dev := rfl
@[simp] theorem Chip.withFree_hif : Chip.hif (c.withFree x) = c.hif := rfl
@[simp] theorem Chip.withFree_pwr : Chip.pwr (c.withFree x) = c.pwr := rfl
@[simp] theorem Chip.withFree_fab : Chip.fab (c.withFree x) = c.fab := rfl
@[simp] theorem Chip.withFree_mems : Chip.mems (c.withFree x) = c.mems := rfl
@[simp] theorem Chip.withFree_integ : Chip.integ (c.withFree x) = c.integ := rfl
@[simp] theorem Chip.withFree_sched : Chip.sched (c.withFree x) = c.sched := rfl
@[simp] theorem Chip.withFree_clu : Chip.clu (c.withFree x) = c.clu := rfl
@[simp] theorem Chip.withFree_plr : Chip.plr (c.withFree x) = c.plr := rfl
@[simp] theorem Chip.withFree_ecv : Chip.ecv (c.withFree x) = c.ecv := rfl
@[simp] theorem Chip.withFree_ach : Chip.ach (c.withFree x) = c.ach := rfl
@[simp] theorem Chip.withFree_cal : Chip.cal (c.withFree x) = c.cal := rfl
@[simp] theorem Chip.withFree_trust : Chip.trust (c.withFree x) = c.trust := rfl
@[simp] theorem Chip.withFree_brx : Chip.brx (c.withFree x) = c.brx := rfl
@[simp] theorem Chip.withFree_ae : Chip.ae (c.withFree x) = c.ae := rfl
@[simp] theorem Chip.withFree_code : Chip.code (c.withFree x) = c.code := rfl
@[simp] theorem Chip.withFree_eth : Chip.eth (c.withFree x) = c.eth := rfl
@[simp] theorem Chip.withFree_time : Chip.time (c.withFree x) = c.time := rfl
@[simp] theorem Chip.withFree_sens : Chip.sens (c.withFree x) = c.sens := rfl
@[simp] theorem Chip.withFree_port : Chip.port (c.withFree x) = c.port := rfl
@[simp] theorem Chip.rd_withFree (f : Fld) (i j : Nat) : (c.withFree x).rd f i j = c.rd f i j := rfl
@[simp] theorem Chip.flag_withFree (f : Fld) (i j : Nat) : (c.withFree x).flag f i j = c.flag f i j := rfl
end

section
variable (x : List Nat)
@[simp] theorem Chip.withAgain_regs : Chip.regs (c.withAgain x) = c.regs := rfl
@[simp] theorem Chip.withAgain_mem : Chip.mem (c.withAgain x) = c.mem := rfl
@[simp] theorem Chip.withAgain_poison : Chip.poison (c.withAgain x) = c.poison := rfl
@[simp] theorem Chip.withAgain_upset : Chip.upset (c.withAgain x) = c.upset := rfl
@[simp] theorem Chip.withAgain_tick : Chip.tick (c.withAgain x) = c.tick := rfl
@[simp] theorem Chip.withAgain_free : Chip.free (c.withAgain x) = c.free := rfl
@[simp] theorem Chip.withAgain_again : Chip.again (c.withAgain x) = x := rfl
@[simp] theorem Chip.withAgain_out : Chip.out (c.withAgain x) = c.out := rfl
@[simp] theorem Chip.withAgain_dev : Chip.dev (c.withAgain x) = c.dev := rfl
@[simp] theorem Chip.withAgain_hif : Chip.hif (c.withAgain x) = c.hif := rfl
@[simp] theorem Chip.withAgain_pwr : Chip.pwr (c.withAgain x) = c.pwr := rfl
@[simp] theorem Chip.withAgain_fab : Chip.fab (c.withAgain x) = c.fab := rfl
@[simp] theorem Chip.withAgain_mems : Chip.mems (c.withAgain x) = c.mems := rfl
@[simp] theorem Chip.withAgain_integ : Chip.integ (c.withAgain x) = c.integ := rfl
@[simp] theorem Chip.withAgain_sched : Chip.sched (c.withAgain x) = c.sched := rfl
@[simp] theorem Chip.withAgain_clu : Chip.clu (c.withAgain x) = c.clu := rfl
@[simp] theorem Chip.withAgain_plr : Chip.plr (c.withAgain x) = c.plr := rfl
@[simp] theorem Chip.withAgain_ecv : Chip.ecv (c.withAgain x) = c.ecv := rfl
@[simp] theorem Chip.withAgain_ach : Chip.ach (c.withAgain x) = c.ach := rfl
@[simp] theorem Chip.withAgain_cal : Chip.cal (c.withAgain x) = c.cal := rfl
@[simp] theorem Chip.withAgain_trust : Chip.trust (c.withAgain x) = c.trust := rfl
@[simp] theorem Chip.withAgain_brx : Chip.brx (c.withAgain x) = c.brx := rfl
@[simp] theorem Chip.withAgain_ae : Chip.ae (c.withAgain x) = c.ae := rfl
@[simp] theorem Chip.withAgain_code : Chip.code (c.withAgain x) = c.code := rfl
@[simp] theorem Chip.withAgain_eth : Chip.eth (c.withAgain x) = c.eth := rfl
@[simp] theorem Chip.withAgain_time : Chip.time (c.withAgain x) = c.time := rfl
@[simp] theorem Chip.withAgain_sens : Chip.sens (c.withAgain x) = c.sens := rfl
@[simp] theorem Chip.withAgain_port : Chip.port (c.withAgain x) = c.port := rfl
@[simp] theorem Chip.rd_withAgain (f : Fld) (i j : Nat) : (c.withAgain x).rd f i j = c.rd f i j := rfl
@[simp] theorem Chip.flag_withAgain (f : Fld) (i j : Nat) : (c.withAgain x).flag f i j = c.flag f i j := rfl
end

section
variable (x : List Out)
@[simp] theorem Chip.withOut_regs : Chip.regs (c.withOut x) = c.regs := rfl
@[simp] theorem Chip.withOut_mem : Chip.mem (c.withOut x) = c.mem := rfl
@[simp] theorem Chip.withOut_poison : Chip.poison (c.withOut x) = c.poison := rfl
@[simp] theorem Chip.withOut_upset : Chip.upset (c.withOut x) = c.upset := rfl
@[simp] theorem Chip.withOut_tick : Chip.tick (c.withOut x) = c.tick := rfl
@[simp] theorem Chip.withOut_free : Chip.free (c.withOut x) = c.free := rfl
@[simp] theorem Chip.withOut_again : Chip.again (c.withOut x) = c.again := rfl
@[simp] theorem Chip.withOut_out : Chip.out (c.withOut x) = x := rfl
@[simp] theorem Chip.withOut_dev : Chip.dev (c.withOut x) = c.dev := rfl
@[simp] theorem Chip.withOut_hif : Chip.hif (c.withOut x) = c.hif := rfl
@[simp] theorem Chip.withOut_pwr : Chip.pwr (c.withOut x) = c.pwr := rfl
@[simp] theorem Chip.withOut_fab : Chip.fab (c.withOut x) = c.fab := rfl
@[simp] theorem Chip.withOut_mems : Chip.mems (c.withOut x) = c.mems := rfl
@[simp] theorem Chip.withOut_integ : Chip.integ (c.withOut x) = c.integ := rfl
@[simp] theorem Chip.withOut_sched : Chip.sched (c.withOut x) = c.sched := rfl
@[simp] theorem Chip.withOut_clu : Chip.clu (c.withOut x) = c.clu := rfl
@[simp] theorem Chip.withOut_plr : Chip.plr (c.withOut x) = c.plr := rfl
@[simp] theorem Chip.withOut_ecv : Chip.ecv (c.withOut x) = c.ecv := rfl
@[simp] theorem Chip.withOut_ach : Chip.ach (c.withOut x) = c.ach := rfl
@[simp] theorem Chip.withOut_cal : Chip.cal (c.withOut x) = c.cal := rfl
@[simp] theorem Chip.withOut_trust : Chip.trust (c.withOut x) = c.trust := rfl
@[simp] theorem Chip.withOut_brx : Chip.brx (c.withOut x) = c.brx := rfl
@[simp] theorem Chip.withOut_ae : Chip.ae (c.withOut x) = c.ae := rfl
@[simp] theorem Chip.withOut_code : Chip.code (c.withOut x) = c.code := rfl
@[simp] theorem Chip.withOut_eth : Chip.eth (c.withOut x) = c.eth := rfl
@[simp] theorem Chip.withOut_time : Chip.time (c.withOut x) = c.time := rfl
@[simp] theorem Chip.withOut_sens : Chip.sens (c.withOut x) = c.sens := rfl
@[simp] theorem Chip.withOut_port : Chip.port (c.withOut x) = c.port := rfl
@[simp] theorem Chip.rd_withOut (f : Fld) (i j : Nat) : (c.withOut x).rd f i j = c.rd f i j := rfl
@[simp] theorem Chip.flag_withOut (f : Fld) (i j : Nat) : (c.withOut x).flag f i j = c.flag f i j := rfl
end

section
variable (x : DevSt)
@[simp] theorem Chip.withDev_regs : Chip.regs (c.withDev x) = c.regs := rfl
@[simp] theorem Chip.withDev_mem : Chip.mem (c.withDev x) = c.mem := rfl
@[simp] theorem Chip.withDev_poison : Chip.poison (c.withDev x) = c.poison := rfl
@[simp] theorem Chip.withDev_upset : Chip.upset (c.withDev x) = c.upset := rfl
@[simp] theorem Chip.withDev_tick : Chip.tick (c.withDev x) = c.tick := rfl
@[simp] theorem Chip.withDev_free : Chip.free (c.withDev x) = c.free := rfl
@[simp] theorem Chip.withDev_again : Chip.again (c.withDev x) = c.again := rfl
@[simp] theorem Chip.withDev_out : Chip.out (c.withDev x) = c.out := rfl
@[simp] theorem Chip.withDev_dev : Chip.dev (c.withDev x) = x := rfl
@[simp] theorem Chip.withDev_hif : Chip.hif (c.withDev x) = c.hif := rfl
@[simp] theorem Chip.withDev_pwr : Chip.pwr (c.withDev x) = c.pwr := rfl
@[simp] theorem Chip.withDev_fab : Chip.fab (c.withDev x) = c.fab := rfl
@[simp] theorem Chip.withDev_mems : Chip.mems (c.withDev x) = c.mems := rfl
@[simp] theorem Chip.withDev_integ : Chip.integ (c.withDev x) = c.integ := rfl
@[simp] theorem Chip.withDev_sched : Chip.sched (c.withDev x) = c.sched := rfl
@[simp] theorem Chip.withDev_clu : Chip.clu (c.withDev x) = c.clu := rfl
@[simp] theorem Chip.withDev_plr : Chip.plr (c.withDev x) = c.plr := rfl
@[simp] theorem Chip.withDev_ecv : Chip.ecv (c.withDev x) = c.ecv := rfl
@[simp] theorem Chip.withDev_ach : Chip.ach (c.withDev x) = c.ach := rfl
@[simp] theorem Chip.withDev_cal : Chip.cal (c.withDev x) = c.cal := rfl
@[simp] theorem Chip.withDev_trust : Chip.trust (c.withDev x) = c.trust := rfl
@[simp] theorem Chip.withDev_brx : Chip.brx (c.withDev x) = c.brx := rfl
@[simp] theorem Chip.withDev_ae : Chip.ae (c.withDev x) = c.ae := rfl
@[simp] theorem Chip.withDev_code : Chip.code (c.withDev x) = c.code := rfl
@[simp] theorem Chip.withDev_eth : Chip.eth (c.withDev x) = c.eth := rfl
@[simp] theorem Chip.withDev_time : Chip.time (c.withDev x) = c.time := rfl
@[simp] theorem Chip.withDev_sens : Chip.sens (c.withDev x) = c.sens := rfl
@[simp] theorem Chip.withDev_port : Chip.port (c.withDev x) = c.port := rfl
@[simp] theorem Chip.rd_withDev (f : Fld) (i j : Nat) : (c.withDev x).rd f i j = c.rd f i j := rfl
@[simp] theorem Chip.flag_withDev (f : Fld) (i j : Nat) : (c.withDev x).flag f i j = c.flag f i j := rfl
end

section
variable (x : HifSt)
@[simp] theorem Chip.withHif_regs : Chip.regs (c.withHif x) = c.regs := rfl
@[simp] theorem Chip.withHif_mem : Chip.mem (c.withHif x) = c.mem := rfl
@[simp] theorem Chip.withHif_poison : Chip.poison (c.withHif x) = c.poison := rfl
@[simp] theorem Chip.withHif_upset : Chip.upset (c.withHif x) = c.upset := rfl
@[simp] theorem Chip.withHif_tick : Chip.tick (c.withHif x) = c.tick := rfl
@[simp] theorem Chip.withHif_free : Chip.free (c.withHif x) = c.free := rfl
@[simp] theorem Chip.withHif_again : Chip.again (c.withHif x) = c.again := rfl
@[simp] theorem Chip.withHif_out : Chip.out (c.withHif x) = c.out := rfl
@[simp] theorem Chip.withHif_dev : Chip.dev (c.withHif x) = c.dev := rfl
@[simp] theorem Chip.withHif_hif : Chip.hif (c.withHif x) = x := rfl
@[simp] theorem Chip.withHif_pwr : Chip.pwr (c.withHif x) = c.pwr := rfl
@[simp] theorem Chip.withHif_fab : Chip.fab (c.withHif x) = c.fab := rfl
@[simp] theorem Chip.withHif_mems : Chip.mems (c.withHif x) = c.mems := rfl
@[simp] theorem Chip.withHif_integ : Chip.integ (c.withHif x) = c.integ := rfl
@[simp] theorem Chip.withHif_sched : Chip.sched (c.withHif x) = c.sched := rfl
@[simp] theorem Chip.withHif_clu : Chip.clu (c.withHif x) = c.clu := rfl
@[simp] theorem Chip.withHif_plr : Chip.plr (c.withHif x) = c.plr := rfl
@[simp] theorem Chip.withHif_ecv : Chip.ecv (c.withHif x) = c.ecv := rfl
@[simp] theorem Chip.withHif_ach : Chip.ach (c.withHif x) = c.ach := rfl
@[simp] theorem Chip.withHif_cal : Chip.cal (c.withHif x) = c.cal := rfl
@[simp] theorem Chip.withHif_trust : Chip.trust (c.withHif x) = c.trust := rfl
@[simp] theorem Chip.withHif_brx : Chip.brx (c.withHif x) = c.brx := rfl
@[simp] theorem Chip.withHif_ae : Chip.ae (c.withHif x) = c.ae := rfl
@[simp] theorem Chip.withHif_code : Chip.code (c.withHif x) = c.code := rfl
@[simp] theorem Chip.withHif_eth : Chip.eth (c.withHif x) = c.eth := rfl
@[simp] theorem Chip.withHif_time : Chip.time (c.withHif x) = c.time := rfl
@[simp] theorem Chip.withHif_sens : Chip.sens (c.withHif x) = c.sens := rfl
@[simp] theorem Chip.withHif_port : Chip.port (c.withHif x) = c.port := rfl
@[simp] theorem Chip.rd_withHif (f : Fld) (i j : Nat) : (c.withHif x).rd f i j = c.rd f i j := rfl
@[simp] theorem Chip.flag_withHif (f : Fld) (i j : Nat) : (c.withHif x).flag f i j = c.flag f i j := rfl
end

section
variable (x : PwrSt)
@[simp] theorem Chip.withPwr_regs : Chip.regs (c.withPwr x) = c.regs := rfl
@[simp] theorem Chip.withPwr_mem : Chip.mem (c.withPwr x) = c.mem := rfl
@[simp] theorem Chip.withPwr_poison : Chip.poison (c.withPwr x) = c.poison := rfl
@[simp] theorem Chip.withPwr_upset : Chip.upset (c.withPwr x) = c.upset := rfl
@[simp] theorem Chip.withPwr_tick : Chip.tick (c.withPwr x) = c.tick := rfl
@[simp] theorem Chip.withPwr_free : Chip.free (c.withPwr x) = c.free := rfl
@[simp] theorem Chip.withPwr_again : Chip.again (c.withPwr x) = c.again := rfl
@[simp] theorem Chip.withPwr_out : Chip.out (c.withPwr x) = c.out := rfl
@[simp] theorem Chip.withPwr_dev : Chip.dev (c.withPwr x) = c.dev := rfl
@[simp] theorem Chip.withPwr_hif : Chip.hif (c.withPwr x) = c.hif := rfl
@[simp] theorem Chip.withPwr_pwr : Chip.pwr (c.withPwr x) = x := rfl
@[simp] theorem Chip.withPwr_fab : Chip.fab (c.withPwr x) = c.fab := rfl
@[simp] theorem Chip.withPwr_mems : Chip.mems (c.withPwr x) = c.mems := rfl
@[simp] theorem Chip.withPwr_integ : Chip.integ (c.withPwr x) = c.integ := rfl
@[simp] theorem Chip.withPwr_sched : Chip.sched (c.withPwr x) = c.sched := rfl
@[simp] theorem Chip.withPwr_clu : Chip.clu (c.withPwr x) = c.clu := rfl
@[simp] theorem Chip.withPwr_plr : Chip.plr (c.withPwr x) = c.plr := rfl
@[simp] theorem Chip.withPwr_ecv : Chip.ecv (c.withPwr x) = c.ecv := rfl
@[simp] theorem Chip.withPwr_ach : Chip.ach (c.withPwr x) = c.ach := rfl
@[simp] theorem Chip.withPwr_cal : Chip.cal (c.withPwr x) = c.cal := rfl
@[simp] theorem Chip.withPwr_trust : Chip.trust (c.withPwr x) = c.trust := rfl
@[simp] theorem Chip.withPwr_brx : Chip.brx (c.withPwr x) = c.brx := rfl
@[simp] theorem Chip.withPwr_ae : Chip.ae (c.withPwr x) = c.ae := rfl
@[simp] theorem Chip.withPwr_code : Chip.code (c.withPwr x) = c.code := rfl
@[simp] theorem Chip.withPwr_eth : Chip.eth (c.withPwr x) = c.eth := rfl
@[simp] theorem Chip.withPwr_time : Chip.time (c.withPwr x) = c.time := rfl
@[simp] theorem Chip.withPwr_sens : Chip.sens (c.withPwr x) = c.sens := rfl
@[simp] theorem Chip.withPwr_port : Chip.port (c.withPwr x) = c.port := rfl
@[simp] theorem Chip.rd_withPwr (f : Fld) (i j : Nat) : (c.withPwr x).rd f i j = c.rd f i j := rfl
@[simp] theorem Chip.flag_withPwr (f : Fld) (i j : Nat) : (c.withPwr x).flag f i j = c.flag f i j := rfl
end

section
variable (x : FabSt)
@[simp] theorem Chip.withFab_regs : Chip.regs (c.withFab x) = c.regs := rfl
@[simp] theorem Chip.withFab_mem : Chip.mem (c.withFab x) = c.mem := rfl
@[simp] theorem Chip.withFab_poison : Chip.poison (c.withFab x) = c.poison := rfl
@[simp] theorem Chip.withFab_upset : Chip.upset (c.withFab x) = c.upset := rfl
@[simp] theorem Chip.withFab_tick : Chip.tick (c.withFab x) = c.tick := rfl
@[simp] theorem Chip.withFab_free : Chip.free (c.withFab x) = c.free := rfl
@[simp] theorem Chip.withFab_again : Chip.again (c.withFab x) = c.again := rfl
@[simp] theorem Chip.withFab_out : Chip.out (c.withFab x) = c.out := rfl
@[simp] theorem Chip.withFab_dev : Chip.dev (c.withFab x) = c.dev := rfl
@[simp] theorem Chip.withFab_hif : Chip.hif (c.withFab x) = c.hif := rfl
@[simp] theorem Chip.withFab_pwr : Chip.pwr (c.withFab x) = c.pwr := rfl
@[simp] theorem Chip.withFab_fab : Chip.fab (c.withFab x) = x := rfl
@[simp] theorem Chip.withFab_mems : Chip.mems (c.withFab x) = c.mems := rfl
@[simp] theorem Chip.withFab_integ : Chip.integ (c.withFab x) = c.integ := rfl
@[simp] theorem Chip.withFab_sched : Chip.sched (c.withFab x) = c.sched := rfl
@[simp] theorem Chip.withFab_clu : Chip.clu (c.withFab x) = c.clu := rfl
@[simp] theorem Chip.withFab_plr : Chip.plr (c.withFab x) = c.plr := rfl
@[simp] theorem Chip.withFab_ecv : Chip.ecv (c.withFab x) = c.ecv := rfl
@[simp] theorem Chip.withFab_ach : Chip.ach (c.withFab x) = c.ach := rfl
@[simp] theorem Chip.withFab_cal : Chip.cal (c.withFab x) = c.cal := rfl
@[simp] theorem Chip.withFab_trust : Chip.trust (c.withFab x) = c.trust := rfl
@[simp] theorem Chip.withFab_brx : Chip.brx (c.withFab x) = c.brx := rfl
@[simp] theorem Chip.withFab_ae : Chip.ae (c.withFab x) = c.ae := rfl
@[simp] theorem Chip.withFab_code : Chip.code (c.withFab x) = c.code := rfl
@[simp] theorem Chip.withFab_eth : Chip.eth (c.withFab x) = c.eth := rfl
@[simp] theorem Chip.withFab_time : Chip.time (c.withFab x) = c.time := rfl
@[simp] theorem Chip.withFab_sens : Chip.sens (c.withFab x) = c.sens := rfl
@[simp] theorem Chip.withFab_port : Chip.port (c.withFab x) = c.port := rfl
@[simp] theorem Chip.rd_withFab (f : Fld) (i j : Nat) : (c.withFab x).rd f i j = c.rd f i j := rfl
@[simp] theorem Chip.flag_withFab (f : Fld) (i j : Nat) : (c.withFab x).flag f i j = c.flag f i j := rfl
end

section
variable (x : MemSt)
@[simp] theorem Chip.withMems_regs : Chip.regs (c.withMems x) = c.regs := rfl
@[simp] theorem Chip.withMems_mem : Chip.mem (c.withMems x) = c.mem := rfl
@[simp] theorem Chip.withMems_poison : Chip.poison (c.withMems x) = c.poison := rfl
@[simp] theorem Chip.withMems_upset : Chip.upset (c.withMems x) = c.upset := rfl
@[simp] theorem Chip.withMems_tick : Chip.tick (c.withMems x) = c.tick := rfl
@[simp] theorem Chip.withMems_free : Chip.free (c.withMems x) = c.free := rfl
@[simp] theorem Chip.withMems_again : Chip.again (c.withMems x) = c.again := rfl
@[simp] theorem Chip.withMems_out : Chip.out (c.withMems x) = c.out := rfl
@[simp] theorem Chip.withMems_dev : Chip.dev (c.withMems x) = c.dev := rfl
@[simp] theorem Chip.withMems_hif : Chip.hif (c.withMems x) = c.hif := rfl
@[simp] theorem Chip.withMems_pwr : Chip.pwr (c.withMems x) = c.pwr := rfl
@[simp] theorem Chip.withMems_fab : Chip.fab (c.withMems x) = c.fab := rfl
@[simp] theorem Chip.withMems_mems : Chip.mems (c.withMems x) = x := rfl
@[simp] theorem Chip.withMems_integ : Chip.integ (c.withMems x) = c.integ := rfl
@[simp] theorem Chip.withMems_sched : Chip.sched (c.withMems x) = c.sched := rfl
@[simp] theorem Chip.withMems_clu : Chip.clu (c.withMems x) = c.clu := rfl
@[simp] theorem Chip.withMems_plr : Chip.plr (c.withMems x) = c.plr := rfl
@[simp] theorem Chip.withMems_ecv : Chip.ecv (c.withMems x) = c.ecv := rfl
@[simp] theorem Chip.withMems_ach : Chip.ach (c.withMems x) = c.ach := rfl
@[simp] theorem Chip.withMems_cal : Chip.cal (c.withMems x) = c.cal := rfl
@[simp] theorem Chip.withMems_trust : Chip.trust (c.withMems x) = c.trust := rfl
@[simp] theorem Chip.withMems_brx : Chip.brx (c.withMems x) = c.brx := rfl
@[simp] theorem Chip.withMems_ae : Chip.ae (c.withMems x) = c.ae := rfl
@[simp] theorem Chip.withMems_code : Chip.code (c.withMems x) = c.code := rfl
@[simp] theorem Chip.withMems_eth : Chip.eth (c.withMems x) = c.eth := rfl
@[simp] theorem Chip.withMems_time : Chip.time (c.withMems x) = c.time := rfl
@[simp] theorem Chip.withMems_sens : Chip.sens (c.withMems x) = c.sens := rfl
@[simp] theorem Chip.withMems_port : Chip.port (c.withMems x) = c.port := rfl
@[simp] theorem Chip.rd_withMems (f : Fld) (i j : Nat) : (c.withMems x).rd f i j = c.rd f i j := rfl
@[simp] theorem Chip.flag_withMems (f : Fld) (i j : Nat) : (c.withMems x).flag f i j = c.flag f i j := rfl
end

section
variable (x : IntegSt)
@[simp] theorem Chip.withInteg_regs : Chip.regs (c.withInteg x) = c.regs := rfl
@[simp] theorem Chip.withInteg_mem : Chip.mem (c.withInteg x) = c.mem := rfl
@[simp] theorem Chip.withInteg_poison : Chip.poison (c.withInteg x) = c.poison := rfl
@[simp] theorem Chip.withInteg_upset : Chip.upset (c.withInteg x) = c.upset := rfl
@[simp] theorem Chip.withInteg_tick : Chip.tick (c.withInteg x) = c.tick := rfl
@[simp] theorem Chip.withInteg_free : Chip.free (c.withInteg x) = c.free := rfl
@[simp] theorem Chip.withInteg_again : Chip.again (c.withInteg x) = c.again := rfl
@[simp] theorem Chip.withInteg_out : Chip.out (c.withInteg x) = c.out := rfl
@[simp] theorem Chip.withInteg_dev : Chip.dev (c.withInteg x) = c.dev := rfl
@[simp] theorem Chip.withInteg_hif : Chip.hif (c.withInteg x) = c.hif := rfl
@[simp] theorem Chip.withInteg_pwr : Chip.pwr (c.withInteg x) = c.pwr := rfl
@[simp] theorem Chip.withInteg_fab : Chip.fab (c.withInteg x) = c.fab := rfl
@[simp] theorem Chip.withInteg_mems : Chip.mems (c.withInteg x) = c.mems := rfl
@[simp] theorem Chip.withInteg_integ : Chip.integ (c.withInteg x) = x := rfl
@[simp] theorem Chip.withInteg_sched : Chip.sched (c.withInteg x) = c.sched := rfl
@[simp] theorem Chip.withInteg_clu : Chip.clu (c.withInteg x) = c.clu := rfl
@[simp] theorem Chip.withInteg_plr : Chip.plr (c.withInteg x) = c.plr := rfl
@[simp] theorem Chip.withInteg_ecv : Chip.ecv (c.withInteg x) = c.ecv := rfl
@[simp] theorem Chip.withInteg_ach : Chip.ach (c.withInteg x) = c.ach := rfl
@[simp] theorem Chip.withInteg_cal : Chip.cal (c.withInteg x) = c.cal := rfl
@[simp] theorem Chip.withInteg_trust : Chip.trust (c.withInteg x) = c.trust := rfl
@[simp] theorem Chip.withInteg_brx : Chip.brx (c.withInteg x) = c.brx := rfl
@[simp] theorem Chip.withInteg_ae : Chip.ae (c.withInteg x) = c.ae := rfl
@[simp] theorem Chip.withInteg_code : Chip.code (c.withInteg x) = c.code := rfl
@[simp] theorem Chip.withInteg_eth : Chip.eth (c.withInteg x) = c.eth := rfl
@[simp] theorem Chip.withInteg_time : Chip.time (c.withInteg x) = c.time := rfl
@[simp] theorem Chip.withInteg_sens : Chip.sens (c.withInteg x) = c.sens := rfl
@[simp] theorem Chip.withInteg_port : Chip.port (c.withInteg x) = c.port := rfl
@[simp] theorem Chip.rd_withInteg (f : Fld) (i j : Nat) : (c.withInteg x).rd f i j = c.rd f i j := rfl
@[simp] theorem Chip.flag_withInteg (f : Fld) (i j : Nat) : (c.withInteg x).flag f i j = c.flag f i j := rfl
end

section
variable (x : SchedSt)
@[simp] theorem Chip.withSched_regs : Chip.regs (c.withSched x) = c.regs := rfl
@[simp] theorem Chip.withSched_mem : Chip.mem (c.withSched x) = c.mem := rfl
@[simp] theorem Chip.withSched_poison : Chip.poison (c.withSched x) = c.poison := rfl
@[simp] theorem Chip.withSched_upset : Chip.upset (c.withSched x) = c.upset := rfl
@[simp] theorem Chip.withSched_tick : Chip.tick (c.withSched x) = c.tick := rfl
@[simp] theorem Chip.withSched_free : Chip.free (c.withSched x) = c.free := rfl
@[simp] theorem Chip.withSched_again : Chip.again (c.withSched x) = c.again := rfl
@[simp] theorem Chip.withSched_out : Chip.out (c.withSched x) = c.out := rfl
@[simp] theorem Chip.withSched_dev : Chip.dev (c.withSched x) = c.dev := rfl
@[simp] theorem Chip.withSched_hif : Chip.hif (c.withSched x) = c.hif := rfl
@[simp] theorem Chip.withSched_pwr : Chip.pwr (c.withSched x) = c.pwr := rfl
@[simp] theorem Chip.withSched_fab : Chip.fab (c.withSched x) = c.fab := rfl
@[simp] theorem Chip.withSched_mems : Chip.mems (c.withSched x) = c.mems := rfl
@[simp] theorem Chip.withSched_integ : Chip.integ (c.withSched x) = c.integ := rfl
@[simp] theorem Chip.withSched_sched : Chip.sched (c.withSched x) = x := rfl
@[simp] theorem Chip.withSched_clu : Chip.clu (c.withSched x) = c.clu := rfl
@[simp] theorem Chip.withSched_plr : Chip.plr (c.withSched x) = c.plr := rfl
@[simp] theorem Chip.withSched_ecv : Chip.ecv (c.withSched x) = c.ecv := rfl
@[simp] theorem Chip.withSched_ach : Chip.ach (c.withSched x) = c.ach := rfl
@[simp] theorem Chip.withSched_cal : Chip.cal (c.withSched x) = c.cal := rfl
@[simp] theorem Chip.withSched_trust : Chip.trust (c.withSched x) = c.trust := rfl
@[simp] theorem Chip.withSched_brx : Chip.brx (c.withSched x) = c.brx := rfl
@[simp] theorem Chip.withSched_ae : Chip.ae (c.withSched x) = c.ae := rfl
@[simp] theorem Chip.withSched_code : Chip.code (c.withSched x) = c.code := rfl
@[simp] theorem Chip.withSched_eth : Chip.eth (c.withSched x) = c.eth := rfl
@[simp] theorem Chip.withSched_time : Chip.time (c.withSched x) = c.time := rfl
@[simp] theorem Chip.withSched_sens : Chip.sens (c.withSched x) = c.sens := rfl
@[simp] theorem Chip.withSched_port : Chip.port (c.withSched x) = c.port := rfl
@[simp] theorem Chip.rd_withSched (f : Fld) (i j : Nat) : (c.withSched x).rd f i j = c.rd f i j := rfl
@[simp] theorem Chip.flag_withSched (f : Fld) (i j : Nat) : (c.withSched x).flag f i j = c.flag f i j := rfl
end

section
variable (x : EngSt)
@[simp] theorem Chip.withClu_regs : Chip.regs (c.withClu x) = c.regs := rfl
@[simp] theorem Chip.withClu_mem : Chip.mem (c.withClu x) = c.mem := rfl
@[simp] theorem Chip.withClu_poison : Chip.poison (c.withClu x) = c.poison := rfl
@[simp] theorem Chip.withClu_upset : Chip.upset (c.withClu x) = c.upset := rfl
@[simp] theorem Chip.withClu_tick : Chip.tick (c.withClu x) = c.tick := rfl
@[simp] theorem Chip.withClu_free : Chip.free (c.withClu x) = c.free := rfl
@[simp] theorem Chip.withClu_again : Chip.again (c.withClu x) = c.again := rfl
@[simp] theorem Chip.withClu_out : Chip.out (c.withClu x) = c.out := rfl
@[simp] theorem Chip.withClu_dev : Chip.dev (c.withClu x) = c.dev := rfl
@[simp] theorem Chip.withClu_hif : Chip.hif (c.withClu x) = c.hif := rfl
@[simp] theorem Chip.withClu_pwr : Chip.pwr (c.withClu x) = c.pwr := rfl
@[simp] theorem Chip.withClu_fab : Chip.fab (c.withClu x) = c.fab := rfl
@[simp] theorem Chip.withClu_mems : Chip.mems (c.withClu x) = c.mems := rfl
@[simp] theorem Chip.withClu_integ : Chip.integ (c.withClu x) = c.integ := rfl
@[simp] theorem Chip.withClu_sched : Chip.sched (c.withClu x) = c.sched := rfl
@[simp] theorem Chip.withClu_clu : Chip.clu (c.withClu x) = x := rfl
@[simp] theorem Chip.withClu_plr : Chip.plr (c.withClu x) = c.plr := rfl
@[simp] theorem Chip.withClu_ecv : Chip.ecv (c.withClu x) = c.ecv := rfl
@[simp] theorem Chip.withClu_ach : Chip.ach (c.withClu x) = c.ach := rfl
@[simp] theorem Chip.withClu_cal : Chip.cal (c.withClu x) = c.cal := rfl
@[simp] theorem Chip.withClu_trust : Chip.trust (c.withClu x) = c.trust := rfl
@[simp] theorem Chip.withClu_brx : Chip.brx (c.withClu x) = c.brx := rfl
@[simp] theorem Chip.withClu_ae : Chip.ae (c.withClu x) = c.ae := rfl
@[simp] theorem Chip.withClu_code : Chip.code (c.withClu x) = c.code := rfl
@[simp] theorem Chip.withClu_eth : Chip.eth (c.withClu x) = c.eth := rfl
@[simp] theorem Chip.withClu_time : Chip.time (c.withClu x) = c.time := rfl
@[simp] theorem Chip.withClu_sens : Chip.sens (c.withClu x) = c.sens := rfl
@[simp] theorem Chip.withClu_port : Chip.port (c.withClu x) = c.port := rfl
@[simp] theorem Chip.rd_withClu (f : Fld) (i j : Nat) : (c.withClu x).rd f i j = c.rd f i j := rfl
@[simp] theorem Chip.flag_withClu (f : Fld) (i j : Nat) : (c.withClu x).flag f i j = c.flag f i j := rfl
end

section
variable (x : PlrSt)
@[simp] theorem Chip.withPlr_regs : Chip.regs (c.withPlr x) = c.regs := rfl
@[simp] theorem Chip.withPlr_mem : Chip.mem (c.withPlr x) = c.mem := rfl
@[simp] theorem Chip.withPlr_poison : Chip.poison (c.withPlr x) = c.poison := rfl
@[simp] theorem Chip.withPlr_upset : Chip.upset (c.withPlr x) = c.upset := rfl
@[simp] theorem Chip.withPlr_tick : Chip.tick (c.withPlr x) = c.tick := rfl
@[simp] theorem Chip.withPlr_free : Chip.free (c.withPlr x) = c.free := rfl
@[simp] theorem Chip.withPlr_again : Chip.again (c.withPlr x) = c.again := rfl
@[simp] theorem Chip.withPlr_out : Chip.out (c.withPlr x) = c.out := rfl
@[simp] theorem Chip.withPlr_dev : Chip.dev (c.withPlr x) = c.dev := rfl
@[simp] theorem Chip.withPlr_hif : Chip.hif (c.withPlr x) = c.hif := rfl
@[simp] theorem Chip.withPlr_pwr : Chip.pwr (c.withPlr x) = c.pwr := rfl
@[simp] theorem Chip.withPlr_fab : Chip.fab (c.withPlr x) = c.fab := rfl
@[simp] theorem Chip.withPlr_mems : Chip.mems (c.withPlr x) = c.mems := rfl
@[simp] theorem Chip.withPlr_integ : Chip.integ (c.withPlr x) = c.integ := rfl
@[simp] theorem Chip.withPlr_sched : Chip.sched (c.withPlr x) = c.sched := rfl
@[simp] theorem Chip.withPlr_clu : Chip.clu (c.withPlr x) = c.clu := rfl
@[simp] theorem Chip.withPlr_plr : Chip.plr (c.withPlr x) = x := rfl
@[simp] theorem Chip.withPlr_ecv : Chip.ecv (c.withPlr x) = c.ecv := rfl
@[simp] theorem Chip.withPlr_ach : Chip.ach (c.withPlr x) = c.ach := rfl
@[simp] theorem Chip.withPlr_cal : Chip.cal (c.withPlr x) = c.cal := rfl
@[simp] theorem Chip.withPlr_trust : Chip.trust (c.withPlr x) = c.trust := rfl
@[simp] theorem Chip.withPlr_brx : Chip.brx (c.withPlr x) = c.brx := rfl
@[simp] theorem Chip.withPlr_ae : Chip.ae (c.withPlr x) = c.ae := rfl
@[simp] theorem Chip.withPlr_code : Chip.code (c.withPlr x) = c.code := rfl
@[simp] theorem Chip.withPlr_eth : Chip.eth (c.withPlr x) = c.eth := rfl
@[simp] theorem Chip.withPlr_time : Chip.time (c.withPlr x) = c.time := rfl
@[simp] theorem Chip.withPlr_sens : Chip.sens (c.withPlr x) = c.sens := rfl
@[simp] theorem Chip.withPlr_port : Chip.port (c.withPlr x) = c.port := rfl
@[simp] theorem Chip.rd_withPlr (f : Fld) (i j : Nat) : (c.withPlr x).rd f i j = c.rd f i j := rfl
@[simp] theorem Chip.flag_withPlr (f : Fld) (i j : Nat) : (c.withPlr x).flag f i j = c.flag f i j := rfl
end

section
variable (x : EcvSt)
@[simp] theorem Chip.withEcv_regs : Chip.regs (c.withEcv x) = c.regs := rfl
@[simp] theorem Chip.withEcv_mem : Chip.mem (c.withEcv x) = c.mem := rfl
@[simp] theorem Chip.withEcv_poison : Chip.poison (c.withEcv x) = c.poison := rfl
@[simp] theorem Chip.withEcv_upset : Chip.upset (c.withEcv x) = c.upset := rfl
@[simp] theorem Chip.withEcv_tick : Chip.tick (c.withEcv x) = c.tick := rfl
@[simp] theorem Chip.withEcv_free : Chip.free (c.withEcv x) = c.free := rfl
@[simp] theorem Chip.withEcv_again : Chip.again (c.withEcv x) = c.again := rfl
@[simp] theorem Chip.withEcv_out : Chip.out (c.withEcv x) = c.out := rfl
@[simp] theorem Chip.withEcv_dev : Chip.dev (c.withEcv x) = c.dev := rfl
@[simp] theorem Chip.withEcv_hif : Chip.hif (c.withEcv x) = c.hif := rfl
@[simp] theorem Chip.withEcv_pwr : Chip.pwr (c.withEcv x) = c.pwr := rfl
@[simp] theorem Chip.withEcv_fab : Chip.fab (c.withEcv x) = c.fab := rfl
@[simp] theorem Chip.withEcv_mems : Chip.mems (c.withEcv x) = c.mems := rfl
@[simp] theorem Chip.withEcv_integ : Chip.integ (c.withEcv x) = c.integ := rfl
@[simp] theorem Chip.withEcv_sched : Chip.sched (c.withEcv x) = c.sched := rfl
@[simp] theorem Chip.withEcv_clu : Chip.clu (c.withEcv x) = c.clu := rfl
@[simp] theorem Chip.withEcv_plr : Chip.plr (c.withEcv x) = c.plr := rfl
@[simp] theorem Chip.withEcv_ecv : Chip.ecv (c.withEcv x) = x := rfl
@[simp] theorem Chip.withEcv_ach : Chip.ach (c.withEcv x) = c.ach := rfl
@[simp] theorem Chip.withEcv_cal : Chip.cal (c.withEcv x) = c.cal := rfl
@[simp] theorem Chip.withEcv_trust : Chip.trust (c.withEcv x) = c.trust := rfl
@[simp] theorem Chip.withEcv_brx : Chip.brx (c.withEcv x) = c.brx := rfl
@[simp] theorem Chip.withEcv_ae : Chip.ae (c.withEcv x) = c.ae := rfl
@[simp] theorem Chip.withEcv_code : Chip.code (c.withEcv x) = c.code := rfl
@[simp] theorem Chip.withEcv_eth : Chip.eth (c.withEcv x) = c.eth := rfl
@[simp] theorem Chip.withEcv_time : Chip.time (c.withEcv x) = c.time := rfl
@[simp] theorem Chip.withEcv_sens : Chip.sens (c.withEcv x) = c.sens := rfl
@[simp] theorem Chip.withEcv_port : Chip.port (c.withEcv x) = c.port := rfl
@[simp] theorem Chip.rd_withEcv (f : Fld) (i j : Nat) : (c.withEcv x).rd f i j = c.rd f i j := rfl
@[simp] theorem Chip.flag_withEcv (f : Fld) (i j : Nat) : (c.withEcv x).flag f i j = c.flag f i j := rfl
end

section
variable (x : AchSt)
@[simp] theorem Chip.withAch_regs : Chip.regs (c.withAch x) = c.regs := rfl
@[simp] theorem Chip.withAch_mem : Chip.mem (c.withAch x) = c.mem := rfl
@[simp] theorem Chip.withAch_poison : Chip.poison (c.withAch x) = c.poison := rfl
@[simp] theorem Chip.withAch_upset : Chip.upset (c.withAch x) = c.upset := rfl
@[simp] theorem Chip.withAch_tick : Chip.tick (c.withAch x) = c.tick := rfl
@[simp] theorem Chip.withAch_free : Chip.free (c.withAch x) = c.free := rfl
@[simp] theorem Chip.withAch_again : Chip.again (c.withAch x) = c.again := rfl
@[simp] theorem Chip.withAch_out : Chip.out (c.withAch x) = c.out := rfl
@[simp] theorem Chip.withAch_dev : Chip.dev (c.withAch x) = c.dev := rfl
@[simp] theorem Chip.withAch_hif : Chip.hif (c.withAch x) = c.hif := rfl
@[simp] theorem Chip.withAch_pwr : Chip.pwr (c.withAch x) = c.pwr := rfl
@[simp] theorem Chip.withAch_fab : Chip.fab (c.withAch x) = c.fab := rfl
@[simp] theorem Chip.withAch_mems : Chip.mems (c.withAch x) = c.mems := rfl
@[simp] theorem Chip.withAch_integ : Chip.integ (c.withAch x) = c.integ := rfl
@[simp] theorem Chip.withAch_sched : Chip.sched (c.withAch x) = c.sched := rfl
@[simp] theorem Chip.withAch_clu : Chip.clu (c.withAch x) = c.clu := rfl
@[simp] theorem Chip.withAch_plr : Chip.plr (c.withAch x) = c.plr := rfl
@[simp] theorem Chip.withAch_ecv : Chip.ecv (c.withAch x) = c.ecv := rfl
@[simp] theorem Chip.withAch_ach : Chip.ach (c.withAch x) = x := rfl
@[simp] theorem Chip.withAch_cal : Chip.cal (c.withAch x) = c.cal := rfl
@[simp] theorem Chip.withAch_trust : Chip.trust (c.withAch x) = c.trust := rfl
@[simp] theorem Chip.withAch_brx : Chip.brx (c.withAch x) = c.brx := rfl
@[simp] theorem Chip.withAch_ae : Chip.ae (c.withAch x) = c.ae := rfl
@[simp] theorem Chip.withAch_code : Chip.code (c.withAch x) = c.code := rfl
@[simp] theorem Chip.withAch_eth : Chip.eth (c.withAch x) = c.eth := rfl
@[simp] theorem Chip.withAch_time : Chip.time (c.withAch x) = c.time := rfl
@[simp] theorem Chip.withAch_sens : Chip.sens (c.withAch x) = c.sens := rfl
@[simp] theorem Chip.withAch_port : Chip.port (c.withAch x) = c.port := rfl
@[simp] theorem Chip.rd_withAch (f : Fld) (i j : Nat) : (c.withAch x).rd f i j = c.rd f i j := rfl
@[simp] theorem Chip.flag_withAch (f : Fld) (i j : Nat) : (c.withAch x).flag f i j = c.flag f i j := rfl
end

section
variable (x : CalSt)
@[simp] theorem Chip.withCal_regs : Chip.regs (c.withCal x) = c.regs := rfl
@[simp] theorem Chip.withCal_mem : Chip.mem (c.withCal x) = c.mem := rfl
@[simp] theorem Chip.withCal_poison : Chip.poison (c.withCal x) = c.poison := rfl
@[simp] theorem Chip.withCal_upset : Chip.upset (c.withCal x) = c.upset := rfl
@[simp] theorem Chip.withCal_tick : Chip.tick (c.withCal x) = c.tick := rfl
@[simp] theorem Chip.withCal_free : Chip.free (c.withCal x) = c.free := rfl
@[simp] theorem Chip.withCal_again : Chip.again (c.withCal x) = c.again := rfl
@[simp] theorem Chip.withCal_out : Chip.out (c.withCal x) = c.out := rfl
@[simp] theorem Chip.withCal_dev : Chip.dev (c.withCal x) = c.dev := rfl
@[simp] theorem Chip.withCal_hif : Chip.hif (c.withCal x) = c.hif := rfl
@[simp] theorem Chip.withCal_pwr : Chip.pwr (c.withCal x) = c.pwr := rfl
@[simp] theorem Chip.withCal_fab : Chip.fab (c.withCal x) = c.fab := rfl
@[simp] theorem Chip.withCal_mems : Chip.mems (c.withCal x) = c.mems := rfl
@[simp] theorem Chip.withCal_integ : Chip.integ (c.withCal x) = c.integ := rfl
@[simp] theorem Chip.withCal_sched : Chip.sched (c.withCal x) = c.sched := rfl
@[simp] theorem Chip.withCal_clu : Chip.clu (c.withCal x) = c.clu := rfl
@[simp] theorem Chip.withCal_plr : Chip.plr (c.withCal x) = c.plr := rfl
@[simp] theorem Chip.withCal_ecv : Chip.ecv (c.withCal x) = c.ecv := rfl
@[simp] theorem Chip.withCal_ach : Chip.ach (c.withCal x) = c.ach := rfl
@[simp] theorem Chip.withCal_cal : Chip.cal (c.withCal x) = x := rfl
@[simp] theorem Chip.withCal_trust : Chip.trust (c.withCal x) = c.trust := rfl
@[simp] theorem Chip.withCal_brx : Chip.brx (c.withCal x) = c.brx := rfl
@[simp] theorem Chip.withCal_ae : Chip.ae (c.withCal x) = c.ae := rfl
@[simp] theorem Chip.withCal_code : Chip.code (c.withCal x) = c.code := rfl
@[simp] theorem Chip.withCal_eth : Chip.eth (c.withCal x) = c.eth := rfl
@[simp] theorem Chip.withCal_time : Chip.time (c.withCal x) = c.time := rfl
@[simp] theorem Chip.withCal_sens : Chip.sens (c.withCal x) = c.sens := rfl
@[simp] theorem Chip.withCal_port : Chip.port (c.withCal x) = c.port := rfl
@[simp] theorem Chip.rd_withCal (f : Fld) (i j : Nat) : (c.withCal x).rd f i j = c.rd f i j := rfl
@[simp] theorem Chip.flag_withCal (f : Fld) (i j : Nat) : (c.withCal x).flag f i j = c.flag f i j := rfl
end

section
variable (x : TrustSt)
@[simp] theorem Chip.withTrust_regs : Chip.regs (c.withTrust x) = c.regs := rfl
@[simp] theorem Chip.withTrust_mem : Chip.mem (c.withTrust x) = c.mem := rfl
@[simp] theorem Chip.withTrust_poison : Chip.poison (c.withTrust x) = c.poison := rfl
@[simp] theorem Chip.withTrust_upset : Chip.upset (c.withTrust x) = c.upset := rfl
@[simp] theorem Chip.withTrust_tick : Chip.tick (c.withTrust x) = c.tick := rfl
@[simp] theorem Chip.withTrust_free : Chip.free (c.withTrust x) = c.free := rfl
@[simp] theorem Chip.withTrust_again : Chip.again (c.withTrust x) = c.again := rfl
@[simp] theorem Chip.withTrust_out : Chip.out (c.withTrust x) = c.out := rfl
@[simp] theorem Chip.withTrust_dev : Chip.dev (c.withTrust x) = c.dev := rfl
@[simp] theorem Chip.withTrust_hif : Chip.hif (c.withTrust x) = c.hif := rfl
@[simp] theorem Chip.withTrust_pwr : Chip.pwr (c.withTrust x) = c.pwr := rfl
@[simp] theorem Chip.withTrust_fab : Chip.fab (c.withTrust x) = c.fab := rfl
@[simp] theorem Chip.withTrust_mems : Chip.mems (c.withTrust x) = c.mems := rfl
@[simp] theorem Chip.withTrust_integ : Chip.integ (c.withTrust x) = c.integ := rfl
@[simp] theorem Chip.withTrust_sched : Chip.sched (c.withTrust x) = c.sched := rfl
@[simp] theorem Chip.withTrust_clu : Chip.clu (c.withTrust x) = c.clu := rfl
@[simp] theorem Chip.withTrust_plr : Chip.plr (c.withTrust x) = c.plr := rfl
@[simp] theorem Chip.withTrust_ecv : Chip.ecv (c.withTrust x) = c.ecv := rfl
@[simp] theorem Chip.withTrust_ach : Chip.ach (c.withTrust x) = c.ach := rfl
@[simp] theorem Chip.withTrust_cal : Chip.cal (c.withTrust x) = c.cal := rfl
@[simp] theorem Chip.withTrust_trust : Chip.trust (c.withTrust x) = x := rfl
@[simp] theorem Chip.withTrust_brx : Chip.brx (c.withTrust x) = c.brx := rfl
@[simp] theorem Chip.withTrust_ae : Chip.ae (c.withTrust x) = c.ae := rfl
@[simp] theorem Chip.withTrust_code : Chip.code (c.withTrust x) = c.code := rfl
@[simp] theorem Chip.withTrust_eth : Chip.eth (c.withTrust x) = c.eth := rfl
@[simp] theorem Chip.withTrust_time : Chip.time (c.withTrust x) = c.time := rfl
@[simp] theorem Chip.withTrust_sens : Chip.sens (c.withTrust x) = c.sens := rfl
@[simp] theorem Chip.withTrust_port : Chip.port (c.withTrust x) = c.port := rfl
@[simp] theorem Chip.rd_withTrust (f : Fld) (i j : Nat) : (c.withTrust x).rd f i j = c.rd f i j := rfl
@[simp] theorem Chip.flag_withTrust (f : Fld) (i j : Nat) : (c.withTrust x).flag f i j = c.flag f i j := rfl
end

section
variable (x : BrxSt)
@[simp] theorem Chip.withBrx_regs : Chip.regs (c.withBrx x) = c.regs := rfl
@[simp] theorem Chip.withBrx_mem : Chip.mem (c.withBrx x) = c.mem := rfl
@[simp] theorem Chip.withBrx_poison : Chip.poison (c.withBrx x) = c.poison := rfl
@[simp] theorem Chip.withBrx_upset : Chip.upset (c.withBrx x) = c.upset := rfl
@[simp] theorem Chip.withBrx_tick : Chip.tick (c.withBrx x) = c.tick := rfl
@[simp] theorem Chip.withBrx_free : Chip.free (c.withBrx x) = c.free := rfl
@[simp] theorem Chip.withBrx_again : Chip.again (c.withBrx x) = c.again := rfl
@[simp] theorem Chip.withBrx_out : Chip.out (c.withBrx x) = c.out := rfl
@[simp] theorem Chip.withBrx_dev : Chip.dev (c.withBrx x) = c.dev := rfl
@[simp] theorem Chip.withBrx_hif : Chip.hif (c.withBrx x) = c.hif := rfl
@[simp] theorem Chip.withBrx_pwr : Chip.pwr (c.withBrx x) = c.pwr := rfl
@[simp] theorem Chip.withBrx_fab : Chip.fab (c.withBrx x) = c.fab := rfl
@[simp] theorem Chip.withBrx_mems : Chip.mems (c.withBrx x) = c.mems := rfl
@[simp] theorem Chip.withBrx_integ : Chip.integ (c.withBrx x) = c.integ := rfl
@[simp] theorem Chip.withBrx_sched : Chip.sched (c.withBrx x) = c.sched := rfl
@[simp] theorem Chip.withBrx_clu : Chip.clu (c.withBrx x) = c.clu := rfl
@[simp] theorem Chip.withBrx_plr : Chip.plr (c.withBrx x) = c.plr := rfl
@[simp] theorem Chip.withBrx_ecv : Chip.ecv (c.withBrx x) = c.ecv := rfl
@[simp] theorem Chip.withBrx_ach : Chip.ach (c.withBrx x) = c.ach := rfl
@[simp] theorem Chip.withBrx_cal : Chip.cal (c.withBrx x) = c.cal := rfl
@[simp] theorem Chip.withBrx_trust : Chip.trust (c.withBrx x) = c.trust := rfl
@[simp] theorem Chip.withBrx_brx : Chip.brx (c.withBrx x) = x := rfl
@[simp] theorem Chip.withBrx_ae : Chip.ae (c.withBrx x) = c.ae := rfl
@[simp] theorem Chip.withBrx_code : Chip.code (c.withBrx x) = c.code := rfl
@[simp] theorem Chip.withBrx_eth : Chip.eth (c.withBrx x) = c.eth := rfl
@[simp] theorem Chip.withBrx_time : Chip.time (c.withBrx x) = c.time := rfl
@[simp] theorem Chip.withBrx_sens : Chip.sens (c.withBrx x) = c.sens := rfl
@[simp] theorem Chip.withBrx_port : Chip.port (c.withBrx x) = c.port := rfl
@[simp] theorem Chip.rd_withBrx (f : Fld) (i j : Nat) : (c.withBrx x).rd f i j = c.rd f i j := rfl
@[simp] theorem Chip.flag_withBrx (f : Fld) (i j : Nat) : (c.withBrx x).flag f i j = c.flag f i j := rfl
end

section
variable (x : AeSt)
@[simp] theorem Chip.withAe_regs : Chip.regs (c.withAe x) = c.regs := rfl
@[simp] theorem Chip.withAe_mem : Chip.mem (c.withAe x) = c.mem := rfl
@[simp] theorem Chip.withAe_poison : Chip.poison (c.withAe x) = c.poison := rfl
@[simp] theorem Chip.withAe_upset : Chip.upset (c.withAe x) = c.upset := rfl
@[simp] theorem Chip.withAe_tick : Chip.tick (c.withAe x) = c.tick := rfl
@[simp] theorem Chip.withAe_free : Chip.free (c.withAe x) = c.free := rfl
@[simp] theorem Chip.withAe_again : Chip.again (c.withAe x) = c.again := rfl
@[simp] theorem Chip.withAe_out : Chip.out (c.withAe x) = c.out := rfl
@[simp] theorem Chip.withAe_dev : Chip.dev (c.withAe x) = c.dev := rfl
@[simp] theorem Chip.withAe_hif : Chip.hif (c.withAe x) = c.hif := rfl
@[simp] theorem Chip.withAe_pwr : Chip.pwr (c.withAe x) = c.pwr := rfl
@[simp] theorem Chip.withAe_fab : Chip.fab (c.withAe x) = c.fab := rfl
@[simp] theorem Chip.withAe_mems : Chip.mems (c.withAe x) = c.mems := rfl
@[simp] theorem Chip.withAe_integ : Chip.integ (c.withAe x) = c.integ := rfl
@[simp] theorem Chip.withAe_sched : Chip.sched (c.withAe x) = c.sched := rfl
@[simp] theorem Chip.withAe_clu : Chip.clu (c.withAe x) = c.clu := rfl
@[simp] theorem Chip.withAe_plr : Chip.plr (c.withAe x) = c.plr := rfl
@[simp] theorem Chip.withAe_ecv : Chip.ecv (c.withAe x) = c.ecv := rfl
@[simp] theorem Chip.withAe_ach : Chip.ach (c.withAe x) = c.ach := rfl
@[simp] theorem Chip.withAe_cal : Chip.cal (c.withAe x) = c.cal := rfl
@[simp] theorem Chip.withAe_trust : Chip.trust (c.withAe x) = c.trust := rfl
@[simp] theorem Chip.withAe_brx : Chip.brx (c.withAe x) = c.brx := rfl
@[simp] theorem Chip.withAe_ae : Chip.ae (c.withAe x) = x := rfl
@[simp] theorem Chip.withAe_code : Chip.code (c.withAe x) = c.code := rfl
@[simp] theorem Chip.withAe_eth : Chip.eth (c.withAe x) = c.eth := rfl
@[simp] theorem Chip.withAe_time : Chip.time (c.withAe x) = c.time := rfl
@[simp] theorem Chip.withAe_sens : Chip.sens (c.withAe x) = c.sens := rfl
@[simp] theorem Chip.withAe_port : Chip.port (c.withAe x) = c.port := rfl
@[simp] theorem Chip.rd_withAe (f : Fld) (i j : Nat) : (c.withAe x).rd f i j = c.rd f i j := rfl
@[simp] theorem Chip.flag_withAe (f : Fld) (i j : Nat) : (c.withAe x).flag f i j = c.flag f i j := rfl
end

section
variable (x : CodeSt)
@[simp] theorem Chip.withCode_regs : Chip.regs (c.withCode x) = c.regs := rfl
@[simp] theorem Chip.withCode_mem : Chip.mem (c.withCode x) = c.mem := rfl
@[simp] theorem Chip.withCode_poison : Chip.poison (c.withCode x) = c.poison := rfl
@[simp] theorem Chip.withCode_upset : Chip.upset (c.withCode x) = c.upset := rfl
@[simp] theorem Chip.withCode_tick : Chip.tick (c.withCode x) = c.tick := rfl
@[simp] theorem Chip.withCode_free : Chip.free (c.withCode x) = c.free := rfl
@[simp] theorem Chip.withCode_again : Chip.again (c.withCode x) = c.again := rfl
@[simp] theorem Chip.withCode_out : Chip.out (c.withCode x) = c.out := rfl
@[simp] theorem Chip.withCode_dev : Chip.dev (c.withCode x) = c.dev := rfl
@[simp] theorem Chip.withCode_hif : Chip.hif (c.withCode x) = c.hif := rfl
@[simp] theorem Chip.withCode_pwr : Chip.pwr (c.withCode x) = c.pwr := rfl
@[simp] theorem Chip.withCode_fab : Chip.fab (c.withCode x) = c.fab := rfl
@[simp] theorem Chip.withCode_mems : Chip.mems (c.withCode x) = c.mems := rfl
@[simp] theorem Chip.withCode_integ : Chip.integ (c.withCode x) = c.integ := rfl
@[simp] theorem Chip.withCode_sched : Chip.sched (c.withCode x) = c.sched := rfl
@[simp] theorem Chip.withCode_clu : Chip.clu (c.withCode x) = c.clu := rfl
@[simp] theorem Chip.withCode_plr : Chip.plr (c.withCode x) = c.plr := rfl
@[simp] theorem Chip.withCode_ecv : Chip.ecv (c.withCode x) = c.ecv := rfl
@[simp] theorem Chip.withCode_ach : Chip.ach (c.withCode x) = c.ach := rfl
@[simp] theorem Chip.withCode_cal : Chip.cal (c.withCode x) = c.cal := rfl
@[simp] theorem Chip.withCode_trust : Chip.trust (c.withCode x) = c.trust := rfl
@[simp] theorem Chip.withCode_brx : Chip.brx (c.withCode x) = c.brx := rfl
@[simp] theorem Chip.withCode_ae : Chip.ae (c.withCode x) = c.ae := rfl
@[simp] theorem Chip.withCode_code : Chip.code (c.withCode x) = x := rfl
@[simp] theorem Chip.withCode_eth : Chip.eth (c.withCode x) = c.eth := rfl
@[simp] theorem Chip.withCode_time : Chip.time (c.withCode x) = c.time := rfl
@[simp] theorem Chip.withCode_sens : Chip.sens (c.withCode x) = c.sens := rfl
@[simp] theorem Chip.withCode_port : Chip.port (c.withCode x) = c.port := rfl
@[simp] theorem Chip.rd_withCode (f : Fld) (i j : Nat) : (c.withCode x).rd f i j = c.rd f i j := rfl
@[simp] theorem Chip.flag_withCode (f : Fld) (i j : Nat) : (c.withCode x).flag f i j = c.flag f i j := rfl
end

section
variable (x : EthSt)
@[simp] theorem Chip.withEth_regs : Chip.regs (c.withEth x) = c.regs := rfl
@[simp] theorem Chip.withEth_mem : Chip.mem (c.withEth x) = c.mem := rfl
@[simp] theorem Chip.withEth_poison : Chip.poison (c.withEth x) = c.poison := rfl
@[simp] theorem Chip.withEth_upset : Chip.upset (c.withEth x) = c.upset := rfl
@[simp] theorem Chip.withEth_tick : Chip.tick (c.withEth x) = c.tick := rfl
@[simp] theorem Chip.withEth_free : Chip.free (c.withEth x) = c.free := rfl
@[simp] theorem Chip.withEth_again : Chip.again (c.withEth x) = c.again := rfl
@[simp] theorem Chip.withEth_out : Chip.out (c.withEth x) = c.out := rfl
@[simp] theorem Chip.withEth_dev : Chip.dev (c.withEth x) = c.dev := rfl
@[simp] theorem Chip.withEth_hif : Chip.hif (c.withEth x) = c.hif := rfl
@[simp] theorem Chip.withEth_pwr : Chip.pwr (c.withEth x) = c.pwr := rfl
@[simp] theorem Chip.withEth_fab : Chip.fab (c.withEth x) = c.fab := rfl
@[simp] theorem Chip.withEth_mems : Chip.mems (c.withEth x) = c.mems := rfl
@[simp] theorem Chip.withEth_integ : Chip.integ (c.withEth x) = c.integ := rfl
@[simp] theorem Chip.withEth_sched : Chip.sched (c.withEth x) = c.sched := rfl
@[simp] theorem Chip.withEth_clu : Chip.clu (c.withEth x) = c.clu := rfl
@[simp] theorem Chip.withEth_plr : Chip.plr (c.withEth x) = c.plr := rfl
@[simp] theorem Chip.withEth_ecv : Chip.ecv (c.withEth x) = c.ecv := rfl
@[simp] theorem Chip.withEth_ach : Chip.ach (c.withEth x) = c.ach := rfl
@[simp] theorem Chip.withEth_cal : Chip.cal (c.withEth x) = c.cal := rfl
@[simp] theorem Chip.withEth_trust : Chip.trust (c.withEth x) = c.trust := rfl
@[simp] theorem Chip.withEth_brx : Chip.brx (c.withEth x) = c.brx := rfl
@[simp] theorem Chip.withEth_ae : Chip.ae (c.withEth x) = c.ae := rfl
@[simp] theorem Chip.withEth_code : Chip.code (c.withEth x) = c.code := rfl
@[simp] theorem Chip.withEth_eth : Chip.eth (c.withEth x) = x := rfl
@[simp] theorem Chip.withEth_time : Chip.time (c.withEth x) = c.time := rfl
@[simp] theorem Chip.withEth_sens : Chip.sens (c.withEth x) = c.sens := rfl
@[simp] theorem Chip.withEth_port : Chip.port (c.withEth x) = c.port := rfl
@[simp] theorem Chip.rd_withEth (f : Fld) (i j : Nat) : (c.withEth x).rd f i j = c.rd f i j := rfl
@[simp] theorem Chip.flag_withEth (f : Fld) (i j : Nat) : (c.withEth x).flag f i j = c.flag f i j := rfl
end

section
variable (x : TimeSt)
@[simp] theorem Chip.withTime_regs : Chip.regs (c.withTime x) = c.regs := rfl
@[simp] theorem Chip.withTime_mem : Chip.mem (c.withTime x) = c.mem := rfl
@[simp] theorem Chip.withTime_poison : Chip.poison (c.withTime x) = c.poison := rfl
@[simp] theorem Chip.withTime_upset : Chip.upset (c.withTime x) = c.upset := rfl
@[simp] theorem Chip.withTime_tick : Chip.tick (c.withTime x) = c.tick := rfl
@[simp] theorem Chip.withTime_free : Chip.free (c.withTime x) = c.free := rfl
@[simp] theorem Chip.withTime_again : Chip.again (c.withTime x) = c.again := rfl
@[simp] theorem Chip.withTime_out : Chip.out (c.withTime x) = c.out := rfl
@[simp] theorem Chip.withTime_dev : Chip.dev (c.withTime x) = c.dev := rfl
@[simp] theorem Chip.withTime_hif : Chip.hif (c.withTime x) = c.hif := rfl
@[simp] theorem Chip.withTime_pwr : Chip.pwr (c.withTime x) = c.pwr := rfl
@[simp] theorem Chip.withTime_fab : Chip.fab (c.withTime x) = c.fab := rfl
@[simp] theorem Chip.withTime_mems : Chip.mems (c.withTime x) = c.mems := rfl
@[simp] theorem Chip.withTime_integ : Chip.integ (c.withTime x) = c.integ := rfl
@[simp] theorem Chip.withTime_sched : Chip.sched (c.withTime x) = c.sched := rfl
@[simp] theorem Chip.withTime_clu : Chip.clu (c.withTime x) = c.clu := rfl
@[simp] theorem Chip.withTime_plr : Chip.plr (c.withTime x) = c.plr := rfl
@[simp] theorem Chip.withTime_ecv : Chip.ecv (c.withTime x) = c.ecv := rfl
@[simp] theorem Chip.withTime_ach : Chip.ach (c.withTime x) = c.ach := rfl
@[simp] theorem Chip.withTime_cal : Chip.cal (c.withTime x) = c.cal := rfl
@[simp] theorem Chip.withTime_trust : Chip.trust (c.withTime x) = c.trust := rfl
@[simp] theorem Chip.withTime_brx : Chip.brx (c.withTime x) = c.brx := rfl
@[simp] theorem Chip.withTime_ae : Chip.ae (c.withTime x) = c.ae := rfl
@[simp] theorem Chip.withTime_code : Chip.code (c.withTime x) = c.code := rfl
@[simp] theorem Chip.withTime_eth : Chip.eth (c.withTime x) = c.eth := rfl
@[simp] theorem Chip.withTime_time : Chip.time (c.withTime x) = x := rfl
@[simp] theorem Chip.withTime_sens : Chip.sens (c.withTime x) = c.sens := rfl
@[simp] theorem Chip.withTime_port : Chip.port (c.withTime x) = c.port := rfl
@[simp] theorem Chip.rd_withTime (f : Fld) (i j : Nat) : (c.withTime x).rd f i j = c.rd f i j := rfl
@[simp] theorem Chip.flag_withTime (f : Fld) (i j : Nat) : (c.withTime x).flag f i j = c.flag f i j := rfl
end

section
variable (x : SensSt)
@[simp] theorem Chip.withSens_regs : Chip.regs (c.withSens x) = c.regs := rfl
@[simp] theorem Chip.withSens_mem : Chip.mem (c.withSens x) = c.mem := rfl
@[simp] theorem Chip.withSens_poison : Chip.poison (c.withSens x) = c.poison := rfl
@[simp] theorem Chip.withSens_upset : Chip.upset (c.withSens x) = c.upset := rfl
@[simp] theorem Chip.withSens_tick : Chip.tick (c.withSens x) = c.tick := rfl
@[simp] theorem Chip.withSens_free : Chip.free (c.withSens x) = c.free := rfl
@[simp] theorem Chip.withSens_again : Chip.again (c.withSens x) = c.again := rfl
@[simp] theorem Chip.withSens_out : Chip.out (c.withSens x) = c.out := rfl
@[simp] theorem Chip.withSens_dev : Chip.dev (c.withSens x) = c.dev := rfl
@[simp] theorem Chip.withSens_hif : Chip.hif (c.withSens x) = c.hif := rfl
@[simp] theorem Chip.withSens_pwr : Chip.pwr (c.withSens x) = c.pwr := rfl
@[simp] theorem Chip.withSens_fab : Chip.fab (c.withSens x) = c.fab := rfl
@[simp] theorem Chip.withSens_mems : Chip.mems (c.withSens x) = c.mems := rfl
@[simp] theorem Chip.withSens_integ : Chip.integ (c.withSens x) = c.integ := rfl
@[simp] theorem Chip.withSens_sched : Chip.sched (c.withSens x) = c.sched := rfl
@[simp] theorem Chip.withSens_clu : Chip.clu (c.withSens x) = c.clu := rfl
@[simp] theorem Chip.withSens_plr : Chip.plr (c.withSens x) = c.plr := rfl
@[simp] theorem Chip.withSens_ecv : Chip.ecv (c.withSens x) = c.ecv := rfl
@[simp] theorem Chip.withSens_ach : Chip.ach (c.withSens x) = c.ach := rfl
@[simp] theorem Chip.withSens_cal : Chip.cal (c.withSens x) = c.cal := rfl
@[simp] theorem Chip.withSens_trust : Chip.trust (c.withSens x) = c.trust := rfl
@[simp] theorem Chip.withSens_brx : Chip.brx (c.withSens x) = c.brx := rfl
@[simp] theorem Chip.withSens_ae : Chip.ae (c.withSens x) = c.ae := rfl
@[simp] theorem Chip.withSens_code : Chip.code (c.withSens x) = c.code := rfl
@[simp] theorem Chip.withSens_eth : Chip.eth (c.withSens x) = c.eth := rfl
@[simp] theorem Chip.withSens_time : Chip.time (c.withSens x) = c.time := rfl
@[simp] theorem Chip.withSens_sens : Chip.sens (c.withSens x) = x := rfl
@[simp] theorem Chip.withSens_port : Chip.port (c.withSens x) = c.port := rfl
@[simp] theorem Chip.rd_withSens (f : Fld) (i j : Nat) : (c.withSens x).rd f i j = c.rd f i j := rfl
@[simp] theorem Chip.flag_withSens (f : Fld) (i j : Nat) : (c.withSens x).flag f i j = c.flag f i j := rfl
end

section
variable (x : PortSt)
@[simp] theorem Chip.withPort_regs : Chip.regs (c.withPort x) = c.regs := rfl
@[simp] theorem Chip.withPort_mem : Chip.mem (c.withPort x) = c.mem := rfl
@[simp] theorem Chip.withPort_poison : Chip.poison (c.withPort x) = c.poison := rfl
@[simp] theorem Chip.withPort_upset : Chip.upset (c.withPort x) = c.upset := rfl
@[simp] theorem Chip.withPort_tick : Chip.tick (c.withPort x) = c.tick := rfl
@[simp] theorem Chip.withPort_free : Chip.free (c.withPort x) = c.free := rfl
@[simp] theorem Chip.withPort_again : Chip.again (c.withPort x) = c.again := rfl
@[simp] theorem Chip.withPort_out : Chip.out (c.withPort x) = c.out := rfl
@[simp] theorem Chip.withPort_dev : Chip.dev (c.withPort x) = c.dev := rfl
@[simp] theorem Chip.withPort_hif : Chip.hif (c.withPort x) = c.hif := rfl
@[simp] theorem Chip.withPort_pwr : Chip.pwr (c.withPort x) = c.pwr := rfl
@[simp] theorem Chip.withPort_fab : Chip.fab (c.withPort x) = c.fab := rfl
@[simp] theorem Chip.withPort_mems : Chip.mems (c.withPort x) = c.mems := rfl
@[simp] theorem Chip.withPort_integ : Chip.integ (c.withPort x) = c.integ := rfl
@[simp] theorem Chip.withPort_sched : Chip.sched (c.withPort x) = c.sched := rfl
@[simp] theorem Chip.withPort_clu : Chip.clu (c.withPort x) = c.clu := rfl
@[simp] theorem Chip.withPort_plr : Chip.plr (c.withPort x) = c.plr := rfl
@[simp] theorem Chip.withPort_ecv : Chip.ecv (c.withPort x) = c.ecv := rfl
@[simp] theorem Chip.withPort_ach : Chip.ach (c.withPort x) = c.ach := rfl
@[simp] theorem Chip.withPort_cal : Chip.cal (c.withPort x) = c.cal := rfl
@[simp] theorem Chip.withPort_trust : Chip.trust (c.withPort x) = c.trust := rfl
@[simp] theorem Chip.withPort_brx : Chip.brx (c.withPort x) = c.brx := rfl
@[simp] theorem Chip.withPort_ae : Chip.ae (c.withPort x) = c.ae := rfl
@[simp] theorem Chip.withPort_code : Chip.code (c.withPort x) = c.code := rfl
@[simp] theorem Chip.withPort_eth : Chip.eth (c.withPort x) = c.eth := rfl
@[simp] theorem Chip.withPort_time : Chip.time (c.withPort x) = c.time := rfl
@[simp] theorem Chip.withPort_sens : Chip.sens (c.withPort x) = c.sens := rfl
@[simp] theorem Chip.withPort_port : Chip.port (c.withPort x) = x := rfl
@[simp] theorem Chip.rd_withPort (f : Fld) (i j : Nat) : (c.withPort x).rd f i j = c.rd f i j := rfl
@[simp] theorem Chip.flag_withPort (f : Fld) (i j : Nat) : (c.withPort x).flag f i j = c.flag f i j := rfl
end

/-! ## Basic updates -/

section
variable (f : Fld) (v i j : Nat)
@[simp] theorem Chip.wr_mem : Chip.mem (c.wr f v i j) = c.mem := rfl
@[simp] theorem Chip.wr_poison : Chip.poison (c.wr f v i j) = c.poison := rfl
@[simp] theorem Chip.wr_upset : Chip.upset (c.wr f v i j) = c.upset := rfl
@[simp] theorem Chip.wr_tick : Chip.tick (c.wr f v i j) = c.tick := rfl
@[simp] theorem Chip.wr_free : Chip.free (c.wr f v i j) = c.free := rfl
@[simp] theorem Chip.wr_again : Chip.again (c.wr f v i j) = c.again := rfl
@[simp] theorem Chip.wr_out : Chip.out (c.wr f v i j) = c.out := rfl
@[simp] theorem Chip.wr_dev : Chip.dev (c.wr f v i j) = c.dev := rfl
@[simp] theorem Chip.wr_hif : Chip.hif (c.wr f v i j) = c.hif := rfl
@[simp] theorem Chip.wr_pwr : Chip.pwr (c.wr f v i j) = c.pwr := rfl
@[simp] theorem Chip.wr_fab : Chip.fab (c.wr f v i j) = c.fab := rfl
@[simp] theorem Chip.wr_mems : Chip.mems (c.wr f v i j) = c.mems := rfl
@[simp] theorem Chip.wr_integ : Chip.integ (c.wr f v i j) = c.integ := rfl
@[simp] theorem Chip.wr_sched : Chip.sched (c.wr f v i j) = c.sched := rfl
@[simp] theorem Chip.wr_clu : Chip.clu (c.wr f v i j) = c.clu := rfl
@[simp] theorem Chip.wr_plr : Chip.plr (c.wr f v i j) = c.plr := rfl
@[simp] theorem Chip.wr_ecv : Chip.ecv (c.wr f v i j) = c.ecv := rfl
@[simp] theorem Chip.wr_ach : Chip.ach (c.wr f v i j) = c.ach := rfl
@[simp] theorem Chip.wr_cal : Chip.cal (c.wr f v i j) = c.cal := rfl
@[simp] theorem Chip.wr_trust : Chip.trust (c.wr f v i j) = c.trust := rfl
@[simp] theorem Chip.wr_brx : Chip.brx (c.wr f v i j) = c.brx := rfl
@[simp] theorem Chip.wr_ae : Chip.ae (c.wr f v i j) = c.ae := rfl
@[simp] theorem Chip.wr_code : Chip.code (c.wr f v i j) = c.code := rfl
@[simp] theorem Chip.wr_eth : Chip.eth (c.wr f v i j) = c.eth := rfl
@[simp] theorem Chip.wr_time : Chip.time (c.wr f v i j) = c.time := rfl
@[simp] theorem Chip.wr_sens : Chip.sens (c.wr f v i j) = c.sens := rfl
@[simp] theorem Chip.wr_port : Chip.port (c.wr f v i j) = c.port := rfl
end

section
variable (f : Fld) (b : Bool) (i j : Nat)
@[simp] theorem Chip.setFlag_mem : Chip.mem (c.setFlag f b i j) = c.mem := rfl
@[simp] theorem Chip.setFlag_poison : Chip.poison (c.setFlag f b i j) = c.poison := rfl
@[simp] theorem Chip.setFlag_upset : Chip.upset (c.setFlag f b i j) = c.upset := rfl
@[simp] theorem Chip.setFlag_tick : Chip.tick (c.setFlag f b i j) = c.tick := rfl
@[simp] theorem Chip.setFlag_free : Chip.free (c.setFlag f b i j) = c.free := rfl
@[simp] theorem Chip.setFlag_again : Chip.again (c.setFlag f b i j) = c.again := rfl
@[simp] theorem Chip.setFlag_out : Chip.out (c.setFlag f b i j) = c.out := rfl
@[simp] theorem Chip.setFlag_dev : Chip.dev (c.setFlag f b i j) = c.dev := rfl
@[simp] theorem Chip.setFlag_hif : Chip.hif (c.setFlag f b i j) = c.hif := rfl
@[simp] theorem Chip.setFlag_pwr : Chip.pwr (c.setFlag f b i j) = c.pwr := rfl
@[simp] theorem Chip.setFlag_fab : Chip.fab (c.setFlag f b i j) = c.fab := rfl
@[simp] theorem Chip.setFlag_mems : Chip.mems (c.setFlag f b i j) = c.mems := rfl
@[simp] theorem Chip.setFlag_integ : Chip.integ (c.setFlag f b i j) = c.integ := rfl
@[simp] theorem Chip.setFlag_sched : Chip.sched (c.setFlag f b i j) = c.sched := rfl
@[simp] theorem Chip.setFlag_clu : Chip.clu (c.setFlag f b i j) = c.clu := rfl
@[simp] theorem Chip.setFlag_plr : Chip.plr (c.setFlag f b i j) = c.plr := rfl
@[simp] theorem Chip.setFlag_ecv : Chip.ecv (c.setFlag f b i j) = c.ecv := rfl
@[simp] theorem Chip.setFlag_ach : Chip.ach (c.setFlag f b i j) = c.ach := rfl
@[simp] theorem Chip.setFlag_cal : Chip.cal (c.setFlag f b i j) = c.cal := rfl
@[simp] theorem Chip.setFlag_trust : Chip.trust (c.setFlag f b i j) = c.trust := rfl
@[simp] theorem Chip.setFlag_brx : Chip.brx (c.setFlag f b i j) = c.brx := rfl
@[simp] theorem Chip.setFlag_ae : Chip.ae (c.setFlag f b i j) = c.ae := rfl
@[simp] theorem Chip.setFlag_code : Chip.code (c.setFlag f b i j) = c.code := rfl
@[simp] theorem Chip.setFlag_eth : Chip.eth (c.setFlag f b i j) = c.eth := rfl
@[simp] theorem Chip.setFlag_time : Chip.time (c.setFlag f b i j) = c.time := rfl
@[simp] theorem Chip.setFlag_sens : Chip.sens (c.setFlag f b i j) = c.sens := rfl
@[simp] theorem Chip.setFlag_port : Chip.port (c.setFlag f b i j) = c.port := rfl
end

section
variable (f : Fld) (i j n : Nat)
@[simp] theorem Chip.incSat_mem : Chip.mem (c.incSat f i j n) = c.mem := rfl
@[simp] theorem Chip.incSat_poison : Chip.poison (c.incSat f i j n) = c.poison := rfl
@[simp] theorem Chip.incSat_upset : Chip.upset (c.incSat f i j n) = c.upset := rfl
@[simp] theorem Chip.incSat_tick : Chip.tick (c.incSat f i j n) = c.tick := rfl
@[simp] theorem Chip.incSat_free : Chip.free (c.incSat f i j n) = c.free := rfl
@[simp] theorem Chip.incSat_again : Chip.again (c.incSat f i j n) = c.again := rfl
@[simp] theorem Chip.incSat_out : Chip.out (c.incSat f i j n) = c.out := rfl
@[simp] theorem Chip.incSat_dev : Chip.dev (c.incSat f i j n) = c.dev := rfl
@[simp] theorem Chip.incSat_hif : Chip.hif (c.incSat f i j n) = c.hif := rfl
@[simp] theorem Chip.incSat_pwr : Chip.pwr (c.incSat f i j n) = c.pwr := rfl
@[simp] theorem Chip.incSat_fab : Chip.fab (c.incSat f i j n) = c.fab := rfl
@[simp] theorem Chip.incSat_mems : Chip.mems (c.incSat f i j n) = c.mems := rfl
@[simp] theorem Chip.incSat_integ : Chip.integ (c.incSat f i j n) = c.integ := rfl
@[simp] theorem Chip.incSat_sched : Chip.sched (c.incSat f i j n) = c.sched := rfl
@[simp] theorem Chip.incSat_clu : Chip.clu (c.incSat f i j n) = c.clu := rfl
@[simp] theorem Chip.incSat_plr : Chip.plr (c.incSat f i j n) = c.plr := rfl
@[simp] theorem Chip.incSat_ecv : Chip.ecv (c.incSat f i j n) = c.ecv := rfl
@[simp] theorem Chip.incSat_ach : Chip.ach (c.incSat f i j n) = c.ach := rfl
@[simp] theorem Chip.incSat_cal : Chip.cal (c.incSat f i j n) = c.cal := rfl
@[simp] theorem Chip.incSat_trust : Chip.trust (c.incSat f i j n) = c.trust := rfl
@[simp] theorem Chip.incSat_brx : Chip.brx (c.incSat f i j n) = c.brx := rfl
@[simp] theorem Chip.incSat_ae : Chip.ae (c.incSat f i j n) = c.ae := rfl
@[simp] theorem Chip.incSat_code : Chip.code (c.incSat f i j n) = c.code := rfl
@[simp] theorem Chip.incSat_eth : Chip.eth (c.incSat f i j n) = c.eth := rfl
@[simp] theorem Chip.incSat_time : Chip.time (c.incSat f i j n) = c.time := rfl
@[simp] theorem Chip.incSat_sens : Chip.sens (c.incSat f i j n) = c.sens := rfl
@[simp] theorem Chip.incSat_port : Chip.port (c.incSat f i j n) = c.port := rfl
end

section
variable (f : Fld) (i j n : Nat)
@[simp] theorem Chip.incMod_mem : Chip.mem (c.incMod f i j n) = c.mem := rfl
@[simp] theorem Chip.incMod_poison : Chip.poison (c.incMod f i j n) = c.poison := rfl
@[simp] theorem Chip.incMod_upset : Chip.upset (c.incMod f i j n) = c.upset := rfl
@[simp] theorem Chip.incMod_tick : Chip.tick (c.incMod f i j n) = c.tick := rfl
@[simp] theorem Chip.incMod_free : Chip.free (c.incMod f i j n) = c.free := rfl
@[simp] theorem Chip.incMod_again : Chip.again (c.incMod f i j n) = c.again := rfl
@[simp] theorem Chip.incMod_out : Chip.out (c.incMod f i j n) = c.out := rfl
@[simp] theorem Chip.incMod_dev : Chip.dev (c.incMod f i j n) = c.dev := rfl
@[simp] theorem Chip.incMod_hif : Chip.hif (c.incMod f i j n) = c.hif := rfl
@[simp] theorem Chip.incMod_pwr : Chip.pwr (c.incMod f i j n) = c.pwr := rfl
@[simp] theorem Chip.incMod_fab : Chip.fab (c.incMod f i j n) = c.fab := rfl
@[simp] theorem Chip.incMod_mems : Chip.mems (c.incMod f i j n) = c.mems := rfl
@[simp] theorem Chip.incMod_integ : Chip.integ (c.incMod f i j n) = c.integ := rfl
@[simp] theorem Chip.incMod_sched : Chip.sched (c.incMod f i j n) = c.sched := rfl
@[simp] theorem Chip.incMod_clu : Chip.clu (c.incMod f i j n) = c.clu := rfl
@[simp] theorem Chip.incMod_plr : Chip.plr (c.incMod f i j n) = c.plr := rfl
@[simp] theorem Chip.incMod_ecv : Chip.ecv (c.incMod f i j n) = c.ecv := rfl
@[simp] theorem Chip.incMod_ach : Chip.ach (c.incMod f i j n) = c.ach := rfl
@[simp] theorem Chip.incMod_cal : Chip.cal (c.incMod f i j n) = c.cal := rfl
@[simp] theorem Chip.incMod_trust : Chip.trust (c.incMod f i j n) = c.trust := rfl
@[simp] theorem Chip.incMod_brx : Chip.brx (c.incMod f i j n) = c.brx := rfl
@[simp] theorem Chip.incMod_ae : Chip.ae (c.incMod f i j n) = c.ae := rfl
@[simp] theorem Chip.incMod_code : Chip.code (c.incMod f i j n) = c.code := rfl
@[simp] theorem Chip.incMod_eth : Chip.eth (c.incMod f i j n) = c.eth := rfl
@[simp] theorem Chip.incMod_time : Chip.time (c.incMod f i j n) = c.time := rfl
@[simp] theorem Chip.incMod_sens : Chip.sens (c.incMod f i j n) = c.sens := rfl
@[simp] theorem Chip.incMod_port : Chip.port (c.incMod f i j n) = c.port := rfl
end

section
variable (o : Out)
@[simp] theorem Chip.emit_regs : Chip.regs (c.emit o) = c.regs := rfl
@[simp] theorem Chip.emit_mem : Chip.mem (c.emit o) = c.mem := rfl
@[simp] theorem Chip.emit_poison : Chip.poison (c.emit o) = c.poison := rfl
@[simp] theorem Chip.emit_upset : Chip.upset (c.emit o) = c.upset := rfl
@[simp] theorem Chip.emit_tick : Chip.tick (c.emit o) = c.tick := rfl
@[simp] theorem Chip.emit_free : Chip.free (c.emit o) = c.free := rfl
@[simp] theorem Chip.emit_again : Chip.again (c.emit o) = c.again := rfl
@[simp] theorem Chip.emit_dev : Chip.dev (c.emit o) = c.dev := rfl
@[simp] theorem Chip.emit_hif : Chip.hif (c.emit o) = c.hif := rfl
@[simp] theorem Chip.emit_pwr : Chip.pwr (c.emit o) = c.pwr := rfl
@[simp] theorem Chip.emit_fab : Chip.fab (c.emit o) = c.fab := rfl
@[simp] theorem Chip.emit_mems : Chip.mems (c.emit o) = c.mems := rfl
@[simp] theorem Chip.emit_integ : Chip.integ (c.emit o) = c.integ := rfl
@[simp] theorem Chip.emit_sched : Chip.sched (c.emit o) = c.sched := rfl
@[simp] theorem Chip.emit_clu : Chip.clu (c.emit o) = c.clu := rfl
@[simp] theorem Chip.emit_plr : Chip.plr (c.emit o) = c.plr := rfl
@[simp] theorem Chip.emit_ecv : Chip.ecv (c.emit o) = c.ecv := rfl
@[simp] theorem Chip.emit_ach : Chip.ach (c.emit o) = c.ach := rfl
@[simp] theorem Chip.emit_cal : Chip.cal (c.emit o) = c.cal := rfl
@[simp] theorem Chip.emit_trust : Chip.trust (c.emit o) = c.trust := rfl
@[simp] theorem Chip.emit_brx : Chip.brx (c.emit o) = c.brx := rfl
@[simp] theorem Chip.emit_ae : Chip.ae (c.emit o) = c.ae := rfl
@[simp] theorem Chip.emit_code : Chip.code (c.emit o) = c.code := rfl
@[simp] theorem Chip.emit_eth : Chip.eth (c.emit o) = c.eth := rfl
@[simp] theorem Chip.emit_time : Chip.time (c.emit o) = c.time := rfl
@[simp] theorem Chip.emit_sens : Chip.sens (c.emit o) = c.sens := rfl
@[simp] theorem Chip.emit_port : Chip.port (c.emit o) = c.port := rfl
@[simp] theorem Chip.emit_out : Chip.out (c.emit o) = c.out ++ [o] := rfl
end

section
variable (p : Port) (st : Status)
/-- What a report to a requester writes: outputs, and for the management port its last status. -/
theorem Chip.report_only : ∃ o q, c.report p st = (c.withOut o).withPort q :=
  ⟨(c.report p st).out, (c.report p st).port, by unfold Chip.report; split <;> cases p <;> rfl⟩

@[simp] theorem Chip.report_regs : Chip.regs (c.report p st) = c.regs := by obtain ⟨_, _, e⟩ := c.report_only p st; rw [e]; rfl
@[simp] theorem Chip.report_mem : Chip.mem (c.report p st) = c.mem := by obtain ⟨_, _, e⟩ := c.report_only p st; rw [e]; rfl
@[simp] theorem Chip.report_poison : Chip.poison (c.report p st) = c.poison := by obtain ⟨_, _, e⟩ := c.report_only p st; rw [e]; rfl
@[simp] theorem Chip.report_upset : Chip.upset (c.report p st) = c.upset := by obtain ⟨_, _, e⟩ := c.report_only p st; rw [e]; rfl
@[simp] theorem Chip.report_tick : Chip.tick (c.report p st) = c.tick := by obtain ⟨_, _, e⟩ := c.report_only p st; rw [e]; rfl
@[simp] theorem Chip.report_free : Chip.free (c.report p st) = c.free := by obtain ⟨_, _, e⟩ := c.report_only p st; rw [e]; rfl
@[simp] theorem Chip.report_again : Chip.again (c.report p st) = c.again := by obtain ⟨_, _, e⟩ := c.report_only p st; rw [e]; rfl
@[simp] theorem Chip.report_dev : Chip.dev (c.report p st) = c.dev := by obtain ⟨_, _, e⟩ := c.report_only p st; rw [e]; rfl
@[simp] theorem Chip.report_hif : Chip.hif (c.report p st) = c.hif := by obtain ⟨_, _, e⟩ := c.report_only p st; rw [e]; rfl
@[simp] theorem Chip.report_pwr : Chip.pwr (c.report p st) = c.pwr := by obtain ⟨_, _, e⟩ := c.report_only p st; rw [e]; rfl
@[simp] theorem Chip.report_fab : Chip.fab (c.report p st) = c.fab := by obtain ⟨_, _, e⟩ := c.report_only p st; rw [e]; rfl
@[simp] theorem Chip.report_mems : Chip.mems (c.report p st) = c.mems := by obtain ⟨_, _, e⟩ := c.report_only p st; rw [e]; rfl
@[simp] theorem Chip.report_integ : Chip.integ (c.report p st) = c.integ := by obtain ⟨_, _, e⟩ := c.report_only p st; rw [e]; rfl
@[simp] theorem Chip.report_sched : Chip.sched (c.report p st) = c.sched := by obtain ⟨_, _, e⟩ := c.report_only p st; rw [e]; rfl
@[simp] theorem Chip.report_clu : Chip.clu (c.report p st) = c.clu := by obtain ⟨_, _, e⟩ := c.report_only p st; rw [e]; rfl
@[simp] theorem Chip.report_plr : Chip.plr (c.report p st) = c.plr := by obtain ⟨_, _, e⟩ := c.report_only p st; rw [e]; rfl
@[simp] theorem Chip.report_ecv : Chip.ecv (c.report p st) = c.ecv := by obtain ⟨_, _, e⟩ := c.report_only p st; rw [e]; rfl
@[simp] theorem Chip.report_ach : Chip.ach (c.report p st) = c.ach := by obtain ⟨_, _, e⟩ := c.report_only p st; rw [e]; rfl
@[simp] theorem Chip.report_cal : Chip.cal (c.report p st) = c.cal := by obtain ⟨_, _, e⟩ := c.report_only p st; rw [e]; rfl
@[simp] theorem Chip.report_trust : Chip.trust (c.report p st) = c.trust := by obtain ⟨_, _, e⟩ := c.report_only p st; rw [e]; rfl
@[simp] theorem Chip.report_brx : Chip.brx (c.report p st) = c.brx := by obtain ⟨_, _, e⟩ := c.report_only p st; rw [e]; rfl
@[simp] theorem Chip.report_ae : Chip.ae (c.report p st) = c.ae := by obtain ⟨_, _, e⟩ := c.report_only p st; rw [e]; rfl
@[simp] theorem Chip.report_code : Chip.code (c.report p st) = c.code := by obtain ⟨_, _, e⟩ := c.report_only p st; rw [e]; rfl
@[simp] theorem Chip.report_eth : Chip.eth (c.report p st) = c.eth := by obtain ⟨_, _, e⟩ := c.report_only p st; rw [e]; rfl
@[simp] theorem Chip.report_time : Chip.time (c.report p st) = c.time := by obtain ⟨_, _, e⟩ := c.report_only p st; rw [e]; rfl
@[simp] theorem Chip.report_sens : Chip.sens (c.report p st) = c.sens := by obtain ⟨_, _, e⟩ := c.report_only p st; rw [e]; rfl
@[simp] theorem Chip.report_out : (c.report p st).out =
    c.out ++ [if c.hostShut p then .tlp "posted write dropped" else .access p st] := by
  unfold Chip.report; split <;> simp_all <;> cases p <;> rfl
end

/-! ## ALERT_N -/

/-- What bringing ALERT_N up to date writes. -/
theorem Chip.showAlert_only : ∃ d o, c.showAlert = (c.withDev d).withOut o :=
  ⟨c.showAlert.dev, c.showAlert.out, by unfold Chip.showAlert; split <;> rfl⟩

@[simp] theorem Chip.showAlert_regs : Chip.regs c.showAlert = c.regs := by obtain ⟨_, _, e⟩ := c.showAlert_only; rw [e]; rfl
@[simp] theorem Chip.showAlert_mem : Chip.mem c.showAlert = c.mem := by obtain ⟨_, _, e⟩ := c.showAlert_only; rw [e]; rfl
@[simp] theorem Chip.showAlert_poison : Chip.poison c.showAlert = c.poison := by obtain ⟨_, _, e⟩ := c.showAlert_only; rw [e]; rfl
@[simp] theorem Chip.showAlert_upset : Chip.upset c.showAlert = c.upset := by obtain ⟨_, _, e⟩ := c.showAlert_only; rw [e]; rfl
@[simp] theorem Chip.showAlert_tick : Chip.tick c.showAlert = c.tick := by obtain ⟨_, _, e⟩ := c.showAlert_only; rw [e]; rfl
@[simp] theorem Chip.showAlert_free : Chip.free c.showAlert = c.free := by obtain ⟨_, _, e⟩ := c.showAlert_only; rw [e]; rfl
@[simp] theorem Chip.showAlert_again : Chip.again c.showAlert = c.again := by obtain ⟨_, _, e⟩ := c.showAlert_only; rw [e]; rfl
@[simp] theorem Chip.showAlert_hif : Chip.hif c.showAlert = c.hif := by obtain ⟨_, _, e⟩ := c.showAlert_only; rw [e]; rfl
@[simp] theorem Chip.showAlert_pwr : Chip.pwr c.showAlert = c.pwr := by obtain ⟨_, _, e⟩ := c.showAlert_only; rw [e]; rfl
@[simp] theorem Chip.showAlert_fab : Chip.fab c.showAlert = c.fab := by obtain ⟨_, _, e⟩ := c.showAlert_only; rw [e]; rfl
@[simp] theorem Chip.showAlert_mems : Chip.mems c.showAlert = c.mems := by obtain ⟨_, _, e⟩ := c.showAlert_only; rw [e]; rfl
@[simp] theorem Chip.showAlert_integ : Chip.integ c.showAlert = c.integ := by obtain ⟨_, _, e⟩ := c.showAlert_only; rw [e]; rfl
@[simp] theorem Chip.showAlert_sched : Chip.sched c.showAlert = c.sched := by obtain ⟨_, _, e⟩ := c.showAlert_only; rw [e]; rfl
@[simp] theorem Chip.showAlert_clu : Chip.clu c.showAlert = c.clu := by obtain ⟨_, _, e⟩ := c.showAlert_only; rw [e]; rfl
@[simp] theorem Chip.showAlert_plr : Chip.plr c.showAlert = c.plr := by obtain ⟨_, _, e⟩ := c.showAlert_only; rw [e]; rfl
@[simp] theorem Chip.showAlert_ecv : Chip.ecv c.showAlert = c.ecv := by obtain ⟨_, _, e⟩ := c.showAlert_only; rw [e]; rfl
@[simp] theorem Chip.showAlert_ach : Chip.ach c.showAlert = c.ach := by obtain ⟨_, _, e⟩ := c.showAlert_only; rw [e]; rfl
@[simp] theorem Chip.showAlert_cal : Chip.cal c.showAlert = c.cal := by obtain ⟨_, _, e⟩ := c.showAlert_only; rw [e]; rfl
@[simp] theorem Chip.showAlert_trust : Chip.trust c.showAlert = c.trust := by obtain ⟨_, _, e⟩ := c.showAlert_only; rw [e]; rfl
@[simp] theorem Chip.showAlert_brx : Chip.brx c.showAlert = c.brx := by obtain ⟨_, _, e⟩ := c.showAlert_only; rw [e]; rfl
@[simp] theorem Chip.showAlert_ae : Chip.ae c.showAlert = c.ae := by obtain ⟨_, _, e⟩ := c.showAlert_only; rw [e]; rfl
@[simp] theorem Chip.showAlert_code : Chip.code c.showAlert = c.code := by obtain ⟨_, _, e⟩ := c.showAlert_only; rw [e]; rfl
@[simp] theorem Chip.showAlert_eth : Chip.eth c.showAlert = c.eth := by obtain ⟨_, _, e⟩ := c.showAlert_only; rw [e]; rfl
@[simp] theorem Chip.showAlert_time : Chip.time c.showAlert = c.time := by obtain ⟨_, _, e⟩ := c.showAlert_only; rw [e]; rfl
@[simp] theorem Chip.showAlert_sens : Chip.sens c.showAlert = c.sens := by obtain ⟨_, _, e⟩ := c.showAlert_only; rw [e]; rfl
@[simp] theorem Chip.showAlert_port : Chip.port c.showAlert = c.port := by obtain ⟨_, _, e⟩ := c.showAlert_only; rw [e]; rfl

/-! ## What follows a command at once -/

theorem Chip.noneAsleep_only : ∃ m, c.noneAsleep = c.withMems m :=
  ⟨c.noneAsleep.mems, by unfold Chip.noneAsleep; split <;> rfl⟩

theorem Chip.showPostable_only : ∃ h, c.showPostable = c.withHif h :=
  ⟨c.showPostable.hif, by unfold Chip.showPostable; dsimp only; split <;> rfl⟩

/-- What follows a command writes: notes of accesses that met a sleeping domain, the queue of postable completions, ALERT_N. -/
theorem Chip.settle_only : ∃ m h d o, c.settle = (((c.withMems m).withHif h).withDev d).withOut o := by
  obtain ⟨m, hm⟩ := c.noneAsleep_only
  obtain ⟨h, hh⟩ := (c.withMems m).showPostable_only
  obtain ⟨d, o, hd⟩ := ((c.withMems m).withHif h).showAlert_only
  exact ⟨m, h, d, o, by rw [Chip.settle, hm, hh, hd]⟩

@[simp] theorem Chip.settle_regs : Chip.regs c.settle = c.regs := by obtain ⟨_, _, _, _, e⟩ := c.settle_only; rw [e]; rfl
@[simp] theorem Chip.settle_mem : Chip.mem c.settle = c.mem := by obtain ⟨_, _, _, _, e⟩ := c.settle_only; rw [e]; rfl
@[simp] theorem Chip.settle_poison : Chip.poison c.settle = c.poison := by obtain ⟨_, _, _, _, e⟩ := c.settle_only; rw [e]; rfl
@[simp] theorem Chip.settle_upset : Chip.upset c.settle = c.upset := by obtain ⟨_, _, _, _, e⟩ := c.settle_only; rw [e]; rfl
@[simp] theorem Chip.settle_tick : Chip.tick c.settle = c.tick := by obtain ⟨_, _, _, _, e⟩ := c.settle_only; rw [e]; rfl
@[simp] theorem Chip.settle_free : Chip.free c.settle = c.free := by obtain ⟨_, _, _, _, e⟩ := c.settle_only; rw [e]; rfl
@[simp] theorem Chip.settle_again : Chip.again c.settle = c.again := by obtain ⟨_, _, _, _, e⟩ := c.settle_only; rw [e]; rfl
@[simp] theorem Chip.settle_pwr : Chip.pwr c.settle = c.pwr := by obtain ⟨_, _, _, _, e⟩ := c.settle_only; rw [e]; rfl
@[simp] theorem Chip.settle_fab : Chip.fab c.settle = c.fab := by obtain ⟨_, _, _, _, e⟩ := c.settle_only; rw [e]; rfl
@[simp] theorem Chip.settle_integ : Chip.integ c.settle = c.integ := by obtain ⟨_, _, _, _, e⟩ := c.settle_only; rw [e]; rfl
@[simp] theorem Chip.settle_sched : Chip.sched c.settle = c.sched := by obtain ⟨_, _, _, _, e⟩ := c.settle_only; rw [e]; rfl
@[simp] theorem Chip.settle_clu : Chip.clu c.settle = c.clu := by obtain ⟨_, _, _, _, e⟩ := c.settle_only; rw [e]; rfl
@[simp] theorem Chip.settle_plr : Chip.plr c.settle = c.plr := by obtain ⟨_, _, _, _, e⟩ := c.settle_only; rw [e]; rfl
@[simp] theorem Chip.settle_ecv : Chip.ecv c.settle = c.ecv := by obtain ⟨_, _, _, _, e⟩ := c.settle_only; rw [e]; rfl
@[simp] theorem Chip.settle_ach : Chip.ach c.settle = c.ach := by obtain ⟨_, _, _, _, e⟩ := c.settle_only; rw [e]; rfl
@[simp] theorem Chip.settle_cal : Chip.cal c.settle = c.cal := by obtain ⟨_, _, _, _, e⟩ := c.settle_only; rw [e]; rfl
@[simp] theorem Chip.settle_trust : Chip.trust c.settle = c.trust := by obtain ⟨_, _, _, _, e⟩ := c.settle_only; rw [e]; rfl
@[simp] theorem Chip.settle_brx : Chip.brx c.settle = c.brx := by obtain ⟨_, _, _, _, e⟩ := c.settle_only; rw [e]; rfl
@[simp] theorem Chip.settle_ae : Chip.ae c.settle = c.ae := by obtain ⟨_, _, _, _, e⟩ := c.settle_only; rw [e]; rfl
@[simp] theorem Chip.settle_code : Chip.code c.settle = c.code := by obtain ⟨_, _, _, _, e⟩ := c.settle_only; rw [e]; rfl
@[simp] theorem Chip.settle_eth : Chip.eth c.settle = c.eth := by obtain ⟨_, _, _, _, e⟩ := c.settle_only; rw [e]; rfl
@[simp] theorem Chip.settle_time : Chip.time c.settle = c.time := by obtain ⟨_, _, _, _, e⟩ := c.settle_only; rw [e]; rfl
@[simp] theorem Chip.settle_sens : Chip.sens c.settle = c.sens := by obtain ⟨_, _, _, _, e⟩ := c.settle_only; rw [e]; rfl
@[simp] theorem Chip.settle_port : Chip.port c.settle = c.port := by obtain ⟨_, _, _, _, e⟩ := c.settle_only; rw [e]; rfl

/-! ## Extra state of the blocks -/

section
variable (n : Nat) (x : AchX)
@[simp] theorem Chip.setAch_regs : Chip.regs (c.setAch n x) = c.regs := rfl
@[simp] theorem Chip.setAch_mem : Chip.mem (c.setAch n x) = c.mem := rfl
@[simp] theorem Chip.setAch_poison : Chip.poison (c.setAch n x) = c.poison := rfl
@[simp] theorem Chip.setAch_upset : Chip.upset (c.setAch n x) = c.upset := rfl
@[simp] theorem Chip.setAch_tick : Chip.tick (c.setAch n x) = c.tick := rfl
@[simp] theorem Chip.setAch_free : Chip.free (c.setAch n x) = c.free := rfl
@[simp] theorem Chip.setAch_again : Chip.again (c.setAch n x) = c.again := rfl
@[simp] theorem Chip.setAch_out : Chip.out (c.setAch n x) = c.out := rfl
@[simp] theorem Chip.setAch_dev : Chip.dev (c.setAch n x) = c.dev := rfl
@[simp] theorem Chip.setAch_hif : Chip.hif (c.setAch n x) = c.hif := rfl
@[simp] theorem Chip.setAch_pwr : Chip.pwr (c.setAch n x) = c.pwr := rfl
@[simp] theorem Chip.setAch_fab : Chip.fab (c.setAch n x) = c.fab := rfl
@[simp] theorem Chip.setAch_mems : Chip.mems (c.setAch n x) = c.mems := rfl
@[simp] theorem Chip.setAch_integ : Chip.integ (c.setAch n x) = c.integ := rfl
@[simp] theorem Chip.setAch_sched : Chip.sched (c.setAch n x) = c.sched := rfl
@[simp] theorem Chip.setAch_clu : Chip.clu (c.setAch n x) = c.clu := rfl
@[simp] theorem Chip.setAch_plr : Chip.plr (c.setAch n x) = c.plr := rfl
@[simp] theorem Chip.setAch_ecv : Chip.ecv (c.setAch n x) = c.ecv := rfl
@[simp] theorem Chip.setAch_cal : Chip.cal (c.setAch n x) = c.cal := rfl
@[simp] theorem Chip.setAch_trust : Chip.trust (c.setAch n x) = c.trust := rfl
@[simp] theorem Chip.setAch_brx : Chip.brx (c.setAch n x) = c.brx := rfl
@[simp] theorem Chip.setAch_ae : Chip.ae (c.setAch n x) = c.ae := rfl
@[simp] theorem Chip.setAch_code : Chip.code (c.setAch n x) = c.code := rfl
@[simp] theorem Chip.setAch_eth : Chip.eth (c.setAch n x) = c.eth := rfl
@[simp] theorem Chip.setAch_time : Chip.time (c.setAch n x) = c.time := rfl
@[simp] theorem Chip.setAch_sens : Chip.sens (c.setAch n x) = c.sens := rfl
@[simp] theorem Chip.setAch_port : Chip.port (c.setAch n x) = c.port := rfl
end

section
variable (n : Nat) (x : AeX)
@[simp] theorem Chip.setAe_regs : Chip.regs (c.setAe n x) = c.regs := rfl
@[simp] theorem Chip.setAe_mem : Chip.mem (c.setAe n x) = c.mem := rfl
@[simp] theorem Chip.setAe_poison : Chip.poison (c.setAe n x) = c.poison := rfl
@[simp] theorem Chip.setAe_upset : Chip.upset (c.setAe n x) = c.upset := rfl
@[simp] theorem Chip.setAe_tick : Chip.tick (c.setAe n x) = c.tick := rfl
@[simp] theorem Chip.setAe_free : Chip.free (c.setAe n x) = c.free := rfl
@[simp] theorem Chip.setAe_again : Chip.again (c.setAe n x) = c.again := rfl
@[simp] theorem Chip.setAe_out : Chip.out (c.setAe n x) = c.out := rfl
@[simp] theorem Chip.setAe_dev : Chip.dev (c.setAe n x) = c.dev := rfl
@[simp] theorem Chip.setAe_hif : Chip.hif (c.setAe n x) = c.hif := rfl
@[simp] theorem Chip.setAe_pwr : Chip.pwr (c.setAe n x) = c.pwr := rfl
@[simp] theorem Chip.setAe_fab : Chip.fab (c.setAe n x) = c.fab := rfl
@[simp] theorem Chip.setAe_mems : Chip.mems (c.setAe n x) = c.mems := rfl
@[simp] theorem Chip.setAe_integ : Chip.integ (c.setAe n x) = c.integ := rfl
@[simp] theorem Chip.setAe_sched : Chip.sched (c.setAe n x) = c.sched := rfl
@[simp] theorem Chip.setAe_clu : Chip.clu (c.setAe n x) = c.clu := rfl
@[simp] theorem Chip.setAe_plr : Chip.plr (c.setAe n x) = c.plr := rfl
@[simp] theorem Chip.setAe_ecv : Chip.ecv (c.setAe n x) = c.ecv := rfl
@[simp] theorem Chip.setAe_ach : Chip.ach (c.setAe n x) = c.ach := rfl
@[simp] theorem Chip.setAe_cal : Chip.cal (c.setAe n x) = c.cal := rfl
@[simp] theorem Chip.setAe_trust : Chip.trust (c.setAe n x) = c.trust := rfl
@[simp] theorem Chip.setAe_brx : Chip.brx (c.setAe n x) = c.brx := rfl
@[simp] theorem Chip.setAe_code : Chip.code (c.setAe n x) = c.code := rfl
@[simp] theorem Chip.setAe_eth : Chip.eth (c.setAe n x) = c.eth := rfl
@[simp] theorem Chip.setAe_time : Chip.time (c.setAe n x) = c.time := rfl
@[simp] theorem Chip.setAe_sens : Chip.sens (c.setAe n x) = c.sens := rfl
@[simp] theorem Chip.setAe_port : Chip.port (c.setAe n x) = c.port := rfl
end

section
variable (n : Nat) (x : BrX)
@[simp] theorem Chip.setBr_mem : Chip.mem (c.setBr n x) = c.mem := rfl
@[simp] theorem Chip.setBr_poison : Chip.poison (c.setBr n x) = c.poison := rfl
@[simp] theorem Chip.setBr_upset : Chip.upset (c.setBr n x) = c.upset := rfl
@[simp] theorem Chip.setBr_tick : Chip.tick (c.setBr n x) = c.tick := rfl
@[simp] theorem Chip.setBr_free : Chip.free (c.setBr n x) = c.free := rfl
@[simp] theorem Chip.setBr_again : Chip.again (c.setBr n x) = c.again := rfl
@[simp] theorem Chip.setBr_out : Chip.out (c.setBr n x) = c.out := rfl
@[simp] theorem Chip.setBr_dev : Chip.dev (c.setBr n x) = c.dev := rfl
@[simp] theorem Chip.setBr_hif : Chip.hif (c.setBr n x) = c.hif := rfl
@[simp] theorem Chip.setBr_pwr : Chip.pwr (c.setBr n x) = c.pwr := rfl
@[simp] theorem Chip.setBr_fab : Chip.fab (c.setBr n x) = c.fab := rfl
@[simp] theorem Chip.setBr_mems : Chip.mems (c.setBr n x) = c.mems := rfl
@[simp] theorem Chip.setBr_integ : Chip.integ (c.setBr n x) = c.integ := rfl
@[simp] theorem Chip.setBr_sched : Chip.sched (c.setBr n x) = c.sched := rfl
@[simp] theorem Chip.setBr_clu : Chip.clu (c.setBr n x) = c.clu := rfl
@[simp] theorem Chip.setBr_plr : Chip.plr (c.setBr n x) = c.plr := rfl
@[simp] theorem Chip.setBr_ecv : Chip.ecv (c.setBr n x) = c.ecv := rfl
@[simp] theorem Chip.setBr_ach : Chip.ach (c.setBr n x) = c.ach := rfl
@[simp] theorem Chip.setBr_cal : Chip.cal (c.setBr n x) = c.cal := rfl
@[simp] theorem Chip.setBr_trust : Chip.trust (c.setBr n x) = c.trust := rfl
@[simp] theorem Chip.setBr_ae : Chip.ae (c.setBr n x) = c.ae := rfl
@[simp] theorem Chip.setBr_code : Chip.code (c.setBr n x) = c.code := rfl
@[simp] theorem Chip.setBr_eth : Chip.eth (c.setBr n x) = c.eth := rfl
@[simp] theorem Chip.setBr_time : Chip.time (c.setBr n x) = c.time := rfl
@[simp] theorem Chip.setBr_sens : Chip.sens (c.setBr n x) = c.sens := rfl
@[simp] theorem Chip.setBr_port : Chip.port (c.setBr n x) = c.port := rfl
end

section
variable (n : Nat) (x : CalAnt)
@[simp] theorem Chip.setCalAnt_regs : Chip.regs (c.setCalAnt n x) = c.regs := rfl
@[simp] theorem Chip.setCalAnt_mem : Chip.mem (c.setCalAnt n x) = c.mem := rfl
@[simp] theorem Chip.setCalAnt_poison : Chip.poison (c.setCalAnt n x) = c.poison := rfl
@[simp] theorem Chip.setCalAnt_upset : Chip.upset (c.setCalAnt n x) = c.upset := rfl
@[simp] theorem Chip.setCalAnt_tick : Chip.tick (c.setCalAnt n x) = c.tick := rfl
@[simp] theorem Chip.setCalAnt_free : Chip.free (c.setCalAnt n x) = c.free := rfl
@[simp] theorem Chip.setCalAnt_again : Chip.again (c.setCalAnt n x) = c.again := rfl
@[simp] theorem Chip.setCalAnt_out : Chip.out (c.setCalAnt n x) = c.out := rfl
@[simp] theorem Chip.setCalAnt_dev : Chip.dev (c.setCalAnt n x) = c.dev := rfl
@[simp] theorem Chip.setCalAnt_hif : Chip.hif (c.setCalAnt n x) = c.hif := rfl
@[simp] theorem Chip.setCalAnt_pwr : Chip.pwr (c.setCalAnt n x) = c.pwr := rfl
@[simp] theorem Chip.setCalAnt_fab : Chip.fab (c.setCalAnt n x) = c.fab := rfl
@[simp] theorem Chip.setCalAnt_mems : Chip.mems (c.setCalAnt n x) = c.mems := rfl
@[simp] theorem Chip.setCalAnt_integ : Chip.integ (c.setCalAnt n x) = c.integ := rfl
@[simp] theorem Chip.setCalAnt_sched : Chip.sched (c.setCalAnt n x) = c.sched := rfl
@[simp] theorem Chip.setCalAnt_clu : Chip.clu (c.setCalAnt n x) = c.clu := rfl
@[simp] theorem Chip.setCalAnt_plr : Chip.plr (c.setCalAnt n x) = c.plr := rfl
@[simp] theorem Chip.setCalAnt_ecv : Chip.ecv (c.setCalAnt n x) = c.ecv := rfl
@[simp] theorem Chip.setCalAnt_ach : Chip.ach (c.setCalAnt n x) = c.ach := rfl
@[simp] theorem Chip.setCalAnt_trust : Chip.trust (c.setCalAnt n x) = c.trust := rfl
@[simp] theorem Chip.setCalAnt_brx : Chip.brx (c.setCalAnt n x) = c.brx := rfl
@[simp] theorem Chip.setCalAnt_ae : Chip.ae (c.setCalAnt n x) = c.ae := rfl
@[simp] theorem Chip.setCalAnt_code : Chip.code (c.setCalAnt n x) = c.code := rfl
@[simp] theorem Chip.setCalAnt_eth : Chip.eth (c.setCalAnt n x) = c.eth := rfl
@[simp] theorem Chip.setCalAnt_time : Chip.time (c.setCalAnt n x) = c.time := rfl
@[simp] theorem Chip.setCalAnt_sens : Chip.sens (c.setCalAnt n x) = c.sens := rfl
@[simp] theorem Chip.setCalAnt_port : Chip.port (c.setCalAnt n x) = c.port := rfl
end

section
variable (n : Nat) (x : Option CodeRun)
@[simp] theorem Chip.setCode_regs : Chip.regs (c.setCode n x) = c.regs := rfl
@[simp] theorem Chip.setCode_mem : Chip.mem (c.setCode n x) = c.mem := rfl
@[simp] theorem Chip.setCode_poison : Chip.poison (c.setCode n x) = c.poison := rfl
@[simp] theorem Chip.setCode_upset : Chip.upset (c.setCode n x) = c.upset := rfl
@[simp] theorem Chip.setCode_tick : Chip.tick (c.setCode n x) = c.tick := rfl
@[simp] theorem Chip.setCode_free : Chip.free (c.setCode n x) = c.free := rfl
@[simp] theorem Chip.setCode_again : Chip.again (c.setCode n x) = c.again := rfl
@[simp] theorem Chip.setCode_out : Chip.out (c.setCode n x) = c.out := rfl
@[simp] theorem Chip.setCode_dev : Chip.dev (c.setCode n x) = c.dev := rfl
@[simp] theorem Chip.setCode_hif : Chip.hif (c.setCode n x) = c.hif := rfl
@[simp] theorem Chip.setCode_pwr : Chip.pwr (c.setCode n x) = c.pwr := rfl
@[simp] theorem Chip.setCode_fab : Chip.fab (c.setCode n x) = c.fab := rfl
@[simp] theorem Chip.setCode_mems : Chip.mems (c.setCode n x) = c.mems := rfl
@[simp] theorem Chip.setCode_integ : Chip.integ (c.setCode n x) = c.integ := rfl
@[simp] theorem Chip.setCode_sched : Chip.sched (c.setCode n x) = c.sched := rfl
@[simp] theorem Chip.setCode_clu : Chip.clu (c.setCode n x) = c.clu := rfl
@[simp] theorem Chip.setCode_plr : Chip.plr (c.setCode n x) = c.plr := rfl
@[simp] theorem Chip.setCode_ecv : Chip.ecv (c.setCode n x) = c.ecv := rfl
@[simp] theorem Chip.setCode_ach : Chip.ach (c.setCode n x) = c.ach := rfl
@[simp] theorem Chip.setCode_cal : Chip.cal (c.setCode n x) = c.cal := rfl
@[simp] theorem Chip.setCode_trust : Chip.trust (c.setCode n x) = c.trust := rfl
@[simp] theorem Chip.setCode_brx : Chip.brx (c.setCode n x) = c.brx := rfl
@[simp] theorem Chip.setCode_ae : Chip.ae (c.setCode n x) = c.ae := rfl
@[simp] theorem Chip.setCode_eth : Chip.eth (c.setCode n x) = c.eth := rfl
@[simp] theorem Chip.setCode_time : Chip.time (c.setCode n x) = c.time := rfl
@[simp] theorem Chip.setCode_sens : Chip.sens (c.setCode n x) = c.sens := rfl
@[simp] theorem Chip.setCode_port : Chip.port (c.setCode n x) = c.port := rfl
end

section
variable (n : Nat) (x : LinkX)
@[simp] theorem Chip.setLink_regs : Chip.regs (c.setLink n x) = c.regs := rfl
@[simp] theorem Chip.setLink_mem : Chip.mem (c.setLink n x) = c.mem := rfl
@[simp] theorem Chip.setLink_poison : Chip.poison (c.setLink n x) = c.poison := rfl
@[simp] theorem Chip.setLink_upset : Chip.upset (c.setLink n x) = c.upset := rfl
@[simp] theorem Chip.setLink_tick : Chip.tick (c.setLink n x) = c.tick := rfl
@[simp] theorem Chip.setLink_free : Chip.free (c.setLink n x) = c.free := rfl
@[simp] theorem Chip.setLink_again : Chip.again (c.setLink n x) = c.again := rfl
@[simp] theorem Chip.setLink_out : Chip.out (c.setLink n x) = c.out := rfl
@[simp] theorem Chip.setLink_dev : Chip.dev (c.setLink n x) = c.dev := rfl
@[simp] theorem Chip.setLink_hif : Chip.hif (c.setLink n x) = c.hif := rfl
@[simp] theorem Chip.setLink_pwr : Chip.pwr (c.setLink n x) = c.pwr := rfl
@[simp] theorem Chip.setLink_fab : Chip.fab (c.setLink n x) = c.fab := rfl
@[simp] theorem Chip.setLink_mems : Chip.mems (c.setLink n x) = c.mems := rfl
@[simp] theorem Chip.setLink_integ : Chip.integ (c.setLink n x) = c.integ := rfl
@[simp] theorem Chip.setLink_sched : Chip.sched (c.setLink n x) = c.sched := rfl
@[simp] theorem Chip.setLink_clu : Chip.clu (c.setLink n x) = c.clu := rfl
@[simp] theorem Chip.setLink_plr : Chip.plr (c.setLink n x) = c.plr := rfl
@[simp] theorem Chip.setLink_ach : Chip.ach (c.setLink n x) = c.ach := rfl
@[simp] theorem Chip.setLink_cal : Chip.cal (c.setLink n x) = c.cal := rfl
@[simp] theorem Chip.setLink_trust : Chip.trust (c.setLink n x) = c.trust := rfl
@[simp] theorem Chip.setLink_brx : Chip.brx (c.setLink n x) = c.brx := rfl
@[simp] theorem Chip.setLink_ae : Chip.ae (c.setLink n x) = c.ae := rfl
@[simp] theorem Chip.setLink_code : Chip.code (c.setLink n x) = c.code := rfl
@[simp] theorem Chip.setLink_eth : Chip.eth (c.setLink n x) = c.eth := rfl
@[simp] theorem Chip.setLink_time : Chip.time (c.setLink n x) = c.time := rfl
@[simp] theorem Chip.setLink_sens : Chip.sens (c.setLink n x) = c.sens := rfl
@[simp] theorem Chip.setLink_port : Chip.port (c.setLink n x) = c.port := rfl
end

section
variable (n : Nat) (x : Eng)
@[simp] theorem Chip.setEng_regs : Chip.regs (c.setEng n x) = c.regs := rfl
@[simp] theorem Chip.setEng_mem : Chip.mem (c.setEng n x) = c.mem := rfl
@[simp] theorem Chip.setEng_poison : Chip.poison (c.setEng n x) = c.poison := rfl
@[simp] theorem Chip.setEng_upset : Chip.upset (c.setEng n x) = c.upset := rfl
@[simp] theorem Chip.setEng_tick : Chip.tick (c.setEng n x) = c.tick := rfl
@[simp] theorem Chip.setEng_free : Chip.free (c.setEng n x) = c.free := rfl
@[simp] theorem Chip.setEng_again : Chip.again (c.setEng n x) = c.again := rfl
@[simp] theorem Chip.setEng_out : Chip.out (c.setEng n x) = c.out := rfl
@[simp] theorem Chip.setEng_dev : Chip.dev (c.setEng n x) = c.dev := rfl
@[simp] theorem Chip.setEng_hif : Chip.hif (c.setEng n x) = c.hif := rfl
@[simp] theorem Chip.setEng_pwr : Chip.pwr (c.setEng n x) = c.pwr := rfl
@[simp] theorem Chip.setEng_fab : Chip.fab (c.setEng n x) = c.fab := rfl
@[simp] theorem Chip.setEng_mems : Chip.mems (c.setEng n x) = c.mems := rfl
@[simp] theorem Chip.setEng_integ : Chip.integ (c.setEng n x) = c.integ := rfl
@[simp] theorem Chip.setEng_sched : Chip.sched (c.setEng n x) = c.sched := rfl
@[simp] theorem Chip.setEng_plr : Chip.plr (c.setEng n x) = c.plr := rfl
@[simp] theorem Chip.setEng_ecv : Chip.ecv (c.setEng n x) = c.ecv := rfl
@[simp] theorem Chip.setEng_ach : Chip.ach (c.setEng n x) = c.ach := rfl
@[simp] theorem Chip.setEng_cal : Chip.cal (c.setEng n x) = c.cal := rfl
@[simp] theorem Chip.setEng_trust : Chip.trust (c.setEng n x) = c.trust := rfl
@[simp] theorem Chip.setEng_brx : Chip.brx (c.setEng n x) = c.brx := rfl
@[simp] theorem Chip.setEng_ae : Chip.ae (c.setEng n x) = c.ae := rfl
@[simp] theorem Chip.setEng_code : Chip.code (c.setEng n x) = c.code := rfl
@[simp] theorem Chip.setEng_eth : Chip.eth (c.setEng n x) = c.eth := rfl
@[simp] theorem Chip.setEng_time : Chip.time (c.setEng n x) = c.time := rfl
@[simp] theorem Chip.setEng_sens : Chip.sens (c.setEng n x) = c.sens := rfl
@[simp] theorem Chip.setEng_port : Chip.port (c.setEng n x) = c.port := rfl
end

section
variable (n : Nat) (x : Cluster)
@[simp] theorem Chip.setCluster_regs : Chip.regs (c.setCluster n x) = c.regs := rfl
@[simp] theorem Chip.setCluster_mem : Chip.mem (c.setCluster n x) = c.mem := rfl
@[simp] theorem Chip.setCluster_poison : Chip.poison (c.setCluster n x) = c.poison := rfl
@[simp] theorem Chip.setCluster_upset : Chip.upset (c.setCluster n x) = c.upset := rfl
@[simp] theorem Chip.setCluster_tick : Chip.tick (c.setCluster n x) = c.tick := rfl
@[simp] theorem Chip.setCluster_free : Chip.free (c.setCluster n x) = c.free := rfl
@[simp] theorem Chip.setCluster_again : Chip.again (c.setCluster n x) = c.again := rfl
@[simp] theorem Chip.setCluster_out : Chip.out (c.setCluster n x) = c.out := rfl
@[simp] theorem Chip.setCluster_dev : Chip.dev (c.setCluster n x) = c.dev := rfl
@[simp] theorem Chip.setCluster_hif : Chip.hif (c.setCluster n x) = c.hif := rfl
@[simp] theorem Chip.setCluster_pwr : Chip.pwr (c.setCluster n x) = c.pwr := rfl
@[simp] theorem Chip.setCluster_fab : Chip.fab (c.setCluster n x) = c.fab := rfl
@[simp] theorem Chip.setCluster_mems : Chip.mems (c.setCluster n x) = c.mems := rfl
@[simp] theorem Chip.setCluster_integ : Chip.integ (c.setCluster n x) = c.integ := rfl
@[simp] theorem Chip.setCluster_sched : Chip.sched (c.setCluster n x) = c.sched := rfl
@[simp] theorem Chip.setCluster_plr : Chip.plr (c.setCluster n x) = c.plr := rfl
@[simp] theorem Chip.setCluster_ecv : Chip.ecv (c.setCluster n x) = c.ecv := rfl
@[simp] theorem Chip.setCluster_ach : Chip.ach (c.setCluster n x) = c.ach := rfl
@[simp] theorem Chip.setCluster_cal : Chip.cal (c.setCluster n x) = c.cal := rfl
@[simp] theorem Chip.setCluster_trust : Chip.trust (c.setCluster n x) = c.trust := rfl
@[simp] theorem Chip.setCluster_brx : Chip.brx (c.setCluster n x) = c.brx := rfl
@[simp] theorem Chip.setCluster_ae : Chip.ae (c.setCluster n x) = c.ae := rfl
@[simp] theorem Chip.setCluster_code : Chip.code (c.setCluster n x) = c.code := rfl
@[simp] theorem Chip.setCluster_eth : Chip.eth (c.setCluster n x) = c.eth := rfl
@[simp] theorem Chip.setCluster_time : Chip.time (c.setCluster n x) = c.time := rfl
@[simp] theorem Chip.setCluster_sens : Chip.sens (c.setCluster n x) = c.sens := rfl
@[simp] theorem Chip.setCluster_port : Chip.port (c.setCluster n x) = c.port := rfl
end

section
variable (n m : Nat) (x : RingX)
@[simp] theorem Chip.setRingX_regs : Chip.regs (c.setRingX n m x) = c.regs := rfl
@[simp] theorem Chip.setRingX_mem : Chip.mem (c.setRingX n m x) = c.mem := rfl
@[simp] theorem Chip.setRingX_poison : Chip.poison (c.setRingX n m x) = c.poison := rfl
@[simp] theorem Chip.setRingX_upset : Chip.upset (c.setRingX n m x) = c.upset := rfl
@[simp] theorem Chip.setRingX_tick : Chip.tick (c.setRingX n m x) = c.tick := rfl
@[simp] theorem Chip.setRingX_free : Chip.free (c.setRingX n m x) = c.free := rfl
@[simp] theorem Chip.setRingX_again : Chip.again (c.setRingX n m x) = c.again := rfl
@[simp] theorem Chip.setRingX_out : Chip.out (c.setRingX n m x) = c.out := rfl
@[simp] theorem Chip.setRingX_dev : Chip.dev (c.setRingX n m x) = c.dev := rfl
@[simp] theorem Chip.setRingX_pwr : Chip.pwr (c.setRingX n m x) = c.pwr := rfl
@[simp] theorem Chip.setRingX_fab : Chip.fab (c.setRingX n m x) = c.fab := rfl
@[simp] theorem Chip.setRingX_mems : Chip.mems (c.setRingX n m x) = c.mems := rfl
@[simp] theorem Chip.setRingX_integ : Chip.integ (c.setRingX n m x) = c.integ := rfl
@[simp] theorem Chip.setRingX_sched : Chip.sched (c.setRingX n m x) = c.sched := rfl
@[simp] theorem Chip.setRingX_clu : Chip.clu (c.setRingX n m x) = c.clu := rfl
@[simp] theorem Chip.setRingX_plr : Chip.plr (c.setRingX n m x) = c.plr := rfl
@[simp] theorem Chip.setRingX_ecv : Chip.ecv (c.setRingX n m x) = c.ecv := rfl
@[simp] theorem Chip.setRingX_ach : Chip.ach (c.setRingX n m x) = c.ach := rfl
@[simp] theorem Chip.setRingX_cal : Chip.cal (c.setRingX n m x) = c.cal := rfl
@[simp] theorem Chip.setRingX_trust : Chip.trust (c.setRingX n m x) = c.trust := rfl
@[simp] theorem Chip.setRingX_brx : Chip.brx (c.setRingX n m x) = c.brx := rfl
@[simp] theorem Chip.setRingX_ae : Chip.ae (c.setRingX n m x) = c.ae := rfl
@[simp] theorem Chip.setRingX_code : Chip.code (c.setRingX n m x) = c.code := rfl
@[simp] theorem Chip.setRingX_eth : Chip.eth (c.setRingX n m x) = c.eth := rfl
@[simp] theorem Chip.setRingX_time : Chip.time (c.setRingX n m x) = c.time := rfl
@[simp] theorem Chip.setRingX_sens : Chip.sens (c.setRingX n m x) = c.sens := rfl
@[simp] theorem Chip.setRingX_port : Chip.port (c.setRingX n m x) = c.port := rfl
end

section
variable (n : Nat) (x : PlrRegion)
@[simp] theorem Chip.setRegion_regs : Chip.regs (c.setRegion n x) = c.regs := rfl
@[simp] theorem Chip.setRegion_mem : Chip.mem (c.setRegion n x) = c.mem := rfl
@[simp] theorem Chip.setRegion_poison : Chip.poison (c.setRegion n x) = c.poison := rfl
@[simp] theorem Chip.setRegion_upset : Chip.upset (c.setRegion n x) = c.upset := rfl
@[simp] theorem Chip.setRegion_tick : Chip.tick (c.setRegion n x) = c.tick := rfl
@[simp] theorem Chip.setRegion_free : Chip.free (c.setRegion n x) = c.free := rfl
@[simp] theorem Chip.setRegion_again : Chip.again (c.setRegion n x) = c.again := rfl
@[simp] theorem Chip.setRegion_out : Chip.out (c.setRegion n x) = c.out := rfl
@[simp] theorem Chip.setRegion_dev : Chip.dev (c.setRegion n x) = c.dev := rfl
@[simp] theorem Chip.setRegion_hif : Chip.hif (c.setRegion n x) = c.hif := rfl
@[simp] theorem Chip.setRegion_pwr : Chip.pwr (c.setRegion n x) = c.pwr := rfl
@[simp] theorem Chip.setRegion_fab : Chip.fab (c.setRegion n x) = c.fab := rfl
@[simp] theorem Chip.setRegion_mems : Chip.mems (c.setRegion n x) = c.mems := rfl
@[simp] theorem Chip.setRegion_integ : Chip.integ (c.setRegion n x) = c.integ := rfl
@[simp] theorem Chip.setRegion_sched : Chip.sched (c.setRegion n x) = c.sched := rfl
@[simp] theorem Chip.setRegion_clu : Chip.clu (c.setRegion n x) = c.clu := rfl
@[simp] theorem Chip.setRegion_ecv : Chip.ecv (c.setRegion n x) = c.ecv := rfl
@[simp] theorem Chip.setRegion_ach : Chip.ach (c.setRegion n x) = c.ach := rfl
@[simp] theorem Chip.setRegion_cal : Chip.cal (c.setRegion n x) = c.cal := rfl
@[simp] theorem Chip.setRegion_trust : Chip.trust (c.setRegion n x) = c.trust := rfl
@[simp] theorem Chip.setRegion_brx : Chip.brx (c.setRegion n x) = c.brx := rfl
@[simp] theorem Chip.setRegion_ae : Chip.ae (c.setRegion n x) = c.ae := rfl
@[simp] theorem Chip.setRegion_code : Chip.code (c.setRegion n x) = c.code := rfl
@[simp] theorem Chip.setRegion_eth : Chip.eth (c.setRegion n x) = c.eth := rfl
@[simp] theorem Chip.setRegion_time : Chip.time (c.setRegion n x) = c.time := rfl
@[simp] theorem Chip.setRegion_sens : Chip.sens (c.setRegion n x) = c.sens := rfl
@[simp] theorem Chip.setRegion_port : Chip.port (c.setRegion n x) = c.port := rfl
end

section
variable (n : Nat) (x : DomX)
@[simp] theorem Chip.setDomX_regs : Chip.regs (c.setDomX n x) = c.regs := rfl
@[simp] theorem Chip.setDomX_mem : Chip.mem (c.setDomX n x) = c.mem := rfl
@[simp] theorem Chip.setDomX_poison : Chip.poison (c.setDomX n x) = c.poison := rfl
@[simp] theorem Chip.setDomX_upset : Chip.upset (c.setDomX n x) = c.upset := rfl
@[simp] theorem Chip.setDomX_tick : Chip.tick (c.setDomX n x) = c.tick := rfl
@[simp] theorem Chip.setDomX_free : Chip.free (c.setDomX n x) = c.free := rfl
@[simp] theorem Chip.setDomX_again : Chip.again (c.setDomX n x) = c.again := rfl
@[simp] theorem Chip.setDomX_out : Chip.out (c.setDomX n x) = c.out := rfl
@[simp] theorem Chip.setDomX_dev : Chip.dev (c.setDomX n x) = c.dev := rfl
@[simp] theorem Chip.setDomX_hif : Chip.hif (c.setDomX n x) = c.hif := rfl
@[simp] theorem Chip.setDomX_fab : Chip.fab (c.setDomX n x) = c.fab := rfl
@[simp] theorem Chip.setDomX_mems : Chip.mems (c.setDomX n x) = c.mems := rfl
@[simp] theorem Chip.setDomX_integ : Chip.integ (c.setDomX n x) = c.integ := rfl
@[simp] theorem Chip.setDomX_sched : Chip.sched (c.setDomX n x) = c.sched := rfl
@[simp] theorem Chip.setDomX_clu : Chip.clu (c.setDomX n x) = c.clu := rfl
@[simp] theorem Chip.setDomX_plr : Chip.plr (c.setDomX n x) = c.plr := rfl
@[simp] theorem Chip.setDomX_ecv : Chip.ecv (c.setDomX n x) = c.ecv := rfl
@[simp] theorem Chip.setDomX_ach : Chip.ach (c.setDomX n x) = c.ach := rfl
@[simp] theorem Chip.setDomX_cal : Chip.cal (c.setDomX n x) = c.cal := rfl
@[simp] theorem Chip.setDomX_trust : Chip.trust (c.setDomX n x) = c.trust := rfl
@[simp] theorem Chip.setDomX_brx : Chip.brx (c.setDomX n x) = c.brx := rfl
@[simp] theorem Chip.setDomX_ae : Chip.ae (c.setDomX n x) = c.ae := rfl
@[simp] theorem Chip.setDomX_code : Chip.code (c.setDomX n x) = c.code := rfl
@[simp] theorem Chip.setDomX_eth : Chip.eth (c.setDomX n x) = c.eth := rfl
@[simp] theorem Chip.setDomX_time : Chip.time (c.setDomX n x) = c.time := rfl
@[simp] theorem Chip.setDomX_sens : Chip.sens (c.setDomX n x) = c.sens := rfl
@[simp] theorem Chip.setDomX_port : Chip.port (c.setDomX n x) = c.port := rfl
end

/-! ## Readers of extra state -/

section
variable (f : Fld) (v i j k : Nat)
@[simp] theorem Chip.link_wr : (c.wr f v i j).link k = c.link k := rfl
@[simp] theorem Chip.achX_wr : (c.wr f v i j).achX k = c.achX k := rfl
@[simp] theorem Chip.br_wr : (c.wr f v i j).br k = c.br k := rfl
@[simp] theorem Chip.eng_wr : (c.wr f v i j).eng k = c.eng k := rfl
@[simp] theorem Chip.region_wr : (c.wr f v i j).region k = c.region k := rfl
@[simp] theorem Chip.link_updLink (g : LinkX → LinkX) : (c.updLink k g).link k = g (c.link k) := by
  simp [Chip.updLink, Chip.setLink, Chip.link]
@[simp] theorem Chip.rd_updLink (g : LinkX → LinkX) : (c.updLink k g).rd f i j = c.rd f i j := rfl
@[simp] theorem Chip.rd_setAch (x : AchX) : (c.setAch k x).rd f i j = c.rd f i j := rfl
@[simp] theorem Chip.rd_setEng (x : Eng) : (c.setEng k x).rd f i j = c.rd f i j := rfl
@[simp] theorem Chip.rd_setRegion (x : PlrRegion) : (c.setRegion k x).rd f i j = c.rd f i j := rfl
end

/-! ## The outcome of a command -/

/-- A command's effect `f` answers a next state: the queue as it was, the chip as `f` leaves it with what follows at once. -/
theorem State.run_eq (s : State) (f : Chip → Chip) : s.run f = .next { s with chip := (f s.chip).settle } := rfl

@[simp] theorem State.run_next_iff (s t : State) (f : Chip → Chip) :
    s.run f = .next t ↔ t.pending = s.pending ∧ t.chip = (f s.chip).settle := by
  cases t
  simp only [State.run, Host.Outcome.next.injEq, State.mk.injEq]
  exact and_congr eq_comm eq_comm

end Sys2Proof.Machine
end

