-- ==== Sys2Proof/Laws/Exec.lean ====
section
/-! SUPPORT. Every command is an effect on the chip: what the proofs about all commands go through. -/
namespace Sys2Proof.Machine

/-- Every command answers a next state: the queue as it was, and a chip with what follows a command at once. -/
theorem exec_run (i : Instr) (s : State) : ∃ c : Chip, exec i s = .next { s with chip := c.settle } := by
  cases i
  case clFireDevice act => cases act <;> exact ⟨_, rfl⟩
  all_goals exact ⟨_, rfl⟩

/-- A stage none of whose accesses has to wait has its whole effect at once (R38). -/
theorem stage_awake (s : State) (f : Chip → Chip) (h : s.chip.awake = true) (h' : (f s.chip).awake = true) :
    s.stage f = .next (s.to (f s.chip)) := by
  have e : s.chip.noneAsleep = s.chip := by
    unfold Chip.noneAsleep
    simp only [Chip.awake, List.isEmpty_iff] at h
    rw [h]
  simp only [Chip.awake, List.isEmpty_iff] at h'
  simp [State.stage, State.run, State.to, Chip.heldStage, e, h']

/-- A stage with an access that has to wait does nothing but wake what the access waits for (R38, R367, R386). -/
theorem stage_held (s : State) (f : Chip → Chip) (h' : (f s.chip.noneAsleep).awake = false) :
    s.stage f = .next (s.to ((f s.chip.noneAsleep).mems.asleep.foldl Chip.rouse s.chip)) := by
  simp only [Chip.awake] at h'
  simp [State.stage, State.run, State.to, Chip.heldStage, h']

end Sys2Proof.Machine
end

