-- ==== Sys2Proof/Laws/Regs.lean ====
section
/-! SUPPORT. Laws of register fields: a written field reads as the written value cut to its width, every other field reads
as before. -/
namespace Sys2Proof.Machine

variable (c : Chip)

/-! ## Keys -/

/-- Fields of different registers, or different fields of one register, never share a key. -/
theorem Fld.key_ne_of_id (f g : Fld) (i j k l : Nat) (h : f.id ≠ g.id) : f.key i j ≠ g.key k l := by
  intro e
  simp only [Fld.key] at e
  have h1 := Nat.mod_lt j (show 0 < 2 ^ 16 by decide)
  have h2 := Nat.mod_lt l (show 0 < 2 ^ 16 by decide)
  have h3 := Nat.mod_lt i (show 0 < 2 ^ 16 by decide)
  have h4 := Nat.mod_lt k (show 0 < 2 ^ 16 by decide)
  omega

/-- The instances of a register do not share a key. -/
theorem Fld.key_ne_of_index (f : Fld) (i j k l : Nat) (hi : i < 65536) (hj : j < 65536) (hk : k < 65536) (hl : l < 65536)
    (h : i ≠ k ∨ j ≠ l) : f.key i j ≠ f.key k l := by
  intro e
  simp only [Fld.key] at e
  omega

/-! ## Reading after a write -/

@[simp] theorem Chip.rd_wr_same (f : Fld) (v i j : Nat) : (c.wr f v i j).rd f i j = v % 2 ^ f.w := by
  simp [Chip.rd, Chip.wr]

theorem Chip.rd_wr_ne (f g : Fld) (v i j k l : Nat) (h : g.key k l ≠ f.key i j) :
    (c.wr f v i j).rd g k l = c.rd g k l := by
  simp [Chip.rd, Chip.wr, Tbl.get_set_ne _ _ _ _ _ _ h]

/-- A write leaves the fields of other names alone. -/
theorem Chip.rd_wr_id (f g : Fld) (v i j k l : Nat) (h : g.id ≠ f.id) : (c.wr f v i j).rd g k l = c.rd g k l :=
  c.rd_wr_ne f g v i j k l (Fld.key_ne_of_id g f k l i j h)

@[simp] theorem Chip.flag_setFlag_same (f : Fld) (b : Bool) (i j : Nat) (h : f.w ≠ 0) :
    (c.setFlag f b i j).flag f i j = b := by
  have : 1 % 2 ^ f.w = 1 := Nat.mod_eq_of_lt (Nat.one_lt_two_pow h)
  cases b <;> simp [Chip.flag, Chip.setFlag, b2n, this]

@[simp] theorem Chip.rd_incMod_same (f : Fld) (i j n : Nat) :
    (c.incMod f i j n).rd f i j = (c.rd f i j + n) % 2 ^ f.w := by
  simp [Chip.incMod]

/-- A saturating counter stays at the top of its width. -/
@[simp] theorem Chip.rd_incSat_same (f : Fld) (i j n : Nat) :
    (c.incSat f i j n).rd f i j = min (c.rd f i j + n) (2 ^ f.w - 1) := by
  have h : 0 < 2 ^ f.w := Nat.two_pow_pos f.w
  simp only [Chip.incSat, Chip.rd_wr_same]
  exact Nat.mod_eq_of_lt (by omega)

/-! ## What does not touch registers -/

/-- A field's value depends on the register table alone. -/
theorem Chip.rd_congr (c d : Chip) (h : c.regs = d.regs) (f : Fld) (i j : Nat) : c.rd f i j = d.rd f i j := by
  simp [Chip.rd, h]

@[simp] theorem Chip.rd_emit (o : Out) (f : Fld) (i j : Nat) : (c.emit o).rd f i j = c.rd f i j := rfl

@[simp] theorem Chip.rd_report (p : Port) (st : Status) (f : Fld) (i j : Nat) :
    (c.report p st).rd f i j = c.rd f i j := Chip.rd_congr _ _ (by simp) f i j

@[simp] theorem Chip.rd_showAlert (f : Fld) (i j : Nat) : c.showAlert.rd f i j = c.rd f i j :=
  Chip.rd_congr _ _ (by simp) f i j

/-! ## Guarded writes (R16) -/

/-- A write in one of the register's write modes by a requester that reaches the register takes effect. -/
theorem Chip.guarded_allowed (p : Port) (modes : Nat) (f : Chip → Chip) (hm : c.modeIn modes = true)
    (hp : c.reachesAll p = true) : c.guarded p modes f = f c := by
  simp [Chip.guarded, hm, hp]

/-- Any other is dropped with ACCESS_DENIED. -/
theorem Chip.guarded_denied (p : Port) (modes : Nat) (f : Chip → Chip)
    (h : (c.modeIn modes && c.reachesAll p) = false) : c.guarded p modes f = c.report p .accessDenied := by
  simp [Chip.guarded, h]

theorem Chip.guardedFn_allowed (p : Port) (fn modes : Nat) (f : Chip → Chip) (hm : c.modeIn modes = true)
    (hp : c.reachesFn p fn = true) : c.guardedFn p fn modes f = f c := by
  simp [Chip.guardedFn, hm, hp]

theorem Chip.guardedFn_denied (p : Port) (fn modes : Nat) (f : Chip → Chip)
    (h : (c.modeIn modes && c.reachesFn p fn) = false) : c.guardedFn p fn modes f = c.report p .accessDenied := by
  simp [Chip.guardedFn, h]

theorem Chip.action_allowed (p : Port) (modes : Nat) (f : Chip → Chip) (hm : c.modeIn modes = true)
    (hp : c.reachesAll p = true) : c.action p modes f = (f c).report p .ok := by
  simp [Chip.action, Chip.guarded, hm, hp]

theorem Chip.action_denied (p : Port) (modes : Nat) (f : Chip → Chip)
    (h : (c.modeIn modes && c.reachesAll p) = false) : c.action p modes f = c.report p .accessDenied := by
  simp [Chip.action, Chip.guarded, h]

/-! ## Action bits (R18) -/

/-- An action bit that is not set starts its action. -/
theorem Chip.w1sStart_idle (f : Fld) (i j : Nat) (act : Chip → Chip) (h : c.flag f i j = false) :
    c.w1sStart f i j act = act (c.wr f 1 i j) := by
  simp [Chip.w1sStart, h]

/-- Set again while the action runs, it makes it run once more, however often it is set. -/
theorem Chip.w1sStart_busy_again (f : Fld) (i j : Nat) (act : Chip → Chip) (h : c.flag f i j = true)
    (ha : c.again.contains (f.key i j) = true) : c.w1sStart f i j act = c := by
  simp only [Chip.w1sStart, h, ha, if_true]

/-- The action completes and was not asked for again: hardware clears the bit. -/
theorem Chip.w1sEnd_last (f : Fld) (i j : Nat) (act : Chip → Chip) (ha : c.again.contains (f.key i j) = false) :
    c.w1sEnd f i j act = c.wr f 0 i j := by
  simp only [Chip.w1sEnd, ha, Bool.false_eq_true, if_false]

end Sys2Proof.Machine
end

