-- ==== Sys2Proof/Machine/Flit.lean ====
section
/-! DEFINITION. How a packet stands on the mesh (spec/13_fabric.md R359–R363): its header, its flits in split and merged mode
with their CRC, the virtual channels and the order in which they are served. The commands act on whole packets. -/
namespace Sys2Proof.Machine

/-! ## The header (R360, R361) -/

/-- OP of a request. -/
def opCode (k : Pkt) : Nat :=
  match k.op with
  | .rd => if k.bytes = 256 then 0x11 else 0x01
  | .wr => if k.bytes = 256 then 0x10 else if k.bytes = 4 then 0x02 else 0x03
  | .msg => 0x20
  | .rsp => 0x06

/-- OP of the response to a request. -/
def rspCode (k : Pkt) : Nat :=
  match k.op with
  | .rd => if k.bytes = 256 then 0x12 else if k.bytes = 4 then 0x04 else 0x05
  | _ => 0x06

/-- SIZE: the table has no code for a block of 256 bytes, whose OP tells its size (0 there; DESIGN CHOICE, log entry 84). -/
def sizeCode (bytes : Nat) : Nat := match bytes with | 8 => 1 | 16 => 2 | 128 => 3 | _ => 0

/-- The 96-bit header of a packet injected under a routing generation, for a destination port. -/
def header (op gen src dst txn size cls addr status : Nat) : Nat :=
  op % 2 ^ 6 + gen % 2 * 2 ^ 6 + src % 2 ^ 9 * 2 ^ 8 + dst % 2 ^ 9 * 2 ^ 17 + txn % 2 ^ 10 * 2 ^ 26 + size % 4 * 2 ^ 36
    + cls % 4 * 2 ^ 38 + addr % 2 ^ 48 * 2 ^ 40 + status % 2 ^ 8 * 2 ^ 88

/-- The header of a request. -/
def reqHeader (k : Pkt) (gen dst : Nat) : Nat :=
  header (opCode k) gen k.src dst k.txn (sizeCode k.bytes) k.cls k.addr 0

/-! ## Flits (R360–R362) -/

/-- CRC-16 over the bits of a flit below its CRC, initial value 0xFFFF, highest bit first (DESIGN CHOICE, log entry 84: the
order is not stated). -/
def flitCrc (n v : Nat) : Nat := crcBits 16 0x1021 n v 0xFFFF

/-- A flit of `n` bits with its CRC above them. -/
def withCrc (n v : Nat) : Nat := v % 2 ^ n + flitCrc n (v % 2 ^ n) * 2 ^ n

/-- A flit passes the check that each hop makes. -/
def flitOk (n v : Nat) : Bool := bits v (n + 15) n == flitCrc n (v % 2 ^ n)

/-- A flit of REQ, RSP or SNP. -/
def ctlFlit (hdr data32 : Nat) : Nat := withCrc 128 (hdr % 2 ^ 96 + data32 % 2 ^ 32 * 2 ^ 96)

/-- A DAT flit: four words with their poison flags. -/
def datFlit (hdr words poison beat : Nat) (last : Bool) : Nat :=
  withCrc 704 (words % 2 ^ 512 + poison % 16 * 2 ^ 512 + hdr % 2 ^ 96 * 2 ^ 516 + beat % 2 * 2 ^ 612 + b2n last * 2 ^ 613)

/-- A flit of the merged network: eight words; NET is 0 request, 1 response, 2 snoop. -/
def mergedFlit (hdr words poison net : Nat) : Nat :=
  withCrc 1136 (words % 2 ^ 1024 + poison % 256 * 2 ^ 1024 + hdr % 2 ^ 96 * 2 ^ 1032 + net % 4 * 2 ^ 1128)

/-- DAT flits of a payload of some bytes. -/
def datCount (bytes : Nat) : Nat := if bytes ≤ 4 then 0 else (bytes + 63) / 64

/-- The DAT flits of a payload. -/
def datFlits (hdr bytes data poison : Nat) : List Nat :=
  (List.range (datCount bytes)).map fun i =>
    datFlit hdr (data / 2 ^ (512 * i)) (poison / 2 ^ (4 * i)) (i % 2) (i + 1 == datCount bytes)

/-- The flits of a request: in split mode its header on REQ and its data on DAT, in merged mode one flit, a block two. -/
def reqFlits (k : Pkt) (merged : Bool) (gen dst : Nat) : List Nat :=
  let hdr := reqHeader k gen dst
  let bytes := if k.op = .rd then 0 else k.bytes
  if merged then
    (List.range (max 1 (bytes / 128))).map fun i => mergedFlit hdr (k.data / 2 ^ (1024 * i)) (k.poison / 2 ^ (8 * i)) 0
  else ctlFlit hdr (if datCount bytes = 0 then k.data % 2 ^ (8 * bytes) else 0) :: datFlits hdr bytes k.data k.poison

/-- The flits of the response from port `src` to a request. -/
def rspFlits (k : Pkt) (merged : Bool) (gen src status data poison : Nat) : List Nat :=
  let hdr := header (rspCode k) gen src k.src k.txn (sizeCode k.bytes) k.cls k.addr status
  let bytes := if k.op = .rd then k.bytes else 0
  if merged then
    (List.range (max 1 (bytes / 128))).map fun i => mergedFlit hdr (data / 2 ^ (1024 * i)) (poison / 2 ^ (8 * i)) 1
  else ctlFlit hdr (if datCount bytes = 0 then data % 2 ^ (8 * bytes) else 0) :: datFlits hdr bytes data poison

/-! ## Virtual channels (R359, R363) -/

/-- Virtual channels of a network, and flits a queue of one holds. -/
def vcCount (merged : Bool) : Nat := if merged then 8 else 4
def vcDepth (merged dat : Bool) : Nat := if !merged && !dat then 8 else 4

/-- The virtual channel of a packet by its class: snoops have channel 2, responses of the merged network channels 4 to 7. -/
def vcOf (merged rsp snoop : Bool) (cls : Nat) : Nat := if snoop then 2 else if merged && rsp then 4 + cls else cls

/-- The order in which an output serves its channels: control, sample, bulk, background, a response of the merged network
before the request of its class; a head flit that has waited 256 cycles comes first. -/
def vcOrder (merged : Bool) : List Nat := [2, 1, 0, 3].flatMap fun k => if merged then [4 + k, k] else [k]

/-- The channel served next, of those that hold a flit: `waited` gives the cycles its head has waited. -/
def vcNext (merged : Bool) (ready : List Nat) (waited : Nat → Nat) : Option Nat :=
  match ready.find? fun v => 256 ≤ waited v with
  | some v => some v
  | none => (vcOrder merged).find? ready.contains

/-- CLASS by the packet's source (R363): antenna channels, Press streams and the ring 1; control space, messages, snoops and
control caches 2; Steamer, Darner and trace 3; everything else 0. -/
inductive TrafficSource
  | channel | pressStream | ring | control | message | snoop | controlCache | steamer | darner | trace | other
  deriving DecidableEq, Repr

/-- The class of a source's packets. -/
def TrafficSource.cls : TrafficSource → Nat
  | .channel => 1 | .pressStream => 1 | .ring => 1
  | .control => 2 | .message => 2 | .snoop => 2 | .controlCache => 2
  | .steamer => 3 | .darner => 3 | .trace => 3
  | .other => 0

end Sys2Proof.Machine
end

