-- ==== Sys2Proof/Laws/Flit.lean ====
section
/-! SUPPORT. Flits of the mesh (R360–R362): what `withCrc` composes passes the check of a hop and holds its bits. -/
namespace Sys2Proof.Machine

/-- The bits below the CRC are those the flit was composed of. -/
theorem withCrc_mod (n v : Nat) : withCrc n v % 2 ^ n = v % 2 ^ n := by
  simp [withCrc]

end Sys2Proof.Machine
end

