-- ==== Sys2Proof/Laws/Memory.lean ====
section
/-! SUPPORT. Laws of memory: stored bytes are read back, others are left alone, and every operation keeps the canonical
form. -/
namespace Sys2Proof.Machine

variable (c : Chip)

/-! ## Bytes -/

@[simp] theorem Chip.wrBytes_nil (a : Nat) : c.wrBytes a [] = c := rfl

/-- Storing bytes leaves every byte outside them alone. -/
theorem Chip.rdByte_wrBytes_out (a x : Nat) (l : List Byte) (h : x < a ∨ a + l.length ≤ x) :
    (c.wrBytes a l).rdByte x = c.rdByte x := by
  fun_induction Chip.wrBytes c a l
  · rfl
  · rename_i ih
    simp only [List.length_cons] at h
    exact (ih (by omega)).trans (Tbl.get_set_ne _ _ _ _ _ _ (by omega))

/-- A stored byte is read back. -/
theorem Chip.rdByte_wrBytes_in (a k : Nat) (l : List Byte) (h : k < l.length) :
    (c.wrBytes a l).rdByte (a + k) = l[k] := by
  fun_induction Chip.wrBytes c a l generalizing k
  · simp at h
  · rename_i c a b r ih
    obtain _ | n := k
    · exact (Chip.rdByte_wrBytes_out _ (a + 1) a r (.inl (Nat.lt_succ_self a))).trans (by simp [Chip.rdByte])
    · simpa [Nat.add_assoc, Nat.add_comm 1] using ih n (by simpa using h)

/-- Storing bytes changes the bytes of memory and nothing else. -/
theorem Chip.wrBytes_eq (a : Nat) (l : List Byte) : ∃ m, c.wrBytes a l = c.withMem m := by
  fun_induction Chip.wrBytes c a l
  · exact ⟨_, rfl⟩
  · rename_i ih
    exact ih.imp fun _ hm => hm.trans rfl

/-! ## The canonical form -/

theorem Chip.wrBytes_wf (a : Nat) (l : List Byte) (h : Memory.wf c.mem = true) :
    Memory.wf (c.wrBytes a l).mem = true := by
  fun_induction Chip.wrBytes c a l
  · exact h
  · rename_i ih
    exact ih (Tbl.wf_set (fun _ => 0) _ _ _ h)

theorem Chip.hostWrite_wf (a : Nat) (l : List Byte) (h : Memory.wf c.mem = true) :
    Memory.wf (c.hostWrite a l).mem = true := by
  unfold Chip.hostWrite
  split
  · exact c.wrBytes_wf _ _ h
  · exact h

theorem Chip.clearRange_wf (a n : Nat) (h : Memory.wf c.mem = true) : Memory.wf (c.clearRange a n).mem = true := by
  have := Tbl.wf_eraseIf (fun _ => 0) c.mem (fun k => decide (a ≤ k) && decide (k < a + n)) h
  simpa [Chip.clearRange, Memory.wf] using this

theorem Chip.storeExport_wf (q : HostCmd) (h : Memory.wf c.mem = true) : Memory.wf (c.storeExport q).mem = true := by
  unfold Chip.storeExport
  split
  · exact h
  · refine Chip.wrBytes_wf _ _ _ (List.foldlRecOn (motive := fun x : Chip => Memory.wf x.mem = true) _ _ ?_
      fun x hx _ _ => x.wrBytes_wf _ _ hx)
    have := Tbl.wf_eraseIf (fun _ => 0) c.mem (fun k => decide (hostBase + q.w1 % 2 ^ 64 ≤ k)
      && decide (k < hostBase + q.w1 % 2 ^ 64 + storeBytes)) h
    simpa [Memory.wf] using this

/-- A reset wipes memory or keeps it, and keeps its form. -/
theorem Chip.wipe_wf (form : ResetForm) (h : Memory.wf c.mem = true) : Memory.wf (c.wipe form).mem = true := by
  have hs : ∀ x : Chip, x.cutStore.mem = x.mem := by
    intro x
    unfold Chip.cutStore
    split <;> rfl
  have hf : c.cutFuses.mem = c.mem := by
    unfold Chip.cutFuses
    split <;> rfl
  exact Tbl.wf_filter (fun _ => 0) _ _ (by rw [hs, hf]; exact h)

theorem State.reset_memory_wf : Memory.wf State.reset.chip.mem = true := by decide

end Sys2Proof.Machine
end

