-- ==== Sys2Proof/Laws/Plr.lean ====
section
/-! SUPPORT. Laws of the inputs of programmable logic: what a region sees at a pin (R420, R423). -/
namespace Sys2Proof.Machine

/-- A source that fires leaves what the logic sees as it is. -/
theorem Chip.pinSeen_pinFire (c : Chip) (p q : Nat) : (c.pinFire p).pinSeen q = c.pinSeen q := by
  have h (c : Chip) (v i : Nat) : (c.wr F.PLR_IRQ_STAT_FIRED v i).rd F.PLR_BANK_CFG_SUPPLY_OK (q / 24)
      = c.rd F.PLR_BANK_CFG_SUPPLY_OK (q / 24) := c.rd_wr_id _ _ _ _ _ _ _ (by decide)
  have w (c : Chip) (x : PlrSt) : (c.withPlr x).rd F.PLR_BANK_CFG_SUPPLY_OK (q / 24)
      = c.rd F.PLR_BANK_CFG_SUPPLY_OK (q / 24) := rfl
  unfold Chip.pinFire Chip.when
  dsimp only
  split <;> (simp only [Chip.pinSeen, Chip.flag, w, h]; rfl)

/-- A filtered level that makes a source fire is what the logic then sees. -/
theorem Chip.pinSeen_of_fires (c : Chip) (p : Nat) (lvl : Bool) (h : (c.pinInput p lvl).2 = true) :
    (c.pinInput p lvl).1.pinSeen p = lvl := by
  have base (e : Tbl Nat) (hs : c.flag F.PLR_BANK_CFG_SUPPLY_OK (p / 24) = true) :
      (c.withPlr { c.plr with levels := Tbl.set c.plr.levels p (b2n lvl) 0, edges := e }).pinSeen p = lvl := by
    show (c.flag F.PLR_BANK_CFG_SUPPLY_OK (p / 24) && Tbl.get (Tbl.set c.plr.levels p (b2n lvl) 0) p 0 == 1) = lvl
    rw [Tbl.get_set_same, hs]
    cases lvl <;> rfl
  revert h
  unfold Chip.pinInput
  split
  · simp
  · rename_i h
    simp only [Bool.or_eq_true, Bool.not_eq_true', not_or, Bool.not_eq_false] at h
    dsimp only
    repeat' split
    all_goals first
      | (intro h'; simp at h'; done)
      | (intro _; rw [Chip.pinSeen_pinFire]; exact base _ h.1)

end Sys2Proof.Machine
end

