-- ==== Sys2Proof/Laws/Routes.lean ====
section
/-! SUPPORT. Dimension-order routes: every walk arrives, and shadow tables that hold them are accepted (R364, R365). -/
namespace Sys2Proof.Machine

/-- Along a column every router is left within its distance. -/
theorem walkOk_column (n r t : Nat) (b : Bool) (hr : r < 80) (ht : t < 80) (h : r % 8 = t % 8)
    (hn : r / 8 ≤ t / 8 + n ∧ t / 8 ≤ r / 8 + n) : walkOk dimOrder n r t b = true := by
  induction n generalizing r b with
  | zero =>
    have : dimOrder r t = 4 := by simp only [dimOrder]; split_ifs <;> omega
    have : r = t := by omega
    simp_all [walkOk]
  | succ n ih =>
    by_cases e : r = t
    · simp [walkOk, e, dimOrder]
    · by_cases l : r / 8 < t / 8
      · have ho : dimOrder r t = 2 := by simp only [dimOrder]; split_ifs <;> omega
        have hs : routerStep r 2 = some (r + 8) := by simp [routerStep]; omega
        simp [walkOk, ho, hs]
        exact ih _ _ (by omega) (by omega) (by omega)
      · have ho : dimOrder r t = 0 := by simp only [dimOrder]; split_ifs <;> omega
        have hs : routerStep r 0 = some (r - 8) := by simp [routerStep]; omega
        simp [walkOk, ho, hs]
        exact ih _ _ (by omega) (by omega) (by omega)

/-- Along dimension order every router is left within 24 hops, the westward ones first (R364). -/
theorem walkOk_dimOrder (n r t : Nat) (hr : r < 80) (ht : t < 80)
    (hn : r % 8 ≤ t % 8 + n ∧ t % 8 ≤ r % 8 + n) (b : Bool) (hb : b = true → r % 8 ≤ t % 8) :
    walkOk dimOrder (n + 10) r t b = true := by
  induction n generalizing r b with
  | zero => exact walkOk_column 10 r t b hr ht (by omega) (by omega)
  | succ n ih =>
    rcases Nat.lt_trichotomy (r % 8) (t % 8) with l | l | l
    · have ho : dimOrder r t = 1 := by simp only [dimOrder]; split_ifs; rfl
      have hs : routerStep r 1 = some (r + 1) := by simp [routerStep]; omega
      rw [show n + 1 + 10 = n + 10 + 1 by omega]
      rw [walkOk]
      simp only [ho, hs]
      exact ih (r + 1) (by omega) (by omega) _ (by omega)
    · exact walkOk_column _ r t b hr ht l (by omega)
    · have ho : dimOrder r t = 3 := by simp only [dimOrder]; split_ifs <;> omega
      have hs : routerStep r 3 = some (r - 1) := by simp [routerStep]; omega
      have hb' : b = false := by
        cases b
        · rfl
        · have := hb rfl; omega
      subst hb'
      rw [show n + 1 + 10 = n + 10 + 1 by omega]
      rw [walkOk]
      simp only [ho, hs]
      exact ih (r - 1) (by omega) (by omega) _ (by simp)

/-- A walk looks at the routes towards its target alone. -/
theorem walkOk_congr (f g : Nat → Nat → Nat) (t : Nat) (h : ∀ r < 80, f r t = g r t) (n r : Nat) (b : Bool)
    (hr : r < 80) : walkOk f n r t b = walkOk g n r t b := by
  induction n generalizing r b with
  | zero => simp [walkOk, h r hr]
  | succ n ih =>
    have hs : ∀ o r', routerStep r o = some r' → r' < 80 := by
      intro o r' ho
      unfold routerStep at ho
      split at ho
      all_goals first | (split at ho <;> simp at ho; omega) | simp at ho
    simp only [walkOk, h r hr]
    cases e : routerStep r (g r t) with
    | none => rfl
    | some r' => simp [ih r' _ (hs _ _ e)]

/-- The entry of a route table for each of its 16 targets. -/
theorem dimOrderWord_nibble (r q : Nat) (k : Nat) (hk : k < 16) (hq : 16 * q + k < 80) :
    bits (dimOrderWord r q) (4 * k + 3) (4 * k) = dimOrder r (16 * q + k) := by
  have hd : ∀ x, (if 16 * q + x < 80 then dimOrder r (16 * q + x) else 0) < 16 := by
    intro x
    split
    · simp only [dimOrder]; split_ifs <;> omega
    · omega
  have key : ∀ (l : List Nat) (f : Nat → Nat) (k : Nat), (∀ x, f x < 16) → (hk : k < l.length) →
      l.foldr (fun k acc => acc * 16 + f k) 0 / 16 ^ k % 16 = f l[k] := by
    intro l f
    induction l with
    | nil => intro k _ hk; simp at hk
    | cons a l ih =>
      intro k hf hk
      cases k with
      | zero => have := hf a; simp; omega
      | succ k =>
        have := ih k hf (by simpa using hk)
        have ha := hf a
        simp only [List.foldr_cons, List.getElem_cons_succ]
        rw [Nat.pow_succ', ← Nat.div_div_eq_div_mul, ← this]
        congr 2
        omega
  have := key (List.range 16) _ k hd (by simpa using hk)
  have e : (2 : Nat) ^ (4 * k) = 16 ^ k := by rw [Nat.pow_mul]
  simp only [List.getElem_range, if_pos hq] at this
  simpa [bits, dimOrderWord, e, show 4 * k + 3 + 1 - 4 * k = 4 by omega] using this

/-- Shadow tables in dimension order are accepted (R365). -/
theorem Chip.shadowOk_of (c : Chip) (h : ∀ r q, c.rd F.FAB_RT_SHADOW_ENTRY r q = dimOrderWord r q) :
    c.shadowOk = true := by
  simp only [Chip.shadowOk, List.all_eq_true, List.mem_range]
  intro r hr t ht
  have hf : ∀ r < 80, c.shadowRoute r t = dimOrder r t := by
    intro r _
    have := dimOrderWord_nibble r (t / 16) (t % 16) (by omega) (by omega)
    rw [Chip.shadowRoute, h, this, show 16 * (t / 16) + t % 16 = t by omega]
  rw [walkOk_congr _ dimOrder t hf 24 r false hr]
  exact walkOk_dimOrder 14 r t hr ht (by omega) false (by simp)
end Sys2Proof.Machine
end

