-- ==== Sys2Proof/Laws/Store.lean ====
section
/-! SUPPORT. What leaves the contents of every memory alone (bytes, poison flags, stored errors): the updates every command
is made of, power requests, and the accesses that are refused. -/
namespace Sys2Proof.Machine

/-- The memories of `d` hold what those of `c` hold. -/
def Chip.sameStore (c d : Chip) : Prop := d.mem = c.mem ∧ d.poison = c.poison ∧ d.upset = c.upset

variable (c : Chip)

theorem Chip.sameStore_refl : c.sameStore c := ⟨rfl, rfl, rfl⟩

theorem Chip.sameStore_trans {a b d : Chip} (h : a.sameStore b) (k : b.sameStore d) : a.sameStore d :=
  ⟨k.1.trans h.1, k.2.1.trans h.2.1, k.2.2.trans h.2.2⟩

theorem Chip.sameStore_rdByte {c d : Chip} (h : c.sameStore d) (a : Nat) : d.rdByte a = c.rdByte a := by
  simp [Chip.rdByte, h.1]

theorem Chip.sameStore_decodeAt {c d : Chip} (h : c.sameStore d) (a : Nat) : d.decodeAt a = c.decodeAt a := by
  have hb : ∀ n x, d.rdBytes x n = c.rdBytes x n := by
    intro n
    induction n with
    | zero => intro x; rfl
    | succ m ih => intro x; simp [Chip.rdBytes, Chip.sameStore_rdByte h, ih]
  simp [Chip.decodeAt, Chip.stored, h.2.1, h.2.2, hb]

/-! ## Compositions -/

/-- A fold keeps the memories when each of its steps does. -/
theorem Chip.sameStore_foldl {α : Type} (f : Chip → α → Chip) (hf : ∀ (c : Chip) x, c.sameStore (f c x)) (l : List α) :
    c.sameStore (l.foldl f c) :=
  List.foldlRecOn l f c.sameStore_refl fun d hd x _ => Chip.sameStore_trans hd (hf d x)

theorem Chip.sameStore_when (b : Bool) (f : Chip → Chip) (hf : c.sameStore (f c)) : c.sameStore (c.when b f) := by
  cases b
  · exact c.sameStore_refl
  · exact hf

theorem Chip.sameStore_ite (p : Prop) [Decidable p] (x y : Chip) (hx : p → c.sameStore x) (hy : ¬p → c.sameStore y) :
    c.sameStore (if p then x else y) := by
  split
  · exact hx ‹_›
  · exact hy ‹_›

/-! ## Updates of registers and outputs -/

@[simp] theorem Chip.sameStore_wr (f : Fld) (v i j : Nat) : c.sameStore (c.wr f v i j) := ⟨rfl, rfl, rfl⟩
@[simp] theorem Chip.sameStore_setFlag (f : Fld) (b : Bool) (i j : Nat) : c.sameStore (c.setFlag f b i j) := ⟨rfl, rfl, rfl⟩
@[simp] theorem Chip.sameStore_incSat (f : Fld) (i j n : Nat) : c.sameStore (c.incSat f i j n) := ⟨rfl, rfl, rfl⟩
@[simp] theorem Chip.sameStore_incMod (f : Fld) (i j n : Nat) : c.sameStore (c.incMod f i j n) := ⟨rfl, rfl, rfl⟩
@[simp] theorem Chip.sameStore_emit (o : Out) : c.sameStore (c.emit o) := ⟨rfl, rfl, rfl⟩

@[simp] theorem Chip.sameStore_clrFields (fs : List Fld) (i j : Nat) : c.sameStore (c.clrFields fs i j) :=
  c.sameStore_foldl _ (fun c f => c.sameStore_wr f 0 i j) fs

@[simp] theorem Chip.sameStore_report (p : Port) (st : Status) : c.sameStore (c.report p st) :=
  ⟨c.report_mem p st, c.report_poison p st, c.report_upset p st⟩

@[simp] theorem Chip.sameStore_showAlert : c.sameStore c.showAlert :=
  ⟨c.showAlert_mem, c.showAlert_poison, c.showAlert_upset⟩

@[simp] theorem Chip.sameStore_settle : c.sameStore c.settle := ⟨c.settle_mem, c.settle_poison, c.settle_upset⟩

/-! ## Guarded writes and action bits -/

theorem Chip.sameStore_guarded (p : Port) (m : Nat) (f : Chip → Chip) (hf : ∀ c : Chip, c.sameStore (f c)) :
    c.sameStore (c.guarded p m f) := by
  unfold Chip.guarded
  exact c.sameStore_ite _ _ _ (fun _ => hf c) fun _ => c.sameStore_report _ _

theorem Chip.sameStore_action (p : Port) (m : Nat) (f : Chip → Chip) (hf : ∀ c : Chip, c.sameStore (f c)) :
    c.sameStore (c.action p m f) := by
  unfold Chip.action
  exact c.sameStore_guarded p m _ fun c => Chip.sameStore_trans (hf c) (Chip.sameStore_report _ _ _)

theorem Chip.sameStore_w1sStart (f : Fld) (i j : Nat) (act : Chip → Chip) (hf : ∀ c : Chip, c.sameStore (act c)) :
    c.sameStore (c.w1sStart f i j act) := by
  unfold Chip.w1sStart
  refine c.sameStore_ite _ _ _ (fun _ => ?_) fun _ => Chip.sameStore_trans (c.sameStore_wr f 1 i j) (hf _)
  exact c.sameStore_ite _ _ _ (fun _ => c.sameStore_refl) fun _ => ⟨rfl, rfl, rfl⟩

theorem Chip.sameStore_w1sEnd (f : Fld) (i j : Nat) (act : Chip → Chip) (hf : ∀ c : Chip, c.sameStore (act c)) :
    c.sameStore (c.w1sEnd f i j act) := by
  unfold Chip.w1sEnd
  dsimp only
  refine c.sameStore_ite _ _ _ (fun _ => ?_) fun _ => c.sameStore_wr f 0 i j
  exact Chip.sameStore_trans (b := ((c.wr f 0 i j).withAgain _).wr f 1 i j) ⟨rfl, rfl, rfl⟩ (hf _)

/-! ## Power requests (R453–R455) -/

theorem Chip.sameStore_domHold (d st : Nat) (hw : Bool) : c.sameStore (c.domHold d st hw) := by
  unfold Chip.domHold
  exact Chip.sameStore_trans (c.sameStore_when _ _ ⟨rfl, rfl, rfl⟩) ⟨rfl, rfl, rfl⟩

theorem Chip.sameStore_linksToLp (d : Nat) : c.sameStore (c.linksToLp d) := by
  unfold Chip.linksToLp
  split
  · exact ⟨rfl, rfl, rfl⟩
  · exact c.sameStore_refl

theorem Chip.sameStore_domStart (d st : Nat) (now : Bool) : c.sameStore (c.domStart d st now) := by
  unfold Chip.domStart
  refine c.sameStore_ite _ _ _ (fun _ => ⟨rfl, rfl, rfl⟩) fun _ => ?_
  refine c.sameStore_ite _ _ _ (fun _ => ?_) fun _ => ⟨rfl, rfl, rfl⟩
  exact Chip.sameStore_trans (b := _) ⟨rfl, rfl, rfl⟩ (Chip.sameStore_linksToLp _ d)

theorem Chip.sameStore_domReq (d st : Nat) (hw : Bool) : c.sameStore (c.domReq d st hw).1 := by
  unfold Chip.domReq
  repeat' split
  all_goals first
    | exact ⟨rfl, rfl, rfl⟩
    | exact c.sameStore_domHold d st hw
    | exact c.sameStore_domStart d st false

theorem Chip.sameStore_hwWake (d : Nat) : c.sameStore (c.hwWake d) := by
  unfold Chip.hwWake
  repeat' split
  all_goals first
    | exact c.sameStore_refl
    | exact c.sameStore_domReq d dOn true

/-! ## What an access does before it reaches its word -/

theorem Chip.sameStore_meet (k : Nat) : c.sameStore (c.meet k) := by
  unfold Chip.meet
  exact c.sameStore_ite _ _ _ (fun _ => c.sameStore_refl) fun _ => ⟨rfl, rfl, rfl⟩

theorem Chip.sameStore_wakeFor (a : Nat) : c.sameStore (c.wakeFor a) := by
  unfold Chip.wakeFor
  split
  · rename_i d _
    refine c.sameStore_ite _ _ _ (fun _ => c.sameStore_refl) fun _ => ?_
    exact Chip.sameStore_trans (c.sameStore_when _ _ (c.sameStore_hwWake d)) (Chip.sameStore_meet _ _)
  · exact c.sameStore_refl

theorem Chip.sameStore_setRetPhase (k : Nat) (p : RetPhase) : c.sameStore (c.setRetPhase k p) := by
  unfold Chip.setRetPhase
  exact c.sameStore_ite _ _ _ (fun _ => ⟨rfl, rfl, rfl⟩) fun _ => ⟨rfl, rfl, rfl⟩

theorem Chip.sameStore_retRouse (k : Nat) : c.sameStore (c.retRouse k) := by
  have hl : ∀ (c : Chip) k, c.sameStore (c.retLeave k) := by
    intro c k
    unfold Chip.retLeave
    exact c.sameStore_ite _ _ _ (fun _ => c.sameStore_setRetPhase k .leaving) fun _ => c.sameStore_refl
  have hc : ∀ (c : Chip) k, c.sameStore (c.clrRetReq k) := by
    intro c k
    unfold Chip.clrRetReq
    exact c.sameStore_ite _ _ _ (fun _ => ⟨rfl, rfl, rfl⟩) fun _ => ⟨rfl, rfl, rfl⟩
  unfold Chip.retRouse
  exact c.sameStore_ite _ _ _ (fun _ => Chip.sameStore_trans (hc c _) (Chip.sameStore_trans (Chip.sameStore_incMod _ _ _ _ _) (hl _ _)))
    fun _ => c.sameStore_refl

theorem Chip.sameStore_retWake (a : Nat) : c.sameStore (c.retWake a) := by
  unfold Chip.retWake
  split
  · exact c.sameStore_refl
  · exact c.sameStore_ite _ _ _ (fun _ => c.sameStore_refl) fun _ =>
      Chip.sameStore_trans (c.sameStore_retRouse _) (Chip.sameStore_meet _ _)

theorem Chip.sameStore_fillWait (a : Nat) : c.sameStore (c.fillWait a) := by
  unfold Chip.fillWait
  exact c.sameStore_ite _ _ _ (fun _ => c.sameStore_meet _) fun _ => c.sameStore_refl

/-- A refused access is counted where it is NOT_OWNER, and changes no memory. -/
theorem Chip.sameStore_countRefusal (s : Status) : c.sameStore (c.countRefusal s) :=
  c.sameStore_when _ _ ⟨rfl, rfl, rfl⟩

/-! ## A word write -/

@[simp] theorem Chip.wrBytes_withMem_mem (a : Nat) (l : List Byte) (c d : Chip) (h : d.mem = c.mem) :
    (d.wrBytes a l).mem = (c.wrBytes a l).mem := by
  induction l generalizing a c d with
  | nil => exact h
  | cons b r ih => exact ih _ _ _ (by simp [h])

theorem Chip.writeStored_mem (a d : Nat) (p : Bool) :
    (c.writeStored a d p).mem = (c.wrBytes a (toBytes 16 d)).mem := by
  unfold Chip.writeStored
  dsimp only
  split <;> rfl

/-- A refused word write stores nothing. -/
theorem Chip.writeWord_refused (w : Who) (addr d : Nat) (p : Bool) (h : c.accessStatus w addr ≠ .ok) :
    c.writeWord w addr d p = (c.countRefusal (c.accessStatus w addr), c.accessStatus w addr) := by
  unfold Chip.writeWord
  split
  · exact absurd ‹_› h
  · rfl

/-- A word write that is not refused stores the 16 bytes of its word. Left out here: poisoned data for the host, which posts an
event besides, and host memory that a reset has taken from under the write (R99). -/
theorem Chip.writeWord_ok (w : Who) (addr d : Nat) (p : Bool) (h : c.accessStatus w addr = .ok)
    (hp : onDevice addr = true ∨ p = false ∧ ∀ bus, regionOf addr = .host bus → c.hostDrops bus 16 = false) :
    (c.writeWord w addr d p).2 = .ok ∧
    (c.writeWord w addr d p).1.mem = (c.wrBytes (wordAddr (addr % 2 ^ 48)) (toBytes 16 d)).mem := by
  unfold Chip.writeWord
  rw [h]
  dsimp only
  split
  · rename_i bus hr
    obtain hp | ⟨rfl, hp⟩ := hp
    · simp [onDevice, hr] at hp
    · simp [hp bus hr, Chip.wrHostWord, Chip.hostPoison, Chip.when]
  · refine ⟨rfl, ?_⟩
    rw [Chip.writeStored_mem]
    exact Chip.wrBytes_withMem_mem _ _ _ _
      (Chip.sameStore_trans (Chip.sameStore_trans (c.sameStore_wakeFor _) (Chip.sameStore_retWake _ _)) (Chip.sameStore_fillWait _ _)).1

end Sys2Proof.Machine
end

