-- ==== Sys2Proof/WellFormed.lean ====
section
/-! DEFINITION. Which terms are commands of the device: requesters, packets and operands within the ranges the spec gives
them. An operand whose type already bounds it needs no check. -/
namespace Sys2Proof

/-- Functions 0–63, engines 0–255, regions 0–7. -/
def Port.ok (p : Port) : Bool :=
  match p with
  | .host fn => decide (fn < 64)
  | .engine e => decide (e < 256)
  | .plr r => decide (r < 8)
  | .mgmt => true
  | .jtag => true
  | .clothesline => true
  | .dev => true

/-- A packet whose fields fit the header of R360: a port, a tag of 10 bits, a class, an address of 48 bits, 4 or 8 bytes or
whole words up to the block operations of R361. -/
def Pkt.ok (k : Pkt) : Bool :=
  decide (k.src < 320) && decide (k.txn < 1024) && decide (k.cls < 4) && decide (k.addr < 2 ^ 48)
    && (k.bytes == 4 || k.bytes == 8 || (k.bytes % 16 == 0 && decide (k.bytes ≤ 256)))
    && decide (k.data < 2 ^ (8 * k.bytes)) && decide (k.poison < 2 ^ 16) && k.by_.all Port.ok

/-- A symbol of a frame of any carrier. -/
def DevAct.ok (a : DevAct) : Bool :=
  match a with
  | .txStage _ _ sym _ => decide (sym < 2 ^ 16)
  | .windowOpen _ _ => true
  | .windowEnd _ => true
  | .paEdge _ _ _ => true
  | .emergencyEnd _ => true
  | .exchange _ => true
  | .soakPrewake => true
  | .soakTx _ => true

/-- An access of DEBUG_ACCESS to an address of 48 bits. -/
def DebugAcc.ok (a : DebugAcc) : Bool := decide (a.addr < 2 ^ 48) && decide (a.bytes ≤ 128) && decide (a.data < 2 ^ (8 * a.bytes))

/-- A memory block of R419: one of 128, a mode of the table, a width of the table (RAM has the word's), at most 288 words. -/
def PlrBlkImg.ok (x : PlrBlkImg) : Bool :=
  decide (x.blk < 128) && decide (1 ≤ x.mode) && decide (x.mode ≤ 4) && [8, 16, 32, 64, 128].contains x.width
    && (x.mode != 1 || x.width == 128) && decide (x.init.length ≤ 288) && x.init.all fun w => decide (w < 2 ^ 128)

/-- An image's pins are the pins the device has (R420), IOSTD, DIR, DRIVE and slew within their fields; its memory blocks are
those of R419. -/
def PlrImage.ok (m : PlrImage) : Bool :=
  decide (m.id < 2 ^ 32) && (m.pins.all fun p =>
    decide (p.pin < 144) && decide (p.iostd < 16) && decide (p.dir < 4) && decide (p.drive < 4) && decide (p.slew < 2))
    && m.blocks.all PlrBlkImg.ok

/-- A marker of 128 bits and 8,064 bits of payload (R108). -/
def LaneFrame.ok (f : LaneFrame) : Bool := decide (f.marker < 2 ^ 128) && decide (f.payload < 2 ^ 8064)

/-- The command's operands are within their ranges. -/
def Instr.wellFormed (i : Instr) : Bool :=
  match i with
  | .registerWrite by_ _ bytes value => by_.ok && decide (bytes ≤ 128) && decide (value < 2 ^ 64)
  | .powerOnReset | .pinReset _ _ => true
  | .warmReset by_ _ => by_.ok
  | .pcieReset => true
  | .resetRelease straps => decide (straps < 2 ^ 32)
  | .relayReached => true
  | .modeReqRelay by_ _ => by_.ok
  | .modeReqVerify by_ _ => by_.ok
  | .modeReqService by_ _ => by_.ok
  | .modeReqShed by_ _ => by_.ok
  | .modeReqSoak by_ _ => by_.ok
  | .modeReqQuiesce by_ _ => by_.ok
  | .modeReqTest by_ _ => by_.ok
  | .hwShedExit | .transitionComplete | .drainEnd | .drainTimeout => true
  | .modePendCancel by_ => by_.ok
  | .modePendCntClr by_ => by_.ok
  | .hifVersionWrite by_ _ value => by_.ok && decide (value < 2 ^ 64)
  | .ringEnable by_ _ _ value => by_.ok && decide (value < 2 ^ 64)
  | .ringReset by_ _ _ => by_.ok
  | .ringResetComplete _ _ => true
  | .fnResetAll by_ _ => by_.ok
  | .cmdDoorbell _ off bytes value => decide (off < 4096) && decide (bytes ≤ 128) && decide (value < 2 ^ 64)
  | .cplDoorbell _ off bytes value => decide (off < 4096) && decide (bytes ≤ 128) && decide (value < 2 ^ 64)
  | .eventDoorbell _ off bytes value => decide (off < 4096) && decide (bytes ≤ 128) && decide (value < 2 ^ 64)
  | .commandFetch _ _ _ | .ulSlot _ _ | .dlSlot _ _ | .nop _ _ | .calStoreExport _ _ | .calStoreImport _ _
  | .attestReport _ _ | .imageLoadLoad _ _ | .imageLoadFlash _ _ | .imageLoadCommit _ _ | .imageLoadErase _ _
  | .itemTableRead _ _ _ | .hostWriteFailed _ _ | .completionPost _ _ | .coalesceTimeout _ _
  | .msixUnmask _ _ => true
  | .linkEnable by_ _ => by_.ok
  | .linkDisable by_ _ => by_.ok
  | .linkRetrainReq by_ _ => by_.ok
  | .ecvCntClr by_ _ => by_.ok
  | .linkStormClear by_ _ => by_.ok
  | .clkLaneDetected _ | .clkLockAchieved _ | .bitLockDone _ _ | .alignDone _ | .capsComplete _ | .rateUpDone _
  | .retrainRelockDone _ | .trainStateTimeout _ | .holdRetryTimer _ => true
  | .frameReceive _ lanes _ => lanes.all LaneFrame.ok
  | .losAssert _ | .losDeassert _ | .lolAssert _ | .lolDeassert _ | .linkLossTimeout _ => true
  | .sampleCfgWrite by_ _ value => by_.ok && decide (value < 2 ^ 64)
  | .sbCapsLo _ | .sbCapsHi _ | .sbAck _ | .sbNak _ | .sbRateGo _ | .sbLpEnter _ | .sbTelem _ | .sbTileAlarm _
  | .sbTtTx _ | .sbTtRx _ | .sbTtTick _ | .sbRingState _ | .sbAckTimeout _ _ | .lpTxEnter _ => true
  | .lpIdleNow by_ _ value => by_.ok && decide (value < 2 ^ 64)
  | .lpTxExit _ | .wakePatternSeen _ | .lpRxExit _ | .listenComplete _ _ | .listenNoSignalTimeout _ => true
  | .ringMessageReceive _ words => words.all fun w => decide (w < 2 ^ 128)
  | .ringStateTimer | .peerChangeApply | .slotBoundary _ | .symbolBoundary _ | .frameBoundary => true
  | .commitGo by_ _ tick => by_.ok && decide (tick < 2 ^ 32)
  | .achLeave by_ _ => by_.ok
  | .achReadmit by_ _ => by_.ok
  | .achReadmitHeldStart _ => true
  | .achCntClr by_ _ => by_.ok
  | .rxSymbolDone _ _ sym _ => decide (sym < 2 ^ 16)
  | .gainSymbolMeasured _ | .gainStepApply _ => true
  | .achTxStageStart _ _ sym _ => decide (sym < 2 ^ 16)
  | .txWindowOpen _ _ | .txWindowEnd _ | .paEdge _ _ _ | .emergencyRampEnd _ => true
  | .brEnable by_ _ value => by_.ok && decide (value < 2 ^ 64)
  | .brDisable by_ _ value => by_.ok && decide (value < 2 ^ 64)
  | .brStopComplete _ | .brOccasionStart _ | .brWindowEval _ _ | .brGainBlock _ _ | .brReceptionClose _ _ _
  | .brSoakSpanEnd _ => true
  | .brCntClr by_ value => by_.ok && decide (value < 2 ^ 64)
  | .aeMatmul _ | .aeGram _ | .aeJdMfSend _ | .aeJdGramSend _ | .aeJdReqSend _ | .aeCommandRead _ | .aeTileDone _ _
  | .aeCommandComplete _ | .aeJdWaitTimeout _ => true
  | .aeResInject by_ _ => by_.ok
  | .aeCntClr by_ _ => by_.ok
  | .aeJdCntClr by_ => by_.ok
  | .aeMemCopyDone | .ldpcDec _ | .ldpcEnc _ | .polarDec _ | .polarEnc _ | .turboDec _ | .turboEnc _ | .convDec _
  | .convEnc _ | .codeHarqEntryRead _ | .codeBlockDone _ | .codeJobComplete _ => true
  | .harqFlush by_ => by_.ok
  | .harqFlushComplete | .harqTtlSweep => true
  | .codeCntClr by_ => by_.ok
  | .despreadPeriodEnd _ _ _ | .guardExchange _ => true
  | .sweepComplete res => res.all fun r => decide (r.ant < 256)
  | .tempReadTimer => true
  | .calStoreSave by_ value => by_.ok && decide (value < 2 ^ 64)
  | .calStoreWriteComplete | .eraseLeftoverDone => true
  | .calCntClr by_ => by_.ok
  | .issueGroup _ _ | .loadDataArrive _ _ | .storeAck _ _ | .ccFillComplete _ | .ccWritebackComplete _
  | .interruptTaken _ | .holdoffOverrun _ | .tcmpTimer _ => true
  | .ccCleanAll by_ _ => by_.ok
  | .cluCcCntClr by_ _ => by_.ok
  | .engHalt by_ _ => by_.ok
  | .engStep by_ _ => by_.ok
  | .engResume by_ _ => by_.ok
  | .engMboxWrite by_ _ value => by_.ok && decide (value < 2 ^ 64)
  | .taskAccept addr => decide (addr < 2 ^ 48)
  | .sqDoorbell by_ _ value => by_.ok && decide (value < 2 ^ 64)
  | .sqCfgWrite by_ _ value => by_.ok && decide (value < 2 ^ 64)
  | .sqDescriptorRead _ | .dispatch | .taskComplete _ _ _ | .foldRelease _ | .taskDeadlinePassed | .taskHang => true
  | .relRdWrite by_ _ value => by_.ok && decide (value < 2 ^ 64)
  | .bundleLoad by_ _ addr => by_.ok && decide (addr < 2 ^ 48)
  | .bundleUnload by_ _ => by_.ok
  | .bundleLoadComplete => true
  | .clSubmit by_ value => by_.ok && decide (value < 2 ^ 64)
  | .clEntryInsert => true
  | .clCancel by_ value => by_.ok && decide (value < 2 ^ 64)
  | .clFireTask | .clFirePower | .clFireWrite32 => true
  | .clFireDevice act => act.ok
  | .schedLeave by_ _ => by_.ok
  | .schedReadmit by_ _ => by_.ok
  | .schedSubst by_ _ => by_.ok
  | .unitDrainComplete _ | .spareSelftestDone _ _ | .unitAdmitComplete _ => true
  | .routeChange by_ gen => by_.ok && decide (gen < 2 ^ 32)
  | .routeDrainComplete | .routeChangeTimeout => true
  | .packetArrive pkt _ _ => pkt.ok
  | .flitCrcFail _ _ _ | .portIsolate _ => true
  | .fabReadmit by_ port => by_.ok && decide (port < 2 ^ 32)
  | .fabProbeResult _ => true
  | .bankHandover by_ _ _ value => by_.ok && decide (value < 2 ^ 64)
  | .handoverApply => true
  | .retRequestWrite by_ _ value => by_.ok && decide (value < 2 ^ 64)
  | .bankRetainEnter _ | .bankRetainDone _ | .hbmFillComplete => true
  | .memCntClr by_ => by_.ok
  | .darnerRepair _ | .patrolRead | .patrolPeriodStart | .tmrCheck _ | .bucketUpdate => true
  | .integInjectArm by_ value => by_.ok && decide (value < 2 ^ 64)
  | .integCntClr by_ => by_.ok
  | .plrLoadStart _ img => img.ok
  | .plrDrainTimeout _ | .plrFramesDone _ _ | .plrCheckDone _ _ => true
  | .plrUnload by_ _ => by_.ok
  | .plrTaskAccept _ | .plrTaskDone _ _ _ => true
  | .plrMasterRequest _ _ addr bytes data poison => decide (addr < 2 ^ 48) && decide (bytes ≤ 128) && decide (data < 2 ^ 1024) && decide (poison < 2 ^ 8)
  | .plrPoisonPulse _ _ | .plrInputFire _ _ | .plrStormCheck => true
  | .plrStormUnmask by_ _ value => by_.ok && decide (value < 2 ^ 64)
  | .bankSupplyChange _ mv => decide (mv < 2 ^ 16)
  | .plrCntClr by_ => by_.ok
  | .ethFrameReceive _ f => decide (f.bytes < 2 ^ 16) && decide (f.fec < 2 ^ 16)
  | .uplaneReceive _ m => decide (m.eaxc < 2 ^ 16) && decide (m.seq < 2 ^ 16) && decide (m.frame < 256)
  | .uplaneWindowClose _ _ _ sym => decide (sym < 2 ^ 16)
  | .cplaneSend _ _ count => decide (count < 2 ^ 32)
  | .prachCplaneSend _ slot => decide (slot < 2 ^ 16)
  | .uplaneSend _ _ sym _ => decide (sym < 2 ^ 16)
  | .ruEnable by_ _ value => by_.ok && decide (value < 2 ^ 64)
  | .owdRequest by_ _ => by_.ok
  | .owdResponse _ _ | .owdTimeout _ | .ptpMessageReceive _ _ | .ptpSendTimer _ _ | .esmcSendTimer _
  | .esmcReceive _ _ | .esmcTimeout _ | .ppsInEdge _ | .ppsInLoss | .ppsOutEdge | .timeLockTimer | .revertWtrTimer
  | .timeAlarm | .ringHoldTimer => true
  | .domainRequest by_ _ _ => by_.ok
  | .domainIdle _ | .domainIdleTimeout _ | .mangleRampDone | .domainWakeDone _ | .domainEntryDone _ => true
  | .domPendCancel by_ _ => by_.ok
  | .domPendCntClr by_ _ => by_.ok
  | .shedStageEnter _ _ | .shedStageClear _ | .pwrWarnAssert | .pwrWarnDeassert _ => true
  | .shedStageClrWrite by_ _ => by_.ok
  | .soakTx _ | .soakDomainReturn | .soakWake _ _ | .soakMaxSleepTimer => true
  | .imageVerifyDone code => code.all fun r => decide (r.cluster < 16) && decide (r.groups.length ≤ 16384)
  | .hostDone by_ => by_.ok
  | .hostImageTimeout => true
  | .newNonce by_ => by_.ok
  | .fuseProgramDone | .attestSignDone | .flashOpDone | .pllLol _ | .pllRelock _ | .refclkLoss _ => true
  | .sensorRound temps volts => temps.length == 66 && volts.length == 16
  | .avsTimeout => true
  | .ageingCompute counts _ => counts.length == 32
  | .i2cRead32 _ | .i2cWrite32 _ _ | .i2cRead64 _ | .i2cWrite64 _ _ | .i2cWarmReset _ | .i2cWake | .i2cStatus
  | .jtagReset | .jtagBypass | .jtagIdcode | .jtagSamplePreload _ _ | .jtagExtest _ _ | .jtagClamp | .jtagHighz
  | .jtagExtestPulse _ _ | .jtagExtestTrain _ _ => true
  | .jtagDebugAccess acc => acc.all DebugAcc.ok
  | .supplyLoss _ | .brownOutRelease | .ttFrameSend _ _ | .sbUnsupportedCmd _ | .ethLinkChange _ _
  | .osc10mPresenceChange | .refclkReturn _ | .pcieLinkUp _ _ _ => true

end Sys2Proof
end

