-- ==== Sys2Proof/Tests/Slice0.lean ====
section
/-! SUPPORT. The author's tests: ill-formed commands are refused; worked examples and tables of the spec hold of the model;
for every statement with hypotheses, a theorem `witness_<statement>` with states and operands that meet them, one clause
after the other. -/
namespace Sys2Proof.Tests
open Sys2Proof.Machine
set_option Elab.async false
set_option linter.unusedVariables false

/-! ### Well-formed commands -/

/-- Commands with one operand out of its range each. -/
def illFormed1 : List Instr :=
    [.registerWrite (.host 64) 0 0 0,
     .registerWrite (.host 0) 0 (128 + 1) 0,
     .registerWrite (.host 0) 0 0 (2 ^ 64),
     .warmReset (.host 64) 0,
     .resetRelease (2 ^ 32),
     .modeReqRelay (.host 64) 0,
     .modeReqVerify (.host 64) 0,
     .modeReqService (.host 64) 0,
     .modeReqShed (.host 64) 0,
     .modeReqSoak (.host 64) 0,
     .modeReqQuiesce (.host 64) 0,
     .modeReqTest (.host 64) 0,
     .modePendCancel (.host 64),
     .modePendCntClr (.host 64),
     .hifVersionWrite (.host 64) 0 0,
     .hifVersionWrite (.host 0) 0 (2 ^ 64),
     .ringEnable (.host 64) 0 0 0,
     .ringEnable (.host 0) 0 0 (2 ^ 64),
     .ringReset (.host 64) 0 0,
     .fnResetAll (.host 64) 0,
     .cmdDoorbell 0 (4096) 0 0,
     .cmdDoorbell 0 0 (128 + 1) 0,
     .cmdDoorbell 0 0 0 (2 ^ 64),
     .cplDoorbell 0 (4096) 0 0,
     .cplDoorbell 0 0 (128 + 1) 0,
     .cplDoorbell 0 0 0 (2 ^ 64),
     .eventDoorbell 0 (4096) 0 0,
     .eventDoorbell 0 0 (128 + 1) 0,
     .eventDoorbell 0 0 0 (2 ^ 64),
     .linkEnable (.host 64) 0,
     .linkDisable (.host 64) 0,
     .linkRetrainReq (.host 64) 0,
     .ecvCntClr (.host 64) 0,
     .linkStormClear (.host 64) 0,
     .sampleCfgWrite (.host 64) 0 0,
     .sampleCfgWrite (.host 0) 0 (2 ^ 64),
     .lpIdleNow (.host 64) 0 0,
     .lpIdleNow (.host 0) 0 (2 ^ 64),
     .commitGo (.host 64) 0 0,
     .commitGo (.host 0) 0 (2 ^ 32),
     .achLeave (.host 64) 0,
     .achReadmit (.host 64) 0,
     .achCntClr (.host 64) 0,
     .rxSymbolDone 0 0 (2 ^ 16) false,
     .achTxStageStart 0 0 (2 ^ 16) false,
     .brEnable (.host 64) 0 0,
     .brEnable (.host 0) 0 (2 ^ 64),
     .brDisable (.host 64) 0 0,
     .brDisable (.host 0) 0 (2 ^ 64),
     .brCntClr (.host 64) 0,
     .brCntClr (.host 0) (2 ^ 64),
     .aeResInject (.host 64) 0,
     .aeCntClr (.host 64) 0,
     .aeJdCntClr (.host 64),
     .harqFlush (.host 64),
     .codeCntClr (.host 64),
     .calStoreSave (.host 64) 0,
     .calStoreSave (.host 0) (2 ^ 64),
     .calCntClr (.host 64),
     .ccCleanAll (.host 64) 0]

theorem test_ill_formed_1 : (illFormed1.all fun i => !i.wellFormed) = true := by decide +kernel

/-- Commands with one operand out of its range each. -/
def illFormed2 : List Instr :=
    [.cluCcCntClr (.host 64) 0,
     .engHalt (.host 64) 0,
     .engStep (.host 64) 0,
     .engResume (.host 64) 0,
     .engMboxWrite (.host 64) 0 0,
     .engMboxWrite (.host 0) 0 (2 ^ 64),
     .taskAccept (2 ^ 48),
     .sqDoorbell (.host 64) 0 0,
     .sqDoorbell (.host 0) 0 (2 ^ 64),
     .sqCfgWrite (.host 64) 0 0,
     .sqCfgWrite (.host 0) 0 (2 ^ 64),
     .relRdWrite (.host 64) 0 0,
     .relRdWrite (.host 0) 0 (2 ^ 64),
     .bundleLoad (.host 64) 0 0,
     .bundleLoad (.host 0) 0 (2 ^ 48),
     .bundleUnload (.host 64) 0,
     .clSubmit (.host 64) 0,
     .clSubmit (.host 0) (2 ^ 64),
     .clCancel (.host 64) 0,
     .clCancel (.host 0) (2 ^ 64),
     .schedLeave (.host 64) 0,
     .schedReadmit (.host 64) 0,
     .schedSubst (.host 64) 0,
     .routeChange (.host 64) 0,
     .routeChange (.host 0) (2 ^ 32),
     .fabReadmit (.host 64) 0,
     .fabReadmit (.host 0) (2 ^ 32),
     .bankHandover (.host 64) 0 0 0,
     .bankHandover (.host 0) 0 0 (2 ^ 64),
     .retRequestWrite (.host 64) 0 0,
     .retRequestWrite (.host 0) 0 (2 ^ 64),
     .memCntClr (.host 64),
     .integInjectArm (.host 64) 0,
     .integInjectArm (.host 0) (2 ^ 64),
     .integCntClr (.host 64),
     .plrUnload (.host 64) 0,
     .plrMasterRequest 0 false (2 ^ 48) 0 0 0,
     .plrMasterRequest 0 false 0 (128 + 1) 0 0,
     .plrMasterRequest 0 false 0 0 (2 ^ 1024) 0,
     .plrMasterRequest 0 false 0 0 0 (2 ^ 8),
     .plrStormUnmask (.host 64) 0 0,
     .plrStormUnmask (.host 0) 0 (2 ^ 64),
     .bankSupplyChange 0 (2 ^ 16),
     .plrCntClr (.host 64),
     .uplaneWindowClose 0 false 0 (2 ^ 16),
     .cplaneSend 0 0 (2 ^ 32),
     .prachCplaneSend 0 (2 ^ 16),
     .uplaneSend 0 0 (2 ^ 16) false,
     .ruEnable (.host 64) 0 0,
     .ruEnable (.host 0) 0 (2 ^ 64),
     .owdRequest (.host 64) 0,
     .domainRequest (.host 64) 0 0,
     .domPendCancel (.host 64) 0,
     .domPendCntClr (.host 64) 0,
     .shedStageClrWrite (.host 64) 0,
     .hostDone (.host 64),
     .newNonce (.host 64),
     .registerWrite (.engine 256) 0 4 0,
     .registerWrite (.plr 8) 0 4 0,
     .frameReceive 0 [⟨2 ^ 128, 0⟩] 0]

theorem test_ill_formed_2 : (illFormed2.all fun i => !i.wellFormed) = true := by decide +kernel

/-- Commands with one operand out of its range each. -/
def illFormed3 : List Instr :=
    [.frameReceive 0 [⟨0, 2 ^ 8064⟩] 0,
     .ringMessageReceive 0 [2 ^ 128],
     .sweepComplete [⟨256, 0, 0, false⟩],
     .clFireDevice (.txStage 0 0 (2 ^ 16) false),
     .packetArrive ⟨.rd, 320, 0, 0, 0, 16, 0, 0, none⟩ true false,
     .packetArrive ⟨.rd, 0, 1024, 0, 0, 16, 0, 0, none⟩ true false,
     .packetArrive ⟨.rd, 0, 0, 4, 0, 16, 0, 0, none⟩ true false,
     .packetArrive ⟨.rd, 0, 0, 0, 2 ^ 48, 16, 0, 0, none⟩ true false,
     .packetArrive ⟨.rd, 0, 0, 0, 0, 12, 0, 0, none⟩ true false,
     .packetArrive ⟨.rd, 0, 0, 0, 0, 272, 0, 0, none⟩ true false,
     .packetArrive ⟨.rd, 0, 0, 0, 0, 16, 2 ^ 128, 0, none⟩ true false,
     .packetArrive ⟨.rd, 0, 0, 0, 0, 16, 0, 2 ^ 16, none⟩ true false,
     .packetArrive ⟨.rd, 0, 0, 0, 0, 16, 0, 0, some (.host 64)⟩ true false,
     .plrLoadStart 0 ⟨1, 2 ^ 32, 0, [], [], []⟩,
     .plrLoadStart 0 ⟨1, 0, 0, [⟨144, 0, 0, 0, 0⟩], [], []⟩,
     .plrLoadStart 0 ⟨1, 0, 0, [⟨0, 16, 0, 0, 0⟩], [], []⟩,
     .plrLoadStart 0 ⟨1, 0, 0, [⟨0, 0, 4, 0, 0⟩], [], []⟩,
     .plrLoadStart 0 ⟨1, 0, 0, [⟨0, 0, 0, 4, 0⟩], [], []⟩,
     .plrLoadStart 0 ⟨1, 0, 0, [⟨0, 0, 0, 0, 2⟩], [], []⟩,
     .plrLoadStart 0 ⟨1, 0, 0, [], [], [⟨128, 2, 128, []⟩]⟩,
     .plrLoadStart 0 ⟨1, 0, 0, [], [], [⟨0, 0, 128, []⟩]⟩,
     .plrLoadStart 0 ⟨1, 0, 0, [], [], [⟨0, 5, 128, []⟩]⟩,
     .plrLoadStart 0 ⟨1, 0, 0, [], [], [⟨0, 2, 24, []⟩]⟩,
     .plrLoadStart 0 ⟨1, 0, 0, [], [], [⟨0, 1, 64, []⟩]⟩,
     .plrLoadStart 0 ⟨1, 0, 0, [], [], [⟨0, 2, 8, List.replicate 289 0⟩]⟩,
     .plrLoadStart 0 ⟨1, 0, 0, [], [], [⟨0, 2, 8, [2 ^ 128]⟩]⟩,
     .ethFrameReceive 0 ⟨2 ^ 16, 0, true, .other⟩, .ethFrameReceive 0 ⟨0, 2 ^ 16, true, .other⟩,
     .uplaneReceive 0 ⟨2 ^ 16, 0, 0, 0, []⟩,
     .uplaneReceive 0 ⟨0, 2 ^ 16, 0, 0, []⟩,
     .uplaneReceive 0 ⟨0, 0, 256, 0, []⟩,
     .imageVerifyDone [⟨16, 0, 0, []⟩],
     .imageVerifyDone [⟨0, 0, 0, List.replicate 16385 0⟩],
     .sensorRound (List.replicate 65 none) (List.replicate 16 none),
     .sensorRound (List.replicate 66 none) (List.replicate 15 none),
     .ageingCompute (List.replicate 31 0) true,
     .jtagDebugAccess (some ⟨false, 2 ^ 48, 4, 0⟩),
     .jtagDebugAccess (some ⟨false, 0, 129, 0⟩),
     .jtagDebugAccess (some ⟨true, 0, 4, 2 ^ 32⟩)]

theorem test_ill_formed_3 : (illFormed3.all fun i => !i.wellFormed) = true := by decide +kernel

/-- Commands with operands at the ends of their ranges. -/
def wellFormedAtBounds : List Instr :=
    [.registerWrite (.host 63) 0x0FFFFFF8 8 (2 ^ 64 - 1),
     .registerWrite (.engine 255) 0 4 0,
     .registerWrite (.plr 7) 0 4 0,
     .packetArrive ⟨.wr, 319, 1023, 3, 2 ^ 48 - 1, 256, 2 ^ 2048 - 1, 0xFFFF, some (.host 63)⟩ true false,
     .frameReceive 17 [⟨2 ^ 128 - 1, 2 ^ 8064 - 1⟩] 1023,
     .plrLoadStart 7 ⟨1, 2 ^ 32 - 1, 0, [⟨143, 15, 3, 3, 1⟩], [], [⟨127, 1, 128, [2 ^ 128 - 1]⟩]⟩,
     .sensorRound (List.replicate 66 none) (List.replicate 16 none)]

theorem test_well_formed_at_bounds : (wellFormedAtBounds.all fun i => i.wellFormed) = true := by decide +kernel

/-- A chip in mode `m` with fields set: field, value, indices. -/
def chipWith (m : Nat) (l : List (Fld × Nat × Nat × Nat)) : Chip :=
  l.foldl (fun c e => c.wr e.1 e.2.1 e.2.2.1 e.2.2.2) (({} : Chip).wr F.DEV_MODE_MODE m)
/-- A state in mode `m` with fields set and no command waiting. -/
def stateWith (m : Nat) (l : List (Fld × Nat × Nat × Nat)) : State := ⟨[], chipWith m l⟩
/-- A task for a target. -/
def taskFor (st : TaskState) (target : Nat) : Task := ⟨0, 0, 0, 0, target, none, false, none, 0, 0, st, .ok, false, 0x7FF, false⟩
/-- A task that a unit runs. -/
def taskRun (u : Nat) : Task := ⟨0, 0, 0, 0, u, none, false, none, 0, 0, .held u 0, .ok, true, u, false⟩
/-- A task whose deadline is tick 1. -/
def taskLate (st : TaskState) : Task := ⟨0, 0, 0, 0, 5, some 1, false, none, 0, 0, st, .ok, false, 0x7FF, false⟩
/-- A task that waits at a unit, its argument an address. -/
def taskAt (u a : Nat) : Task := ⟨0, 0, 0, 0, u, none, false, none, a, 0, .held u 0, .ok, false, 0x7FF, false⟩
/-- Words placed in memory from an address on. -/
def wordsAt (a : Nat) (ws : List Nat) : Tbl Byte :=
  (List.range (16 * ws.length)).filterMap fun k =>
    if bits (ws.getD (k / 16) 0) (8 * (k % 16) + 7) (8 * (k % 16)) = 0 then none
    else some (a + k, BitVec.ofNat 8 (bits (ws.getD (k / 16) 0) (8 * (k % 16) + 7) (8 * (k % 16))))
/-- The state with its chip changed. -/
def changed (s : State) (f : Chip → Chip) : State := { s with chip := f s.chip }

/-! ### Commands: expected values are the spec's -/

/-- The chip after a command. -/
def after (i : Instr) (s : State) : Chip :=
  match exec i s with
  | .next t => t.chip
  | _ => {}

/-- R50: reset leaves BYPASS; the boot ROM then brings RELAY. -/
theorem test_reset_bypass : State.reset.chip.mode = mBypass := by decide +kernel

/-- R63: the transition table has no row from RELAY to SERVICE. -/
theorem test_mode_relay_to_service_denied :
    let c := after (.modeReqService (.host 0) 0x4D4F) (stateWith 1 [(F.DEV_MODE_IN_TRANSITION, 0, 0, 0)])
    c.mode = mRelay ∧ c.inTrans = false ∧ .access (.host 0) .accessDenied ∈ c.out := by decide +kernel

/-- R70: a write with another key is no request. -/
theorem test_mode_request_key :
    (after (.modeReqVerify (.host 0) 0x4D4E) (stateWith 1 [(F.DEV_MODE_IN_TRANSITION, 0, 0, 0)])).inTrans = false := by
  decide +kernel

/-- spec/02, the worked example at 95 µs: a held VERIFY request is replaced by SOAK. -/
theorem test_held_request_superseded :
    let c := after (.modeReqSoak (.host 0) 0x4D4F) (stateWith 6 [(F.DEV_MODE_IN_TRANSITION, 1, 0, 0),
      (F.DEV_MODE_PEND_PEND_VALID, 1, 0, 0), (F.DEV_MODE_PEND_PEND_MODE, 2, 0, 0)])
    c.rd F.DEV_MODE_PEND_PEND_MODE = 5 ∧ c.rd F.DEV_MODE_PEND_SUPERSEDED_CNT = 1 ∧
      c.rd F.DEV_MODE_PEND_LAST_SUPERSEDED_MODE = 2 := by decide +kernel

/-- The same example at 1.10 ms: evaluated in RELAY, the held SOAK is no transition and is rejected. -/
theorem test_held_request_rejected :
    let c := (chipWith 1 [(F.DEV_MODE_IN_TRANSITION, 0, 0, 0), (F.DEV_MODE_PEND_PEND_VALID, 1, 0, 0),
      (F.DEV_MODE_PEND_PEND_MODE, 5, 0, 0)]).modeEval
    c.mode = mRelay ∧ c.rd F.DEV_MODE_PEND_PEND_VALID = 0 ∧ c.rd F.DEV_MODE_PEND_LAST_REJECT_STATUS = 0xC ∧
      c.rd F.DEV_MODE_PEND_LAST_REJECT_MODE = 5 := by decide +kernel

/-- spec/05: 3,276 subcarriers need 13,120 bytes. -/
theorem test_symbol_buffer_bytes : symBufBytes (2 ^ 61 + 2 ^ 59 + 273 * 2 ^ 29) = 13120 := by decide +kernel

/-- spec/05, the switch point: window 0 of ACH040 ends at 118,496, its PA goes off at 118,528 and on at 153,538. -/
theorem test_switch_point :
    let g : AchCfg := { period := 153600, wins := [(0, 0, 118496)] }
    g.paOff (0, 118496) = 118528 ∧ g.paOn (0, 118496) + 153600 = 153538 ∧ g.winsOk = true := by decide +kernel

/-- spec/05, the switch point: symbol 0 of a 30 kHz slot is 1,112 ticks long, each other 1,096, the slot 15,360. -/
theorem test_symbol_starts :
    let w := 2 ^ 61 + 2 ^ 59 + 273 * 2 ^ 29
    symStart w 1 = 1112 ∧ symStart w 2 = 1112 + 1096 ∧ symStart w 14 = 15360 ∧
      symStart w (7 * 14 + 10) = 118496 := by decide +kernel

/-- spec/04, one hop: both members compute 300 units, with the board's asymmetry of 20. -/
theorem test_time_transfer_hop :
    ttCompute 1000000 1000680 1001200 1001260 20 = (300, 370) ∧
      ttCompute 1001200 1001260 1000000 1000680 (-20) = (-300, 370) := by decide +kernel

/-- spec/08, the failed first transmission: C 12, Zc 384, K' 8,360, F 88. -/
theorem test_ldpc_segmentation : ldpcSeg 0 100008 = ⟨12, 384, 8360, 8360, 0, 88, 24⟩ := by decide +kernel

/-- spec/10, power of 512 samples: the buffer of 8,192 bytes at 0x1_0300_4000 wraps to its base after its last word. -/
theorem test_circular_buffer_wraps :
    let x := ({ g := [(1, ⟨0x103005FF0, false⟩)], cb := [(0, 0x103004000)], cln := [(0, 8192)] } : Eng).eaOf 3 0 1 16 16
    x.ea = 0x103005FF0 ∧ x.upd = some 0x103004000 ∧ x.circ = false := by decide +kernel

/-- spec/10, power of 512 samples: 2^42 shifted right by 27 is 2^15, and 2^50 saturates at 2^23 − 1. -/
theorem test_narrow :
    narrow true 24 27 (2 ^ 42) = (2 ^ 15, false) ∧ narrow true 24 27 (2 ^ 50) = (2 ^ 23 - 1, true) := by decide +kernel

/-- R270, R276: MOVI G11, 0x1000 (OPC 0x13, RD 11) writes G11 one group later, and the engine goes on at group 1. -/
theorem test_engine_movi :
    let c := after (.issueGroup 53 none) (changed (stateWith 3 [(F.CLU_ENG_STAT_STATE, 1, 3, 5),
      (F.PWR_DOM_STAT_STATE, 0, 3, 0), (F.CLK_PLL_STAT_LOCK, 0xFFF, 0, 0)]) fun z => z.withClu { z.clu with
        clus := [(3, { codeLen := 4 })]
        istore := [(3 * 16384, (0x13 * 2 ^ 34 + 11 * 2 ^ 29 + 0x1000) * 4)] })
    (c.eng 53).rdG 11 = ⟨0x1000, false⟩ ∧ (c.eng 53).pc = 1 := by decide +kernel

/-- R270: HDR 3 is reserved and raises ILLEGAL, which leaves for the handler. -/
theorem test_engine_illegal :
    let c := after (.issueGroup 53 none) (changed (stateWith 3 [(F.CLU_ENG_STAT_STATE, 1, 3, 5),
      (F.PWR_DOM_STAT_STATE, 0, 3, 0), (F.CLK_PLL_STAT_LOCK, 0xFFF, 0, 0)]) fun z => z.withClu { z.clu with
        engs := [(53, { evec := 2 })]
        clus := [(3, { codeLen := 4 })]
        istore := [(3 * 16384, 3)] })
    (c.eng 53).pc = 2 ∧ (c.eng 53).inHandler = true := by decide +kernel

/-- spec/14, handing a bank to a Press: engine 53 owns bank 5 of cluster 3, and the value with EXPECT 0x035 hands it to AE2
when it is applied. -/
theorem test_bank_handover :
    let c := after .handoverApply ⟨[], after (.bankHandover (.host 0) 3 5 0x0035000000000102) (stateWith 3 [])⟩
    (stateWith 3 []).chip.owns (.engine 53) 3 0xA000 = true ∧ c.rd F.MEM_BANK_OWN_OWN_A 3 5 = 0x102 ∧
      c.owns (.engine 53) 3 0xA000 = false := by decide +kernel

/-- The same write with another EXPECT changes no owner. -/
theorem test_bank_handover_expect :
    (after (.bankHandover (.host 0) 3 5 0x0036000000000102) (stateWith 3 [])).mems.handovers = [] := by decide +kernel

/-- spec/15, a stuck bit: the read at 7.7 s takes the level to 17, above 16. -/
theorem test_bucket_overflow :
    let x : IntegSt := { adds := [(7, { weight := 1, kind := 1 })], ms := 7700 }
    let c := ((chipWith 3 [(F.INTEG_BUCKET_STAT_LEVEL, 16, 7, 0)]).withInteg x).bucketStep 7
    c.rd F.INTEG_BUCKET_STAT_LEVEL 7 = 0 ∧ c.rd F.INTEG_BUCKET_STAT_OVF 7 = 1 := by decide +kernel

/-- The same bucket at 1.0 s: the leak takes the level from 3 to 2. -/
theorem test_bucket_leak :
    (((chipWith 3 [(F.INTEG_BUCKET_STAT_LEVEL, 3, 7, 0)]).withInteg { ms := 1000 }).bucketStep 7).rd
      F.INTEG_BUCKET_STAT_LEVEL 7 = 2 := by decide +kernel

/-- R392: one inverted bit is corrected, and bit 137 is among the 138. -/
theorem test_secded_corrects :
    secdedDecode (secdedEncode 0x1234 false ^^^ 2 ^ 137) = ⟨0x1234, false, .correctable⟩ := by decide +kernel

/-- R383: a write of 8 bytes to memory is dropped and counted. -/
theorem test_narrow_write :
    ((chipWith 3 []).memWrite .fabric 0x300000008 8 5 0) = ((chipWith 3 []).incSat F.MEM_STAT_NARROW, .narrowWrite) := by
  decide +kernel

/-- spec/17, an uplink window at an RU: symbol 13 begins at tick 14,264 and its window closes 1,536 ticks after its end. -/
theorem test_uplink_window :
    let c := chipWith 3 [(F.ETH_RU_CFG_SCS, 1, 5, 0), (F.ETH_RU_CFG_N_RB, 273, 5, 0)]
    c.ulWindow 5 false 0 10 13 = (14264, 16896, 13) := by decide +kernel

/-- spec/17: a PRB of MANT 9 takes 28 bytes. -/
theorem test_prb_bytes : prbBytes 9 = 28 := by decide

/-- R36: of GAP and SHED, SHED is reported. -/
theorem test_status_order : Status.worstOf [.gap, .shed, .ok] = .shed := by decide

/-- R11: 2.5 rounds to 3 and −2.5 to −2. -/
theorem test_round_half_up : roundDrop 1 5 = 3 ∧ roundDrop 1 (-5) = -2 := by decide

/-- R7: the bytes of a value, lowest first. -/
theorem test_little_endian : toBytes 4 0x12345678 = [0x78#8, 0x56#8, 0x34#8, 0x12#8] := by decide

/-- R79: a host of major version 1 comes to an agreement, one of major version 2 does not. -/
theorem test_version_major :
    (after (.hifVersionWrite (.host 0) 0 0x1000) (stateWith 3 [])).rd F.HIF_VERSION_AGREED_VALID = 1 ∧
      (after (.hifVersionWrite (.host 0) 0 0x2000) (stateWith 3 [])).rd F.HIF_VERSION_AGREED_VALID = 0 := by
  decide +kernel

/-- R16, spec/02 DEV_RESET_CTRL: WARM with another key resets nothing. -/
theorem test_warm_reset_key :
    (after (.warmReset (.host 0) 0x5753) (stateWith 3 [])).mode = mService := by decide +kernel

/-- R507, R509: the identification register has version 2 and part number 0x7256. -/
theorem test_idcode : bits idcode 31 28 = 2 ∧ bits idcode 27 12 = 0x7256 ∧ bits idcode 0 0 = 1 := by
  refine ⟨?_, ?_, ?_⟩ <;> (have := Config.manufacturer.isLt; simp [bits, idcode]; omega)

/-- R13: the tick counter wraps at 2^32. -/
theorem test_tick_wraps : tickAdd 0xFFFFFFFF 1 = 0 ∧ tickLater 0 0xFFFFFFFF = true := by decide

/-- R85: a NOP ends with OK in its place. -/
theorem test_nop :
    ((after (.nop 0 0) (changed (stateWith 3 []) fun z => z.withHif { inflight :=
      [⟨0, 0, 0, 0x103, 0, 0, .fetched, .ok, 0, 0, 0, none, none, false, 0, none, 0, none, true, [], []⟩] })).hif.inflight.map
        fun h => (h.stage, h.status)) = [(.finished, .ok)] := by decide +kernel

/-- R347: an entry whose tick has come falls due, and a tick passes while no command waits. -/
theorem test_tick_without_command :
    (match step (changed (stateWith 3 [(F.CLK_PLL_STAT_LOCK, 0xFFF, 0, 0)]) fun z =>
        (z.withTick 8).withSched { cl := [⟨0, 9, 1, 0, false, false, false⟩] }) with
      | .next t => (t.chip.tick, t.chip.sched.cl.map (·.due))
      | _ => (0, [])) = (9, [true]) := by decide +kernel


/-! ### Witnesses: the general statements -/

/-! ### The queue, ALERT_N, reset -/

theorem witness_StepRunsFrontCommand :
    (∃ (s : State) (i : Instr) (r : List Instr), s.pending = i :: r) ∧ ∃ s : State, s.pending = [] :=
  ⟨⟨⟨[.nop 0 0, .frameBoundary], {}⟩, .nop 0 0, [.frameBoundary], rfl⟩, State.reset, rfl⟩

theorem witness_AlertFollowsItsSources :
    (∃ s t : State, step s = .next t ∧ t.chip.mode = mBypass) ∧
    (∃ s t : State, step s = .next t ∧ t.chip.mode ≠ mBypass ∧ t.chip.dev.alert = true) ∧
    (∃ s t : State, step s = .next t ∧ t.chip.mode ≠ mBypass ∧ t.chip.dev.alert = false) :=
  ⟨⟨State.reset, _, rfl, by decide +kernel⟩, ⟨stateWith 3 [], _, rfl, by decide +kernel, by decide +kernel⟩,
   stateWith 3 [(F.CLK_PLL_STAT_LOCK, 0xFFF, 0, 0)], _, rfl, by decide +kernel, by decide +kernel⟩

theorem witness_ResetState :
    ∃ (f : Fld) (i j : Nat), f.key i j ≠ F.DEV_RESET_CAUSE_POR.key 0 0 :=
  ⟨F.DEV_MODE_MODE, 0, 0, by decide⟩

theorem witness_ResetCauses :
    (∃ (c : Chip) (form : ResetForm) (held : Held), (c.resetDown form F.DEV_RESET_CAUSE_PIN held).rd
      F.DEV_RESET_CAUSE_PIN = 1) ∧
    (∃ s t : State, exec .powerOnReset s = .next t ∧ s.chip.dev.vddAon = true ∧ s.chip.dev.vddSvc = false) ∧
    (∃ s t : State, exec .powerOnReset s = .next t ∧ ¬(s.chip.dev.vddAon = true ∧ s.chip.dev.vddSvc = false)) ∧
    (∃ (s t : State) (byResetN rises : Bool), exec (.pinReset byResetN rises) s = .next t) :=
  ⟨⟨{}, .pin, .release, by decide +kernel⟩,
   ⟨changed (stateWith 3 []) fun z => z.withDev { vddSvc := false }, _, rfl, by decide, by decide⟩,
   ⟨State.reset, _, rfl, by decide⟩, stateWith 3 [], _, true, false, rfl⟩

/-! ### Numbers and statuses -/

theorem witness_LittleEndianValues : ∃ n v k : Nat, k < n ∧ v < 2 ^ (8 * n) := ⟨8, 2 ^ 64 - 1, 7, by decide, by decide⟩

theorem witness_SaturationAndWrap :
    ∃ (w : Nat) (x y : Int), 0 < w ∧ -(2 ^ (w - 1) : Int) ≤ y ∧ y ≤ 2 ^ (w - 1) - 1 ∧ satS w x ≠ x :=
  ⟨16, 40000, 32767, by decide, by decide, by decide, by decide⟩

theorem witness_RoundingHalfUp : ∃ n : Nat, 0 < n := ⟨1, by decide⟩

theorem witness_TicksCompareAcrossTheWrap :
    (∃ a d : Nat, a < 2 ^ 32 ∧ d < 2 ^ 31 ∧ tickAdd a d < a) ∧ ∃ a d : Nat, a < 2 ^ 32 ∧ d < 2 ^ 31 ∧ d = 0 :=
  ⟨⟨2 ^ 32 - 1, 2 ^ 31 - 1, by decide, by decide, by decide⟩, 0, 0, by decide, by decide, rfl⟩

theorem witness_StatusPrecedence : ∃ l : List Status, l ≠ [] := ⟨[.gap, .shed], by decide⟩

/-! ### Control space -/

theorem witness_AccessWidths :
    (∃ r ∈ regMap, r.bytes = 8) ∧
    (∃ a n : Nat, (∀ f off, fnPage a = some (f, off) → isMsix off = false) ∧
      (∀ r i j, regFind regMap a = some (r, i, j) → r.bytes ≠ n) ∧ (regFind regMap a).isSome = true) ∧
    ∃ a n : Nat, (∀ f off, fnPage a = some (f, off) → isMsix off = false) ∧
      (∀ r i j, regFind regMap a = some (r, i, j) → r.bytes ≠ n) ∧ (regFind regMap a).isSome = false := by
  refine ⟨⟨G.RING_CFG, by decide +kernel, by decide +kernel⟩, ⟨0, 8, ?_, ?_, by decide +kernel⟩,
    ⟨0x0FFFFFF8, 8, ?_, ?_, by decide +kernel⟩⟩
  · intro f off h
    simp [fnPage] at h
  · intro r i j h
    have k : (regFind regMap 0).all (fun x => x.1.bytes != 8) = true := by decide +kernel
    rw [h] at k
    simpa using k
  · intro f off h
    simp [fnPage] at h
  · intro r i j h
    have k : (regFind regMap 0x0FFFFFF8).isSome = false := by decide +kernel
    rw [h] at k
    cases k

theorem witness_WritesOutsideTheirModes :
    (∃ (c : Chip) (a : Nat) (x : RegInfo × Nat × Nat), fnPage a = none ∧ regFind regMap a = some x ∧
      c.modeIn x.1.writeModes = false ∧ x.1.writeModes ≠ 0) ∧
    (∃ (a : Nat) (x : RegInfo × Nat × Nat), fnPage a = none ∧ regFind regMap a = some x ∧ x.1.writeModes = 0) ∧
    (∃ (s : State) (i : Instr) (p : Port) (modes : Nat), i.guard = some (p, modes) ∧ s.may p modes = false) :=
  ⟨⟨{}, 0x2000008, ((regFind regMap 0x2000008).getD (G.DEV_MODE, 0, 0)), by decide +kernel, by decide +kernel, by decide +kernel,
      by decide +kernel⟩,
   ⟨0, ((regFind regMap 0).getD (G.DEV_MODE, 0, 0)), by decide +kernel, by decide +kernel, by decide +kernel⟩,
   ⟨State.reset, .hostDone (.host 0), .host 0, 0xBE, rfl, by decide +kernel⟩⟩

theorem witness_FieldsOfAWrittenRegister :
    (∃ (c : Chip) (fs : List Fld) (v : Nat), (fs.map Fld.id).Nodup ∧ c.dev.lckOpen = false ∧
      (∃ f ∈ fs, f.acc = .lck ∧ f.of v ≠ c.rd f 0 0) ∧ ∃ f ∈ fs, f.acc = .rw) ∧
    (∃ (fs : List Fld) (g : Fld), fs ≠ [] ∧ ∀ f ∈ fs, g.key 0 0 ≠ f.key 0 0) ∧
    (∃ (fs : List Fld) (v v' : Nat), v ≠ v' ∧ fs ≠ [] ∧ ∀ f ∈ fs, f.of v = f.of v') :=
  ⟨⟨({} : Chip).withDev { lckOpen := false }, G.ETH_PORT_CFG.fields, 2 ^ 17, by decide +kernel, by decide +kernel,
      by decide +kernel, by decide +kernel⟩,
   ⟨G.DEV_MODE_PEND.fields, F.DEV_MODE_MODE, by decide +kernel, by decide +kernel⟩,
   ⟨G.DEV_MODE_PEND.fields, 0, 2 ^ 40, by decide +kernel, by decide +kernel, by decide +kernel⟩⟩

theorem witness_ReservedAddressesRefused :
    (∃ (s : State) (k : Pkt), s.chip.mode ≠ mBypass ∧ s.chip.inWarm = false ∧ (k.op = .rd ∨ k.op = .wr) ∧ k.by_ = none ∧
      k.src ∈ [12, 13, 16, 17] ∧ k.addr < 0x100000000) ∧
    (∃ (s : State) (k : Pkt), s.chip.mode ≠ mBypass ∧ s.chip.inWarm = false ∧ (k.op = .rd ∨ k.op = .wr) ∧ k.by_ = none ∧
      regionOf k.addr = .reserved) :=
  ⟨⟨stateWith 3 [], ⟨.rd, 17, 0, 2, 0xFFFFFFFF, 16, 0, 0, none⟩, by decide +kernel, by decide +kernel, by decide,
      by decide, by decide, by decide⟩,
   ⟨stateWith 3 [], ⟨.wr, 4, 0, 2, 0x308000000, 16, 0, 0, none⟩, by decide +kernel, by decide +kernel, by decide,
      by decide, by decide⟩⟩

theorem witness_ModeRequestsRefused :
    (∃ c : Chip, c.inTrans = false) ∧
    (∃ (c : Chip) (m : Nat), c.inTrans = false ∧ c.mode < 8 ∧ m ≠ c.mode ∧
      (c.mode, m) ∉ [(1, 2), (1, 7), (2, 3), (2, 1), (3, 4), (5, 4), (4, 3), (4, 5), (3, 5), (5, 3), (3, 6), (4, 6),
        (5, 6)]) ∧
    (∃ c : Chip, c.inTrans = true ∧ c.flag F.DEV_MODE_PEND_HW_PEND = true ∧ c.rd F.DEV_MODE_PEND_PEND_MODE = mShed) ∧
    (∃ c : Chip, c.inTrans = true ∧ c.flag F.DEV_MODE_PEND_HW_PEND = true ∧ c.rd F.DEV_MODE_PEND_PEND_MODE ≠ mShed) :=
  ⟨⟨chipWith 3 [(F.DEV_MODE_IN_TRANSITION, 0, 0, 0)], by decide +kernel⟩,
   ⟨chipWith 7 [(F.DEV_MODE_IN_TRANSITION, 0, 0, 0)], 3, by decide +kernel, by decide +kernel, by decide +kernel,
      by decide +kernel⟩,
   ⟨chipWith 3 [(F.DEV_MODE_IN_TRANSITION, 1, 0, 0), (F.DEV_MODE_PEND_HW_PEND, 1, 0, 0),
      (F.DEV_MODE_PEND_PEND_MODE, 4, 0, 0)], by decide +kernel, by decide +kernel, by decide +kernel⟩,
   ⟨chipWith 3 [(F.DEV_MODE_IN_TRANSITION, 1, 0, 0), (F.DEV_MODE_PEND_HW_PEND, 1, 0, 0),
      (F.DEV_MODE_PEND_PEND_MODE, 6, 0, 0)], by decide +kernel, by decide +kernel, by decide +kernel⟩⟩

/-! ### Memory -/

theorem witness_SecdedCorrectsAndDetects : ∃ d i j : Nat, d < 2 ^ 128 ∧ i < 138 ∧ j < 138 ∧ i ≠ j :=
  ⟨2 ^ 128 - 1, 137, 0, by decide, by decide, by decide, by decide⟩

theorem witness_StoredWordsReadBack :
    (∃ (c : Chip) (a d : Nat), a % 16 = 0 ∧ d < 2 ^ 128 ∧ c.rd F.INTEG_INJECT_KIND = 0) ∧
    (∃ (c : Chip) (a d : Nat), a % 16 = 0 ∧ d < 2 ^ 128 ∧ c.rd F.INTEG_INJECT_KIND = 1 ∧
      c.rd F.INTEG_INJECT_ADDR = a / 16 ∧ c.rd F.INTEG_INJECT_BIT_A < 138) ∧
    (∃ (c : Chip) (a d : Nat), a % 16 = 0 ∧ d < 2 ^ 128 ∧ c.rd F.INTEG_INJECT_KIND = 2 ∧
      c.rd F.INTEG_INJECT_ADDR = a / 16 ∧ c.rd F.INTEG_INJECT_BIT_A < 138 ∧ c.rd F.INTEG_INJECT_BIT_B < 138 ∧
      c.rd F.INTEG_INJECT_BIT_A ≠ c.rd F.INTEG_INJECT_BIT_B) ∧
    (∃ a b : Nat, a % 16 = 0 ∧ b % 16 = 0 ∧ b ≠ a) :=
  ⟨⟨{}, 0x3F0000000, 2 ^ 128 - 1, by decide, by decide, by decide +kernel⟩,
   ⟨chipWith 3 [(F.INTEG_INJECT_KIND, 1, 0, 0), (F.INTEG_INJECT_ADDR, 0x3F000000, 0, 0), (F.INTEG_INJECT_BIT_A, 137, 0, 0)],
      0x3F0000000, 0, by decide, by decide, by decide +kernel, by decide +kernel, by decide +kernel⟩,
   ⟨chipWith 3 [(F.INTEG_INJECT_KIND, 2, 0, 0), (F.INTEG_INJECT_ADDR, 0x3F000000, 0, 0), (F.INTEG_INJECT_BIT_A, 137, 0, 0)],
      0x3F0000000, 0, by decide, by decide, by decide +kernel, by decide +kernel, by decide +kernel, by decide +kernel,
      by decide +kernel⟩,
   ⟨0, 16, by decide, by decide, by decide⟩⟩

theorem witness_WritesKeepMemoryCanonical : ∃ c : Chip, Memory.wf c.mem = true ∧ c.mem ≠ [] :=
  ⟨({} : Chip).withMem [(0x3F0000000, 5)], by decide, by decide⟩

theorem witness_WordWritesChangeTheirWordOnly :
    (∃ (c : Chip) (w : Who) (addr : Nat) (p : Bool), c.accessStatus w addr = .ok ∧ onDevice addr = true ∧ p = true) ∧
    (∃ (c : Chip) (w : Who) (addr : Nat) (p : Bool), c.accessStatus w addr = .ok ∧ onDevice addr = false ∧ p = false ∧
      ∀ bus : Nat, regionOf addr = .host bus → c.hostDrops bus 16 = false) ∧
    (∃ (p : Bool) (addr x : Nat), (p = false ∨ onDevice addr = true) ∧
      (x < wordAddr (addr % 2 ^ 48) ∨ wordAddr (addr % 2 ^ 48) + 16 ≤ x)) ∧
    (∃ (c : Chip) (w : Who) (addr d : Nat) (p : Bool), (c.writeWord w addr d p).2 ≠ .ok) :=
  ⟨⟨chipWith 3 [], .fabric, 0x3F000FFF0, true, by decide +kernel, by decide, rfl⟩,
   ⟨chipWith 3 [], .fabric, hostBase, false, by decide +kernel, by decide, rfl, by
      intro bus h
      have k : bus = 0 := by
        have e : regionOf (hostBase) = .host 0 := by decide
        rw [e] at h
        cases h
        rfl
      subst k
      decide +kernel⟩,
   ⟨true, 0x3F0000000, 0x3F0000010, by decide, by decide⟩, {}, .fabric, 0, 0, false, by decide +kernel⟩

theorem witness_BankOwnership :
    (∃ (c : Chip) (w : Who) (addr : Nat), c.accessStatus w addr = .notOwner) ∧
    (∃ (c : Chip) (w : Who) (addr n : Nat), (n = 4 ∨ n = 8) ∧ addr % n = 0 ∧
      c.accessStatus w (wordAddr addr) = .ok) ∧
    (∃ (c : Chip) (w : Who) (addr n : Nat), (n = 4 ∨ n = 8) ∧ addr % n = 0 ∧
      c.accessStatus w (wordAddr addr) = .notOwner) :=
  ⟨⟨chipWith 3 [], .pressFabric, 0x10F3FFFF0, by decide +kernel⟩,
   ⟨chipWith 3 [], .fabric, 0x3F000000C, 4, by decide, by decide, by decide +kernel⟩,
   ⟨chipWith 3 [], .pressFabric, 0x10F3FFFF8, 8, by decide, by decide, by decide +kernel⟩⟩

theorem witness_ControlCommandsStoreNothing :
    ∃ (i : Instr) (s t : State), i.storesNothing = true ∧ exec i s = .next t :=
  ⟨.bundleLoad (.host 0) 5 0, stateWith 3 [], _, rfl, rfl⟩

theorem witness_ReleaseStoresItsRecordOnly :
    (∃ (s t : State) (flow : Fin 4096), exec (.foldRelease flow) s = .next t ∧ s.chip.nextRelease flow = none) ∧
    (∃ (s t : State) (flow : Fin 4096) (e : Task), exec (.foldRelease flow) s = .next t ∧
      s.chip.nextRelease flow = some e) :=
  ⟨⟨stateWith 3 [], _, 4095, rfl, by decide +kernel⟩,
   changed (stateWith 3 []) fun z => z.withSched { tasks := [taskFor .done 5] }, _, 0, taskFor .done 5, rfl,
     by decide +kernel⟩

/-! ### Buckets, links, carriers -/

theorem witness_BucketsBelowTheirThreshold :
    (∃ (c : Chip) (b : Nat), c.rd F.INTEG_BUCKET_CFG_THRESHOLD b ≤ 255 ∧
      c.rd F.INTEG_BUCKET_STAT_LEVEL b + (Tbl.get c.integ.adds b {}).weight ≤ c.rd F.INTEG_BUCKET_CFG_THRESHOLD b ∧
      0 < (Tbl.get c.integ.adds b {}).weight ∧ c.integ.ms % max 1 (c.rd F.INTEG_BUCKET_CFG_LEAK_MS b) ≠ 0) :=
  ⟨(chipWith 3 [(F.INTEG_BUCKET_CFG_THRESHOLD, 255, 127, 0), (F.INTEG_BUCKET_STAT_LEVEL, 254, 127, 0),
      (F.INTEG_BUCKET_CFG_LEAK_MS, 2, 127, 0)]).withInteg { adds := [(127, { weight := 1 })], ms := 1 }, 127,
    by decide +kernel, by decide +kernel, by decide +kernel, by decide +kernel⟩

/-- Two carriers of 5 MHz, 125 MHz below and above the centre of channel 255. -/
def wideCarriers : State :=
  stateWith 3 ((F.ECV_LINK_STAT_VERSION, 2, 15, 0) :: (F.ECV_SAMPLE_CFG_RATE, 0, 15, 0)
    :: [(0, 0x40000 - 25000), (1, 25000)].flatMap fun (e : Nat × Nat) =>
      [(F.ACH_CC_CFG_TYPE, 1, 255, e.1), (F.ACH_CC_CFG_CELL, e.1, 255, e.1), (F.ACH_CC_CFG_N_RB, 1, 255, e.1),
       (F.ACH_CC_CFG_BW, 50, 255, e.1), (F.ACH_CC_CFG_CF_OFFSET, e.2, 255, e.1), (F.ACH_CC_POOL_N_BUF, 1, 255, e.1),
       (F.ACH_CC_POOL_STRIDE, 100, 255, e.1)])

theorem witness_WideCarrierSetsRejected :
    ∃ (s t : State) (p : Port) (n : Fin 256) (tick : Nat), s.may p 0xBE = true ∧
      40000 < ((s.chip.shadowCfg n).span.2 - (s.chip.shadowCfg n).span.1) ∧
      (s.chip.rd F.ECV_LINK_STAT_VERSION (achLink n) = 1 ∨ s.chip.rd F.ECV_LINK_STAT_VERSION (achLink n) = 2) ∧
      exec (.commitGo p n tick) s = .next t ∧
      (s.chip.shadowCfg n).ccFaults (s.chip.rd F.ECV_SAMPLE_CFG_RATE (achLink n))
        (s.chip.rd F.ECV_LINK_STAT_VERSION (achLink n)) = [.versionMismatch] ∧
      (s.chip.shadowCfg n).winsOk = true ∧ (s.chip.shadowCfg n).rampOk = true :=
  ⟨wideCarriers, _, .host 0, 255, 0, by decide +kernel, by decide +kernel, by decide +kernel, rfl, by decide +kernel,
    by decide +kernel, by decide +kernel⟩

/-! ### Witnesses: the completion statements -/

/-! ### FabricCommandsComplete -/

def fabric0_s : State := ⟨[], ({} : Chip).wr F.DEV_MODE_MODE mService⟩
def fabric0_p : Port := (.host 0)
def fabric1_s : State := (changed (stateWith 3 []) fun z => z.withFab { change := some 7 })
def fabric3_s : State :=
  (changed (stateWith 3 [(F.FAB_PORT_STAT_ISOLATED, 0, (8 : Fin 320), 0)]) fun z => z.withFab { open_ := [(8, [⟨.rd, 12, 0, 2, 0x3F0000000, 16, 0, 0, none⟩])] })
def fabric3_k : Pkt := ⟨.rd, 12, 0, 2, 0x3F0000000, 16, 0, 0, none⟩
def fabric4_s : State := (stateWith 3 [(F.FAB_READMIT_GO, 0, 0, 0)])
def fabric4_p : Port := (.host 0)
def fabric5_s : State := (stateWith 3 [(F.FAB_READMIT_GO, 1, 0, 0)])


set_option maxRecDepth 40000 in
/-- Every clause of the statement has states and operands that meet its hypotheses. -/
theorem witness_FabricCommandsComplete :
    (∃ (s : State) (p : Port) (gen : Nat),
    s.may p 0xFE = true ∧ s.chip.flag F.FAB_ROUTE_GEN_BUSY = false ∧ gen % 256 = (s.chip.rd F.FAB_ROUTE_GEN_GEN + 1) % 256 ∧ s.chip.shadowOk = true) ∧
    (∃ (s : State) (g : Nat),
    s.chip.fab.change = some g) ∧
    (∃ (s : State) (q : Fin 320) (k : Pkt) (r : List Pkt),
    Tbl.get s.chip.fab.open_ q [] = k :: r ∧ s.chip.flag F.FAB_PORT_STAT_ISOLATED q = false ∧ s.chip.portUnits q = []) ∧
    (∃ (s : State) (p : Port) (port : Nat),
    s.may p 0xD8 = true ∧ s.chip.flag F.FAB_READMIT_GO = false ∧ s.chip.portUnits (port % 512) = []) ∧
    (∃ (s : State),
    s.chip.flag F.FAB_READMIT_GO = true ∧ s.chip.again.contains (F.FAB_READMIT_GO.key 0 0) = false) :=
  ⟨⟨fabric0_s, fabric0_p, (1 : Nat), by decide +kernel, by decide +kernel, by decide +kernel, Chip.shadowOk_of _ fun r
        q => Chip.rd_wr_id _ _ _ _ _ _ _ _ (by decide)⟩,
   ⟨fabric1_s, (7 : Nat), by decide +kernel⟩,
   ⟨fabric3_s, (8 : Fin 320), fabric3_k, ([] : List Pkt), by decide +kernel, by decide +kernel, by decide +kernel⟩,
   ⟨fabric4_s, fabric4_p, (0 : Nat), by decide +kernel, by decide +kernel, by decide +kernel⟩,
   ⟨fabric5_s, by decide +kernel, by decide +kernel⟩⟩

/-! ### MemoryCommandsComplete -/

def memory0_s : State := (stateWith 3 [])
def memory0_p : Port := (.host 0)
def memory1_s : State := (stateWith 3 [])
def memory1_p : Port := (.host 0)
def memory1_v : Nat := (2 ^ 40 + 0x7FD * 2 ^ 48 + 16 * 2 ^ 16)
def memory2_s : State :=
  (changed (stateWith 3 []) fun z => z.withMems { handovers := [⟨3, 5, false, 0x102, .host 0⟩] })
def memory2_h : Handover := ⟨3, 5, false, 0x102, .host 0⟩
def memory3_s : State := (stateWith 3 [])
def memory3_p : Port := (.host 0)
def memory4_s : State := (stateWith 3 [])
def memory4_p : Port := (.host 0)
def memory5_s : State := (stateWith 3 [(F.MEM_CLU_RET_REQ, 1, 0, 0)])
def memory6_s : State := (changed (stateWith 3 []) fun z => z.withMems { ret := [(575, .leaving)] })
def memory7_s : State := (changed (stateWith 3 []) fun z => z.withMems { ret := [(0, .entering)] })
def memory8_s : State := (stateWith 3 [])
def memory8_p : Port := (.host 0)
def memory9_s : State := (changed (stateWith 3 []) fun z => z.withMems { filling := [1] })
def memory10_s : State := (stateWith 3 [])
def memory10_f : Chip → Chip := (fun c => c)
def memory11_s : State := (stateWith 3 [])
def memory11_f : Chip → Chip := (fun c => c.meet 5)


set_option maxRecDepth 40000 in
/-- Every clause of the statement has states and operands that meet its hypotheses. -/
theorem witness_MemoryCommandsComplete :
    (∃ (s : State) (p : Port) (n : Fin 16) (b : Fin 32) (v : Nat),
    s.may p 0xFE = true ∧ bit v 40 = false ∧ s.chip.handoverStatus n b false (bits v 58 48) (bits v 10 0) = .ok) ∧
    (∃ (s : State) (p : Port) (n : Fin 16) (b : Fin 32) (v : Nat),
    s.may p 0xFE = true ∧ bit v 40 = true ∧ s.chip.handoverStatus n b true (bits v 58 48) (bits v 26 16) = .ok) ∧
    (∃ (s : State) (h : Handover) (r : List Handover),
    s.chip.mems.handovers = h :: r) ∧
    (∃ (s : State) (p : Port) (n : Fin 17),
    s.may p 0xFE = true ∧ n.val < 16) ∧
    (∃ (s : State) (p : Port),
    s.may p 0xFE = true) ∧
    (∃ (s : State) (k : Fin 576),
    s.chip.retPhase k = .on ∧ s.chip.retReq k = true) ∧
    (∃ (s : State) (k : Fin 576),
    s.chip.retPhase k = .leaving) ∧
    (∃ (s : State) (k : Fin 576),
    s.chip.retPhase k = .entering) ∧
    (∃ (s : State) (p : Port),
    s.may p 0xFE = true) ∧
    (∃ (s : State) (x : Nat) (r : List Nat),
    s.chip.mems.filling = x :: r) ∧
    (∃ (s : State) (f : Chip → Chip),
    s.chip.awake = true ∧ (f s.chip).awake = true) ∧
    (∃ (s : State) (f : Chip → Chip),
    s.chip.awake = true ∧ (f s.chip).awake = false) :=
  ⟨⟨memory0_s, memory0_p, (0 : Fin 16), (0 : Fin 32), (0 : Nat), by decide +kernel, by decide +kernel,
        by decide +kernel⟩,
   ⟨memory1_s, memory1_p, (1 : Fin 16), (1 : Fin 32), memory1_v, by decide +kernel, by decide +kernel,
        by decide +kernel⟩,
   ⟨memory2_s, memory2_h, ([] : List Handover), by decide +kernel⟩,
   ⟨memory3_s, memory3_p, (0 : Fin 17), by decide +kernel, by decide +kernel⟩,
   ⟨memory4_s, memory4_p, by decide +kernel⟩,
   ⟨memory5_s, (0 : Fin 576), by decide +kernel, by decide +kernel⟩,
   ⟨memory6_s, (575 : Fin 576), by decide +kernel⟩,
   ⟨memory7_s, (0 : Fin 576), by decide +kernel⟩,
   ⟨memory8_s, memory8_p, by decide +kernel⟩,
   ⟨memory9_s, (1 : Nat), ([] : List Nat), by decide +kernel⟩,
   ⟨memory10_s, memory10_f, by decide +kernel, by decide +kernel⟩,
   ⟨memory11_s, memory11_f, by decide +kernel, by decide +kernel⟩⟩

/-! ### IntegrityCommandsComplete -/

def integrity0_s : State :=
  (changed (stateWith 3 [(F.INTEG_CTRL_REPAIR_EN, 1, 0, 0)]) fun z => z.withInteg { repair := [(127, [0x3F0000000])] })
def integrity1_s : State := (stateWith 3 [(F.INTEG_CTRL_DARNER_EN, 1, 0, 0)])
def integrity2_s : State := (stateWith 3 [(F.INTEG_CTRL_DARNER_EN, 1, 0, 0)])
def integrity3_s : State :=
  (changed (stateWith 3 [(F.INTEG_CTRL_DARNER_EN, 1, 0, 0)]) fun z => z.withInteg { patrolWait := true })
def integrity4_s : State := (stateWith 3 [])
def integrity6_s : State := (stateWith 3 [])
def integrity6_p : Port := (.host 0)
def integrity6_v : Nat := (1 + 137 * 2 ^ 48 + 0x3F0000000)
def integrity7_s : State := (stateWith 3 [])
def integrity7_p : Port := (.host 0)
def integrity7_v : Nat := (2 + 137 * 2 ^ 48 + 136 * 2 ^ 56 + 0x3F0000000)
def integrity8_s : State := (stateWith 3 [])
def integrity8_p : Port := (.host 0)
def integrity9_s : State := (stateWith 3 [])
def integrity9_p : Port := (.host 0)


set_option maxRecDepth 40000 in
/-- Every clause of the statement has states and operands that meet its hypotheses. -/
theorem witness_IntegrityCommandsComplete :
    (∃ (s : State) (b : Fin 128) (a : Nat) (r : List Nat),
    s.chip.darnerRuns = true ∧ s.chip.flag F.INTEG_CTRL_REPAIR_EN = true ∧ Tbl.get s.chip.integ.repair b [] = a :: r) ∧
    (∃ (s : State),
    s.chip.darnerRuns = true ∧ s.chip.flag F.INTEG_CTRL_DARNER_EN = true ∧ s.chip.integ.patrolWait = false) ∧
    (∃ (s : State),
    s.chip.darnerRuns = true ∧ s.chip.flag F.INTEG_CTRL_DARNER_EN = true ∧ s.chip.integ.patrolWait = false ∧ s.chip.integ.patrolPos < patrolMem ∧ (s.chip.patrolReads (patrolAddr s.chip.integ.patrolPos) = false ∨
      (s.chip.decodeAt (patrolAddr s.chip.integ.patrolPos)).found = .clean)) ∧
    (∃ (s : State),
    s.chip.darnerRuns = true ∧ s.chip.flag F.INTEG_CTRL_DARNER_EN = true ∧ s.chip.integ.patrolWait = true) ∧
    (∃ (s : State),
    s.chip.mode ≠ mBypass) ∧
    (∃ (s : State) (p : Port) (v : Nat),
    s.may p 0xFE = true ∧ bits v 1 0 = 1 ∧ bits v 55 48 ≤ 137 ∧ onDevice (bits v 47 4 * 16) = true) ∧
    (∃ (s : State) (p : Port) (v : Nat),
    s.may p 0xFE = true ∧ bits v 1 0 = 2 ∧ bits v 55 48 ≤ 137 ∧ bits v 63 56 ≤ 137 ∧ bits v 55 48 ≠ bits v 63 56 ∧ onDevice (bits v 47 4 * 16) = true) ∧
    (∃ (s : State) (p : Port) (v : Nat),
    s.may p 0xFE = true ∧ bits v 1 0 = 0) ∧
    (∃ (s : State) (p : Port),
    s.may p 0xFE = true) :=
  ⟨⟨integrity0_s, (127 : Fin 128), (0x3F0000000 : Nat), ([] : List Nat), by decide +kernel, by decide +kernel,
        by decide +kernel⟩,
   ⟨integrity1_s, by decide +kernel, by decide +kernel, by decide +kernel⟩,
   ⟨integrity2_s, by decide +kernel, by decide +kernel, by decide +kernel, by decide +kernel, by decide +kernel⟩,
   ⟨integrity3_s, by decide +kernel, by decide +kernel, by decide +kernel⟩,
   ⟨integrity4_s, by decide +kernel⟩,
   ⟨integrity6_s, integrity6_p, integrity6_v, by decide +kernel, by decide +kernel, by decide +kernel,
        by decide +kernel⟩,
   ⟨integrity7_s, integrity7_p, integrity7_v, by decide +kernel, by decide +kernel, by decide +kernel,
        by decide +kernel, by decide +kernel, by decide +kernel⟩,
   ⟨integrity8_s, integrity8_p, (0 : Nat), by decide +kernel, by decide +kernel⟩,
   ⟨integrity9_s, integrity9_p, by decide +kernel⟩⟩

/-! ### TaskCommandsComplete -/

def task0_s : State := (stateWith 3 [(F.SCHED_FLOW_CFG_EN, 1, 0, 0)])
def task0_c0 : Chip := (stateWith 3 [(F.SCHED_FLOW_CFG_EN, 1, 0, 0)]).chip
def task0_c : Chip := (stateWith 3 [(F.SCHED_FLOW_CFG_EN, 1, 0, 0)]).chip
def task0_x : WordRead := ⟨0, false, .ok⟩
def task0_y : WordRead := ⟨0, false, .ok⟩
def task1_s : State :=
  (stateWith 3 [(F.SCHED_SQ_CFG_EN, 1, (287 : Fin 288), 0), (F.SCHED_SQ_PTR_HALTED, 0, (287 : Fin 288), 0),
    (F.SCHED_SQ_CFG_LOG2, 4, 287, 0)])
def task1_p : Port := (.host 0)
def task2_s : State :=
  (stateWith 3 [(F.SCHED_SQ_CFG_EN, 1, (287 : Fin 288), 0), (F.SCHED_SQ_PTR_HALTED, 0, (287 : Fin 288), 0),
    (F.SCHED_SQ_CFG_LOG2, 4, 287, 0)])
def task2_p : Port := (.host 0)
def task3_s : State := (stateWith 3 [(F.SCHED_SQ_CFG_EN, 0, (0 : Fin 288), 0)])
def task3_p : Port := (.host 0)
def task4_s : State :=
  (stateWith 3 [(F.SCHED_SQ_CFG_EN, 1, (0 : Fin 288), 0), (F.SCHED_SQ_CFG_LOG2, F.SCHED_SQ_CFG_LOG2.of (4 * 2 ^ 52),
    0, 0), (F.SCHED_SQ_CFG_BASE, F.SCHED_SQ_CFG_BASE.of (4 * 2 ^ 52), 0, 0)])
def task4_p : Port := (.host 0)
def task4_v : Nat := (4 * 2 ^ 52)
def task5_s : State :=
  (changed (stateWith 3 [(F.SCHED_SQ_CFG_EN, 1, (0 : Fin 288), 0), (F.SCHED_SQ_PTR_HALTED, 0, (0 : Fin 288), 0),
    (F.SCHED_SQ_CFG_BASE, 0x1F800000, 0, 0), (F.SCHED_SQ_CFG_LOG2, 4, 0, 0)]) fun z => z.withSched { sqs := [(0, 16, 15)] })
def task5_a : Nat :=
  (task5_s.chip.rd F.SCHED_SQ_CFG_BASE (0 : Fin 288) * 32 + (task5_s.chip.sq (0 : Fin 288)).2 % 2 ^ task5_s.chip.rd
    F.SCHED_SQ_CFG_LOG2 (0 : Fin 288) * 32)
def task5_c : Chip := (task5_s.chip.readWord .fabric task5_a).1
def task5_x : WordRead := (task5_s.chip.readWord .fabric task5_a).2
def task6_s : State := (changed (stateWith 3 []) fun z => z.withSched { tasks := [taskFor .ready 5] })
def task6_t : Task := (taskFor .ready 5)
def task6_c : Chip := ((changed (stateWith 3 []) fun z => z.withSched { tasks := [taskFor .ready 5] }).chip)
def task6_c' : Chip :=
  (task6_c.putTask { task6_t with state := .held (5 : Nat) task6_c.sched.nextOrd, unit := (5 : Nat) })
def task7_s : State := (changed (stateWith 3 []) fun z => z.withSched { tasks := [taskRun 5] })
def task7_t : Task := (taskRun 5)
def task8_s : State := (changed (stateWith 3 []) fun z => z.withSched { tasks := [taskFor .done 5] })
def task8_t : Task := (taskFor .done 5)
def task9_s : State := (changed (stateWith 3 []) fun z => (z.withTick 9).withSched { tasks := [taskLate .ready] })
def task9_t : Task := (taskLate .ready)
def task10_s : State :=
  (changed (stateWith 3 []) fun z => (z.withTick 1000000).withSched { tasks := [taskLate (.held 5 0)] })
def task10_t : Task := (taskLate (.held 5 0))
def task11_s : State := (stateWith 3 [])
def task11_p : Port := (.host 0)


set_option maxRecDepth 40000 in
/-- Every clause of the statement has states and operands that meet its hypotheses. -/
theorem witness_TaskCommandsComplete :
    (∃ (s : State) (addr : Nat) (c0 : Chip) (c : Chip) (x : WordRead) (y : WordRead),
    s.chip.modeIn modesRun = true ∧ 0 < s.chip.freeEntries ∧ s.chip.readWord .fabric (addr / 32 * 32 % 2 ^ 48) = (c0, x) ∧ c0.readWord .fabric (addr / 32 * 32 % 2 ^ 48 + 16) = (c, y) ∧ s.chip.awake = true ∧ c.awake = true ∧ x.poison = false ∧ x.status = .ok ∧ y.poison = false ∧ y.status = .ok ∧ c.flag F.SCHED_FLOW_CFG_EN (bits x.data 35 24) = true) ∧
    (∃ (s : State) (p : Port) (n : Fin 288) (v : Nat),
    s.may p 0xFE = true ∧ s.chip.flag F.SCHED_SQ_CFG_EN n = true ∧ s.chip.flag F.SCHED_SQ_PTR_HALTED n = false ∧ cntSub (v % 2 ^ 32) (s.chip.sq n).2 ≤ 2 ^ s.chip.rd F.SCHED_SQ_CFG_LOG2 n ∧ cntSub (v % 2 ^ 32) (s.chip.sq n).1 < 2 ^ 31) ∧
    (∃ (s : State) (p : Port) (n : Fin 288) (v : Nat),
    s.may p 0xFE = true ∧ s.chip.flag F.SCHED_SQ_CFG_EN n = true ∧ s.chip.flag F.SCHED_SQ_PTR_HALTED n = false ∧ 2 ^ s.chip.rd F.SCHED_SQ_CFG_LOG2 n < cntSub (v % 2 ^ 32) (s.chip.sq n).2) ∧
    (∃ (s : State) (p : Port) (n : Fin 288) (v : Nat),
    s.may p 0xFE = true ∧ s.chip.flag F.SCHED_SQ_CFG_EN n = false ∧ (F.SCHED_SQ_CFG_EN.of v = 0 ∨ (4 ≤ F.SCHED_SQ_CFG_LOG2.of v ∧ F.SCHED_SQ_CFG_LOG2.of v ≤ 12))) ∧
    (∃ (s : State) (p : Port) (n : Fin 288) (v : Nat),
    s.may p 0xFE = true ∧ s.chip.flag F.SCHED_SQ_CFG_EN n = true ∧ F.SCHED_SQ_CFG_EN.of v = 0 ∧ F.SCHED_SQ_CFG_LOG2.of v = s.chip.rd F.SCHED_SQ_CFG_LOG2 n ∧ F.SCHED_SQ_CFG_BASE.of v = s.chip.rd F.SCHED_SQ_CFG_BASE n) ∧
    (∃ (s : State) (n : Fin 288) (a : Nat) (c : Chip) (x : WordRead),
    a = s.chip.rd F.SCHED_SQ_CFG_BASE n * 32 + (s.chip.sq n).2 % 2 ^ s.chip.rd F.SCHED_SQ_CFG_LOG2 n * 32 ∧ s.chip.readWord .fabric a = (c, x) ∧ s.chip.modeIn modesRun = true ∧ s.chip.flag F.SCHED_SQ_CFG_EN n = true ∧ s.chip.flag F.SCHED_SQ_PTR_HALTED n = false ∧ (s.chip.sq n).1 ≠ (s.chip.sq n).2 ∧ min 8192 (s.chip.rd F.SCHED_CFG_RESERVE) < s.chip.freeEntries ∧ s.chip.rd F.SCHED_FLOW_STAT_OUT (bits x.data 35 24) < s.chip.maxOut (bits x.data 35 24) ∧ s.chip.awake = true ∧ (s.chip.acceptAt a).1.awake = true) ∧
    (∃ (s : State) (t : Task) (c : Chip) (c' : Chip) (u : Nat),
    s.chip.nextTask = some t ∧ s.chip.leafOf t.flow s.chip.depth t.target = (c, some u) ∧ c.domLocked (c.unitDom u) = false ∧ c' = c.putTask { t with state := .held u c.sched.nextOrd, unit := u }) ∧
    (∃ (s : State) (u : Fin 320) (k : Fin 4) (t : Task),
    (s.chip.runningTasks u)[k.val]? = some t ∧ s.chip.deadlinePassed t.deadline = false) ∧
    (∃ (s : State) (flow : Fin 4096) (t : Task),
    s.chip.nextRelease flow = some t ∧ s.chip.awake = true ∧ (s.chip.writeRecord t).awake = true) ∧
    (∃ (s : State) (t : Task),
    s.chip.sched.tasks.find? (fun t => t.state != .done && !t.late
      && s.chip.deadlinePassed t.deadline) = some t ∧ (t.state = .ready ∨ t.state = .waiting)) ∧
    (∃ (s : State) (t : Task),
    s.chip.sched.tasks.find? s.chip.hung = some t) ∧
    (∃ (s : State) (p : Port),
    s.may p 0xFE = true) :=
  ⟨⟨task0_s, (0x3F0000000 : Nat), task0_c0, task0_c, task0_x, task0_y, by decide +kernel, by decide +kernel,
        by decide +kernel, by decide +kernel, by decide +kernel, by decide +kernel, by decide +kernel,
        by decide +kernel, by decide +kernel, by decide +kernel, by decide +kernel⟩,
   ⟨task1_s, task1_p, (287 : Fin 288), (16 : Nat), by decide +kernel, by decide +kernel, by decide +kernel,
        by decide +kernel, by decide +kernel⟩,
   ⟨task2_s, task2_p, (287 : Fin 288), (17 : Nat), by decide +kernel, by decide +kernel, by decide +kernel,
        by decide +kernel⟩,
   ⟨task3_s, task3_p, (0 : Fin 288), (0 : Nat), by decide +kernel, by decide +kernel, by decide +kernel⟩,
   ⟨task4_s, task4_p, (0 : Fin 288), task4_v, by decide +kernel, by decide +kernel, by decide +kernel,
        by decide +kernel, by decide +kernel⟩,
   ⟨task5_s, (0 : Fin 288), task5_a, task5_c, task5_x, rfl, (Prod.eta _).symm, by decide +kernel, by decide +kernel,
        by decide +kernel, by decide +kernel, by decide +kernel, by decide +kernel, by decide +kernel,
        by decide +kernel⟩,
   ⟨task6_s, task6_t, task6_c, task6_c', (5 : Nat), by decide +kernel, by decide +kernel, by decide +kernel, rfl⟩,
   ⟨task7_s, (5 : Fin 320), (0 : Fin 4), task7_t, by decide +kernel, by decide +kernel⟩,
   ⟨task8_s, (0 : Fin 4096), task8_t, by decide +kernel, by decide +kernel, by decide +kernel⟩,
   ⟨task9_s, task9_t, by decide +kernel, by decide +kernel⟩,
   ⟨task10_s, task10_t, by decide +kernel⟩,
   ⟨task11_s, task11_p, by decide +kernel⟩⟩

/-! ### BundleCommandsComplete -/

def bundle0_s : State := (stateWith 3 [(F.SCHED_BUNDLE_STAT_BUSY, 0, 0, 0)])
def bundle0_p : Port := (.host 0)
def bundle1_s : State :=
  (changed (stateWith 3 []) fun z => (z.withMem [(0x3F0000000, 1), (0x3F0000001, 1), (0x3F0000010, 5)]).withSched { loading := some (1, 1023, 0x3F0000000) })
def bundle1_b : Bundle := ⟨0, [(5, 0)], 0, [memberWeight (5, 0)]⟩
def bundle1_c : Chip :=
  (changed (stateWith 3 []) fun z => (z.withMem [(0x3F0000000, 1), (0x3F0000001, 1), (0x3F0000010, 5)]).withSched { loading := some (1, 1023, 0x3F0000000) }).chip
def bundle2_s : State :=
  (changed (stateWith 3 [(F.SCHED_BUNDLE_STAT_BUSY, 0, 0, 0)]) fun z => z.withSched { bundles := [(1023, ⟨0, [(5, 1)], 0, [1]⟩)] })
def bundle2_p : Port := (.host 0)


set_option maxRecDepth 40000 in
/-- Every clause of the statement has states and operands that meet its hypotheses. -/
theorem witness_BundleCommandsComplete :
    (∃ (s : State) (p : Port),
    s.may p 0xBE = true ∧ s.chip.flag F.SCHED_BUNDLE_STAT_BUSY = false) ∧
    (∃ (s : State) (k : Nat) (i : Nat) (addr : Nat) (b : Bundle) (c : Chip) (w0 : Nat) (w1 : Nat) (w2 : Nat) (w3 : Nat),
    s.chip.sched.loading = some (k, i, addr) ∧ s.chip.readWords .fabric addr 4 =
      (c, [⟨w0, false, .ok⟩, ⟨w1, false, .ok⟩, ⟨w2, false, .ok⟩, ⟨w3, false, .ok⟩]) ∧ c.bundleOf i w0 w1 w2 w3 = some b ∧ s.chip.awake = true ∧ c.awake = true) ∧
    (∃ (s : State) (p : Port) (i : Fin 1024),
    s.may p 0xBE = true ∧ s.chip.flag F.SCHED_BUNDLE_STAT_BUSY = false ∧ (s.chip.bundle (0x200 + i)).isSome = true ∧ (s.chip.sched.bundles.any fun e => e.1 != i && e.2.members.any (·.1 == 0x200 + i)) = false) :=
  ⟨⟨bundle0_s, bundle0_p, by decide +kernel, by decide +kernel⟩,
   ⟨bundle1_s, (1 : Nat), (1023 : Nat), (0x3F0000000 : Nat), bundle1_b, bundle1_c, (0x101 : Nat), (5 : Nat), (0 :
        Nat), (0 : Nat), by decide +kernel, by decide +kernel, by decide +kernel, by decide +kernel,
        by decide +kernel⟩,
   ⟨bundle2_s, bundle2_p, (1023 : Fin 1024), by decide +kernel, by decide +kernel, by decide +kernel,
        by decide +kernel⟩⟩

/-! ### ClotheslineCommandsComplete -/

def clothesline0_s : State := (stateWith 3 [])
def clothesline0_p : Port := (.host 0)
def clothesline1_s : State :=
  (changed (stateWith 3 []) fun z => z.withSched { batches := List.replicate 64 (0x3F0000000, 1) })
def clothesline1_p : Port := (.host 0)
def clothesline2_s : State :=
  (changed (stateWith 3 []) fun z => (z.withMem [(0x3F0000000, 5)]).withSched { batches := [(0x3F0000000, 2)] })
def clothesline2_c : Chip :=
  (changed (stateWith 3 []) fun z => (z.withMem [(0x3F0000000, 5)]).withSched { batches := [(0x3F0000000, 2)] }).chip
def clothesline3_s : State := (stateWith 3 [])
def clothesline3_p : Port := (.host 0)
def clothesline4_s : State :=
  (changed (stateWith 3 []) fun z => z.withSched { cl := [⟨47, 0, 0, 0, false, true, false⟩] })
def clothesline4_e : ClEntry := ⟨47, 0, 0, 0, false, true, false⟩
def clothesline4_c : Chip := (clothesline4_s.chip.withSched { clothesline4_s.chip.sched with
      cl := clothesline4_s.chip.sched.cl.erase clothesline4_e
      clFired := clothesline4_s.chip.sched.clFired + 1 })
def clothesline5_s : State :=
  (changed (stateWith 3 []) fun z => z.withSched { cl := [⟨47, 0, 1, 0, false, true, false⟩] })
def clothesline5_e : ClEntry := ⟨47, 0, 1, 0, false, true, false⟩
def clothesline5_c : Chip := (clothesline5_s.chip.withSched { clothesline5_s.chip.sched with
      cl := clothesline5_s.chip.sched.cl.erase clothesline5_e
      clFired := clothesline5_s.chip.sched.clFired + 1 })
def clothesline6_s : State :=
  (changed (stateWith 3 []) fun z => z.withSched { cl := [⟨47, 0, 2, 0, false, true, false⟩] })
def clothesline6_e : ClEntry := ⟨47, 0, 2, 0, false, true, false⟩
def clothesline6_c : Chip := (clothesline6_s.chip.withSched { clothesline6_s.chip.sched with
      cl := clothesline6_s.chip.sched.cl.erase clothesline6_e
      clFired := clothesline6_s.chip.sched.clFired + 1 })


set_option maxRecDepth 40000 in
/-- Every clause of the statement has states and operands that meet its hypotheses. -/
theorem witness_ClotheslineCommandsComplete :
    (∃ (s : State) (p : Port),
    s.may p 0xFC = true ∧ s.chip.sched.batches.length < 64) ∧
    (∃ (s : State) (p : Port),
    s.may p 0xFC = true ∧ 64 ≤ s.chip.sched.batches.length) ∧
    (∃ (s : State) (addr : Nat) (n : Nat) (w : Nat) (r : List (Nat × Nat)) (c : Chip),
    s.chip.sched.batches = (addr, n) :: r ∧ s.chip.readWord .fabric addr = (c, ⟨w, false, .ok⟩) ∧ clEntryOk w = true ∧ 8192 < c.clFree ∧ c.clLate (bits w 31 0) = false ∧ s.chip.awake = true ∧ c.awake = true) ∧
    (∃ (s : State) (p : Port),
    s.may p 0xFC = true) ∧
    (∃ (s : State) (e : ClEntry) (c : Chip),
    s.chip.clNext = some e ∧ e.list < 48 ∧ e.held = false ∧ c = s.chip.withSched { s.chip.sched with
      cl := s.chip.sched.cl.erase e
      clFired := s.chip.sched.clFired + 1 } ∧ e.kind = 0 ∧ s.chip.awake = true ∧ (c.acceptAt (e.arg % 2 ^ 48)).1.awake = true) ∧
    (∃ (s : State) (e : ClEntry) (c : Chip),
    s.chip.clNext = some e ∧ e.list < 48 ∧ e.held = false ∧ c = s.chip.withSched { s.chip.sched with
      cl := s.chip.sched.cl.erase e
      clFired := s.chip.sched.clFired + 1 } ∧ e.kind = 1) ∧
    (∃ (s : State) (e : ClEntry) (c : Chip),
    s.chip.clNext = some e ∧ e.list < 48 ∧ e.held = false ∧ c = s.chip.withSched { s.chip.sched with
      cl := s.chip.sched.cl.erase e
      clFired := s.chip.sched.clFired + 1 } ∧ e.kind = 2) :=
  ⟨⟨clothesline0_s, clothesline0_p, by decide +kernel, by decide +kernel⟩,
   ⟨clothesline1_s, clothesline1_p, by decide +kernel, by decide +kernel⟩,
   ⟨clothesline2_s, (0x3F0000000 : Nat), (2 : Nat), (5 : Nat), ([] : List (Nat × Nat)), clothesline2_c,
        by decide +kernel, by decide +kernel, by decide +kernel, by decide +kernel, by decide +kernel,
        by decide +kernel, by decide +kernel⟩,
   ⟨clothesline3_s, clothesline3_p, by decide +kernel⟩,
   ⟨clothesline4_s, clothesline4_e, clothesline4_c, by decide +kernel, by decide +kernel, by decide +kernel, rfl,
        by decide +kernel, by decide +kernel, by decide +kernel⟩,
   ⟨clothesline5_s, clothesline5_e, clothesline5_c, by decide +kernel, by decide +kernel, by decide +kernel, rfl,
        by decide +kernel⟩,
   ⟨clothesline6_s, clothesline6_e, clothesline6_c, by decide +kernel, by decide +kernel, by decide +kernel, rfl,
        by decide +kernel⟩⟩

/-! ### UnitCommandsComplete -/

def unit0_s : State := (stateWith 3 [])
def unit0_p : Port := (.host 0)
def unit1_s : State := (stateWith 3 [(F.SCHED_UNIT_STAT_STATE, uOut, 0x11B, 0), (F.PWR_DOM_STAT_STATE, 0, 36, 0)])
def unit1_p : Port := (.host 0)
def unit2_s : State := (stateWith 3 [])
def unit2_p : Port := (.host 0)
def unit3_s : State := (stateWith 3 [(F.SCHED_UNIT_STAT_STATE, uDraining, 5, 0)])
def unit4_s : State := (stateWith 3 [(F.SCHED_UNIT_STAT_STATE, uTesting, 255, 0)])
def unit5_s : State := (stateWith 3 [(F.SCHED_UNIT_STAT_STATE, uTesting, 255, 0)])
def unit6_s : State := (stateWith 3 [(F.SCHED_UNIT_STAT_STATE, uAdmitting, 255, 0), (F.PWR_DOM_STAT_STATE, 0, 15, 0)])


set_option maxRecDepth 40000 in
/-- Every clause of the statement has states and operands that meet its hypotheses. -/
theorem witness_UnitCommandsComplete :
    (∃ (s : State) (p : Port) (u : Fin 2048),
    s.may p 0xFE = true ∧ isUnit u = true ∧ s.chip.unitState u = uIn) ∧
    (∃ (s : State) (p : Port) (u : Fin 2048),
    s.may p 0xFE = true ∧ s.chip.modeIn 0x98 = true ∧ isUnit u = true ∧ s.chip.unitState u = uOut ∧ u.val < 0x120 ∧ s.chip.domState (s.chip.unitDom u) = dOn ∧ s.chip.domLocked (s.chip.unitDom u) = false ∧ s.chip.rd F.PWR_DOM_STAT_LOCK_SRC (s.chip.unitDom u) ≠ 1) ∧
    (∃ (s : State) (p : Port) (u : Fin 2048),
    s.may p 0xFE = true ∧ u.val < 0x110 ∧ isUnit u = true ∧ s.chip.spareFree u = true ∧ s.chip.unitState u = uIn) ∧
    (∃ (s : State) (u : Fin 320),
    isUnit u = true ∧ s.chip.unitState u = uDraining ∧ s.chip.runningTasks u = [] ∧ u.val < 0x120) ∧
    (∃ (s : State) (u : Fin 320),
    s.chip.unitState u = uTesting ∧ u.val < 256) ∧
    (∃ (s : State) (u : Fin 320),
    s.chip.unitState u = uTesting ∧ s.chip.sched.pend = []) ∧
    (∃ (s : State) (u : Fin 320),
    s.chip.unitState u = uAdmitting ∧ s.chip.domState (s.chip.unitDom u) = dOn) :=
  ⟨⟨unit0_s, unit0_p, (0 : Fin 2048), by decide +kernel, by decide +kernel, by decide +kernel⟩,
   ⟨unit1_s, unit1_p, (0x11B : Fin 2048), by decide +kernel, by decide +kernel, by decide +kernel, by decide +kernel,
        by decide +kernel, by decide +kernel, by decide +kernel, by decide +kernel⟩,
   ⟨unit2_s, unit2_p, (0 : Fin 2048), by decide +kernel, by decide +kernel, by decide +kernel, by decide +kernel,
        by decide +kernel⟩,
   ⟨unit3_s, (5 : Fin 320), by decide +kernel, by decide +kernel, by decide +kernel, by decide +kernel⟩,
   ⟨unit4_s, (255 : Fin 320), by decide +kernel, by decide +kernel⟩,
   ⟨unit5_s, (255 : Fin 320), by decide +kernel, by decide +kernel⟩,
   ⟨unit6_s, (255 : Fin 320), by decide +kernel, by decide +kernel⟩⟩

/-! ### RegionCommandsComplete -/

def region0_s : State := (changed (stateWith 3 []) fun z => z.withPlr { inbound := [(7, none, ⟨1, 2, 3⟩)] })
def region0_e : Nat × Option CmdRef × Meas := (7, none, ⟨1, 2, 3⟩)
def region1_s : State := (stateWith 3 [(F.PLR_REGION_STAT_STATE, rgDraining, 7, 0)])
def region2_s : State :=
  (changed (stateWith 3 [(F.PLR_REGION_STAT_STATE, rgLoading, 7, 0)]) fun z => z.withPlr { regions := [(7, ⟨some (.load ⟨1, 9, 100, [], [], []⟩ none ⟨1, 2, 3⟩), none, none⟩)] })
def region2_img : PlrImage := ⟨1, 9, 100, [], [], []⟩
def region2_m : Meas := ⟨1, 2, 3⟩
def region3_s : State :=
  (changed (stateWith 3 [(F.PLR_REGION_STAT_STATE, rgLoading, 7, 0)]) fun z => z.withPlr { regions := [(7, ⟨some (.load ⟨1, 9, 100, [], [], []⟩ none ⟨1, 2, 3⟩), none, none⟩)] })
def region3_img : PlrImage := ⟨1, 9, 100, [], [], []⟩
def region3_m : Meas := ⟨1, 2, 3⟩
def region3_found : Option (Nat × Nat) := (some (1, 42))
def region3_err := 1
def region3_frame := 42
def region4_s : State :=
  (changed (stateWith 3 [(F.PLR_REGION_STAT_STATE, rgChecking, 7, 0)]) fun z => z.withPlr { regions := [(7, ⟨some (.load ⟨1, 9, 100, [], [], []⟩ none ⟨1, 2, 3⟩), none, none⟩)] })
def region4_img : PlrImage := ⟨1, 9, 100, [], [], []⟩
def region4_m : Meas := ⟨1, 2, 3⟩
def region5_s : State := (stateWith 3 [])
def region5_p : Port := (.host 0)


set_option maxRecDepth 40000 in
/-- Every clause of the statement has states and operands that meet its hypotheses. -/
theorem witness_RegionCommandsComplete :
    (∃ (s : State) (r : Fin 8) (e : Nat × Option CmdRef × Meas),
    (s.chip.plr.inbound.find? fun e => e.1 == r.val) = some e) ∧
    (∃ (s : State) (r : Fin 8),
    s.chip.rgState r = rgDraining) ∧
    (∃ (s : State) (r : Fin 8) (img : PlrImage) (src : Option CmdRef) (m : Meas) (found : Option (Nat × Nat)),
    s.chip.rgState r = rgLoading ∧ (s.chip.region r).op = some (.load img src m) ∧ s.chip.loadError r img found = none) ∧
    (∃ (s : State) (r : Fin 8) (img : PlrImage) (src : Option CmdRef) (m : Meas) (found : Option (Nat × Nat)),
    s.chip.rgState r = rgLoading ∧ (s.chip.region r).op = some (.load img src m) ∧ ∃ (err : _) (frame : _),
    s.chip.loadError r img found = some (err, frame)) ∧
    (∃ (s : State) (r : Fin 8) (img : PlrImage) (src : Option CmdRef) (m : Meas),
    s.chip.rgState r = rgChecking ∧ (s.chip.region r).op = some (.load img src m)) ∧
    (∃ (s : State) (p : Port),
    s.may p 0xFE = true) :=
  ⟨⟨region0_s, (7 : Fin 8), region0_e, by decide +kernel⟩,
   ⟨region1_s, (7 : Fin 8), by decide +kernel⟩,
   ⟨region2_s, (7 : Fin 8), region2_img, (none : Option CmdRef), region2_m, (none : Option (Nat × Nat)),
        by decide +kernel, by decide +kernel, by decide +kernel⟩,
   ⟨region3_s, (7 : Fin 8), region3_img, (none : Option CmdRef), region3_m, region3_found, by decide +kernel,
        by decide +kernel, region3_err, region3_frame, by decide +kernel⟩,
   ⟨region4_s, (7 : Fin 8), region4_img, (none : Option CmdRef), region4_m, by decide +kernel, by decide +kernel⟩,
   ⟨region5_s, region5_p, by decide +kernel⟩⟩

/-! ### BoundaryCommandsComplete -/

def boundary0_s : State :=
  (changed (stateWith 3 [(F.PLR_REGION_STAT_STATE, rgLoaded, 7, 0), (F.PWR_DOM_STAT_STATE, 0, 60, 0),
    (F.CLK_PLL_STAT_LOCK, 0xFFF, 0, 0), (F.PLR_REGION_STAT_HELD, 0, 7, 0)]) fun z => z.withSched { tasks := [(taskFor (.held 0x13F 0) 0x13F)] })
def boundary0_t : Task := (taskFor (.held 0x13F 0) 0x13F)
def boundary1_s : State :=
  (changed (stateWith 3 [(F.PLR_REGION_STAT_STATE, rgLoaded, 7, 0), (F.PWR_DOM_STAT_STATE, 0, 60, 0),
    (F.CLK_PLL_STAT_LOCK, 0xFFF, 0, 0), (F.PLR_REGION_STAT_HELD, 0, 7, 0)]) fun z => (z.withSched { tasks := [(taskRun 0x13F)] }).withPlr
    { places := [(31, 3, 0)] })
def boundary1_t : Task := (taskRun 0x13F)
def boundary2_s : State :=
  (changed (stateWith 3 [(F.PLR_REGION_STAT_STATE, rgLoaded, 7, 0), (F.PWR_DOM_STAT_STATE, 0, 60, 0),
    (F.CLK_PLL_STAT_LOCK, 0xFFF, 0, 0), (F.PLR_REGION_STAT_HELD, 0, 7, 0)]) fun z => (z.withSched { tasks := [(taskRun 0x13F)] }).withPlr
    { places := [(31, 3, 0)] })
def boundary2_t : Task := (taskRun 0x13F)
def boundary3_s : State :=
  (stateWith 3 [(F.PLR_REGION_STAT_STATE, rgLoaded, 7, 0), (F.PWR_DOM_STAT_STATE, 0, 60, 0), (F.CLK_PLL_STAT_LOCK,
    0xFFF, 0, 0), (F.PLR_REGION_STAT_HELD, 0, 7, 0)])
def boundary4_s : State :=
  (stateWith 3 [(F.PLR_REGION_STAT_STATE, rgLoaded, 7, 0), (F.PWR_DOM_STAT_STATE, 0, 60, 0), (F.CLK_PLL_STAT_LOCK,
    0xFFF, 0, 0), (F.PLR_REGION_STAT_HELD, 0, 7, 0)])
def boundary5_s : State :=
  (stateWith 3 [(F.PLR_REGION_STAT_STATE, rgLoaded, 7, 0), (F.PWR_DOM_STAT_STATE, 0, 60, 0), (F.CLK_PLL_STAT_LOCK,
    0xFFF, 0, 0), (F.PLR_REGION_STAT_HELD, 0, 7, 0)])
def boundary6_s : State := (stateWith 3 [])
def boundary7_s : State :=
  (stateWith 3 [(F.PLR_BANK_CFG_SUPPLY_OK, 1, 5, 0), (F.PLR_PIN_CFG_REGION, 7, 143, 0), (F.PLR_PIN_CFG_IRQ_EN, 1, 143,
    0)])
def boundary13_s : State :=
  (stateWith 3 [(F.PLR_BANK_CFG_SUPPLY_OK, 1, 5, 0), (F.PLR_PIN_CFG_REGION, 7, 143, 0)])
def boundary8_s : State := (stateWith 3 [])
def boundary9_s : State := (changed (stateWith 3 []) fun z => z.withPlr { edges := [(143, 1025)] })
def boundary10_s : State := (stateWith 3 [])
def boundary10_p : Port := (.host 0)
def boundary10_hit : Nat :=
  (boundary10_s.chip.rd F.PLR_STORM_MASKED (0 : Fin 3) &&& (0 : Nat) % 2 ^ (if (0 : Fin 3).val = 2 then 16 else 64))
def boundary12_s : State := (stateWith 3 [])
def boundary12_p : Port := (.host 0)


set_option maxRecDepth 40000 in
/-- Every clause of the statement has states and operands that meet its hypotheses. -/
theorem witness_BoundaryCommandsComplete :
    (∃ (s : State) (p : Fin 32) (t : Task) (k : Nat),
    s.chip.rgRuns (portRegion p) = true ∧ ((s.chip.heldTasks (0x120 + p)).find? (!·.ran)) = some t ∧ ((List.range 4).find? fun k => !(s.chip.portPlaces p).any fun e => e.1 == k) = some k) ∧
    (∃ (s : State) (p : Fin 32) (slot : Fin 4) (st : Fin 256) (k : Nat) (t : Task),
    s.chip.rgRuns (portRegion p) = true ∧ ((s.chip.portPlaces p).find? fun e => e.1 == slot.val) = some (k, t) ∧ st.val ≤ 15) ∧
    (∃ (s : State) (p : Fin 32) (slot : Fin 4) (st : Fin 256) (k : Nat) (t : Task),
    s.chip.rgRuns (portRegion p) = true ∧ ((s.chip.portPlaces p).find? fun e => e.1 == slot.val) = some (k, t) ∧ 15 < st.val) ∧
    (∃ (s : State) (p : Fin 32) (slot : Fin 4),
    s.chip.rgRuns (portRegion p) = true ∧ ((s.chip.portPlaces p).find? fun e => e.1 == slot.val) = none) ∧
    (∃ (s : State) (r : Fin 8),
    s.chip.rgRuns r = true) ∧
    (∃ (s : State) (r : Fin 8),
    s.chip.rgRuns r = true ∧ s.chip.plrOutstanding r < 32) ∧
    (∃ (s : State) (p : Fin 144) (lvl : Bool),
    (s.chip.pinInput p lvl).2 = false ∧ 8 ≤ (s.chip.pinInput p lvl).1.rd F.PLR_PIN_CFG_REGION p) ∧
    (∃ (s : State) (p : Fin 144) (lvl : Bool),
    (s.chip.pinInput p lvl).2 = true ∧ (s.chip.pinInput p lvl).1.rd F.PLR_PIN_CFG_REGION p < 8 ∧ (s.chip.pinInput p lvl).1.flag F.PLR_PIN_CFG_WAKE p = false) ∧
    (∃ (s : State) (p : Fin 144) (lvl : Bool),
    (s.chip.pinInput p lvl).2 = false ∧ (s.chip.pinInput p lvl).1.rd F.PLR_PIN_CFG_REGION p < 8) ∧
    (∃ (s : State),
    s.chip.plr.edges = []) ∧
    (∃ (s : State) (p : Fin 144) (n : Nat),
    s.chip.plr.edges = [(p.val, n)] ∧ 1024 < n) ∧
    (∃ (s : State) (p : Port) (q : Fin 3) (v : Nat) (hit : Nat),
    s.may p 0xFE = true ∧ hit = s.chip.rd F.PLR_STORM_MASKED q &&& v % 2 ^ (if q.val = 2 then 16 else 64)) ∧
    (∃ (s : State) (p : Port),
    s.may p 0xFE = true) :=
  ⟨⟨boundary0_s, (31 : Fin 32), boundary0_t, (0 : Nat), by decide +kernel, by decide +kernel, by decide +kernel⟩,
   ⟨boundary1_s, (31 : Fin 32), (3 : Fin 4), (15 : Fin 256), (3 : Nat), boundary1_t, by decide +kernel,
        by decide +kernel, by decide +kernel⟩,
   ⟨boundary2_s, (31 : Fin 32), (3 : Fin 4), (16 : Fin 256), (3 : Nat), boundary2_t, by decide +kernel,
        by decide +kernel, by decide +kernel⟩,
   ⟨boundary3_s, (31 : Fin 32), (0 : Fin 4), by decide +kernel, by decide +kernel⟩,
   ⟨boundary4_s, (7 : Fin 8), by decide +kernel⟩,
   ⟨boundary5_s, (7 : Fin 8), by decide +kernel, by decide +kernel⟩,
   ⟨boundary6_s, (0 : Fin 144), (false : Bool), by decide +kernel, by decide +kernel⟩,
   ⟨boundary7_s, (143 : Fin 144), (true : Bool), by decide +kernel, by decide +kernel, by decide +kernel⟩,
   ⟨boundary13_s, (143 : Fin 144), (true : Bool), by decide +kernel, by decide +kernel⟩,
   ⟨boundary8_s, by decide +kernel⟩,
   ⟨boundary9_s, (143 : Fin 144), (1025 : Nat), by decide +kernel, by decide +kernel⟩,
   ⟨boundary10_s, boundary10_p, (0 : Fin 3), (0 : Nat), boundary10_hit, by decide +kernel, rfl⟩,
   ⟨boundary12_s, boundary12_p, by decide +kernel⟩⟩

/-! ### LinkControlComplete -/

def linkControl0_s : State := (changed (stateWith 3 []) fun z => z.withEcv { links := [(17, { shutting := true })] })
def linkControl0_p : Port := (.host 0)
def linkControl1_s : State := (stateWith 3 [])
def linkControl1_p : Port := (.host 0)
def linkControl2_s : State := (stateWith 3 [])
def linkControl2_p : Port := (.host 0)
def linkControl3_s : State := (stateWith 3 [])
def linkControl3_p : Port := (.host 0)
def linkControl4_s : State := (stateWith 3 [(F.ECV_LINK_STAT_STATE, lkActive, 15, 0)])
def linkControl4_p : Port := (.host 0)
def linkControl5_s : State := (stateWith 3 [(F.ECV_LINK_STAT_STORM, 1, (0 : Fin 18), 0)])
def linkControl5_p : Port := (.host 0)
def linkControl6_s : State := (stateWith 3 [])
def linkControl6_p : Port := (.host 0)
def linkControl7_s : State := (stateWith 3 [])
def linkControl7_p : Port := (.host 0)


set_option maxRecDepth 40000 in
/-- Every clause of the statement has states and operands that meet its hypotheses. -/
theorem witness_LinkControlComplete :
    (∃ (s : State) (p : Port) (l : Fin 18),
    s.may p 0xFE = true ∧ (s.chip.link l).shutting = true) ∧
    (∃ (s : State) (p : Port) (l : Fin 18),
    s.may p 0xFE = true ∧ (s.chip.link l).shutting = false ∧ isRadio l = true) ∧
    (∃ (s : State) (p : Port) (l : Fin 18),
    s.may p 0xFE = true ∧ (s.chip.link l).shutting = false ∧ isRadio l = false) ∧
    (∃ (s : State) (p : Port),
    s.may p 0xFE = true) ∧
    (∃ (s : State) (p : Port) (l : Fin 18),
    s.may p 0xFE = true ∧ s.chip.lkUp l = true) ∧
    (∃ (s : State) (p : Port) (l : Fin 18),
    s.may p 0xFE = true ∧ s.chip.flag F.ECV_LINK_STAT_STORM l = true) ∧
    (∃ (s : State) (p : Port) (l : Fin 16) (v : Nat),
    s.may p 0xBE = true ∧ ((linkChans l).any fun n => s.chip.svc n != acOut) = false ∧ bits v 5 4 ≤ 1 ∧ mantOk (bits v 3 0) = true ∧ s.chip.cfgFaults l (bits v 3 0) (bits v 5 4) = []) ∧
    (∃ (s : State) (p : Port),
    s.may p 0xBE = true) :=
  ⟨⟨linkControl0_s, linkControl0_p, (17 : Fin 18), by decide +kernel, by decide +kernel⟩,
   ⟨linkControl1_s, linkControl1_p, (0 : Fin 18), by decide +kernel, by decide +kernel, by decide +kernel⟩,
   ⟨linkControl2_s, linkControl2_p, (16 : Fin 18), by decide +kernel, by decide +kernel, by decide +kernel⟩,
   ⟨linkControl3_s, linkControl3_p, by decide +kernel⟩,
   ⟨linkControl4_s, linkControl4_p, (15 : Fin 18), by decide +kernel, by decide +kernel⟩,
   ⟨linkControl5_s, linkControl5_p, (0 : Fin 18), by decide +kernel, by decide +kernel⟩,
   ⟨linkControl6_s, linkControl6_p, (0 : Fin 16), (0 : Nat), by decide +kernel, by decide +kernel, by decide +kernel,
        by decide +kernel, by decide +kernel⟩,
   ⟨linkControl7_s, linkControl7_p, by decide +kernel⟩⟩

/-! ### LinkTrainingComplete -/

def linkTraining0_s : State :=
  (stateWith 3 [(F.ECV_LINK_STAT_LOS, 0, (17 : Fin 18), 0), (F.ECV_LINK_STAT_STATE, lkDetect, 17, 0)])
def linkTraining1_s : State := (stateWith 3 [(F.ECV_LINK_STAT_STATE, lkClkLock, 15, 0)])
def linkTraining2_s : State := (stateWith 3 [(F.ECV_LINK_STAT_STATE, lkBitLock, 15, 0)])
def linkTraining3_s : State := (stateWith 3 [(F.ECV_LINK_STAT_STATE, lkBitLock, 15, 0)])
def linkTraining4_s : State := (stateWith 3 [(F.ECV_LINK_STAT_STATE, lkBitLock, 15, 0)])
def linkTraining5_s : State := (stateWith 3 [(F.ECV_LINK_STAT_STATE, lkAlign, 15, 0)])
def linkTraining6_s : State :=
  (changed (stateWith 3 [(F.ECV_LINK_STAT_STATE, lkCaps, 15, 0)]) fun z => z.withEcv { links := [(15, { capCnt := 3, capSeen := 0 })] })
def linkTraining6_st := Status.versionMismatch
def linkTraining7_s : State :=
  (changed (stateWith 3 [(F.ECV_LINK_STAT_STATE, lkCaps, 15, 0), (F.ECV_LINK_STAT_WIDTH, 8, 15, 0)]) fun z =>
    z.withEcv { links := [(15, { capCnt := 3, capSeen := (1 + 16 + 3 * 256 + 0 * 4096 + 16 * 2 ^ 48) })] })
def linkTraining8_s : State :=
  (changed (stateWith 3 [(F.ECV_LINK_STAT_STATE, lkCaps, 15, 0), (F.ECV_LINK_STAT_WIDTH, 8, 15, 0)]) fun z =>
    z.withEcv { links := [(15, { capCnt := 3, capSeen := (1 + 16 + 3 * 256 + 15 * 4096 + 16 * 2 ^ 48) })] })
def linkTraining9_s : State :=
  (changed (stateWith 3 [(F.ECV_LINK_STAT_STATE, lkCaps, 15, 0), (F.ECV_LINK_STAT_WIDTH, 8, 15, 0)]) fun z =>
    z.withEcv { links := [(15, { capCnt := 3, capSeen := (1 + 16 + 7 * 256 + 15 * 4096 + 16 * 2 ^ 48) })] })
def linkTraining10_s : State :=
  (changed (stateWith 3 [(F.ECV_LINK_STAT_STATE, lkCaps, 17, 0), (F.ECV_RING_STAT_LOCAL_ID, 3, 17, 0),
    (F.ECV_LINK_STAT_WIDTH, 8, 17, 0)]) fun z => z.withEcv { links := [(17, { capCnt := 3, capSeen := (1 + 32 + 7 * 256 + 15 * 4096) })] })
def linkTraining11_s : State := (stateWith 3 [(F.ECV_LINK_STAT_STATE, lkRateUp, 15, 0)])
def linkTraining12_s : State :=
  (changed (stateWith 3 [(F.ECV_LINK_STAT_STATE, lkRetrain, 15, 0)]) fun z => z.withEcv { links := [(15, { capCnt := 3, capSeen := 0 })] })
def linkTraining13_s : State := (stateWith 3 [(F.ECV_LINK_STAT_STATE, lkAlign, 15, 0)])
def linkTraining14_s : State := (stateWith 3 [(F.ECV_LINK_STAT_STATE, lkRetrain, 15, 0)])
def linkTraining15_s : State :=
  (stateWith 3 [(F.ECV_LINK_STAT_STORM, 0, (15 : Fin 18), 0), (F.ECV_LINK_STAT_STATE, lkHold, 15, 0)])


set_option maxRecDepth 40000 in
/-- Every clause of the statement has states and operands that meet its hypotheses. -/
theorem witness_LinkTrainingComplete :
    (∃ (s : State) (l : Fin 18),
    s.chip.lkState l = lkDetect ∧ s.chip.flag F.ECV_LINK_STAT_LOS l = false ∧ (s.chip.link l).shutting = false) ∧
    (∃ (s : State) (l : Fin 18),
    s.chip.lkState l = lkClkLock) ∧
    (∃ (s : State) (l : Fin 18) (lanes : Fin 256),
    s.chip.lkState l = lkBitLock ∧ 8 ≤ s.chip.maxWidth l ∧ lanes = 255) ∧
    (∃ (s : State) (l : Fin 18) (lanes : Fin 256),
    s.chip.lkState l = lkBitLock ∧ 1 ≤ s.chip.maxWidth l ∧ lanes.val % 4 = 1) ∧
    (∃ (s : State) (l : Fin 18) (lanes : Fin 256),
    s.chip.lkState l = lkBitLock ∧ lanes.val % 2 = 0) ∧
    (∃ (s : State) (l : Fin 18),
    s.chip.lkState l = lkAlign) ∧
    (∃ (s : State) (l : Fin 18),
    s.chip.lkState l = lkCaps ∧ 3 ≤ (s.chip.link l).capCnt ∧ (s.chip.link l).retraining = false ∧
    let word := (s.chip.link l).capSeen;
    let c := s.chip.wr F.ECV_LINK_STAT_PARTNER_ROLE (bits word 7 4) l; ∃ (st : _),
    c.capsHold l word = some st) ∧
    (∃ (s : State) (l : Fin 18),
    s.chip.lkState l = lkCaps ∧ 3 ≤ (s.chip.link l).capCnt ∧ (s.chip.link l).retraining = false ∧
    let word := (s.chip.link l).capSeen;
    let w := widestOf (bits word 15 12) (s.chip.rd F.ECV_LINK_STAT_WIDTH l);
    let c := s.chip.wr F.ECV_LINK_STAT_PARTNER_ROLE (bits word 7 4) l;
    c.capsHold l word = none ∧ w = 0) ∧
    (∃ (s : State) (l : Fin 18),
    s.chip.lkState l = lkCaps ∧ 3 ≤ (s.chip.link l).capCnt ∧ (s.chip.link l).retraining = false ∧
    let word := (s.chip.link l).capSeen;
    let w := widestOf (bits word 15 12) (s.chip.rd F.ECV_LINK_STAT_WIDTH l);
    let v := commonVersion (s.chip.ownCaps l) word;
    let c := s.chip.wr F.ECV_LINK_STAT_PARTNER_ROLE (bits word 7 4) l;
    c.capsHold l word = none ∧ w ≠ 0 ∧ v < 3) ∧
    (∃ (s : State) (l : Fin 18),
    s.chip.lkState l = lkCaps ∧ 3 ≤ (s.chip.link l).capCnt ∧ (s.chip.link l).retraining = false ∧
    let word := (s.chip.link l).capSeen;
    let w := widestOf (bits word 15 12) (s.chip.rd F.ECV_LINK_STAT_WIDTH l);
    let v := commonVersion (s.chip.ownCaps l) word;
    let c := s.chip.wr F.ECV_LINK_STAT_PARTNER_ROLE (bits word 7 4) l;
    let d := ((c.wr F.ECV_CAPS_PARTNER_CAPS word l).wr F.ECV_LINK_STAT_WIDTH w l).wr F.ECV_LINK_STAT_VERSION v l;
    c.capsHold l word = none ∧ w ≠ 0 ∧ 3 ≤ v ∧ (isRadio l = true ∨ d.rd F.ECV_RING_STAT_LOCAL_ID l ≤ bits word 31 24)) ∧
    (∃ (s : State) (l : Fin 18),
    s.chip.lkState l = lkCaps ∧ 3 ≤ (s.chip.link l).capCnt ∧ (s.chip.link l).retraining = false ∧
    let word := (s.chip.link l).capSeen;
    let w := widestOf (bits word 15 12) (s.chip.rd F.ECV_LINK_STAT_WIDTH l);
    let v := commonVersion (s.chip.ownCaps l) word;
    let c := s.chip.wr F.ECV_LINK_STAT_PARTNER_ROLE (bits word 7 4) l;
    let d := ((c.wr F.ECV_CAPS_PARTNER_CAPS word l).wr F.ECV_LINK_STAT_WIDTH w l).wr F.ECV_LINK_STAT_VERSION v l;
    c.capsHold l word = none ∧ w ≠ 0 ∧ 3 ≤ v ∧ isRadio l = false ∧ bits word 31 24 < d.rd F.ECV_RING_STAT_LOCAL_ID l) ∧
    (∃ (s : State) (l : Fin 18),
    s.chip.lkState l = lkRateUp) ∧
    (∃ (s : State) (l : Fin 18),
    s.chip.lkState l = lkRetrain ∧ 3 ≤ (s.chip.link l).capCnt) ∧
    (∃ (s : State) (l : Fin 18),
    (s.chip.lkState l = lkClkLock ∨ s.chip.lkState l = lkAlign ∨ s.chip.lkState l = lkCaps)) ∧
    (∃ (s : State) (l : Fin 18),
    s.chip.lkState l = lkRetrain) ∧
    (∃ (s : State) (l : Fin 18),
    s.chip.lkState l = lkHold ∧ s.chip.flag F.ECV_LINK_STAT_STORM l = false) :=
  ⟨⟨linkTraining0_s, (17 : Fin 18), by decide +kernel, by decide +kernel, by decide +kernel⟩,
   ⟨linkTraining1_s, (15 : Fin 18), by decide +kernel⟩,
   ⟨linkTraining2_s, (15 : Fin 18), (255 : Fin 256), by decide +kernel, by decide +kernel, by decide +kernel⟩,
   ⟨linkTraining3_s, (15 : Fin 18), (1 : Fin 256), by decide +kernel, by decide +kernel, by decide +kernel⟩,
   ⟨linkTraining4_s, (15 : Fin 18), (254 : Fin 256), by decide +kernel, by decide +kernel⟩,
   ⟨linkTraining5_s, (15 : Fin 18), by decide +kernel⟩,
   ⟨linkTraining6_s, (15 : Fin 18), by decide +kernel, by decide +kernel, by decide +kernel, linkTraining6_st,
        by decide +kernel⟩,
   ⟨linkTraining7_s, (15 : Fin 18), by decide +kernel, by decide +kernel, by decide +kernel, by decide +kernel,
        by decide +kernel⟩,
   ⟨linkTraining8_s, (15 : Fin 18), by decide +kernel, by decide +kernel, by decide +kernel, by decide +kernel,
        by decide +kernel, by decide +kernel⟩,
   ⟨linkTraining9_s, (15 : Fin 18), by decide +kernel, by decide +kernel, by decide +kernel, by decide +kernel,
        by decide +kernel, by decide +kernel, by decide +kernel⟩,
   ⟨linkTraining10_s, (17 : Fin 18), by decide +kernel, by decide +kernel, by decide +kernel, by decide +kernel,
        by decide +kernel, by decide +kernel, by decide +kernel, by decide +kernel⟩,
   ⟨linkTraining11_s, (15 : Fin 18), by decide +kernel⟩,
   ⟨linkTraining12_s, (15 : Fin 18), by decide +kernel, by decide +kernel⟩,
   ⟨linkTraining13_s, (15 : Fin 18), by decide +kernel⟩,
   ⟨linkTraining14_s, (15 : Fin 18), by decide +kernel⟩,
   ⟨linkTraining15_s, (15 : Fin 18), by decide +kernel, by decide +kernel⟩⟩

/-! ### LinkSignalComplete -/

def linkSignal0_s : State := (stateWith 3 [(F.ECV_LINK_STAT_LOS, 0, (0 : Fin 18), 0)])
def linkSignal2_s : State := (changed (stateWith 3 []) fun z => z.withEcv { links := [(15, { lossTick := some 1 })] })
def linkSignal3_s : State :=
  (stateWith 3 [(F.ECV_LINK_STAT_RX_LP, 0, (15 : Fin 18), 0), (F.ECV_LINK_STAT_STATE, lkCaps, 15, 0)])
def linkSignal3_lanes : List LaneFrame := [⟨mkSync, 0⟩]
def linkSignal4_s : State :=
  (stateWith 3 [(F.ECV_LINK_STAT_RX_LP, 0, (15 : Fin 18), 0), (F.ECV_LINK_STAT_STATE, lkCaps, 15, 0)])
def linkSignal4_lanes : List LaneFrame := [⟨0, 0⟩]
def linkSignal5_s : State := (stateWith 3 [(F.ECV_LINK_STAT_RX_LP, 2, (0 : Fin 18), 0)])
def linkSignal6_s : State := (changed (stateWith 3 []) fun z => z.withEcv { lpReq := [16] })


set_option maxRecDepth 40000 in
/-- Every clause of the statement has states and operands that meet its hypotheses. -/
theorem witness_LinkSignalComplete :
    (∃ (s : State) (l : Fin 18),
    s.chip.flag F.ECV_LINK_STAT_LOS l = false) ∧
    (∃ (s : State) (l : Fin 16),
    (s.chip.link l).lossTick.isSome = true ∧ s.chip.lkUp l = false) ∧
    (∃ (s : State) (l : Fin 18) (lanes : List LaneFrame),
    lanes ≠ [] ∧ s.chip.lkState l = lkCaps ∧ s.chip.rd F.ECV_LINK_STAT_RX_LP l = 0 ∧ (lanes.map (·.marker)).getD 0 0 % 2 ^ 16 = mkSync ∧ (s.chip.link l).prev = []) ∧
    (∃ (s : State) (l : Fin 18) (lanes : List LaneFrame),
    lanes ≠ [] ∧ s.chip.lkState l = lkCaps ∧ s.chip.rd F.ECV_LINK_STAT_RX_LP l = 0 ∧ (lanes.map (·.marker)).getD 0 0 % 2 ^ 16 ≠ mkSync ∧ (s.chip.link l).noSync + 1 ≠ 4) ∧
    (∃ (s : State) (l : Fin 18),
    s.chip.rd F.ECV_LINK_STAT_RX_LP l = 2) ∧
    (∃ (s : State) (l : Fin 18),
    ((isRadio l && s.chip.rd F.ECV_LP_CTRL_TX_POLICY l = 1) || s.chip.ecv.lpReq.contains l.val)
      = true) :=
  ⟨⟨linkSignal0_s, (0 : Fin 18), by decide +kernel⟩,
   ⟨linkSignal2_s, (15 : Fin 16), by decide +kernel, by decide +kernel⟩,
   ⟨linkSignal3_s, (15 : Fin 18), linkSignal3_lanes, by decide +kernel, by decide +kernel, by decide +kernel,
        by decide +kernel, by decide +kernel⟩,
   ⟨linkSignal4_s, (15 : Fin 18), linkSignal4_lanes, by decide +kernel, by decide +kernel, by decide +kernel,
        by decide +kernel, by decide +kernel⟩,
   ⟨linkSignal5_s, (0 : Fin 18), by decide +kernel⟩,
   ⟨linkSignal6_s, (16 : Fin 18), by decide +kernel⟩⟩

/-! ### SidebandCommandsComplete -/

def sideband0_s : State :=
  (changed (stateWith 3 []) fun z => z.withEcv { links := [(15, { sbRx := [(sbMsg 1 0 0 0)] })] })
def sideband0_m : Nat := (sbMsg 1 0 0 0)
def sideband1_s : State :=
  (changed (stateWith 3 []) fun z => z.withEcv { links := [(15, { sbRx := [(sbMsg 2 0 0 0)] })] })
def sideband1_m : Nat := (sbMsg 2 0 0 0)
def sideband2_s : State :=
  (changed (stateWith 3 []) fun z => z.withEcv { links := [(15, { sbRx := [(sbMsg 3 0 0 0)] })] })
def sideband2_m : Nat := (sbMsg 3 0 0 0)
def sideband3_s : State :=
  (changed (stateWith 3 []) fun z => z.withEcv { links := [(15, { sbRx := [(sbMsg 4 0 0 0)] })] })
def sideband3_m : Nat := (sbMsg 4 0 0 0)
def sideband4_s : State :=
  (changed (stateWith 3 []) fun z => z.withEcv { links := [(15, { sbRx := [(sbMsg 4 0 0 1)], sent := [⟨0, 0⟩] })] })
def sideband4_m : Nat := (sbMsg 4 0 0 1)
def sideband5_s : State :=
  (changed (stateWith 3 []) fun z => z.withEcv { links := [(15, { sbRx := [(sbMsg 5 0 0 0)] })] })
def sideband5_m : Nat := (sbMsg 5 0 0 0)
def sideband6_s : State :=
  (changed (stateWith 3 [(F.ECV_LINK_STAT_STATE, lkCaps, 17, 0), (F.ECV_LINK_STAT_VERSION, 3, 17, 0)]) fun z =>
    z.withEcv { links := [(17, { sbRx := [(sbMsg 5 0 0 0)] })] })
def sideband6_m : Nat := (sbMsg 5 0 0 0)
def sideband7_s : State :=
  (changed (stateWith 3 [(F.ECV_LINK_STAT_STATE, lkActive, 15, 0), (F.ECV_LINK_STAT_VERSION, 2, 15, 0)]) fun z =>
    z.withEcv { links := [(15, { sbRx := [(sbMsg 0x15 0 0 2)] })] })
def sideband7_m : Nat := (sbMsg 0x15 0 0 2)
def sideband8_s : State :=
  (changed (stateWith 3 []) fun z => z.withEcv { links := [(15, { sbRx := [(sbMsg 0x20 0 0 0)] })] })
def sideband8_m : Nat := (sbMsg 0x20 0 0 0)
def sideband9_s : State :=
  (changed (stateWith 3 []) fun z => z.withEcv { links := [(15, { sbRx := [(sbMsg 0x21 0 0 0)] })] })
def sideband9_m : Nat := (sbMsg 0x21 0 0 0)
def sideband10_s : State :=
  (changed (stateWith 3 []) fun z => z.withEcv { links := [(15, { sbRx := [(sbMsg 0x30 0 0 0)] })] })
def sideband10_m : Nat := (sbMsg 0x30 0 0 0)
def sideband11_s : State :=
  (changed (stateWith 3 []) fun z => z.withEcv { links := [(15, { sbRx := [(sbMsg 0x31 0 0 0)] })] })
def sideband11_m : Nat := (sbMsg 0x31 0 0 0)
def sideband12_s : State :=
  (changed (stateWith 3 []) fun z => z.withEcv { links := [(15, { sbRx := [(sbMsg 0x32 0 0 0)] })] })
def sideband12_m : Nat := (sbMsg 0x32 0 0 0)
def sideband13_s : State :=
  (changed (stateWith 3 []) fun z => z.withEcv { links := [(17, { sbRx := [(sbMsg 0x40 0 0 0)] })] })
def sideband13_m : Nat := (sbMsg 0x40 0 0 0)
def sideband14_s : State :=
  (changed (stateWith 3 []) fun z => z.withEcv { links := [(15, { sbRx := [(sbMsg 0xFF 0 0 0)] })] })
def sideband14_m : Nat := (sbMsg 0xFF 0 0 0)
def sideband15_t1 : Nat × Nat := (0, 5)
def sideband15_s : State :=
  (changed (stateWith 3 [(F.ECV_LINK_STAT_STATE, lkActive, 15, 0)]) fun z => z.withEcv { links := [(15, { sbRx := [(sbMsg 0x31 0 0 0)], t1 := [(0, 5)], t3 := some (0, 6), t4 := some (0, 7) })] })
def sideband15_m : Nat := (sbMsg 0x31 0 0 0)
def sideband15_x : LinkX := ((sideband15_s.chip.sbRest (15 : Fin 18) ([] : List Nat)).link (15 : Fin 18))
def sideband15_t2 : Nat := (sbArg sideband15_m)
def sideband15_e : Int × Nat :=
  (ttCompute sideband15_t1.2 sideband15_t2 (6 : Nat) (7 : Nat) (sx 16 ((sideband15_s.chip.sbRest (15 : Fin 18) ([] :
    List Nat)).rd F.ECV_TT_ASYM_ASYM (15 : Fin 18))))
def sideband15_ex : List (Int × Nat) :=
  ((sideband15_x.exch ++ [sideband15_e]).drop (sideband15_x.exch.length + 1 - 256))
def sideband16_s : State := (changed (stateWith 3 []) fun z => z.withEcv { links := [(15, { sent := [⟨0, 1⟩] })] })
def sideband16_e : SbSent := ⟨0, 1⟩
def sideband17_s : State := (changed (stateWith 3 []) fun z => z.withEcv { links := [(15, { sent := [⟨0, 2⟩] })] })
def sideband17_e : SbSent := ⟨0, 2⟩
def sideband18_s : State :=
  (stateWith 3 [(F.ECV_LINK_STAT_TX_LP, 0, (15 : Fin 18), 0), (F.ECV_LINK_STAT_STATE, lkActive, 15, 0),
    (F.ECV_LINK_STAT_VERSION, 2, 15, 0)])


set_option maxRecDepth 40000 in
/-- Every clause of the statement has states and operands that meet its hypotheses. -/
theorem witness_SidebandCommandsComplete :
    (∃ (s : State) (l : Fin 18) (m : Nat) (t : List Nat),
    (s.chip.link l).sbRx = m :: t ∧ sbCmd m = 1) ∧
    (∃ (s : State) (l : Fin 18) (m : Nat) (t : List Nat),
    (s.chip.link l).sbRx = m :: t ∧ sbCmd m = 2) ∧
    (∃ (s : State) (l : Fin 18) (m : Nat) (t : List Nat),
    (s.chip.link l).sbRx = m :: t ∧ sbCmd m = 3) ∧
    (∃ (s : State) (l : Fin 18) (m : Nat) (t : List Nat),
    (s.chip.link l).sbRx = m :: t ∧ sbCmd m = 4 ∧ ((s.chip.sbRest l t).link l).sent.find? (fun e => sbSeq e.msg == sbArg m % 16) = none) ∧
    (∃ (s : State) (l : Fin 18) (m : Nat) (t : List Nat),
    (s.chip.link l).sbRx = m :: t ∧ sbCmd m = 4 ∧ sbExt m = 1 ∧ (((s.chip.sbRest l t).link l).sent.find? (fun e => sbSeq e.msg == sbArg m % 16)).isSome = true) ∧
    (∃ (s : State) (l : Fin 18) (m : Nat) (t : List Nat),
    (s.chip.link l).sbRx = m :: t ∧ sbCmd m = 5 ∧ isRadio l = true) ∧
    (∃ (s : State) (l : Fin 18) (m : Nat) (t : List Nat),
    (s.chip.link l).sbRx = m :: t ∧ sbCmd m = 5 ∧ isRadio l = false ∧ (s.chip.sbRest l t).lkState l = lkCaps ∧ (s.chip.sbRest l t).rd F.ECV_LINK_STAT_VERSION l = 3) ∧
    (∃ (s : State) (l : Fin 18) (m : Nat) (t : List Nat),
    (s.chip.link l).sbRx = m :: t ∧ sbCmd m = 0x15 ∧ (s.chip.sbRest l t).lkUp l = true ∧ 2 ≤ (s.chip.sbRest l t).rd F.ECV_LINK_STAT_VERSION l ∧ (sbExt m % 4 = 1 ∨ sbExt m % 4 = 2)) ∧
    (∃ (s : State) (l : Fin 18) (m : Nat) (t : List Nat),
    (s.chip.link l).sbRx = m :: t ∧ sbCmd m = 0x20 ∧ sbExt m ≠ 3) ∧
    (∃ (s : State) (l : Fin 18) (m : Nat) (t : List Nat),
    (s.chip.link l).sbRx = m :: t ∧ sbCmd m = 0x21) ∧
    (∃ (s : State) (l : Fin 18) (m : Nat) (t : List Nat),
    (s.chip.link l).sbRx = m :: t ∧ sbCmd m = 0x30) ∧
    (∃ (s : State) (l : Fin 18) (m : Nat) (t : List Nat),
    (s.chip.link l).sbRx = m :: t ∧ sbCmd m = 0x31) ∧
    (∃ (s : State) (l : Fin 18) (m : Nat) (t : List Nat),
    (s.chip.link l).sbRx = m :: t ∧ sbCmd m = 0x32 ∧ isRadio l = true) ∧
    (∃ (s : State) (l : Fin 18) (m : Nat) (t : List Nat),
    (s.chip.link l).sbRx = m :: t ∧ sbCmd m = 0x40 ∧ isRadio l = false) ∧
    (∃ (s : State) (l : Fin 18) (m : Nat) (t : List Nat),
    (s.chip.link l).sbRx = m :: t ∧ s.chip.sbAccepts l (sbCmd m) = false) ∧
    (∃ (s : State) (l : Fin 18) (m : Nat) (t : List Nat) (x : LinkX) (t1 : Nat × Nat) (k : Nat) (t3 : Nat) (t2 : Nat) (t4 : Nat) (e : Int × Nat) (ex : List (Int × Nat)),
    (s.chip.link l).sbRx = m :: t ∧ sbCmd m = 0x31 ∧ x = (s.chip.sbRest l t).link l ∧ t2 = sbArg m ∧ x.t1.find? (fun e => e.1 == sbExt m) = some t1 ∧ x.t3 = some (k, t3) ∧ x.t4 = some (k, t4) ∧ (s.chip.sbRest l t).lkUp l = true ∧ (s.chip.sbRest l t).ttMaster l = false ∧ x.exchN + 1 < 256 ∧ e = ttCompute t1.2 t2 t3 t4 (sx 16 ((s.chip.sbRest l t).rd F.ECV_TT_ASYM_ASYM l)) ∧ ex = (x.exch ++ [e]).drop (x.exch.length + 1 - 256)) ∧
    (∃ (s : State) (l : Fin 18) (seq : Fin 16) (e : SbSent),
    (s.chip.link l).sent.find? (fun e => sbSeq e.msg == seq.val)
      = some e ∧ e.repeats < 2) ∧
    (∃ (s : State) (l : Fin 18) (seq : Fin 16) (e : SbSent),
    (s.chip.link l).sent.find? (fun e => sbSeq e.msg == seq.val)
      = some e ∧ 2 ≤ e.repeats) ∧
    (∃ (s : State) (l : Fin 18),
    s.chip.lkUp l = true ∧ 2 ≤ s.chip.rd F.ECV_LINK_STAT_VERSION l ∧ s.chip.rd F.ECV_LINK_STAT_TX_LP l = 0) :=
  ⟨⟨sideband0_s, (15 : Fin 18), sideband0_m, ([] : List Nat), by decide +kernel, by decide +kernel⟩,
   ⟨sideband1_s, (15 : Fin 18), sideband1_m, ([] : List Nat), by decide +kernel, by decide +kernel⟩,
   ⟨sideband2_s, (15 : Fin 18), sideband2_m, ([] : List Nat), by decide +kernel, by decide +kernel⟩,
   ⟨sideband3_s, (15 : Fin 18), sideband3_m, ([] : List Nat), by decide +kernel, by decide +kernel,
        by decide +kernel⟩,
   ⟨sideband4_s, (15 : Fin 18), sideband4_m, ([] : List Nat), by decide +kernel, by decide +kernel, by decide +kernel,
        by decide +kernel⟩,
   ⟨sideband5_s, (15 : Fin 18), sideband5_m, ([] : List Nat), by decide +kernel, by decide +kernel,
        by decide +kernel⟩,
   ⟨sideband6_s, (17 : Fin 18), sideband6_m, ([] : List Nat), by decide +kernel, by decide +kernel, by decide +kernel,
        by decide +kernel, by decide +kernel⟩,
   ⟨sideband7_s, (15 : Fin 18), sideband7_m, ([] : List Nat), by decide +kernel, by decide +kernel, by decide +kernel,
        by decide +kernel, by decide +kernel⟩,
   ⟨sideband8_s, (15 : Fin 18), sideband8_m, ([] : List Nat), by decide +kernel, by decide +kernel,
        by decide +kernel⟩,
   ⟨sideband9_s, (15 : Fin 18), sideband9_m, ([] : List Nat), by decide +kernel, by decide +kernel⟩,
   ⟨sideband10_s, (15 : Fin 18), sideband10_m, ([] : List Nat), by decide +kernel, by decide +kernel⟩,
   ⟨sideband11_s, (15 : Fin 18), sideband11_m, ([] : List Nat), by decide +kernel, by decide +kernel⟩,
   ⟨sideband12_s, (15 : Fin 18), sideband12_m, ([] : List Nat), by decide +kernel, by decide +kernel,
        by decide +kernel⟩,
   ⟨sideband13_s, (17 : Fin 18), sideband13_m, ([] : List Nat), by decide +kernel, by decide +kernel,
        by decide +kernel⟩,
   ⟨sideband14_s, (15 : Fin 18), sideband14_m, ([] : List Nat), by decide +kernel, by decide +kernel⟩,
   ⟨sideband15_s, (15 : Fin 18), sideband15_m, ([] : List Nat), sideband15_x, sideband15_t1, (0 : Nat), (6 : Nat),
        sideband15_t2, (7 : Nat), sideband15_e, sideband15_ex, by decide +kernel, by decide +kernel, rfl, rfl,
        by decide +kernel, by decide +kernel, by decide +kernel, by decide +kernel, by decide +kernel,
        by decide +kernel, rfl, rfl⟩,
   ⟨sideband16_s, (15 : Fin 18), (0 : Fin 16), sideband16_e, by decide +kernel, by decide +kernel⟩,
   ⟨sideband17_s, (15 : Fin 18), (0 : Fin 16), sideband17_e, by decide +kernel, by decide +kernel⟩,
   ⟨sideband18_s, (15 : Fin 18), by decide +kernel, by decide +kernel, by decide +kernel⟩⟩

/-! ### RingCommandsComplete -/

def ring0_s : State :=
  (stateWith 3 [(F.ECV_LINK_STAT_LOS, 1, (16 + (1 : Fin 2)), 0), (F.ECV_LINK_STAT_STATE, lkListen, 17, 0),
    (F.ECV_LINK_STAT_LOS, 1, 17, 0)])
def ring1_s : State :=
  (changed (stateWith 3 [(F.ECV_LINK_STAT_STATE, lkListen, 17, 0), (F.ECV_LINK_STAT_STATE, lkListen, 16, 0)]) fun z =>
    z.withEcv { links := [(16, { noSignal := true }), (17, { noSignal := true })] })
def ring2_s : State := (stateWith 3 [(F.ECV_LINK_STAT_STATE, lkActive, 17, 0)])
def ring3_s : State :=
  (changed (stateWith 3 []) fun z => z.withEcv { links := [(16, { peerNext := some (true, 31, 1) })] })


set_option maxRecDepth 40000 in
/-- Every clause of the statement has states and operands that meet its hypotheses. -/
theorem witness_RingCommandsComplete :
    (∃ (s : State) (q : Fin 2),
    s.chip.lkState (16 + q) = lkListen ∧ s.chip.flag F.ECV_LINK_STAT_LOS (16 + q) = true) ∧
    (∃ (s : State),
    ((∀ l, l = 16 ∨ l = 17 → s.chip.lkState l = lkListen ∧
      ((s.chip.link l).noSignal = true ∨ s.chip.flag F.ECV_LINK_STAT_LOS l = false)))) ∧
    (∃ (s : State),
    s.chip.lkUp 16 = false ∧ s.chip.lkUp 17 = true) ∧
    (∃ (s : State) (v : Bool) (id : Nat) (hops : Nat),
    (s.chip.link 16).peerNext = some (v, id, hops)) :=
  ⟨⟨ring0_s, (1 : Fin 2), by decide +kernel, by decide +kernel⟩,
   ⟨ring1_s, by rintro l (rfl | rfl) <;> decide +kernel⟩,
   ⟨ring2_s, by decide +kernel, by decide +kernel⟩,
   ⟨ring3_s, (true : Bool), (31 : Nat), (1 : Nat), by decide +kernel⟩⟩

/-! ### ChannelServiceComplete -/

def channelService0_s : State := (stateWith 3 [(F.ACH_STAT_SVC_STATE, acLeaving, 255, 0)])
def channelService1_s : State :=
  (stateWith 3 [(F.CAL_ANT_STAT_CONVERGED, 1, (255 : Fin 256), 0), (F.ACH_STAT_SVC_STATE, acConv, 255, 0),
    (F.CAL_ANT_STAT_CONVERGED, 1, 255, 0)])
def channelService2_s : State := (stateWith 3 [])
def channelService3_s : State := (stateWith 3 [(F.ACH_GAIN_CFG_MODE, 1, (255 : Fin 256), 0)])
def channelService4_s : State :=
  (stateWith 3 [(F.ACH_GAIN_CFG_MODE, 0, (255 : Fin 256), 0), (F.ACH_GAIN_CFG_FREEZE, 0, (255 : Fin 256), 0),
    (F.ACH_STAT_SVC_STATE, acIn, 255, 0), (F.ACH_GAIN_CFG_MAN_CODE, 15, 255, 0)])
def channelService5_s : State := (stateWith 3 [])
def channelService6_s : State := (changed (stateWith 3 [(F.TIME_FRAME_CFG_MODE, 1, 0, 0)]) fun z => z.withTick 5)
def channelService7_s : State := (stateWith 3 [])
def channelService7_p : Port := (.host 0)
def channelService8_s : State := (stateWith 3 [(F.ACH_STAT_SVC_STATE, acConv, 255, 0)])
def channelService8_p : Port := (.host 0)
def channelService9_s : State :=
  (stateWith 3 [(F.ACH_STAT_SVC_STATE, acOut, 255, 0), (F.ECV_LINK_STAT_STATE, lkActive, 15, 0)])
def channelService9_p : Port := (.host 0)
def channelService10_s : State := (stateWith 3 [(F.ACH_STAT_SVC_STATE, acOut, 255, 0)])
def channelService10_p : Port := (.host 0)
def channelService11_s : State :=
  (stateWith 3 [(F.ACH_STAT_ENABLE_PENDING, 1, (255 : Fin 256), 0), (F.ACH_STAT_SVC_STATE, acOut, 255, 0),
    (F.ECV_LINK_STAT_STATE, lkActive, 15, 0), (F.ACH_STAT_ENABLE_PENDING, 1, 255, 0)])
def channelService12_s : State := (stateWith 3 [])
def channelService12_p : Port := (.host 0)


set_option maxRecDepth 40000 in
/-- Every clause of the statement has states and operands that meet its hypotheses. -/
theorem witness_ChannelServiceComplete :
    (∃ (s : State) (n : Fin 256),
    s.chip.svc n = acLeaving) ∧
    (∃ (s : State) (n : Fin 256),
    s.chip.svc n = acConv ∧ s.chip.flag F.CAL_ANT_STAT_CONVERGED n = true) ∧
    (∃ (s : State) (n : Fin 256),
    (s.chip.svc n = acIn ∨ s.chip.svc n = acOut)) ∧
    (∃ (s : State) (n : Fin 256),
    (s.chip.achX n).loadCoef = false ∧ s.chip.rd F.ACH_GAIN_CFG_MODE n = 1) ∧
    (∃ (s : State) (n : Fin 256),
    (s.chip.achX n).loadCoef = false ∧ s.chip.rd F.ACH_GAIN_CFG_MODE n = 0 ∧ s.chip.flag F.ACH_GAIN_CFG_FREEZE n = false ∧ s.chip.svc n ≠ acOut ∧ (s.chip.achX n).step = none ∧ s.chip.clampCode n (s.chip.rd F.ACH_GAIN_CFG_MAN_CODE n) ≠ s.chip.rd F.ACH_GAIN_STAT_CODE n) ∧
    (∃ (s : State) (sfn : Nat),
    s.chip.sfnHere = some sfn) ∧
    (∃ (s : State),
    s.chip.sfnHere = none) ∧
    (∃ (s : State) (p : Port) (n : Fin 256) (tick : Nat),
    s.may p 0xBE = true ∧
    let c := (s.chip.wr F.ACH_COMMIT_TICK tick n).wr F.ACH_COMMIT_GO 1 n;
    (c.shadowCfg n).ccFaults (c.rd F.ECV_SAMPLE_CFG_RATE (achLink n)) (c.rd F.ECV_LINK_STAT_VERSION (achLink n)) = [] ∧ ((c.shadowCfg n).winsOk && (c.shadowCfg n).rampOk) = true ∧ 0 ≤ tickDiff (tick % tickMod) c.tick ∧ 3072 ≤ tickDiff (c.frameAt (tick % tickMod)) c.tick ∧ (c.achX n).pend = none) ∧
    (∃ (s : State) (p : Port) (n : Fin 256),
    s.may p 0xFE = true ∧ (s.chip.svc n = acIn ∨ s.chip.svc n = acConv)) ∧
    (∃ (s : State) (p : Port) (n : Fin 256),
    s.may p 0xFE = true ∧ s.chip.svc n = acOut ∧ s.chip.achMayStart n = true) ∧
    (∃ (s : State) (p : Port) (n : Fin 256),
    s.may p 0xFE = true ∧ s.chip.svc n = acOut ∧ s.chip.achMayStart n = false) ∧
    (∃ (s : State) (n : Fin 256),
    s.chip.svc n = acOut ∧ s.chip.flag F.ACH_STAT_ENABLE_PENDING n = true ∧ s.chip.achMayStart n = true) ∧
    (∃ (s : State) (p : Port),
    s.may p 0xFE = true) :=
  ⟨⟨channelService0_s, (255 : Fin 256), by decide +kernel⟩,
   ⟨channelService1_s, (255 : Fin 256), by decide +kernel, by decide +kernel⟩,
   ⟨channelService2_s, (0 : Fin 256), by decide +kernel⟩,
   ⟨channelService3_s, (255 : Fin 256), by decide +kernel, by decide +kernel⟩,
   ⟨channelService4_s, (255 : Fin 256), by decide +kernel, by decide +kernel, by decide +kernel, by decide +kernel,
        by decide +kernel, by decide +kernel⟩,
   ⟨channelService5_s, (1 : Nat), by decide +kernel⟩,
   ⟨channelService6_s, by decide +kernel⟩,
   ⟨channelService7_s, channelService7_p, (255 : Fin 256), (5000 : Nat), by decide +kernel, by decide +kernel,
        by decide +kernel, by decide +kernel, by decide +kernel, by decide +kernel⟩,
   ⟨channelService8_s, channelService8_p, (255 : Fin 256), by decide +kernel, by decide +kernel⟩,
   ⟨channelService9_s, channelService9_p, (255 : Fin 256), by decide +kernel, by decide +kernel, by decide +kernel⟩,
   ⟨channelService10_s, channelService10_p, (255 : Fin 256), by decide +kernel, by decide +kernel, by decide +kernel⟩,
   ⟨channelService11_s, (255 : Fin 256), by decide +kernel, by decide +kernel, by decide +kernel⟩,
   ⟨channelService12_s, channelService12_p, by decide +kernel⟩⟩

/-! ### ChannelSignalComplete -/

def channelSignal0_s : State :=
  (changed (stateWith 3 [(F.ACH_STAT_SVC_STATE, acOut, 255, 0), (F.PWR_DOM_STAT_STATE, 0, 39, 0),
    (F.CLK_PLL_STAT_LOCK, 0xFFF, 0, 0)]) fun z => z.withAch { chans := [(255, { cfg := { cc := [(7, 2 ^ 61 + 2 ^ 60 + 2 ^ 29, 2 ^ 58)], period := 307200, wins := [(0, 1000, 9000)] } })] })
def channelSignal1_s : State :=
  (changed (stateWith 3 [(F.ACH_STAT_SVC_STATE, acIn, 255, 0), (F.PWR_DOM_STAT_STATE, 0, 39, 0), (F.CLK_PLL_STAT_LOCK,
    0xFFF, 0, 0)]) fun z => z.withAch { chans := [(255, { cfg := { cc := [(7, 2 ^ 61 + 2 ^ 60 + 2 ^ 29, 2 ^ 58)], period := 307200, wins := [(0, 1000, 9000)] }, taps := (List.range 600).map fun k => ⟨k, 0, []⟩ })] })
def channelSignal2_s : State :=
  (changed (stateWith 3 [(F.ACH_GAIN_CFG_MODE, 1, (255 : Fin 256), 0), (F.ACH_STAT_SVC_STATE, acIn, 255, 0),
    (F.ACH_GAIN_CFG_MODE, 1, 255, 0)]) fun z => (z.withTick 600).withAch { chans := [(255, { cfg := { cc := [(7, 2 ^ 61 + 2 ^ 60 + 2 ^ 29, 2 ^ 58)], period := 307200, wins := [(0, 1000, 9000)] }, taps := (List.range 600).map fun k => ⟨k, 0, []⟩ })] })
def channelSignal2_w : Nat := 2 ^ 61 + 2 ^ 60 + 2 ^ 29
def channelSignal3_s : State :=
  (changed (stateWith 3 []) fun z => z.withAch { chans := [(255, { step := some (15, 77) })] })
def channelSignal4_s : State :=
  (changed (stateWith 3 [(F.ACH_STAT_SVC_STATE, acIn, 255, 0)]) fun z => z.withAch { chans := [(255, { cfg := { cc := [(7, 2 ^ 61 + 2 ^ 29, 2 ^ 58)], period := 307200, wins := [(0, 1000, 9000)] } })] })
def channelSignal5_s : State :=
  (changed (stateWith 3 []) fun z => z.withAch { chans := [(255, { cfg := { cc := [(7, 2 ^ 61 + 2 ^ 29, 2 ^ 58)], period := 307200, wins := [(0, 1000, 9000)] }, win := some 0 })] })
def channelSignal6_s : State :=
  (changed (stateWith 3 [(F.ACH_STAT_SVC_STATE, acIn, 255, 0)]) fun z => (z.withTick 937).withAch { chans := [(255, { cfg := { cc := [(7, 2 ^ 61 + 2 ^ 29, 2 ^ 58)], period := 307200, wins := [(0, 1000, 9000)] } })] })
def channelSignal6_v : Nat × Nat := (1000, 9000)
def channelSignal7_s : State :=
  (changed (stateWith 3 [(F.ACH_STAT_SVC_STATE, acIn, 255, 0), (F.CAL_CTRL_INJ_EN, 0, 0, 0)]) fun z => z.withAch { chans := [(255, { cfg := { cc := [(7, 2 ^ 61 + 2 ^ 29, 2 ^ 58)], period := 307200, wins := [(0, 1000, 9000)] } })] })
def channelSignal7_v : Nat × Nat := (1000, 9000)
def channelSignal8_s : State :=
  (changed (stateWith 3 []) fun z => z.withAch { chans := [(255, { cfg := { cc := [(7, 2 ^ 61 + 2 ^ 29, 2 ^ 58)], period := 307200, wins := [(0, 1000, 9000)] }, emer := true })] })
def channelSignal9_s : State :=
  (changed (stateWith 3 []) fun z => (z.withAch { chans := [(255, { cfg := { cc := [(7, 2 ^ 61 + 2 ^ 29, 2 ^ 58)], period := 307200, wins := [(0, 1000, 9000)] }, emer := true })] }).withDev
    { warm := some 0 })
def channelSignal9_f := (0 : Nat)
def channelSignal10_s : State :=
  (changed (stateWith 3 [(F.ACH_STAT_SVC_STATE, acIn, 255, 0), (F.PWR_DOM_STAT_STATE, 0, 39, 0), (F.CLK_PLL_STAT_LOCK,
    0xFFF, 0, 0)]) fun z => z.withAch { chans := [(255, { cfg := { cc := [(7, 2 ^ 61 + 2 ^ 60 + 2 ^ 29, 2 ^ 58)], period := 307200, wins := [(0, 1000, 9000)] } })] })


set_option maxRecDepth 40000 in
/-- Every clause of the statement has states and operands that meet its hypotheses. -/
theorem witness_ChannelSignalComplete :
    (∃ (s : State) (n : Fin 256) (cc : Fin 8) (sym : Nat),
    let g := s.chip.cfgDone n cc sym;
    let w := g.ccw cc;
    let t := (s.chip.symWhen w sym).1;
    let base := 0x300000000 + 128 * cpUl (g.pool cc) + sym % cpBuf (g.pool cc) * 128 * cpStride (g.pool cc);
    let put := fun (v : Nat → Nat) (sat : Bool) =>
      ((s.chip.writeWords .fabric base (packWords (ccSc w) v) false).1.writeWord .fabric (base + 16 * ((ccSc w + 3) / 4))
        (rxStatus .ok sat (s.chip.codeAt n t) (s.chip.stepIn n t (symTicks w sym)) t sym (s.chip.symWhen w sym).2) false).1;
    ccType w ≠ 0 ∧ sym < ccSyms w ∧ s.chip.rxRuns w t = true ∧ s.chip.awake = true ∧ s.chip.rxZeros n w sym t = true ∧ (put (fun _ => 0) false).awake = true) ∧
    (∃ (s : State) (n : Fin 256) (cc : Fin 8) (sym : Nat),
    let g := s.chip.cfgDone n cc sym;
    let w := g.ccw cc;
    let t := (s.chip.symWhen w sym).1;
    let base := 0x300000000 + 128 * cpUl (g.pool cc) + sym % cpBuf (g.pool cc) * 128 * cpStride (g.pool cc);
    let put := fun (v : Nat → Nat) (sat : Bool) =>
      ((s.chip.writeWords .fabric base (packWords (ccSc w) v) false).1.writeWord .fabric (base + 16 * ((ccSc w + 3) / 4))
        (rxStatus .ok sat (s.chip.codeAt n t) (s.chip.stepIn n t (symTicks w sym)) t sym (s.chip.symWhen w sym).2) false).1;
    let vals := (List.range (ccSc w)).map fun k =>
      fdScale w (s.chip.rxSub n w (s.chip.tapSamples n t (symTicks w sym)) k);
    ccType w ≠ 0 ∧ sym < ccSyms w ∧ s.chip.rxRuns w t = true ∧ s.chip.awake = true ∧ s.chip.rxZeros n w sym t = false ∧ s.chip.gapIn n t (symTicks w sym) = false ∧ (put (fun k => (vals.getD k (0, false)).1) (vals.any (·.2))).awake = true) ∧
    (∃ (s : State) (n : Fin 256) (w : Nat),
    s.chip.refCarrier n = some w ∧
    let st := s.chip.symOf w (tickAdd (s.chip.symOf w s.chip.tick).2 (tickMod - 1));
    let len := symTicks w st.1;
    s.chip.rd F.ACH_GAIN_CFG_MODE n = 1 ∧ s.chip.svc n ≠ acOut ∧ (s.chip.achX n).step = none ∧ ((∀ g, (s.chip.achX n).lastStep = some g → tickLater g st.2 = false)) ∧ s.chip.paOver n st.2 len = false ∧ s.chip.exchOver st.2 len = false ∧ s.chip.gapIn n st.2 len = false) ∧
    (∃ (s : State) (n : Fin 256) (code : Nat) (t : Nat),
    (s.chip.achX n).step = some (code, t)) ∧
    (∃ (s : State) (n : Fin 256) (w : Fin 8),
    ((s.chip.achX n).cfg.win w).isSome = true ∧ s.chip.txOpenOk n = true ∧ (s.chip.achX n).skip.contains w.val = false ∧ (s.chip.achX n).win = none) ∧
    (∃ (s : State) (n : Fin 256) (w : Nat),
    (s.chip.achX n).win = some w ∧ (s.chip.achX n).emer = false) ∧
    (∃ (s : State) (n : Fin 256) (w : Fin 8) (t : Nat) (v : Nat × Nat),
    s.chip.paEdgeTick n w true = some t ∧ (s.chip.achX n).cfg.win w = some v ∧ s.chip.txOpenOk n = true ∧ tickDiff t s.chip.tick < leadTicks) ∧
    (∃ (s : State) (n : Fin 256) (w : Fin 8) (t : Nat) (v : Nat × Nat),
    s.chip.paEdgeTick n w true = some t ∧ (s.chip.achX n).cfg.win w = some v ∧ s.chip.txOpenOk n = true ∧
    let c := s.chip.setAch n { s.chip.achX n with
      skip := (s.chip.achX n).skip.filter (· != w.val)
      pa := true };
    leadTicks ≤ tickDiff t s.chip.tick ∧ s.chip.sameEdge (achLink n) t true = false ∧ (c.sbSend (achLink n) (sbMsg 0x11 (n.val % 16) t 1)).injRuns = false) ∧
    (∃ (s : State) (n : Fin 256),
    (s.chip.achX n).emer = true ∧ s.chip.dev.warm = none) ∧
    (∃ (s : State) (n : Fin 256),
    (s.chip.achX n).emer = true ∧ ∃ (f : _),
    s.chip.dev.warm = some f) ∧
    (∃ (s : State) (n : Fin 256) (cc : Fin 8) (sym : Nat) (ready : Bool),
    let g := s.chip.cfgNext n cc sym;
    let w := dlWord (g.ccw cc);
    let t := s.chip.symNext w sym;
    let c := if ready then (if g.inWindow [] t (symTicks w sym) true then s.chip else s.chip.incSat F.ACH_CNT_TX_OUTSIDE n)
      else
        let c := match s.chip.dlCommand w t with
          | some h => s.chip.dlMissed h.ref
          | none => s.chip;
    c.withAch { c.ach with
          zeroed := (c.ach.zeroed.filter fun (e : Nat × Nat) => tickDiff c.tick e.2 < frameTicks) ++ [(ccCell w, t)] };
    let d := if g.inWindow (c.achX n).skip t (symTicks w sym) false then c.txSend g n cc sym t ready else c;
    ccType w ≠ 0 ∧ sym < ccSyms w ∧ s.chip.txRuns n w t = true ∧ s.chip.awake = true ∧ d.awake = true) :=
  ⟨⟨channelSignal0_s, (255 : Fin 256), (7 : Fin 8), (0 : Nat), by decide +kernel, by decide +kernel,
        by decide +kernel, by decide +kernel, by decide +kernel, by decide +kernel⟩,
   ⟨channelSignal1_s, (255 : Fin 256), (7 : Fin 8), (0 : Nat), by decide +kernel, by decide +kernel,
        by decide +kernel, by decide +kernel, by decide +kernel, by decide +kernel, by decide +kernel⟩,
   ⟨channelSignal2_s, (255 : Fin 256), channelSignal2_w, by decide +kernel, by decide +kernel, by decide +kernel,
        by decide +kernel, by decide +kernel, by decide +kernel, by decide +kernel, by decide +kernel⟩,
   ⟨channelSignal3_s, (255 : Fin 256), (15 : Nat), (77 : Nat), by decide +kernel⟩,
   ⟨channelSignal4_s, (255 : Fin 256), (0 : Fin 8), by decide +kernel, by decide +kernel, by decide +kernel,
        by decide +kernel⟩,
   ⟨channelSignal5_s, (255 : Fin 256), (0 : Nat), by decide +kernel, by decide +kernel⟩,
   ⟨channelSignal6_s, (255 : Fin 256), (0 : Fin 8), (938 : Nat), channelSignal6_v, by decide +kernel,
        by decide +kernel, by decide +kernel, by decide +kernel⟩,
   ⟨channelSignal7_s, (255 : Fin 256), (0 : Fin 8), (938 : Nat), channelSignal7_v, by decide +kernel,
        by decide +kernel, by decide +kernel, by decide +kernel, by decide +kernel, by decide +kernel⟩,
   ⟨channelSignal8_s, (255 : Fin 256), by decide +kernel, by decide +kernel⟩,
   ⟨channelSignal9_s, (255 : Fin 256), by decide +kernel, channelSignal9_f, by decide +kernel⟩,
   ⟨channelSignal10_s, (255 : Fin 256), (7 : Fin 8), (0 : Nat), (true : Bool), by decide +kernel, by decide +kernel,
        by decide +kernel, by decide +kernel, by decide +kernel⟩⟩

/-! ### SteamerCommandsComplete -/

def steamer0_s : State := (stateWith 3 [(F.ACH_STAT_SVC_STATE, acIn, 255, 0)])
def steamer1_s : State :=
  (changed (stateWith 3 [(F.ACH_STAT_SVC_STATE, acIn, 255, 0)]) fun z => z.withCal { cut := true })
def steamer2_s : State := (stateWith 3 [(F.CAL_CTRL_EXCH_EN, 1, 0, 0), (F.CAL_CTRL_EXCH_EN, 1, 0, 0)])
def steamer3_s : State :=
  (changed (stateWith 3 [(F.CAL_CTRL_EXCH_EN, 1, 0, 0), (F.CAL_CTRL_EXCH_EN, 1, 0, 0), (F.CAL_CTRL_REF_ANT, 255, 0,
    0), (F.ACH_STAT_SVC_STATE, acIn, 255, 0)]) fun z => z.withAch { chans := [(255, { cfg := { cc := [(7, 2 ^ 61 + 2 ^ 29, 2 ^ 58)], period := 307200, wins := [(0, 1000, 9000)] } })] })
def steamer4_s : State :=
  (changed (stateWith 3 [(F.CAL_CTRL_EXCH_EN, 1, 0, 0), (F.CAL_CTRL_EXCH_EN, 1, 0, 0), (F.CAL_CTRL_REF_ANT, 255, 0,
    0), (F.ACH_STAT_SVC_STATE, acIn, 255, 0)]) fun z => z.withAch { chans := [(255, { cfg := { cc := [(7, 2 ^ 61 + 2 ^ 29, 2 ^ 58)], period := 307200, wins := [(0, 1000, 9000)] } })] })
def steamer5_s : State := (changed (stateWith 3 []) fun z => z.withCal { sweepTick := some 77 })
def steamer6_s : State := (stateWith 3 [])


set_option maxRecDepth 40000 in
/-- Every clause of the statement has states and operands that meet its hypotheses. -/
theorem witness_SteamerCommandsComplete :
    (∃ (s : State) (n : Fin 256),
    s.chip.svc n ≠ acOut ∧ s.chip.calTrack = true ∧ (s.chip.cal.cut = false ∨ s.chip.cal.since.contains n.val = true)) ∧
    (∃ (s : State) (n : Fin 256),
    s.chip.svc n ≠ acOut ∧ s.chip.calTrack = true ∧ s.chip.cal.cut = true ∧ s.chip.cal.since.contains n.val = false) ∧
    (∃ (s : State),
    s.chip.calRun = true ∧ s.chip.flag F.CAL_CTRL_EXCH_EN = true ∧ s.chip.paEdgeTick (s.chip.rd F.CAL_CTRL_REF_ANT) (s.chip.rd F.CAL_EXCH_CFG_EXCH_WIN) false = none) ∧
    (∃ (s : State) (t : Nat),
    s.chip.calRun = true ∧ s.chip.flag F.CAL_CTRL_EXCH_EN = true ∧ s.chip.paEdgeTick (s.chip.rd F.CAL_CTRL_REF_ANT) (s.chip.rd F.CAL_EXCH_CFG_EXCH_WIN) false = some t) ∧
    (∃ (s : State) (t : Nat),
    s.chip.calRun = true ∧ s.chip.flag F.CAL_CTRL_EXCH_EN = true ∧ s.chip.paEdgeTick (s.chip.rd F.CAL_CTRL_REF_ANT) (s.chip.rd F.CAL_EXCH_CFG_EXCH_WIN) false = some t ∧ ((∀ n ∈ s.chip.calChans, ∀ w < 8, ∀ e, s.chip.paEdgeTick n w true = some e →
      tickDiff e t < 0 ∨ (max 256 (s.chip.rd F.CAL_EXCH_CFG_EXCH_TICKS) : Int) + 31 < tickDiff e t))) ∧
    (∃ (s : State) (t : Nat),
    s.chip.cal.group = 0 ∧ s.chip.cal.sweepTick = some t ∧ s.chip.calRun = true) ∧
    (∃ (s : State),
    let c := (List.range 16).foldl (fun c l => if c.lkUp l then c.sbSend l (sbMsg 0x14 0xF 0 3) else c) s.chip;
    c.calRun = true) :=
  ⟨⟨steamer0_s, (255 : Fin 256), by decide +kernel, by decide +kernel, by decide +kernel⟩,
   ⟨steamer1_s, (255 : Fin 256), by decide +kernel, by decide +kernel, by decide +kernel, by decide +kernel⟩,
   ⟨steamer2_s, by decide +kernel, by decide +kernel, by decide +kernel⟩,
   ⟨steamer3_s, (9032 : Nat), by decide +kernel, by decide +kernel, by decide +kernel⟩,
   ⟨steamer4_s, (9032 : Nat), by decide +kernel, by decide +kernel, by decide +kernel, by decide +kernel⟩,
   ⟨steamer5_s, (77 : Nat), by decide +kernel, by decide +kernel, by decide +kernel⟩,
   ⟨steamer6_s, by decide +kernel⟩⟩

/-! ### StoreCommandsComplete -/

def store0_s : State := (stateWith 3 [])
def store0_p : Port := (.host 0)
def store0_v : Nat := (0x53560000 + 1)
def store1_s : State := (changed (stateWith 3 []) fun z => z.withCal { op := some (.save, []) })
def store2_s : State := (stateWith 3 [(F.CAL_STORE_STAT_ERASE_PEND, 1, 0, 0)])
def store3_s : State := (stateWith 3 [])
def store3_p : Port := (.host 0)
def store4_s : State :=
  (changed (stateWith 3 []) fun z => z.withHif { inflight := [⟨0, 0, 0, 0x110, 0, 0x100000, .fetched, .ok, 0, 0, 0, none, none, false, 0, none, 0, none, true, [], []⟩] })
def store4_h : HostCmd :=
  ⟨0, 0, 0, 0x110, 0, 0x100000, .fetched, .ok, 0, 0, 0, none, none, false, 0, none, 0, none, true, [], []⟩
def store5_s : State :=
  (changed (stateWith 3 []) fun z => (z.withHif { inflight := [⟨0, 0, 0, 0x110, 0, 0x100000, .fetched, .ok, 0, 0, 0, none, none, false, 0, none, 0, none, true, [], []⟩] }).withCal
    { op := some (.save, []) })
def store5_h : HostCmd :=
  ⟨0, 0, 0, 0x110, 0, 0x100000, .fetched, .ok, 0, 0, 0, none, none, false, 0, none, 0, none, true, [], []⟩
def store6_s : State :=
  (changed (stateWith 1 []) fun z => z.withHif { inflight := [⟨0, 0, 0, 0x111, 0, 0x110000, .fetched, .ok, 0, 0, 0, none, none, false, 0, none, 0, none, true, [], []⟩] })
def store6_h : HostCmd :=
  ⟨0, 0, 0, 0x111, 0, 0x110000, .fetched, .ok, 0, 0, 0, none, none, false, 0, none, 0, none, true, [], []⟩


set_option maxRecDepth 40000 in
/-- Every clause of the statement has states and operands that meet its hypotheses. -/
theorem witness_StoreCommandsComplete :
    (∃ (s : State) (p : Port) (v : Nat),
    s.may p 0x9C = true ∧ bits v 31 16 = 0x5356 ∧ bit v 0 = true) ∧
    (∃ (s : State) (t : Tbl Byte),
    s.chip.cal.op = some (.save, t)) ∧
    (∃ (s : State),
    s.chip.flag F.CAL_STORE_STAT_ERASE_PEND = true) ∧
    (∃ (s : State) (p : Port),
    s.may p 0xFE = true) ∧
    (∃ (s : State) (f : Fin 64) (r : Fin 8) (h : HostCmd),
    s.chip.nextFetched f r = some h ∧ h.op = 0x10 ∧ s.chip.svcFaults h (h.bufOk (bits h.w2 31 0) && h.w2 / 2 ^ 32 == 0 && storeBytes ≤ bits h.w2 31 0) 0xBE = [] ∧ s.chip.cal.op = none) ∧
    (∃ (s : State) (f : Fin 64) (r : Fin 8) (h : HostCmd),
    s.chip.nextFetched f r = some h ∧ h.op = 0x10 ∧ s.chip.svcFaults h (h.bufOk (bits h.w2 31 0) && h.w2 / 2 ^ 32 == 0 && storeBytes ≤ bits h.w2 31 0) 0xBE = [] ∧ s.chip.cal.op ≠ none) ∧
    (∃ (s : State) (f : Fin 64) (r : Fin 8) (h : HostCmd),
    s.chip.nextFetched f r = some h ∧ h.op = 0x11 ∧ s.chip.svcFaults h (h.bufOk (bits h.w2 31 0) && h.w2 / 2 ^ 32 == 0 && bits h.w2 31 0 ≤ 0x110000
      && manBytes + storeBytes ≤ bits h.w2 31 0) 0x86 = []) :=
  ⟨⟨store0_s, store0_p, store0_v, by decide +kernel, by decide +kernel, by decide +kernel⟩,
   ⟨store1_s, ([] : Tbl Byte), by decide +kernel⟩,
   ⟨store2_s, by decide +kernel⟩,
   ⟨store3_s, store3_p, by decide +kernel⟩,
   ⟨store4_s, (0 : Fin 64), (0 : Fin 8), store4_h, by decide +kernel, by decide +kernel, by decide +kernel,
        by decide +kernel⟩,
   ⟨store5_s, (0 : Fin 64), (0 : Fin 8), store5_h, by decide +kernel, by decide +kernel, by decide +kernel,
        by decide +kernel⟩,
   ⟨store6_s, (0 : Fin 64), (0 : Fin 8), store6_h, by decide +kernel, by decide +kernel, by decide +kernel⟩⟩

/-! ### RingControlComplete -/

def ringControl0_s : State := (stateWith 3 [(F.RING_CFG_ENABLE, 1, (0 : Fin 64), (0 : Nat))])
def ringControl0_p : Port := (.host 0)
def ringControl1_s : State := (stateWith 3 [])
def ringControl1_p : Port := (.host 0)
def ringControl2_s : State := (stateWith 3 [])
def ringControl2_p : Port := (.host 0)
def ringControl3_s : State :=
  (stateWith 3 [(F.RING_CFG_ENABLE, 0, (63 : Fin 64), (7 : Fin 17)), (F.HIF_VERSION_AGREED_VALID, 1, (63 : Fin 64),
    0), (F.HIF_VERSION_AGREED_VALID, 1, 63, 0)])
def ringControl3_p : Port := (.host 0)
def ringControl3_v : Nat := (16 * 2 ^ 32 + 1)
def ringControl4_s : State := (stateWith 3 [])
def ringControl4_p : Port := (.host 0)
def ringControl5_s : State := (changed (stateWith 3 []) fun z => z.withHif { rings := [(16, { resetting := true })] })
def ringControl6_s : State := (stateWith 3 [])
def ringControl6_p : Port := (.host 0)
def ringControl7_s : State :=
  (stateWith 3 [(F.RING_CFG_ENABLE, 1, (63 : Fin 64), (8 + (7 : Fin 8))), (F.RING_CFG_ENABLE, 1, 63, 15),
    (F.RING_CFG_LOG2_SIZE, 6, 63, 15), (F.RING_PTR_DEV_COUNT, 64, 63, 15)])
def ringControl8_s : State :=
  (stateWith 3 [(F.RING_CFG_ENABLE, 1, (63 : Fin 64), (8 + (7 : Fin 8))), (F.RING_CFG_ENABLE, 1, 63, 15),
    (F.RING_CFG_LOG2_SIZE, 6, 63, 15), (F.RING_PTR_DEV_COUNT, 64, 63, 15)])
def ringControl9_s : State :=
  (stateWith 3 [(F.RING_CFG_ENABLE, 1, (63 : Fin 64), 16), (F.RING_CFG_ENABLE, 1, 63, 16), (F.RING_CFG_LOG2_SIZE, 6,
    63, 16), (F.RING_PTR_DEV_COUNT, 64, 63, 16)])
def ringControl10_s : State := (stateWith 3 [(F.RING_CFG_ENABLE, 1, (0 : Fin 64), (8 + (0 : Fin 9)))])
def ringControl11_s : State :=
  (changed (stateWith 3 [(F.RING_CFG_COAL_TIME, 1, (63 : Fin 64), (8 + (8 : Fin 9))), (F.RING_CFG_COAL_TIME, 1, 63,
    16)]) fun z => z.withHif { rings := [(63 * 32 + 16, { coalN := 1 })] })
def ringControl12_s : State :=
  (changed (stateWith 3 []) fun z => z.withHif { msix := [(63 * 32 + 31, { pending := true })] })
def ringControl12_m : MsixEntry := { pending := true }
def ringControl13_s : State :=
  (changed (stateWith 3 []) fun z => z.withHif { msix := [(63 * 32 + 31, { addrLo := 4 })] })
def ringControl13_m : MsixEntry := { addrLo := 4 }


set_option maxRecDepth 40000 in
/-- Every clause of the statement has states and operands that meet its hypotheses. -/
theorem witness_RingControlComplete :
    (∃ (s : State) (p : Port) (f : Fin 64) (r : Nat),
    s.mayFn p f 0xFE = true ∧ r < 17 ∧ s.chip.flag F.RING_CFG_ENABLE f r = true) ∧
    (∃ (s : State) (p : Port) (f : Fin 64) (v : Nat),
    s.mayFn p f 0xFE = true ∧ ((∀ r < 17, s.chip.flag F.RING_CFG_ENABLE f r = false)) ∧ bits v 15 12 = 1) ∧
    (∃ (s : State) (p : Port) (f : Fin 64) (v : Nat),
    s.mayFn p f 0xFE = true ∧ ((∀ r < 17, s.chip.flag F.RING_CFG_ENABLE f r = false)) ∧ bits v 15 12 ≠ 1) ∧
    (∃ (s : State) (p : Port) (f : Fin 64) (r : Fin 17) (v : Nat),
    s.mayFn p f 0xFE = true ∧ s.chip.flag F.RING_CFG_ENABLE f r = false ∧ s.chip.resetting f r = false ∧ (s.chip.ringX f r).mustReset = false ∧ 6 ≤ bits v 36 32 ∧ bits v 36 32 ≤ 16 ∧ s.chip.rd F.RING_BASE_BASE f r * 4096 + 2 ^ bits v 36 32 * ringEntryBytes r ≤ hostTop ∧ s.chip.flag F.HIF_VERSION_AGREED_VALID f = true) ∧
    (∃ (s : State) (p : Port) (f : Fin 64),
    s.mayFn p f 0xFE = true) ∧
    (∃ (s : State) (f : Fin 64) (r : Fin 17),
    s.chip.resetting f r = true ∧ s.chip.ringQuiet f r = true ∧
    let c := (s.chip.ringZero f r).w1sEnd F.RING_CFG_RESET f r (fun c => c.setRingX f r { c.ringX f r with
      resetting := true });
    ((∀ k < 17, c.resetting f k = false))) ∧
    (∃ (s : State) (p : Port) (f : Fin 64),
    s.mayFn p f 0xFE = true) ∧
    (∃ (s : State) (f : Fin 64) (k : Fin 8) (v : Nat),
    s.chip.mode ≠ mBypass ∧ s.chip.inWarm = false ∧ s.chip.flag F.RING_CFG_ENABLE f (8 + k) = true ∧ s.chip.resetting f (8 + k) = false ∧ s.chip.doorbellOk f (8 + k) (v % 2 ^ 32) = true) ∧
    (∃ (s : State) (f : Fin 64) (k : Fin 8) (v : Nat),
    s.chip.mode ≠ mBypass ∧ s.chip.inWarm = false ∧ s.chip.flag F.RING_CFG_ENABLE f (8 + k) = true ∧ s.chip.resetting f (8 + k) = false ∧ s.chip.doorbellOk f (8 + k) (v % 2 ^ 32) = false) ∧
    (∃ (s : State) (f : Fin 64) (v : Nat),
    s.chip.mode ≠ mBypass ∧ s.chip.inWarm = false ∧ s.chip.flag F.RING_CFG_ENABLE f 16 = true ∧ s.chip.resetting f 16 = false ∧ s.chip.doorbellOk f 16 (v % 2 ^ 32) = true) ∧
    (∃ (s : State) (f : Fin 64) (q : Fin 9),
    s.chip.flag F.RING_CFG_ENABLE f (8 + q) = true) ∧
    (∃ (s : State) (f : Fin 64) (q : Fin 9),
    0 < (s.chip.ringX f (8 + q)).coalN ∧ s.chip.rd F.RING_CFG_COAL_TIME f (8 + q) ≠ 0) ∧
    (∃ (s : State) (f : Fin 64) (v : Fin 32) (m : MsixEntry),
    Tbl.get s.chip.hif.msix (f * 32 + v) {} = m ∧ m.pending = true) ∧
    (∃ (s : State) (f : Fin 64) (v : Fin 32) (m : MsixEntry),
    Tbl.get s.chip.hif.msix (f * 32 + v) {} = m ∧ m.pending = false) :=
  ⟨⟨ringControl0_s, ringControl0_p, (0 : Fin 64), (0 : Nat), by decide +kernel, by decide +kernel, by decide +kernel⟩,
   ⟨ringControl1_s, ringControl1_p, (63 : Fin 64), (0x1500 : Nat), by decide +kernel, by decide +kernel,
        by decide +kernel⟩,
   ⟨ringControl2_s, ringControl2_p, (63 : Fin 64), (0x2000 : Nat), by decide +kernel, by decide +kernel,
        by decide +kernel⟩,
   ⟨ringControl3_s, ringControl3_p, (63 : Fin 64), (7 : Fin 17), ringControl3_v, by decide +kernel, by decide +kernel,
        by decide +kernel, by decide +kernel, by decide +kernel, by decide +kernel, by decide +kernel,
        by decide +kernel⟩,
   ⟨ringControl4_s, ringControl4_p, (0 : Fin 64), by decide +kernel⟩,
   ⟨ringControl5_s, (0 : Fin 64), (16 : Fin 17), by decide +kernel, by decide +kernel, by decide +kernel⟩,
   ⟨ringControl6_s, ringControl6_p, (0 : Fin 64), by decide +kernel⟩,
   ⟨ringControl7_s, (63 : Fin 64), (7 : Fin 8), (64 : Nat), by decide +kernel, by decide +kernel, by decide +kernel,
        by decide +kernel, by decide +kernel⟩,
   ⟨ringControl8_s, (63 : Fin 64), (7 : Fin 8), (65 : Nat), by decide +kernel, by decide +kernel, by decide +kernel,
        by decide +kernel, by decide +kernel⟩,
   ⟨ringControl9_s, (63 : Fin 64), (64 : Nat), by decide +kernel, by decide +kernel, by decide +kernel,
        by decide +kernel, by decide +kernel⟩,
   ⟨ringControl10_s, (0 : Fin 64), (0 : Fin 9), by decide +kernel⟩,
   ⟨ringControl11_s, (63 : Fin 64), (8 : Fin 9), by decide +kernel, by decide +kernel⟩,
   ⟨ringControl12_s, (63 : Fin 64), (31 : Fin 32), ringControl12_m, by decide +kernel, by decide +kernel⟩,
   ⟨ringControl13_s, (63 : Fin 64), (31 : Fin 32), ringControl13_m, by decide +kernel, by decide +kernel⟩⟩

/-! ### HostCommandsComplete -/

def host0_s : State :=
  (stateWith 3 [(F.RING_CFG_ENABLE, 1, 0, 0), (F.RING_CFG_ENABLE, 1, 0, 8), (F.RING_CFG_LOG2_SIZE, 6, 0, 8),
    (F.RING_CFG_LOG2_SIZE, 6, 0, 0), (F.RING_PTR_HOST_COUNT, 1, 0, 0)])
def host1_s : State :=
  (changed (stateWith 3 []) fun z => z.withHif { inflight := [⟨0, 0, 0, (0x102), (2 ^ 64), 0, .fetched, .ok, 0, 0, 0, none, none, false, 0, none, 0, some (2 ^ 61 + 2 ^ 29, 32), true, [], []⟩] })
def host1_h : HostCmd :=
  ⟨0, 0, 0, (0x102), (2 ^ 64), 0, .fetched, .ok, 0, 0, 0, none, none, false, 0, none, 0, some (2 ^ 61 + 2 ^ 29, 32),
    true, [], []⟩
def host2_s : State :=
  (changed (stateWith 3 []) fun z => z.withHif { inflight := [⟨0, 0, 0, (0x101 + 100000 * 2 ^ 96), (2 ^ 64), 0, .fetched, .ok, 0, 0, 0, none, none, false, 0, none, 0, some (2 ^ 61 + 2 ^ 29, 32), true, [], []⟩] })
def host2_h : HostCmd :=
  ⟨0, 0, 0, (0x101 + 100000 * 2 ^ 96), (2 ^ 64), 0, .fetched, .ok, 0, 0, 0, none, none, false, 0, none, 0, some (2 ^
    61 + 2 ^ 29, 32), true, [], []⟩
def host2_w := (2 ^ 61 + 2 ^ 29)
def host2_l := 32
def host3_s : State :=
  (changed (stateWith 3 []) fun z => z.withHif { inflight := [⟨0, 0, 0, 0x103, 0, 0, .fetched, .ok, 0, 0, 0, none, none, false, 0, none, 0, none, true, [], []⟩] })
def host3_h : HostCmd :=
  ⟨0, 0, 0, 0x103, 0, 0, .fetched, .ok, 0, 0, 0, none, none, false, 0, none, 0, none, true, [], []⟩
def host4_s : State :=
  (changed (stateWith 3 []) fun z => z.withHif { inflight := [⟨0, 0, 0, 0x103, (2 ^ 75), 0, .fetched, .ok, 0, 0, 0, none, none, false, 0, none, 0, none, true, [], []⟩] })
def host4_h : HostCmd :=
  ⟨0, 0, 0, 0x103, (2 ^ 75), 0, .fetched, .ok, 0, 0, 0, none, none, false, 0, none, 0, none, true, [], []⟩
def host5_s : State :=
  (changed (stateWith 3 []) fun z => z.withHif { inflight := [⟨0, 0, 0, 0x101, 0, 0, .table, .ok, 0, 0, 0, none, none, false, 0, none, 0, none, true, [], []⟩] })
def host5_h : HostCmd :=
  ⟨0, 0, 0, 0x101, 0, 0, .table, .ok, 0, 0, 0, none, none, false, 0, none, 0, none, true, [], []⟩
def host6_s : State :=
  (changed (stateWith 3 []) fun z => z.withHif { inflight := [⟨0, 0, 0, 0x101, (2 ^ 64), 0, .table, .ok, 0, 0, 0, none, none, false, 0, none, 0, some (2 ^ 61 + 2 ^ 29, 32), true, [], []⟩] })
def host6_h : HostCmd :=
  ⟨0, 0, 0, 0x101, (2 ^ 64), 0, .table, .ok, 0, 0, 0, none, none, false, 0, none, 0, some (2 ^ 61 + 2 ^ 29, 32), true,
    [], []⟩
def host7_s : State :=
  (changed (stateWith 3 []) fun z => z.withHif { inflight := [⟨0, 0, 0, 0x101, 0, 0, .table, .ok, 0, 0, 0, none, none, false, 0, none, 0, none, true, [], []⟩] })
def host7_h : HostCmd :=
  ⟨0, 0, 0, 0x101, 0, 0, .table, .ok, 0, 0, 0, none, none, false, 0, none, 0, none, true, [], []⟩
def host8_s : State :=
  (changed (stateWith 3 []) fun z => z.withHif { inflight := [⟨0, 0, 0, 0x101, (2 ^ 64), 0, .finished, .ok, 0, 0, 0, none, none, false, 0, none, 0, some (2 ^ 61 + 2 ^ 29, 32), true, [], []⟩], post := [(0, 0, 0)] })
def host8_h : HostCmd :=
  ⟨0, 0, 0, 0x101, (2 ^ 64), 0, .finished, .ok, 0, 0, 0, none, none, false, 0, none, 0, some (2 ^ 61 + 2 ^ 29, 32),
    true, [], []⟩


set_option maxRecDepth 40000 in
/-- Every clause of the statement has states and operands that meet its hypotheses. -/
theorem witness_HostCommandsComplete :
    (∃ (s : State) (f : Fin 64) (r : Fin 8),
    let n := s.chip.rd F.RING_PTR_DEV_COUNT f r;
    let q := cplRing (s.chip.rd F.RING_CFG_CPL_RING f r);
    let c := s.chip.stallUp f q;
    s.chip.mode ≠ mBypass ∧ s.chip.flag F.RING_CFG_ENABLE f r = true ∧ s.chip.resetting f r = false ∧ s.chip.rd F.RING_PTR_HOST_COUNT f r ≠ n ∧ s.chip.cplFree f q = true ∧ (c.ringCmds f r).length < 32 ∧ c.hif.inflight.length < 512 ∧ 0 < c.freeEntries ∧ ((∀ k < 2, c.flag F.SCHED_FLOW_CFG_EN (c.rd F.SCHED_SLOT_MAP_FLOW k) = true →
      c.rd F.SCHED_FLOW_STAT_OUT (c.rd F.SCHED_SLOT_MAP_FLOW k) < c.maxOut (c.rd F.SCHED_SLOT_MAP_FLOW k)))) ∧
    (∃ (s : State) (f : Fin 64) (r : Fin 8) (h : HostCmd),
    s.chip.nextFetched f r = some h ∧ s.chip.mode ≠ mSoak ∧
    let c := s.chip.setRingX h.fn h.ring { s.chip.ringX h.fn h.ring with lastStart := some h.start };
    Chip.entryFaults h = [] ∧ c.intakeClosed = false ∧ s.chip.slotEntryFaults h = [] ∧ tickLater h.fetchTick h.start = false ∧ h.op = 2) ∧
    (∃ (s : State) (f : Fin 64) (r : Fin 8) (h : HostCmd),
    s.chip.nextFetched f r = some h ∧ s.chip.mode ≠ mSoak ∧
    let c := s.chip.setRingX h.fn h.ring { s.chip.ringX h.fn h.ring with lastStart := some h.start };
    Chip.entryFaults h = [] ∧ c.intakeClosed = false ∧ s.chip.slotEntryFaults h = [] ∧ tickLater h.fetchTick h.start = false ∧ ∃ (w : _) (l : _),
    h.op = 1 ∧ tickLater c.tick h.deadline = false ∧ h.carrier = some (w, l) ∧ symInSlot w h.slotNo 14 ≤ tickDiff h.deadline h.start) ∧
    (∃ (s : State) (f : Fin 64) (r : Fin 8) (h : HostCmd),
    s.chip.nextFetched f r = some h ∧ h.op = 3 ∧ Chip.entryFaults h = [] ∧ h.nopReserved = false) ∧
    (∃ (s : State) (f : Fin 64) (r : Fin 8) (h : HostCmd),
    s.chip.nextFetched f r = some h ∧ h.op = 3 ∧ Chip.entryFaults h = [] ∧ h.nopReserved = true) ∧
    (∃ (s : State) (f : Fin 64) (r : Fin 8) (h : HostCmd) (k : Nat),
    (s.chip.ringCmds f r).find? (fun h => h.stage == .table) = some h ∧ h.status = .ok ∧ s.chip.freeSlot = some k ∧
    let h1 : HostCmd := { h with table := s.chip.readTable h };
    let h2 : HostCmd := { h1 with shed := s.chip.shedItems h1 };
    h2.itemsOk = true ∧ s.chip.cpMissed h2 = false) ∧
    (∃ (s : State) (f : Fin 64) (r : Fin 8) (h : HostCmd) (k : Nat),
    (s.chip.ringCmds f r).find? (fun h => h.stage == .table) = some h ∧ h.status = .ok ∧ s.chip.freeSlot = some k ∧
    let h1 : HostCmd := { h with table := s.chip.readTable h };
    let h2 : HostCmd := { h1 with shed := s.chip.shedItems h1 };
    h2.itemsOk = false) ∧
    (∃ (s : State) (f : Fin 64) (r : Fin 8) (h : HostCmd) (k : Nat),
    (s.chip.ringCmds f r).find? (fun h => h.stage == .table) = some h ∧ h.status = .ok ∧ s.chip.freeSlot = some k) ∧
    (∃ (s : State) (f : Fin 64) (r : Fin 8) (h : HostCmd) (t : List HostCmd),
    s.chip.ringCmds f r = h :: t ∧ h.stage = .finished ∧ s.chip.postTurn h = true) :=
  ⟨⟨host0_s, (0 : Fin 64), (0 : Fin 8), by decide +kernel, by decide +kernel, by decide +kernel, by decide +kernel,
        by decide +kernel, by decide +kernel, by decide +kernel, by decide +kernel, by decide +kernel⟩,
   ⟨host1_s, (0 : Fin 64), (0 : Fin 8), host1_h, by decide +kernel, by decide +kernel, by decide +kernel,
        by decide +kernel, by decide +kernel, by decide +kernel, by decide +kernel⟩,
   ⟨host2_s, (0 : Fin 64), (0 : Fin 8), host2_h, by decide +kernel, by decide +kernel, by decide +kernel,
        by decide +kernel, by decide +kernel, by decide +kernel, host2_w, host2_l, by decide +kernel,
        by decide +kernel, by decide +kernel, by decide +kernel⟩,
   ⟨host3_s, (0 : Fin 64), (0 : Fin 8), host3_h, by decide +kernel, by decide +kernel, by decide +kernel,
        by decide +kernel⟩,
   ⟨host4_s, (0 : Fin 64), (0 : Fin 8), host4_h, by decide +kernel, by decide +kernel, by decide +kernel,
        by decide +kernel⟩,
   ⟨host5_s, (0 : Fin 64), (0 : Fin 8), host5_h, (0 : Nat), by decide +kernel, by decide +kernel, by decide +kernel,
        by decide +kernel, by decide +kernel⟩,
   ⟨host6_s, (0 : Fin 64), (0 : Fin 8), host6_h, (0 : Nat), by decide +kernel, by decide +kernel, by decide +kernel,
        by decide +kernel⟩,
   ⟨host7_s, (0 : Fin 64), (0 : Fin 8), host7_h, (0 : Nat), by decide +kernel, by decide +kernel, by decide +kernel⟩,
   ⟨host8_s, (0 : Fin 64), (0 : Fin 8), host8_h, ([] : List HostCmd), by decide +kernel, by decide +kernel,
        by decide +kernel⟩⟩

/-! ### TrustCommandsComplete -/

def trust0_s : State :=
  (changed (stateWith 3 []) fun z => z.withHif { inflight := [⟨0, 0, 0, 0x112, (9328 * 2 ^ 64), 0, .fetched, .ok, 0, 0, 0, none, none, false, 0, none, 0, none, true, [], []⟩] })
def trust0_h : HostCmd :=
  ⟨0, 0, 0, 0x112, (9328 * 2 ^ 64), 0, .fetched, .ok, 0, 0, 0, none, none, false, 0, none, 0, none, true, [], []⟩
def trust1_s : State :=
  (changed (stateWith 3 []) fun z => z.withHif { inflight := [⟨0, 0, 0, 0x113, 0, (manBytes + 0 * 2 ^ 32), .fetched, .ok, 0, 0, 0, none, none, false, 0, none, 0, none, true, [], []⟩] })
def trust1_h : HostCmd :=
  ⟨0, 0, 0, 0x113, 0, (manBytes + 0 * 2 ^ 32), .fetched, .ok, 0, 0, 0, none, none, false, 0, none, 0, none, true, [],
    []⟩
def trust1_im : Img := (trust1_s.chip.hostImg trust1_h.buf)
def trust1_len : Nat := (bits trust1_h.w2 31 0)
def trust2_s : State :=
  (changed (stateWith 3 []) fun z => z.withHif { inflight := [⟨0, 0, 0, 0x113, 0, (manBytes + 1 * 2 ^ 32), .fetched, .ok, 0, 0, 0, none, none, false, 0, none, 0, none, true, [], []⟩] })
def trust2_h : HostCmd :=
  ⟨0, 0, 0, 0x113, 0, (manBytes + 1 * 2 ^ 32), .fetched, .ok, 0, 0, 0, none, none, false, 0, none, 0, none, true, [],
    []⟩
def trust2_im : Img := (trust2_s.chip.hostImg trust2_h.buf)
def trust2_len : Nat := (bits trust2_h.w2 31 0)
def trust3_s : State :=
  (changed (stateWith 3 []) fun z => z.withHif { inflight := [⟨0, 0, 0, 0x113, 0, (manBytes + 2 * 2 ^ 32), .fetched, .ok, 0, 0, 0, none, none, false, 0, none, 0, none, true, [], []⟩] })
def trust3_h : HostCmd :=
  ⟨0, 0, 0, 0x113, 0, (manBytes + 2 * 2 ^ 32), .fetched, .ok, 0, 0, 0, none, none, false, 0, none, 0, none, true, [],
    []⟩
def trust3_im : Img := (trust3_s.chip.hostImg trust3_h.buf)
def trust3_len : Nat := (bits trust3_h.w2 31 0)
def trust4_s : State :=
  (changed (stateWith 3 []) fun z => z.withHif { inflight := [⟨0, 0, 0, 0x113, 0, (manBytes + 3 * 2 ^ 32), .fetched, .ok, 0, 0, 0, none, none, false, 0, none, 0, none, true, [], []⟩] })
def trust4_h : HostCmd :=
  ⟨0, 0, 0, 0x113, 0, (manBytes + 3 * 2 ^ 32), .fetched, .ok, 0, 0, 0, none, none, false, 0, none, 0, none, true, [],
    []⟩
def trust4_im : Img := (trust4_s.chip.hostImg trust4_h.buf)
def trust4_len : Nat := (bits trust4_h.w2 31 0)
def trust5_s : State := (changed (stateWith 2 []) fun z => z.withTrust { op := some .boot })
def trust6_s : State := (changed (stateWith 3 []) fun z => z.withTrust { op := some (.image (0, 0, 0)) })
def trust6_ref : CmdRef := (0, 0, 0)
def trust7_s : State := (changed (stateWith 2 []) fun z => z.withTrust { hostWait := true })
def trust7_p : Port := (.host 0)
def trust8_s : State := (changed (stateWith 2 []) fun z => z.withTrust { hostWait := true })
def trust9_s : State := (stateWith 3 [])
def trust9_p : Port := (.host 0)
def trust9_n : Nat := ((Config.nonce trust9_s.chip.free).toNat)
def trust10_s : State := (changed (stateWith 3 []) fun z => z.withTrust { fuse := some (1, 2, 3, (0, 0, 0)) })
def trust10_ref : CmdRef := (0, 0, 0)
def trust10_u : Fuses := ({ trust10_s.chip.trust.fuses with
      revRsa := trust10_s.chip.trust.fuses.revRsa ||| (1 : Nat)
      revSlh := trust10_s.chip.trust.fuses.revSlh ||| (2 : Nat)
      svn := max trust10_s.chip.trust.fuses.svn (3 : Nat) })
def trust11_s : State :=
  (changed (stateWith 3 []) fun z => (z.withHif { inflight := [⟨0, 0, 0, 0x112, 0, 0, .started, .ok, 0, 0, 0, none, none, false, 0, none, 0, none, true, [], []⟩] }).withTrust
    { op := some (.attest (0, 0, 0) []) })
def trust11_ref : CmdRef := (0, 0, 0)
def trust11_h : HostCmd :=
  ⟨0, 0, 0, 0x112, 0, 0, .started, .ok, 0, 0, 0, none, none, false, 0, none, 0, none, true, [], []⟩
def trust11_d : BitVec 384 := (Config.sha384 ([] : List Byte))
def trust12_s : State :=
  (changed (stateWith 3 [(F.TRUST_STATUS_FLASH_BUSY, 1, 0, 0)]) fun z => z.withTrust { act := some (.erase 1), op := some (.erase (0, 0, 0)) })
def trust12_a : FlashAct := (.erase 1)
def trust12_c : Chip :=
  (((((trust12_s.chip.withTrust { trust12_s.chip.trust with act := none }).wr F.TRUST_STATUS_FLASH_BUSY 0).flashApply
    trust12_a).storeHeld))
def trust12_ref := (0, 0, 0)
def trust13_s : State :=
  (changed (stateWith 3 [(F.TRUST_STATUS_FLASH_BUSY, 1, 0, 0)]) fun z => z.withTrust { act := some (.erase 1) })
def trust13_a : FlashAct := (.erase 1)
def trust13_c : Chip :=
  (((((trust13_s.chip.withTrust { trust13_s.chip.trust with act := none }).wr F.TRUST_STATUS_FLASH_BUSY 0).flashApply
    trust13_a).storeHeld))


set_option maxRecDepth 40000 in
/-- Every clause of the statement has states and operands that meet its hypotheses. -/
theorem witness_TrustCommandsComplete :
    (∃ (s : State) (f : Fin 64) (r : Fin 8) (h : HostCmd),
    s.chip.nextFetched f r = some h ∧ h.op = 0x12 ∧ s.chip.svcFaults h (h.buf % 128 == 0 && h.w1 / 2 ^ 96 == 0 && 9328 ≤ bits h.w1 95 64
      && h.buf + bits h.w1 95 64 ≤ hostTop) 0xBE = []) ∧
    (∃ (s : State) (f : Fin 64) (r : Fin 8) (h : HostCmd) (im : Img) (len : Nat),
    s.chip.nextFetched f r = some h ∧ h.op = 0x13 ∧ im = s.chip.hostImg h.buf ∧ len = bits h.w2 31 0 ∧ h.dest = 0 ∧ s.chip.svcFaults h (h.bufOk len && h.w2 / 2 ^ 34 == 0
        && (len == manBytes + Img.bodyLen im && Img.type im != 5)) (loadModes 0 (Img.type im)) = []) ∧
    (∃ (s : State) (f : Fin 64) (r : Fin 8) (h : HostCmd) (im : Img) (len : Nat),
    s.chip.nextFetched f r = some h ∧ h.op = 0x13 ∧ im = s.chip.hostImg h.buf ∧ len = bits h.w2 31 0 ∧ h.dest = 1 ∧ s.chip.svcFaults h (h.bufOk len && h.w2 / 2 ^ 34 == 0 && len == manBytes + Img.bodyLen im) 0x9E = []) ∧
    (∃ (s : State) (f : Fin 64) (r : Fin 8) (h : HostCmd) (im : Img) (len : Nat),
    s.chip.nextFetched f r = some h ∧ h.op = 0x13 ∧ im = s.chip.hostImg h.buf ∧ len = bits h.w2 31 0 ∧ h.dest = 2 ∧ s.chip.svcFaults h (h.bufOk len && h.w2 / 2 ^ 34 == 0) 0x9E = []) ∧
    (∃ (s : State) (f : Fin 64) (r : Fin 8) (h : HostCmd) (im : Img) (len : Nat),
    s.chip.nextFetched f r = some h ∧ h.op = 0x13 ∧ im = s.chip.hostImg h.buf ∧ len = bits h.w2 31 0 ∧ h.dest = 3 ∧ s.chip.svcFaults h (h.bufOk len && h.w2 / 2 ^ 34 == 0) 0x9E = []) ∧
    (∃ (s : State),
    s.chip.trust.op = some .boot) ∧
    (∃ (s : State) (ref : CmdRef),
    s.chip.trust.op = some (.image ref) ∧ s.chip.trust.act = none ∧ s.chip.trust.fuse = none) ∧
    (∃ (s : State) (p : Port),
    s.may p 0xBE = true ∧ s.chip.trust.hostWait = true) ∧
    (∃ (s : State),
    s.chip.trust.hostWait = true) ∧
    (∃ (s : State) (p : Port) (n : Nat),
    s.may p 0xBE = true ∧ n = (Config.nonce s.chip.free).toNat) ∧
    (∃ (s : State) (rsa : Nat) (slh : Nat) (floor : Nat) (ref : CmdRef) (u : Fuses),
    s.chip.trust.fuse = some (rsa, slh, floor, ref) ∧ u = { s.chip.trust.fuses with
      revRsa := s.chip.trust.fuses.revRsa ||| rsa
      revSlh := s.chip.trust.fuses.revSlh ||| slh
      svn := max s.chip.trust.fuses.svn floor }) ∧
    (∃ (s : State) (ref : CmdRef) (rep : List Byte) (h : HostCmd) (d : BitVec 384),
    s.chip.trust.op = some (.attest ref rep) ∧ d = Config.sha384 rep ∧ (s.chip.withFree (s.chip.free + 1)).cmdOf ref = some h ∧ h.discard = false ∧ s.chip.dev.pcieDiscard = false) ∧
    (∃ (s : State) (a : FlashAct) (c : Chip),
    s.chip.trust.act = some a ∧ s.chip.flag F.TRUST_STATUS_FLASH_BUSY = true ∧ c = ((((s.chip.withTrust { s.chip.trust with act := none }).wr F.TRUST_STATUS_FLASH_BUSY 0).flashApply a).storeHeld) ∧ ∃ (ref : _),
    (c.trust.op = some (.image ref) ∨ c.trust.op = some (.commit ref) ∨ c.trust.op = some (.erase ref))) ∧
    (∃ (s : State) (a : FlashAct) (c : Chip),
    s.chip.trust.act = some a ∧ s.chip.flag F.TRUST_STATUS_FLASH_BUSY = true ∧ c = ((((s.chip.withTrust { s.chip.trust with act := none }).wr F.TRUST_STATUS_FLASH_BUSY 0).flashApply a).storeHeld) ∧ c.trust.op = none) :=
  ⟨⟨trust0_s, (0 : Fin 64), (0 : Fin 8), trust0_h, by decide +kernel, by decide +kernel, by decide +kernel⟩,
   ⟨trust1_s, (0 : Fin 64), (0 : Fin 8), trust1_h, trust1_im, trust1_len, by decide +kernel, by decide +kernel, rfl,
        rfl, by decide +kernel, by decide +kernel⟩,
   ⟨trust2_s, (0 : Fin 64), (0 : Fin 8), trust2_h, trust2_im, trust2_len, by decide +kernel, by decide +kernel, rfl,
        rfl, by decide +kernel, by decide +kernel⟩,
   ⟨trust3_s, (0 : Fin 64), (0 : Fin 8), trust3_h, trust3_im, trust3_len, by decide +kernel, by decide +kernel, rfl,
        rfl, by decide +kernel, by decide +kernel⟩,
   ⟨trust4_s, (0 : Fin 64), (0 : Fin 8), trust4_h, trust4_im, trust4_len, by decide +kernel, by decide +kernel, rfl,
        rfl, by decide +kernel, by decide +kernel⟩,
   ⟨trust5_s, by decide +kernel⟩,
   ⟨trust6_s, trust6_ref, by decide +kernel, by decide +kernel, by decide +kernel⟩,
   ⟨trust7_s, trust7_p, by decide +kernel, by decide +kernel⟩,
   ⟨trust8_s, by decide +kernel⟩,
   ⟨trust9_s, trust9_p, trust9_n, by decide +kernel, rfl⟩,
   ⟨trust10_s, (1 : Nat), (2 : Nat), (3 : Nat), trust10_ref, trust10_u, by decide +kernel, rfl⟩,
   ⟨trust11_s, trust11_ref, ([] : List Byte), trust11_h, trust11_d, by decide +kernel, rfl, by decide +kernel,
        by decide +kernel, by decide +kernel⟩,
   ⟨trust12_s, trust12_a, trust12_c, by decide +kernel, by decide +kernel, rfl, trust12_ref, by decide +kernel⟩,
   ⟨trust13_s, trust13_a, trust13_c, by decide +kernel, by decide +kernel, rfl, by decide +kernel⟩⟩

/-! ### PressCommandsComplete -/

def press0_s : State :=
  (changed (stateWith 3 [(F.PWR_DOM_STAT_STATE, 0, 23, 0), (F.CLK_PLL_STAT_LOCK, 0xFFF, 0, 0)]) fun z => z.withSched { tasks := [(taskAt 0x107 0x3F0000000)] })
def press0_t : Task := (taskAt 0x107 0x3F0000000)
def press1_s : State :=
  (changed (stateWith 3 [(F.PWR_DOM_STAT_STATE, 0, 23, 0), (F.CLK_PLL_STAT_LOCK, 0xFFF, 0, 0), (F.DEV_MODE_SEAM_OPEN,
    1, 0, 0), (F.ECV_LINK_STAT_STATE, lkActive, 16, 0), (F.ECV_RING_STAT_PEER_VALID, 1, 16, 0), (F.AE_JD_CFG_JD_EN_W,
    1, 0, 0), (F.AE_JD_RX_VALID, 1, 0, 0)]) fun z => (z.withSched { tasks := [(taskAt 0x107 0x3F0000000)] }).withAe { press := [(7, { ready := some ⟨0, 0x3F0000000, [1 + 2 ^ 8 + 2 ^ 32 + 2 ^ 48 + 2 ^ 64 + 512 * 2 ^ 96 + 0, (0x300000000 + 4 * 2 ^ 80), (0x300000000 + 4 * 2 ^ 80), (0x300000000 + 4 * 2 ^ 80), 0, 0, 0, 0]⟩ })] })
def press1_q : AeCmd :=
  ⟨0, 0x3F0000000, [1 + 2 ^ 8 + 2 ^ 32 + 2 ^ 48 + 2 ^ 64 + 512 * 2 ^ 96 + 0, (0x300000000 + 4 * 2 ^ 80), (0x300000000
    + 4 * 2 ^ 80), (0x300000000 + 4 * 2 ^ 80), 0, 0, 0, 0]⟩
def press1_t : Task := (taskAt 0x107 0x3F0000000)
def press1_t' : Task := { taskAt 0x107 0x3F0000000 with ran := true }
def press1_c2 : Chip :=
  ((press1_s.chip.setAe (7 : Fin 8) { press1_s.chip.aeX (7 : Fin 8) with ready := none, run := none }).putTask { press1_t with ran := true })
def press2_s : State :=
  (changed (stateWith 3 [(F.PWR_DOM_STAT_STATE, 0, 23, 0), (F.CLK_PLL_STAT_LOCK, 0xFFF, 0, 0), (F.DEV_MODE_SEAM_OPEN,
    1, 0, 0), (F.ECV_LINK_STAT_STATE, lkActive, 16, 0), (F.ECV_RING_STAT_PEER_VALID, 1, 16, 0), (F.AE_JD_CFG_JD_EN_W,
    1, 0, 0), (F.AE_JD_RX_VALID, 1, 0, 0)]) fun z => (z.withSched { tasks := [(taskAt 0x107 0x3F0000000)] }).withAe { press := [(7, { ready := some ⟨0, 0x3F0000000, [2 + 2 ^ 8 + 2 ^ 32 + 2 ^ 48 + 2 ^ 64 + 512 * 2 ^ 96 + 0, (0x300000000 + 4 * 2 ^ 80), (0x300000000 + 4 * 2 ^ 80), (0x300000000 + 4 * 2 ^ 80), 0, 0, 0, 0]⟩ })] })
def press2_q : AeCmd :=
  ⟨0, 0x3F0000000, [2 + 2 ^ 8 + 2 ^ 32 + 2 ^ 48 + 2 ^ 64 + 512 * 2 ^ 96 + 0, (0x300000000 + 4 * 2 ^ 80), (0x300000000
    + 4 * 2 ^ 80), (0x300000000 + 4 * 2 ^ 80), 0, 0, 0, 0]⟩
def press2_t : Task := (taskAt 0x107 0x3F0000000)
def press2_t' : Task := { taskAt 0x107 0x3F0000000 with ran := true }
def press2_c2 : Chip :=
  ((press2_s.chip.setAe (7 : Fin 8) { press2_s.chip.aeX (7 : Fin 8) with ready := none, run := none }).putTask { press2_t with ran := true })
def press3_s : State :=
  (changed (stateWith 3 [(F.PWR_DOM_STAT_STATE, 0, 23, 0), (F.CLK_PLL_STAT_LOCK, 0xFFF, 0, 0), (F.DEV_MODE_SEAM_OPEN,
    1, 0, 0), (F.ECV_LINK_STAT_STATE, lkActive, 16, 0), (F.ECV_RING_STAT_PEER_VALID, 1, 16, 0), (F.AE_JD_CFG_JD_EN_W,
    1, 0, 0), (F.AE_JD_RX_VALID, 1, 0, 0)]) fun z => (z.withSched { tasks := [(taskAt 0x107 0x3F0000000)] }).withAe { press := [(7, { ready := some ⟨0, 0x3F0000000, [3 + 2 ^ 8 + 2 ^ 32 + 2 ^ 48 + 2 ^ 64 + 512 * 2 ^ 96 + 0, (0x300000000 + 4 * 2 ^ 80), (0x300000000 + 4 * 2 ^ 80), 0, 0, 0, 0, 0]⟩ })] })
def press3_q : AeCmd :=
  ⟨0, 0x3F0000000, [3 + 2 ^ 8 + 2 ^ 32 + 2 ^ 48 + 2 ^ 64 + 512 * 2 ^ 96 + 0, (0x300000000 + 4 * 2 ^ 80), (0x300000000
    + 4 * 2 ^ 80), 0, 0, 0, 0, 0]⟩
def press3_t : Task := (taskAt 0x107 0x3F0000000)
def press3_t' : Task := { taskAt 0x107 0x3F0000000 with ran := true }
def press3_c2 : Chip :=
  ((press3_s.chip.setAe (7 : Fin 8) { press3_s.chip.aeX (7 : Fin 8) with ready := none, run := none }).putTask { press3_t with ran := true })
def press4_s : State :=
  (changed (stateWith 3 [(F.PWR_DOM_STAT_STATE, 0, 23, 0), (F.CLK_PLL_STAT_LOCK, 0xFFF, 0, 0), (F.DEV_MODE_SEAM_OPEN,
    1, 0, 0), (F.ECV_LINK_STAT_STATE, lkActive, 16, 0), (F.ECV_RING_STAT_PEER_VALID, 1, 16, 0), (F.AE_JD_CFG_JD_EN_W,
    1, 0, 0), (F.AE_JD_RX_VALID, 1, 0, 0)]) fun z => (z.withSched { tasks := [(taskAt 0x107 0x3F0000000)] }).withAe { press := [(7, { ready := some ⟨0, 0x3F0000000, [4 + 2 ^ 8 + 2 ^ 32 + 2 ^ 48 + 2 ^ 64 + 512 * 2 ^ 96 + 0, (0x300000000 + 4 * 2 ^ 80), (0x300000000 + 4 * 2 ^ 80), 0, 0, 0, 0, 0]⟩ })] })
def press4_q : AeCmd :=
  ⟨0, 0x3F0000000, [4 + 2 ^ 8 + 2 ^ 32 + 2 ^ 48 + 2 ^ 64 + 512 * 2 ^ 96 + 0, (0x300000000 + 4 * 2 ^ 80), (0x300000000
    + 4 * 2 ^ 80), 0, 0, 0, 0, 0]⟩
def press4_t : Task := (taskAt 0x107 0x3F0000000)
def press4_t' : Task := { taskAt 0x107 0x3F0000000 with ran := true }
def press4_c2 : Chip :=
  ((press4_s.chip.setAe (7 : Fin 8) { press4_s.chip.aeX (7 : Fin 8) with ready := none, run := none }).putTask { press4_t with ran := true })
def press5_s : State :=
  (changed (stateWith 3 [(F.PWR_DOM_STAT_STATE, 0, 23, 0), (F.CLK_PLL_STAT_LOCK, 0xFFF, 0, 0), (F.DEV_MODE_SEAM_OPEN,
    1, 0, 0), (F.ECV_LINK_STAT_STATE, lkActive, 16, 0), (F.ECV_RING_STAT_PEER_VALID, 1, 16, 0), (F.AE_JD_CFG_JD_EN_W,
    1, 0, 0), (F.AE_JD_RX_VALID, 1, 0, 0), (F.PWR_DOM_STAT_STATE, 0, 39, 0)]) fun z => (z.withSched { tasks := [(taskAt 0x107 0x3F0000000)] }).withAe
    { press := [(7, { ready := some ⟨0, 0x3F0000000, [5 + 2 ^ 8 + 2 ^ 32 + 2 ^ 48 + 2 ^ 64 + 512 * 2 ^ 96 + 0, (0x300000000 + 4 * 2 ^ 80), (0x300000000 + 4 * 2 ^ 80), 0, 0, 0, 0, 0]⟩ })] })
def press5_q : AeCmd :=
  ⟨0, 0x3F0000000, [5 + 2 ^ 8 + 2 ^ 32 + 2 ^ 48 + 2 ^ 64 + 512 * 2 ^ 96 + 0, (0x300000000 + 4 * 2 ^ 80), (0x300000000
    + 4 * 2 ^ 80), 0, 0, 0, 0, 0]⟩
def press5_t : Task := (taskAt 0x107 0x3F0000000)
def press5_t' : Task := { taskAt 0x107 0x3F0000000 with ran := true }
def press5_c2 : Chip :=
  ((press5_s.chip.setAe (7 : Fin 8) { press5_s.chip.aeX (7 : Fin 8) with ready := none, run := none }).putTask { press5_t with ran := true })
def press6_s : State :=
  (changed (stateWith 3 [(F.PWR_DOM_STAT_STATE, 0, 23, 0), (F.CLK_PLL_STAT_LOCK, 0xFFF, 0, 0)]) fun z => (z.withSched
    { tasks := [(taskAt 0x107 0x3F0000000)] }).withAe { press := [(7, { run := some { cmd := ⟨0, 0x3F0000000, [1 + 2 ^ 8 + 2 ^ 32 + 2 ^ 48 + 2 ^ 64 + 512 * 2 ^ 96 + 0, (0x3F0000000 + 4 * 2 ^ 80), (0x3F0000000 + 4 * 2 ^ 80), (0x3F0000000 + 4 * 2 ^ 80), 0, 0, 0, 0]⟩, mask := 0, maxRe := 2 } })] })
def press6_r : AeRun :=
  { cmd := ⟨0, 0x3F0000000, [1 + 2 ^ 8 + 2 ^ 32 + 2 ^ 48 + 2 ^ 64 + 512 * 2 ^ 96 + 0, (0x3F0000000 + 4 * 2 ^ 80), (0x3F0000000 + 4 * 2 ^ 80), (0x3F0000000 + 4 * 2 ^ 80), 0, 0, 0, 0]⟩, mask := 0, maxRe := 2 }
def press6_c : Chip :=
  (changed (stateWith 3 [(F.PWR_DOM_STAT_STATE, 0, 23, 0), (F.CLK_PLL_STAT_LOCK, 0xFFF, 0, 0)]) fun z => (z.withSched
    { tasks := [(taskAt 0x107 0x3F0000000)] }).withAe { press := [(7, { run := some { cmd := ⟨0, 0x3F0000000, [1 + 2 ^ 8 + 2 ^ 32 + 2 ^ 48 + 2 ^ 64 + 512 * 2 ^ 96 + 0, (0x3F0000000 + 4 * 2 ^ 80), (0x3F0000000 + 4 * 2 ^ 80), (0x3F0000000 + 4 * 2 ^ 80), 0, 0, 0, 0]⟩, mask := 0, maxRe := 2 } })] }).chip
def press6_x := (press6_r.cmd.tileOf press6_r.tile)
def press6_c2 : Chip :=
  (press6_c.aeCompute (7 : Fin 8) press6_r press6_x ([] : AeWords) (none : Option (Nat × Nat))).1
def press6_o : AeOut :=
  (press6_c.aeCompute (7 : Fin 8) press6_r press6_x ([] : AeWords) (none : Option (Nat × Nat))).2
def press7_s : State :=
  (changed (stateWith 3 [(F.PWR_DOM_STAT_STATE, 0, 23, 0), (F.CLK_PLL_STAT_LOCK, 0xFFF, 0, 0)]) fun z => (z.withSched
    { tasks := [(taskAt 0x107 0x3F0000000)] }).withAe { press := [(7, { run := some { cmd := ⟨0, 0x3F0000000, [1 + 2 ^ 8 + 2 ^ 32 + 2 ^ 48 + 2 ^ 64 + 512 * 2 ^ 96 + 0, (0x3F0000000 + 4 * 2 ^ 80), (0x3F0000000 + 4 * 2 ^ 80), (0x3F0000000 + 4 * 2 ^ 80), 0, 0, 0, 0]⟩, mask := 0, maxRe := 2 } })] })
def press7_r : AeRun :=
  { cmd := ⟨0, 0x3F0000000, [1 + 2 ^ 8 + 2 ^ 32 + 2 ^ 48 + 2 ^ 64 + 512 * 2 ^ 96 + 0, (0x3F0000000 + 4 * 2 ^ 80), (0x3F0000000 + 4 * 2 ^ 80), (0x3F0000000 + 4 * 2 ^ 80), 0, 0, 0, 0]⟩, mask := 0, maxRe := 2 }
def press7_c : Chip :=
  (changed (stateWith 3 [(F.PWR_DOM_STAT_STATE, 0, 23, 0), (F.CLK_PLL_STAT_LOCK, 0xFFF, 0, 0)]) fun z => (z.withSched
    { tasks := [(taskAt 0x107 0x3F0000000)] }).withAe { press := [(7, { run := some { cmd := ⟨0, 0x3F0000000, [1 + 2 ^ 8 + 2 ^ 32 + 2 ^ 48 + 2 ^ 64 + 512 * 2 ^ 96 + 0, (0x3F0000000 + 4 * 2 ^ 80), (0x3F0000000 + 4 * 2 ^ 80), (0x3F0000000 + 4 * 2 ^ 80), 0, 0, 0, 0]⟩, mask := 0, maxRe := 2 } })] }).chip
def press7_x := (press7_r.cmd.tileOf press7_r.tile)
def press7_c2 : Chip :=
  (press7_c.aeCompute (7 : Fin 8) press7_r press7_x ([] : AeWords) (none : Option (Nat × Nat))).1
def press7_o : AeOut :=
  (press7_c.aeCompute (7 : Fin 8) press7_r press7_x ([] : AeWords) (none : Option (Nat × Nat))).2
def press8_s : State :=
  (changed (stateWith 3 [(F.PWR_DOM_STAT_STATE, 0, 23, 0), (F.CLK_PLL_STAT_LOCK, 0xFFF, 0, 0)]) fun z => (z.withSched
    { tasks := [(taskAt 0x107 0x3F0000000)] }).withAe { press := [(7, { run := some { cmd := ⟨0, 0x3F0000000, [1 + 2 ^ 8 + 2 ^ 32 + 2 ^ 48 + 2 ^ 64 + 512 * 2 ^ 96 + 0, (0x3F0000000 + 4 * 2 ^ 80), (0x3F0000000 + 4 * 2 ^ 80), (0x3F0000000 + 4 * 2 ^ 80), 0, 0, 0, 0]⟩, mask := 0, maxRe := 2, waiting := true } })] })
def press8_r : AeRun :=
  { cmd := ⟨0, 0x3F0000000, [1 + 2 ^ 8 + 2 ^ 32 + 2 ^ 48 + 2 ^ 64 + 512 * 2 ^ 96 + 0, (0x3F0000000 + 4 * 2 ^ 80), (0x3F0000000 + 4 * 2 ^ 80), (0x3F0000000 + 4 * 2 ^ 80), 0, 0, 0, 0]⟩, mask := 0, maxRe := 2, waiting := true }
def press9_s : State :=
  (changed (stateWith 3 [(F.PWR_DOM_STAT_STATE, 0, 23, 0), (F.CLK_PLL_STAT_LOCK, 0xFFF, 0, 0)]) fun z => (z.withSched
    { tasks := [(taskAt 0x107 0x3F0000000)] }).withAe { press := [(7, { run := some { cmd := ⟨0, 0x3F0000000, [1 + 2 ^ 8 + 2 ^ 32 + 2 ^ 48 + 2 ^ 64 + 512 * 2 ^ 96 + 0, (0x3F0000000 + 4 * 2 ^ 80), (0x3F0000000 + 4 * 2 ^ 80), (0x3F0000000 + 4 * 2 ^ 80), 0, 0, 0, 0]⟩, mask := 0, maxRe := 2, finished := true } })] })
def press9_r : AeRun :=
  { cmd := ⟨0, 0x3F0000000, [1 + 2 ^ 8 + 2 ^ 32 + 2 ^ 48 + 2 ^ 64 + 512 * 2 ^ 96 + 0, (0x3F0000000 + 4 * 2 ^ 80), (0x3F0000000 + 4 * 2 ^ 80), (0x3F0000000 + 4 * 2 ^ 80), 0, 0, 0, 0]⟩, mask := 0, maxRe := 2, finished := true }
def press10_s : State := (stateWith 3 [(F.AE_CTRL_RES_INJECT, 0, (0 : Fin 8), 0)])
def press10_p : Port := (.host 0)
def press11_s : State := (stateWith 3 [])
def press11_p : Port := (.host 0)
def press12_s : State := (stateWith 3 [])
def press12_p : Port := (.host 0)
def press13_s : State :=
  (changed (stateWith 3 [(F.SCHED_UNIT_STAT_STATE, uTesting, 0x107, 0)]) fun z => z.withSched { tested := [0x107] })
def press14_s : State :=
  (stateWith 3 [(F.DEV_MODE_SEAM_OPEN, 1, 0, 0), (F.ECV_LINK_STAT_STATE, lkActive, 16, 0), (F.ECV_LINK_STAT_STATE,
    lkActive, 17, 0), (F.ECV_RING_STAT_LOCAL_ID, 3, 16, 0), (F.ECV_RING_STAT_LOCAL_ID, 3, 17, 0)])
def press14_h : Nat := (1 + 2 ^ 32)
def press14_body : List Nat := [5]
def press15_s : State :=
  (stateWith 3 [(F.DEV_MODE_SEAM_OPEN, 1, 0, 0), (F.ECV_LINK_STAT_STATE, lkActive, 16, 0), (F.ECV_LINK_STAT_STATE,
    lkActive, 17, 0), (F.ECV_RING_STAT_LOCAL_ID, 3, 16, 0), (F.ECV_RING_STAT_LOCAL_ID, 3, 17, 0),
    (F.DEV_MODE_SEAM_OPEN, 1, 0, 0), (F.ECV_LINK_STAT_STATE, lkActive, 16, 0), (F.ECV_RING_STAT_PEER_VALID, 1, 16, 0),
    (F.AE_JD_CFG_JD_EN_W, 1, 0, 0), (F.AE_JD_RX_VALID, 1, 0, 0)])
def press15_h : Nat := (1 + 3 * 2 ^ 16 + 2 ^ 32 + ringCrc (1 + 3 * 2 ^ 16 + 2 ^ 32) [5] * 2 ^ 96)
def press15_body : List Nat := [5]
def press16_s : State :=
  (stateWith 3 [(F.DEV_MODE_SEAM_OPEN, 1, 0, 0), (F.ECV_LINK_STAT_STATE, lkActive, 16, 0), (F.ECV_LINK_STAT_STATE,
    lkActive, 17, 0), (F.ECV_RING_STAT_LOCAL_ID, 3, 16, 0), (F.ECV_RING_STAT_LOCAL_ID, 3, 17, 0)])
def press16_h : Nat := (1 + 2 ^ 32 + ringCrc (1 + 2 ^ 32) [5] * 2 ^ 96)
def press16_body : List Nat := [5]


set_option maxRecDepth 40000 in
/-- Every clause of the statement has states and operands that meet its hypotheses. -/
theorem witness_PressCommandsComplete :
    (∃ (s : State) (n : Fin 8) (t : Task),
    s.chip.aeReady n = none ∧ s.chip.aeNext n = some t ∧ t.arg % 128 = 0 ∧
    let c := (s.chip.readWords (.pressStream n) t.arg 8).1;
    let ws := (s.chip.readWords (.pressStream n) t.arg 8).2;
    ((∀ w ∈ ws, w.poison = false)) ∧ s.chip.awake = true ∧ c.awake = true) ∧
    (∃ (s : State) (n : Fin 8) (q : AeCmd) (t : Task) (t' : Task) (c2 : Chip) (m : Nat),
    s.chip.aeReady n = some q ∧ s.chip.aeRun n = none ∧ s.chip.aeRuns n = true ∧
    let c := s.chip.setAe n { s.chip.aeX n with
      ready := none
      run := none };
    let c' := c.putTask { t with ran := true };
    c.task q.task = some t ∧ c'.task q.task = some t' ∧ c'.aeOk q = true ∧ bits (q.word 0) 11 8 = 1 ∧ c'.deadlinePassed t'.deadline = false ∧ (if (q.maskK || q.maskM) = true then c'.aeMask q.cell q.tick else (c', some 0)) = (c2, some m) ∧ s.chip.awake = true ∧ c2.awake = true ∧ q.op = 1) ∧
    (∃ (s : State) (n : Fin 8) (q : AeCmd) (t : Task) (t' : Task) (c2 : Chip) (m : Nat),
    s.chip.aeReady n = some q ∧ s.chip.aeRun n = none ∧ s.chip.aeRuns n = true ∧
    let c := s.chip.setAe n { s.chip.aeX n with
      ready := none
      run := none };
    let c' := c.putTask { t with ran := true };
    c.task q.task = some t ∧ c'.task q.task = some t' ∧ c'.aeOk q = true ∧ bits (q.word 0) 11 8 = 1 ∧ c'.deadlinePassed t'.deadline = false ∧ (if (q.maskK || q.maskM) = true then c'.aeMask q.cell q.tick else (c', some 0)) = (c2, some m) ∧ s.chip.awake = true ∧ c2.awake = true ∧ q.op = 2) ∧
    (∃ (s : State) (n : Fin 8) (q : AeCmd) (t : Task) (t' : Task) (c2 : Chip) (m : Nat),
    s.chip.aeReady n = some q ∧ s.chip.aeRun n = none ∧ s.chip.aeRuns n = true ∧
    let c := s.chip.setAe n { s.chip.aeX n with
      ready := none
      run := none };
    let c' := c.putTask { t with ran := true };
    c.task q.task = some t ∧ c'.task q.task = some t' ∧ c'.aeOk q = true ∧ bits (q.word 0) 11 8 = 1 ∧ c'.deadlinePassed t'.deadline = false ∧ (if (q.maskK || q.maskM) = true then c'.aeMask q.cell q.tick else (c', some 0)) = (c2, some m) ∧ s.chip.awake = true ∧ c2.awake = true ∧ q.op = 3 ∧ c2.jdOn (16 + q.port) = true) ∧
    (∃ (s : State) (n : Fin 8) (q : AeCmd) (t : Task) (t' : Task) (c2 : Chip) (m : Nat),
    s.chip.aeReady n = some q ∧ s.chip.aeRun n = none ∧ s.chip.aeRuns n = true ∧
    let c := s.chip.setAe n { s.chip.aeX n with
      ready := none
      run := none };
    let c' := c.putTask { t with ran := true };
    c.task q.task = some t ∧ c'.task q.task = some t' ∧ c'.aeOk q = true ∧ bits (q.word 0) 11 8 = 1 ∧ c'.deadlinePassed t'.deadline = false ∧ (if (q.maskK || q.maskM) = true then c'.aeMask q.cell q.tick else (c', some 0)) = (c2, some m) ∧ s.chip.awake = true ∧ c2.awake = true ∧ q.op = 4 ∧ c2.jdOn (16 + q.port) = true) ∧
    (∃ (s : State) (n : Fin 8) (q : AeCmd) (t : Task) (t' : Task) (c2 : Chip) (m : Nat),
    s.chip.aeReady n = some q ∧ s.chip.aeRun n = none ∧ s.chip.aeRuns n = true ∧
    let c := s.chip.setAe n { s.chip.aeX n with
      ready := none
      run := none };
    let c' := c.putTask { t with ran := true };
    c.task q.task = some t ∧ c'.task q.task = some t' ∧ c'.aeOk q = true ∧ bits (q.word 0) 11 8 = 1 ∧ c'.deadlinePassed t'.deadline = false ∧ (if (q.maskK || q.maskM) = true then c'.aeMask q.cell q.tick else (c', some 0)) = (c2, some m) ∧ s.chip.awake = true ∧ c2.awake = true ∧
    let r : AeRun := {
      cmd := q
      mask := m
      maxRe := min 2 (c'.rd F.AE_TILE_CFG_MAX_RECOMP n)
      finished := false
      cond := 0 };
    q.op = 5 ∧ c2.jdOn (16 + q.port) = true ∧
    let c3 := (c2.readWords (.pressStream n) q.mIn.addr q.n).1;
    let ws := (c2.readWords (.pressStream n) q.mIn.addr q.n).2;
    let c4 := c3.jdSend q.port (c3.rd F.ECV_RING_STAT_PEER_ID (16 + q.port)) 0 q.tick
        (jdHead q.kind q.carrier q.slotPar 0 0 0 0 (if q.kind = 3 then 5 else 0) 0 0 q.tick :: ws.map (·.data));
    ((∀ w ∈ ws, w.poison = false ∧ w.status = .ok)) ∧ (c4.aeGo n { r with finished := true }).awake = true) ∧
    (∃ (s : State) (n : Fin 8) (r : AeRun) (rem : AeWords) (entry : Option (Nat × Nat)) (c : Chip) (c2 : Chip) (o : AeOut),
    s.chip.aeRun n = some r ∧ r.finished = false ∧ (r.cmd.ring = false ∨ s.chip.jdOn (16 + r.cmd.port) = true) ∧
    let x := r.cmd.tileOf r.tile;
    s.chip.aeMerge n r x = (c, rem, entry, false) ∧ c.flag F.AE_CTRL_RES_INJECT n = false ∧ c.aeCompute n r x rem entry = (c2, o) ∧ s.chip.awake = true ∧ (c2.aeDeliver n { r with waiting := false } x o false).awake = true) ∧
    (∃ (s : State) (n : Fin 8) (r : AeRun) (rem : AeWords) (entry : Option (Nat × Nat)) (c : Chip) (c2 : Chip) (o : AeOut),
    s.chip.aeRun n = some r ∧ r.finished = false ∧ (r.cmd.ring = false ∨ s.chip.jdOn (16 + r.cmd.port) = true) ∧
    let x := r.cmd.tileOf r.tile;
    s.chip.aeMerge n r x = (c, rem, entry, false) ∧ c.flag F.AE_CTRL_RES_INJECT n = false ∧ c.aeCompute n r x rem entry = (c2, o) ∧ s.chip.awake = true ∧
    let c3 := (c2.aeFail n r r.injected false).aeGo n { r with
        attempt := r.attempt + 1
        waiting := false
        injected := r.injected
        cycles := r.cycles + r.cmd.cycles x };
    r.attempt < r.maxRe ∧ c3.awake = true) ∧
    (∃ (s : State) (n : Fin 8) (r : AeRun),
    s.chip.aeRun n = some r ∧ r.waiting = true) ∧
    (∃ (s : State) (n : Fin 8) (r : AeRun),
    s.chip.aeRun n = some r ∧ r.finished = true ∧ s.chip.awake = true ∧
    let seen := if r.shed = true then condAdd r.cond .shed else r.cond;
    let cond := if seen = 0 then 1 else seen;
    let c := if r.cmd.statEn then (s.chip.writeWord (.pressStream n) r.cmd.statAddr (r.record (maskWorst cond) cond) false).1
      else s.chip;
    let c2 := ((c.setAe n { c.aeX n with run := none }).aeFinish n r.cmd.task (maskWorst cond)).shedLocks;
    c2.awake = true) ∧
    (∃ (s : State) (p : Port) (n : Fin 8),
    s.may p 0xFE = true ∧ s.chip.flag F.AE_CTRL_RES_INJECT n = false) ∧
    (∃ (s : State) (p : Port),
    s.may p 0xFE = true) ∧
    (∃ (s : State) (p : Port),
    s.may p 0xBE = true) ∧
    (∃ (s : State) (n : Nat),
    ((List.range 8).find? fun n => s.chip.sched.tested.contains (0x100 + n) && s.chip.unitState (0x100 + n) == uTesting) =
      some n ∧ s.chip.awake = true ∧
    let c := (s.chip.aeCopyErrors n).withSched { (s.chip.aeCopyErrors n).sched with
      tested := (s.chip.aeCopyErrors n).sched.tested.filter (· != 0x100 + n) };
    let map := c.rd F.AE_MAP_PHYS;
    let spare := c.rd F.AE_MAP_SPARE_PHYS;
    let c2 := ((((c.wr F.AE_MAP_PHYS (map - bits map (4 * n + 3) (4 * n) * 2 ^ (4 * n)
      + spare * 2 ^ (4 * n))).wr F.AE_MAP_SPARE_PHYS 0xF).wr F.AE_MAP_SPARE_FREE 0).hwWake (16 + spare)).wr
      F.SCHED_UNIT_STAT_STATE uAdmitting (0x100 + n);
    c2.awake = true) ∧
    (∃ (s : State) (p : Fin 2) (h : Nat) (body : List Nat),
    s.chip.lkUp (16 + p) = true ∧ s.chip.flag F.DEV_MODE_SEAM_OPEN = true ∧ bits h 47 32 = body.length ∧ body ≠ [] ∧ body.length ≤ 4096 ∧ bits h 7 0 = 1 ∧ bits h 127 96 ≠ ringCrc h body) ∧
    (∃ (s : State) (p : Fin 2) (h : Nat) (body : List Nat),
    s.chip.lkUp (16 + p) = true ∧ s.chip.flag F.DEV_MODE_SEAM_OPEN = true ∧ bits h 47 32 = body.length ∧ body ≠ [] ∧ body.length ≤ 4096 ∧ bits h 7 0 = 1 ∧ bits h 127 96 = ringCrc h body ∧ s.chip.jdRuns = true ∧ bits h 20 16 = s.chip.rd F.ECV_RING_STAT_LOCAL_ID (16 + p)) ∧
    (∃ (s : State) (p : Fin 2) (h : Nat) (body : List Nat),
    s.chip.lkUp (16 + p) = true ∧ s.chip.flag F.DEV_MODE_SEAM_OPEN = true ∧ bits h 47 32 = body.length ∧ body ≠ [] ∧ body.length ≤ 4096 ∧ bits h 7 0 = 1 ∧ bits h 127 96 = ringCrc h body ∧ s.chip.jdRuns = false ∧ bits h 20 16 ≠ s.chip.rd F.ECV_RING_STAT_LOCAL_ID (16 + p) ∧ bits h 25 24 ≠ 2 ∧ s.chip.lkUp (33 - (16 + p)) = true) :=
  ⟨⟨press0_s, (7 : Fin 8), press0_t, by decide +kernel, by decide +kernel, by decide +kernel, by decide +kernel,
        by decide +kernel, by decide +kernel⟩,
   ⟨press1_s, (7 : Fin 8), press1_q, press1_t, press1_t', press1_c2, (0 : Nat), by decide +kernel, by decide +kernel,
        by decide +kernel, by decide +kernel, by decide +kernel, by decide +kernel, by decide +kernel,
        by decide +kernel, by decide +kernel, by decide +kernel, by decide +kernel, by decide +kernel⟩,
   ⟨press2_s, (7 : Fin 8), press2_q, press2_t, press2_t', press2_c2, (0 : Nat), by decide +kernel, by decide +kernel,
        by decide +kernel, by decide +kernel, by decide +kernel, by decide +kernel, by decide +kernel,
        by decide +kernel, by decide +kernel, by decide +kernel, by decide +kernel, by decide +kernel⟩,
   ⟨press3_s, (7 : Fin 8), press3_q, press3_t, press3_t', press3_c2, (0 : Nat), by decide +kernel, by decide +kernel,
        by decide +kernel, by decide +kernel, by decide +kernel, by decide +kernel, by decide +kernel,
        by decide +kernel, by decide +kernel, by decide +kernel, by decide +kernel, by decide +kernel,
        by decide +kernel⟩,
   ⟨press4_s, (7 : Fin 8), press4_q, press4_t, press4_t', press4_c2, (0 : Nat), by decide +kernel, by decide +kernel,
        by decide +kernel, by decide +kernel, by decide +kernel, by decide +kernel, by decide +kernel,
        by decide +kernel, by decide +kernel, by decide +kernel, by decide +kernel, by decide +kernel,
        by decide +kernel⟩,
   ⟨press5_s, (7 : Fin 8), press5_q, press5_t, press5_t', press5_c2, (0 : Nat), by decide +kernel, by decide +kernel,
        by decide +kernel, by decide +kernel, by decide +kernel, by decide +kernel, by decide +kernel,
        by decide +kernel, by decide +kernel, by decide +kernel, by decide +kernel, by decide +kernel,
        by decide +kernel, by decide +kernel, by decide +kernel⟩,
   ⟨press6_s, (7 : Fin 8), press6_r, ([] : AeWords), (none : Option (Nat × Nat)), press6_c, press6_c2, press6_o,
        by decide +kernel, by decide +kernel, by decide +kernel, by decide +kernel, by decide +kernel, (Prod.eta
        _).symm, by decide +kernel, by decide +kernel⟩,
   ⟨press7_s, (7 : Fin 8), press7_r, ([] : AeWords), (none : Option (Nat × Nat)), press7_c, press7_c2, press7_o,
        by decide +kernel, by decide +kernel, by decide +kernel, by decide +kernel, by decide +kernel, (Prod.eta
        _).symm, by decide +kernel, by decide +kernel, by decide +kernel⟩,
   ⟨press8_s, (7 : Fin 8), press8_r, by decide +kernel, by decide +kernel⟩,
   ⟨press9_s, (7 : Fin 8), press9_r, by decide +kernel, by decide +kernel, by decide +kernel, by decide +kernel⟩,
   ⟨press10_s, press10_p, (0 : Fin 8), by decide +kernel, by decide +kernel⟩,
   ⟨press11_s, press11_p, by decide +kernel⟩,
   ⟨press12_s, press12_p, by decide +kernel⟩,
   ⟨press13_s, (7 : Nat), by decide +kernel, by decide +kernel, by decide +kernel⟩,
   ⟨press14_s, (0 : Fin 2), press14_h, press14_body, by decide +kernel, by decide +kernel, by decide +kernel,
        by decide +kernel, by decide +kernel, by decide +kernel, by decide +kernel⟩,
   ⟨press15_s, (0 : Fin 2), press15_h, press15_body, by decide +kernel, by decide +kernel, by decide +kernel,
        by decide +kernel, by decide +kernel, by decide +kernel, by decide +kernel, by decide +kernel,
        by decide +kernel⟩,
   ⟨press16_s, (0 : Fin 2), press16_h, press16_body, by decide +kernel, by decide +kernel, by decide +kernel,
        by decide +kernel, by decide +kernel, by decide +kernel, by decide +kernel, by decide +kernel,
        by decide +kernel, by decide +kernel, by decide +kernel⟩⟩

/-! ### CodingCommandsComplete -/

def coding0_s : State :=
  (changed (stateWith 3 [(F.PWR_DOM_STAT_STATE, 0, 34, 0), (F.PWR_DOM_STAT_STATE, 0, 39, 0), (F.CLK_PLL_STAT_LOCK,
    0xFFF, 0, 0)]) fun z => (z.withSched { tasks := [taskAt 0x117 0x300001000] }).withMem (wordsAt 0x300001000 [1 + 2
    ^ 8 + 1 * 2 ^ 48 + 24 * 2 ^ 64 + 24 * 2 ^ 96 + 0, 0x300000000 + 0x300000000 * 2 ^ 64, 0 * 2 ^ 96]))
def coding0_t : Task := (taskAt 0x117 0x300001000)
def coding1_s : State :=
  (changed (stateWith 3 [(F.PWR_DOM_STAT_STATE, 0, 34, 0), (F.PWR_DOM_STAT_STATE, 0, 39, 0), (F.CLK_PLL_STAT_LOCK,
    0xFFF, 0, 0)]) fun z => (z.withSched { tasks := [taskAt 0x117 0x300001000] }).withMem (wordsAt 0x300001000 [2 + 2
    ^ 8 + 1 * 2 ^ 48 + 24 * 2 ^ 64 + 24 * 2 ^ 96 + 0, 0x300000000 + 0x300000000 * 2 ^ 64, 0 * 2 ^ 96]))
def coding1_t : Task := (taskAt 0x117 0x300001000)
def coding2_s : State :=
  (changed (stateWith 3 [(F.PWR_DOM_STAT_STATE, 0, 35, 0), (F.PWR_DOM_STAT_STATE, 0, 39, 0), (F.CLK_PLL_STAT_LOCK,
    0xFFF, 0, 0)]) fun z => (z.withSched { tasks := [taskAt 0x119 0x300001000] }).withMem (wordsAt 0x300001000 [3 + 2
    ^ 8 + 1 * 2 ^ 48 + 12 * 2 ^ 64 + 24 * 2 ^ 96 + 0, 0x300000000 + 0x300000000 * 2 ^ 64, 0 * 2 ^ 96]))
def coding2_t : Task := (taskAt 0x119 0x300001000)
def coding3_s : State :=
  (changed (stateWith 3 [(F.PWR_DOM_STAT_STATE, 0, 35, 0), (F.PWR_DOM_STAT_STATE, 0, 39, 0), (F.CLK_PLL_STAT_LOCK,
    0xFFF, 0, 0)]) fun z => (z.withSched { tasks := [taskAt 0x119 0x300001000] }).withMem (wordsAt 0x300001000 [4 + 2
    ^ 8 + 0 * 2 ^ 48 + 12 * 2 ^ 64 + 24 * 2 ^ 96 + 0, 0x300000000 + 0x300000000 * 2 ^ 64, 1 * 2 ^ 96]))
def coding3_t : Task := (taskAt 0x119 0x300001000)
def coding4_s : State :=
  (changed (stateWith 3 [(F.PWR_DOM_STAT_STATE, 0, 36, 0), (F.PWR_DOM_STAT_STATE, 0, 39, 0), (F.CLK_PLL_STAT_LOCK,
    0xFFF, 0, 0)]) fun z => (z.withSched { tasks := [taskAt 0x11b 0x300001000] }).withMem (wordsAt 0x300001000 [5 + 2
    ^ 8 + 1 * 2 ^ 48 + 16 * 2 ^ 64 + 24 * 2 ^ 96 + 0, 0x300000000 + 0x300000000 * 2 ^ 64, 0 * 2 ^ 96]))
def coding4_t : Task := (taskAt 0x11b 0x300001000)
def coding5_s : State :=
  (changed (stateWith 3 [(F.PWR_DOM_STAT_STATE, 0, 36, 0), (F.PWR_DOM_STAT_STATE, 0, 39, 0), (F.CLK_PLL_STAT_LOCK,
    0xFFF, 0, 0)]) fun z => (z.withSched { tasks := [taskAt 0x11b 0x300001000] }).withMem (wordsAt 0x300001000 [6 + 2
    ^ 8 + 1 * 2 ^ 48 + 16 * 2 ^ 64 + 24 * 2 ^ 96 + 0, 0x300000000 + 0x300000000 * 2 ^ 64, 0 * 2 ^ 96]))
def coding5_t : Task := (taskAt 0x11b 0x300001000)
def coding6_s : State :=
  (changed (stateWith 3 [(F.PWR_DOM_STAT_STATE, 0, 36, 0), (F.PWR_DOM_STAT_STATE, 0, 39, 0), (F.CLK_PLL_STAT_LOCK,
    0xFFF, 0, 0)]) fun z => (z.withSched { tasks := [taskAt 0x11b 0x300001000] }).withMem (wordsAt 0x300001000 [7 + 2
    ^ 8 + 0 * 2 ^ 48 + 1 * 2 ^ 64 + 24 * 2 ^ 96 + 0, 0x300000000 + 0x300000000 * 2 ^ 64, 0 * 2 ^ 96]))
def coding6_t : Task := (taskAt 0x11b 0x300001000)
def coding7_s : State :=
  (changed (stateWith 3 [(F.PWR_DOM_STAT_STATE, 0, 36, 0), (F.PWR_DOM_STAT_STATE, 0, 39, 0), (F.CLK_PLL_STAT_LOCK,
    0xFFF, 0, 0)]) fun z => (z.withSched { tasks := [taskAt 0x11b 0x300001000] }).withMem (wordsAt 0x300001000 [8 + 2
    ^ 8 + 0 * 2 ^ 48 + 1 * 2 ^ 64 + 24 * 2 ^ 96 + 0, 0x300000000 + 0x300000000 * 2 ^ 64, 0 * 2 ^ 96]))
def coding7_t : Task := (taskAt 0x11b 0x300001000)
def coding8_s : State :=
  (changed (stateWith 3 [(F.CODE_CTRL_FLUSH, 0, 0, 0), (F.PWR_DOM_STAT_STATE, 0, 34, 0), (F.PWR_DOM_STAT_STATE, 0, 39,
    0), (F.CLK_PLL_STAT_LOCK, 0xFFF, 0, 0), (F.PWR_DOM_STAT_STATE, 0, 47, 0)]) fun z => (z.withSched { tasks := [taskAt 0x117 0x300001000] }).withCode
    { eng := [(7, { run := some { task := 0, addr := 0x300001000, w := [2 + 2 ^ 8 + 0 * 2 ^ 48 + 24 * 2 ^ 64 + 24 * 2 ^ 96 + 2 ^ 14, 0x300000000 + 0x300000000 * 2 ^ 64, 0 * 2 ^ 96] } })] })
def coding8_r : CodeRun :=
  { task := 0, addr := 0x300001000, w := [2 + 2 ^ 8 + 0 * 2 ^ 48 + 24 * 2 ^ 64 + 24 * 2 ^ 96 + 2 ^ 14, 0x300000000 + 0x300000000 * 2 ^ 64, 0 * 2 ^ 96] }
def coding8_t : Task := (taskAt 0x117 0x300001000)
def coding9_s : State :=
  (changed (stateWith 3 [(F.PWR_DOM_STAT_STATE, 0, 34, 0), (F.PWR_DOM_STAT_STATE, 0, 39, 0), (F.CLK_PLL_STAT_LOCK,
    0xFFF, 0, 0)]) fun z => (z.withSched { tasks := [taskAt 0x117 0x300001000] }).withCode { eng := [(7, { run := some { task := 0, addr := 0x300001000, w := [2 + 2 ^ 8 + 0 * 2 ^ 48 + 24 * 2 ^ 64 + 24 * 2 ^ 96 + 2 ^ 14, 0x300000000 + 0x300000000 * 2 ^ 64, 0 * 2 ^ 96], harq := some ⟨[], 0, false, false, false⟩ } })] })
def coding9_r : CodeRun :=
  { task := 0, addr := 0x300001000, w := [2 + 2 ^ 8 + 0 * 2 ^ 48 + 24 * 2 ^ 64 + 24 * 2 ^ 96 + 2 ^ 14, 0x300000000 + 0x300000000 * 2 ^ 64, 0 * 2 ^ 96], harq := some ⟨[], 0, false, false, false⟩ }
def coding10_s : State :=
  (changed (stateWith 3 [(F.PWR_DOM_STAT_STATE, 0, 34, 0), (F.PWR_DOM_STAT_STATE, 0, 39, 0), (F.CLK_PLL_STAT_LOCK,
    0xFFF, 0, 0)]) fun z => (z.withSched { tasks := [taskAt 0x117 0x300001000] }).withCode { eng := [(7, { run := some { task := 0, addr := 0x300001000, w := [2 + 2 ^ 8 + 0 * 2 ^ 48 + 24 * 2 ^ 64 + 24 * 2 ^ 96 + 2 ^ 14, 0x300000000 + 0x300000000 * 2 ^ 64, 0 * 2 ^ 96], finished := true } })] })
def coding10_r : CodeRun :=
  { task := 0, addr := 0x300001000, w := [2 + 2 ^ 8 + 0 * 2 ^ 48 + 24 * 2 ^ 64 + 24 * 2 ^ 96 + 2 ^ 14, 0x300000000 + 0x300000000 * 2 ^ 64, 0 * 2 ^ 96], finished := true }
def coding10_c : Chip :=
  (changed (stateWith 3 [(F.PWR_DOM_STAT_STATE, 0, 34, 0), (F.PWR_DOM_STAT_STATE, 0, 39, 0), (F.CLK_PLL_STAT_LOCK,
    0xFFF, 0, 0)]) fun z => (z.withSched { tasks := [taskAt 0x117 0x300001000] }).withCode { eng := [(7, { run := some { task := 0, addr := 0x300001000, w := [2 + 2 ^ 8 + 0 * 2 ^ 48 + 24 * 2 ^ 64 + 24 * 2 ^ 96 + 2 ^ 14, 0x300000000 + 0x300000000 * 2 ^ 64, 0 * 2 ^ 96], finished := true } })] }).chip
def coding10_c2 : Chip :=
  (changed (stateWith 3 [(F.PWR_DOM_STAT_STATE, 0, 34, 0), (F.PWR_DOM_STAT_STATE, 0, 39, 0), (F.CLK_PLL_STAT_LOCK,
    0xFFF, 0, 0)]) fun z => (z.withSched { tasks := [taskAt 0x117 0x300001000] }).withCode { eng := [(7, { run := some { task := 0, addr := 0x300001000, w := [2 + 2 ^ 8 + 0 * 2 ^ 48 + 24 * 2 ^ 64 + 24 * 2 ^ 96 + 2 ^ 14, 0x300000000 + 0x300000000 * 2 ^ 64, 0 * 2 ^ 96], finished := true } })] }).chip
def coding11_s : State := (stateWith 3 [(F.CODE_CTRL_FLUSH, 0, 0, 0)])
def coding11_p : Port := (.host 0)
def coding12_s : State := (stateWith 3 [(F.CODE_CTRL_FLUSH, 1, 0, 0)])
def coding13_s : State := (stateWith 3 [])
def coding14_s : State := (changed (stateWith 3 []) fun z => (z.withTick 100000000).withMem [(0x4004000000, 1)])
def coding14_w : Nat := (0x4004000000 / 16)
def coding14_d : Decoded := (coding14_s.chip.decodeAt (16 * coding14_w))
def coding14_c : Chip := (coding14_s.chip.slabChain 0 (bits coding14_d.data 31 16) (bits coding14_d.data 63 32)).1
def coding14_l : List Nat := (coding14_s.chip.slabChain 0 (bits coding14_d.data 31 16) (bits coding14_d.data 63 32)).2
def coding15_s : State := (stateWith 3 [])
def coding15_p : Port := (.host 0)


set_option maxRecDepth 40000 in
/-- Every clause of the statement has states and operands that meet its hypotheses. -/
theorem witness_CodingCommandsComplete :
    (∃ (s : State) (k : Nat) (t : Task),
    s.chip.codeReady k = none ∧ s.chip.codeRuns k = true ∧ s.chip.flag F.CODE_CTRL_FLUSH = false ∧ (s.chip.heldTasks (0x110 + k)).find? (fun t => !t.ran) = some t ∧
    let c1 := (s.chip.readWords (.coding k) t.arg 3).1;
    let ws := (s.chip.readWords (.coding k) t.arg 3).2;
    let r0 : CodeRun := {
      task := t.id
      addr := t.arg
      w := ws.map (·.data) };
    ((∀ w ∈ ws, w.poison = false)) ∧ c1.codeRefusal k r0 = none ∧
    let c2 := (if r0.dec then c1.codeInput k r0 else c1.codePayload k r0).1;
    let r := (if r0.dec then c1.codeInput k r0 else c1.codePayload k r0).2;
    let c3 := (c2.putTask { t with ran := true }).setCode k (some r);
    let c4 := c2.withCode { c2.code with eng := Tbl.set c2.code.eng k { c2.codeX k with ready := some r } {} };
    let c := if (s.chip.codeRun k).isSome then c4 else c3;
    (c2.putTask { t with ran := true }).deadlinePassed t.deadline = false ∧ s.chip.awake = true ∧ c.awake = true ∧ ∃ (e : Fin 8),
    k = e ∧ r0.op = 1) ∧
    (∃ (s : State) (k : Nat) (t : Task),
    s.chip.codeReady k = none ∧ s.chip.codeRuns k = true ∧ s.chip.flag F.CODE_CTRL_FLUSH = false ∧ (s.chip.heldTasks (0x110 + k)).find? (fun t => !t.ran) = some t ∧
    let c1 := (s.chip.readWords (.coding k) t.arg 3).1;
    let ws := (s.chip.readWords (.coding k) t.arg 3).2;
    let r0 : CodeRun := {
      task := t.id
      addr := t.arg
      w := ws.map (·.data) };
    ((∀ w ∈ ws, w.poison = false)) ∧ c1.codeRefusal k r0 = none ∧
    let c2 := (if r0.dec then c1.codeInput k r0 else c1.codePayload k r0).1;
    let r := (if r0.dec then c1.codeInput k r0 else c1.codePayload k r0).2;
    let c3 := (c2.putTask { t with ran := true }).setCode k (some r);
    let c4 := c2.withCode { c2.code with eng := Tbl.set c2.code.eng k { c2.codeX k with ready := some r } {} };
    let c := if (s.chip.codeRun k).isSome then c4 else c3;
    (c2.putTask { t with ran := true }).deadlinePassed t.deadline = false ∧ s.chip.awake = true ∧ c.awake = true ∧ ∃ (e : Fin 8),
    k = e ∧ r0.op = 2) ∧
    (∃ (s : State) (k : Nat) (t : Task),
    s.chip.codeReady k = none ∧ s.chip.codeRuns k = true ∧ s.chip.flag F.CODE_CTRL_FLUSH = false ∧ (s.chip.heldTasks (0x110 + k)).find? (fun t => !t.ran) = some t ∧
    let c1 := (s.chip.readWords (.coding k) t.arg 3).1;
    let ws := (s.chip.readWords (.coding k) t.arg 3).2;
    let r0 : CodeRun := {
      task := t.id
      addr := t.arg
      w := ws.map (·.data) };
    ((∀ w ∈ ws, w.poison = false)) ∧ c1.codeRefusal k r0 = none ∧
    let c2 := (if r0.dec then c1.codeInput k r0 else c1.codePayload k r0).1;
    let r := (if r0.dec then c1.codeInput k r0 else c1.codePayload k r0).2;
    let c3 := (c2.putTask { t with ran := true }).setCode k (some r);
    let c4 := c2.withCode { c2.code with eng := Tbl.set c2.code.eng k { c2.codeX k with ready := some r } {} };
    let c := if (s.chip.codeRun k).isSome then c4 else c3;
    (c2.putTask { t with ran := true }).deadlinePassed t.deadline = false ∧ s.chip.awake = true ∧ c.awake = true ∧ ∃ (e : Fin 2),
    k = 8 + e ∧ r0.op = 3) ∧
    (∃ (s : State) (k : Nat) (t : Task),
    s.chip.codeReady k = none ∧ s.chip.codeRuns k = true ∧ s.chip.flag F.CODE_CTRL_FLUSH = false ∧ (s.chip.heldTasks (0x110 + k)).find? (fun t => !t.ran) = some t ∧
    let c1 := (s.chip.readWords (.coding k) t.arg 3).1;
    let ws := (s.chip.readWords (.coding k) t.arg 3).2;
    let r0 : CodeRun := {
      task := t.id
      addr := t.arg
      w := ws.map (·.data) };
    ((∀ w ∈ ws, w.poison = false)) ∧ c1.codeRefusal k r0 = none ∧
    let c2 := (if r0.dec then c1.codeInput k r0 else c1.codePayload k r0).1;
    let r := (if r0.dec then c1.codeInput k r0 else c1.codePayload k r0).2;
    let c3 := (c2.putTask { t with ran := true }).setCode k (some r);
    let c4 := c2.withCode { c2.code with eng := Tbl.set c2.code.eng k { c2.codeX k with ready := some r } {} };
    let c := if (s.chip.codeRun k).isSome then c4 else c3;
    (c2.putTask { t with ran := true }).deadlinePassed t.deadline = false ∧ s.chip.awake = true ∧ c.awake = true ∧ ∃ (e : Fin 2),
    k = 8 + e ∧ r0.op = 4) ∧
    (∃ (s : State) (k : Nat) (t : Task),
    s.chip.codeReady k = none ∧ s.chip.codeRuns k = true ∧ s.chip.flag F.CODE_CTRL_FLUSH = false ∧ (s.chip.heldTasks (0x110 + k)).find? (fun t => !t.ran) = some t ∧
    let c1 := (s.chip.readWords (.coding k) t.arg 3).1;
    let ws := (s.chip.readWords (.coding k) t.arg 3).2;
    let r0 : CodeRun := {
      task := t.id
      addr := t.arg
      w := ws.map (·.data) };
    ((∀ w ∈ ws, w.poison = false)) ∧ c1.codeRefusal k r0 = none ∧
    let c2 := (if r0.dec then c1.codeInput k r0 else c1.codePayload k r0).1;
    let r := (if r0.dec then c1.codeInput k r0 else c1.codePayload k r0).2;
    let c3 := (c2.putTask { t with ran := true }).setCode k (some r);
    let c4 := c2.withCode { c2.code with eng := Tbl.set c2.code.eng k { c2.codeX k with ready := some r } {} };
    let c := if (s.chip.codeRun k).isSome then c4 else c3;
    (c2.putTask { t with ran := true }).deadlinePassed t.deadline = false ∧ s.chip.awake = true ∧ c.awake = true ∧ ∃ (e : Fin 2),
    k = 10 + e ∧ r0.op = 5) ∧
    (∃ (s : State) (k : Nat) (t : Task),
    s.chip.codeReady k = none ∧ s.chip.codeRuns k = true ∧ s.chip.flag F.CODE_CTRL_FLUSH = false ∧ (s.chip.heldTasks (0x110 + k)).find? (fun t => !t.ran) = some t ∧
    let c1 := (s.chip.readWords (.coding k) t.arg 3).1;
    let ws := (s.chip.readWords (.coding k) t.arg 3).2;
    let r0 : CodeRun := {
      task := t.id
      addr := t.arg
      w := ws.map (·.data) };
    ((∀ w ∈ ws, w.poison = false)) ∧ c1.codeRefusal k r0 = none ∧
    let c2 := (if r0.dec then c1.codeInput k r0 else c1.codePayload k r0).1;
    let r := (if r0.dec then c1.codeInput k r0 else c1.codePayload k r0).2;
    let c3 := (c2.putTask { t with ran := true }).setCode k (some r);
    let c4 := c2.withCode { c2.code with eng := Tbl.set c2.code.eng k { c2.codeX k with ready := some r } {} };
    let c := if (s.chip.codeRun k).isSome then c4 else c3;
    (c2.putTask { t with ran := true }).deadlinePassed t.deadline = false ∧ s.chip.awake = true ∧ c.awake = true ∧ ∃ (e : Fin 2),
    k = 10 + e ∧ r0.op = 6) ∧
    (∃ (s : State) (k : Nat) (t : Task),
    s.chip.codeReady k = none ∧ s.chip.codeRuns k = true ∧ s.chip.flag F.CODE_CTRL_FLUSH = false ∧ (s.chip.heldTasks (0x110 + k)).find? (fun t => !t.ran) = some t ∧
    let c1 := (s.chip.readWords (.coding k) t.arg 3).1;
    let ws := (s.chip.readWords (.coding k) t.arg 3).2;
    let r0 : CodeRun := {
      task := t.id
      addr := t.arg
      w := ws.map (·.data) };
    ((∀ w ∈ ws, w.poison = false)) ∧ c1.codeRefusal k r0 = none ∧
    let c2 := (if r0.dec then c1.codeInput k r0 else c1.codePayload k r0).1;
    let r := (if r0.dec then c1.codeInput k r0 else c1.codePayload k r0).2;
    let c3 := (c2.putTask { t with ran := true }).setCode k (some r);
    let c4 := c2.withCode { c2.code with eng := Tbl.set c2.code.eng k { c2.codeX k with ready := some r } {} };
    let c := if (s.chip.codeRun k).isSome then c4 else c3;
    (c2.putTask { t with ran := true }).deadlinePassed t.deadline = false ∧ s.chip.awake = true ∧ c.awake = true ∧ ∃ (e : Fin 2),
    k = 10 + e ∧ r0.op = 7) ∧
    (∃ (s : State) (k : Nat) (t : Task),
    s.chip.codeReady k = none ∧ s.chip.codeRuns k = true ∧ s.chip.flag F.CODE_CTRL_FLUSH = false ∧ (s.chip.heldTasks (0x110 + k)).find? (fun t => !t.ran) = some t ∧
    let c1 := (s.chip.readWords (.coding k) t.arg 3).1;
    let ws := (s.chip.readWords (.coding k) t.arg 3).2;
    let r0 : CodeRun := {
      task := t.id
      addr := t.arg
      w := ws.map (·.data) };
    ((∀ w ∈ ws, w.poison = false)) ∧ c1.codeRefusal k r0 = none ∧
    let c2 := (if r0.dec then c1.codeInput k r0 else c1.codePayload k r0).1;
    let r := (if r0.dec then c1.codeInput k r0 else c1.codePayload k r0).2;
    let c3 := (c2.putTask { t with ran := true }).setCode k (some r);
    let c4 := c2.withCode { c2.code with eng := Tbl.set c2.code.eng k { c2.codeX k with ready := some r } {} };
    let c := if (s.chip.codeRun k).isSome then c4 else c3;
    (c2.putTask { t with ran := true }).deadlinePassed t.deadline = false ∧ s.chip.awake = true ∧ c.awake = true ∧ ∃ (e : Fin 2),
    k = 10 + e ∧ r0.op = 8) ∧
    (∃ (s : State) (k : Fin 12) (r : CodeRun) (t : Task),
    s.chip.codeRun k = some r ∧ r.harqEn = true ∧ r.harq = none ∧ r.finished = false ∧ s.chip.flag F.CODE_CTRL_FLUSH = false ∧ s.chip.task r.task = some t ∧ s.chip.entryBusy k r t.ord = false ∧ s.chip.awake = true ∧ (s.chip.harqRead k r).awake = true) ∧
    (∃ (s : State) (k : Fin 12) (r : CodeRun),
    s.chip.codeRun k = some r ∧ r.finished = false ∧ (r.harqEn = true → r.harq ≠ none) ∧ s.chip.awake = true ∧
    let c := if r.dec then s.chip.codeDecBlock k r else s.chip.codeEncBlock k r;
    c.awake = true) ∧
    (∃ (s : State) (k : Fin 12) (r : CodeRun) (c : Chip) (c2 : Chip) (m : Nat) (m2 : Nat) (kept : Bool),
    s.chip.codeRun k = some r ∧ r.finished = true ∧ (if r.crcPass then s.chip.codePut k r.outAddr (beBytes ((r.a + 7) / 8) (r.payload * 2 ^ (8 * ((r.a + 7) / 8) - r.a)))
      r.outBad else (s.chip, 0)) = (c, m) ∧ c.harqEnd k r r.crcPass = (c2, kept, m2) ∧
    let seen := (if r.shed then condAdd r.cond .shed else r.cond) ||| m ||| m2;
    let cond := if seen = 0 then 1 else seen;
    let st := Status.worstOf ((bitsSet cond 16).map .ofCode);
    let lack := match r.harq with | some h => h.lack | none => false;
    let reset := match r.harq with | some h => h.reset | none => false;
    let c3 := if r.statEn then (c2.writeWord (.coding k) r.statAddr (st.code + b2n r.crcPass * 2 ^ 8 + b2n kept * 2 ^ 9
        + b2n lack * 2 ^ 10 + b2n reset * 2 ^ 11 + r.iter % 2 ^ 8 * 2 ^ 16 + r.cbFail % 2 ^ 16 * 2 ^ 32
        + r.seg.c % 2 ^ 16 * 2 ^ 48 + r.cycles % 2 ^ 32 * 2 ^ 64 + cond % 2 ^ 16 * 2 ^ 96) false).1 else c2;
    let c4 := if st = .deadlineMissed then c3.incSat F.CODE_CNT_JOBS_MISSED k else c3;
    let c5 := ((c4.setCode k none).codeFinish k r.task st).shedLocks;
    s.chip.awake = true ∧ c5.awake = true) ∧
    (∃ (s : State) (p : Port),
    s.may p 0xFE = true ∧ s.chip.flag F.CODE_CTRL_FLUSH = false) ∧
    (∃ (s : State),
    s.chip.flag F.CODE_CTRL_FLUSH = true ∧ s.chip.harqIdle = true) ∧
    (∃ (s : State),
    s.chip.harqWords = []) ∧
    (∃ (s : State), ∃ (w : Nat) (d : Decoded) (c : Chip) (l : List Nat),
    s.chip.harqWords = [w] ∧ d = s.chip.decodeAt (16 * w) ∧ bit d.data 0 = true ∧ d.poison = false ∧ ((∀ k < 12, s.chip.codeRun k = none)) ∧ (30720 * max 1 (s.chip.rd F.CODE_HARQ_TTL_TTL) : Nat) < tickDiff s.chip.tick (bits d.data 127 96) ∧ s.chip.slabChain 0 (bits d.data 31 16) (bits d.data 63 32) = (c, l)) ∧
    (∃ (s : State) (p : Port),
    s.may p 0xFE = true) :=
  ⟨⟨coding0_s, (7 : Nat), coding0_t, by decide +kernel, by decide +kernel, by decide +kernel, by decide +kernel,
        by decide +kernel, by decide +kernel, by decide +kernel, by decide +kernel, by decide +kernel, (7 : Fin 8),
        by decide +kernel, by decide +kernel⟩,
   ⟨coding1_s, (7 : Nat), coding1_t, by decide +kernel, by decide +kernel, by decide +kernel, by decide +kernel,
        by decide +kernel, by decide +kernel, by decide +kernel, by decide +kernel, by decide +kernel, (7 : Fin 8),
        by decide +kernel, by decide +kernel⟩,
   ⟨coding2_s, (9 : Nat), coding2_t, by decide +kernel, by decide +kernel, by decide +kernel, by decide +kernel,
        by decide +kernel, by decide +kernel, by decide +kernel, by decide +kernel, by decide +kernel, (1 : Fin 2),
        by decide +kernel, by decide +kernel⟩,
   ⟨coding3_s, (9 : Nat), coding3_t, by decide +kernel, by decide +kernel, by decide +kernel, by decide +kernel,
        by decide +kernel, by decide +kernel, by decide +kernel, by decide +kernel, by decide +kernel, (1 : Fin 2),
        by decide +kernel, by decide +kernel⟩,
   ⟨coding4_s, (11 : Nat), coding4_t, by decide +kernel, by decide +kernel, by decide +kernel, by decide +kernel,
        by decide +kernel, by decide +kernel, by decide +kernel, by decide +kernel, by decide +kernel, (1 : Fin 2),
        by decide +kernel, by decide +kernel⟩,
   ⟨coding5_s, (11 : Nat), coding5_t, by decide +kernel, by decide +kernel, by decide +kernel, by decide +kernel,
        by decide +kernel, by decide +kernel, by decide +kernel, by decide +kernel, by decide +kernel, (1 : Fin 2),
        by decide +kernel, by decide +kernel⟩,
   ⟨coding6_s, (11 : Nat), coding6_t, by decide +kernel, by decide +kernel, by decide +kernel, by decide +kernel,
        by decide +kernel, by decide +kernel, by decide +kernel, by decide +kernel, by decide +kernel, (1 : Fin 2),
        by decide +kernel, by decide +kernel⟩,
   ⟨coding7_s, (11 : Nat), coding7_t, by decide +kernel, by decide +kernel, by decide +kernel, by decide +kernel,
        by decide +kernel, by decide +kernel, by decide +kernel, by decide +kernel, by decide +kernel, (1 : Fin 2),
        by decide +kernel, by decide +kernel⟩,
   ⟨coding8_s, (7 : Fin 12), coding8_r, coding8_t, by decide +kernel, by decide +kernel, by decide +kernel,
        by decide +kernel, by decide +kernel, by decide +kernel, by decide +kernel, by decide +kernel,
        by decide +kernel⟩,
   ⟨coding9_s, (7 : Fin 12), coding9_r, by decide +kernel, by decide +kernel, by decide +kernel, by decide +kernel,
        by decide +kernel⟩,
   ⟨coding10_s, (7 : Fin 12), coding10_r, coding10_c, coding10_c2, (0 : Nat), (0 : Nat), (false : Bool),
        by decide +kernel, by decide +kernel, by decide +kernel, by decide +kernel, by decide +kernel,
        by decide +kernel⟩,
   ⟨coding11_s, coding11_p, by decide +kernel, by decide +kernel⟩,
   ⟨coding12_s, by decide +kernel, by decide +kernel⟩,
   ⟨coding13_s, by decide +kernel⟩,
   ⟨coding14_s, coding14_w, coding14_d, coding14_c, coding14_l, by decide +kernel, rfl, by decide +kernel,
        by decide +kernel, by decide +kernel, by decide +kernel, (Prod.eta _).symm⟩,
   ⟨coding15_s, coding15_p, by decide +kernel⟩⟩

/-! ### BurstCommandsComplete -/

def burst0_s : State := (stateWith 3 [])
def burst0_p : Port := (.host 0)
def burst1_s : State := (stateWith 3 [(F.BRn_CFG_EN, 1, 31, 0)])
def burst1_p : Port := (.host 0)
def burst2_s : State := (changed (stateWith 3 []) fun z => z.withBrx { rcv := [(31, { stopping := true })] })
def burst3_s : State :=
  (changed (stateWith 3 [(F.BRn_CFG_EN, 1, 31, 0), (F.BRn_OCC_PERIOD, 307200, 31, 0), (F.BRn_THR_SPAN, 30720, 31, 0),
    (F.PWR_DOM_STAT_STATE, 0, 37, 0), (F.CLK_PLL_STAT_LOCK, 0xFFF, 0, 0)]) fun z => z.withTick 307300)
def burst4_s : State :=
  (changed (stateWith 3 [(F.BRn_CFG_EN, 1, 31, 0), (F.BRn_OCC_PERIOD, 307200, 31, 0), (F.BRn_THR_SPAN, 30720, 31, 0),
    (F.PWR_DOM_STAT_STATE, 0, 37, 0), (F.CLK_PLL_STAT_LOCK, 0xFFF, 0, 0)]) fun z => (z.withTick 24576).withBrx { rcv := [(31, { occ := some ⟨0, [(255, 0)], false⟩ })] })
def burst4_o : BrOcc := ⟨0, [(255, 0)], false⟩
def burst5_s : State :=
  (changed (stateWith 3 []) fun z => (z.withTick 24576).withBrx { rcv := [(31, { recs := [⟨0, 0, 0, 0, 0, 0, 0, 0, 0, 0, 1, false, false, false, false, false, 0, 0, 0, 0, 0, 0⟩] })] })
def burst5_r : BrRec := ⟨0, 0, 0, 0, 0, 0, 0, 0, 0, 0, 1, false, false, false, false, false, 0, 0, 0, 0, 0, 0⟩
def burst6_s : State :=
  (changed (stateWith 3 []) fun z => z.withBrx { rcv := [(31, { occ := some ⟨0, [(255, 0)], false⟩, recs := [⟨0, 0, 0, 0, 0, 0, 0, 0, 0, 0, 1, false, false, false, false, false, 0, 0, 0, 0, 0, 0⟩] })] })
def burst6_o : BrOcc := ⟨0, [(255, 0)], false⟩
def burst7_s : State :=
  (changed (stateWith 3 []) fun z => z.withBrx { rcv := [(31, { occ := some ⟨0, [(255, 0)], false⟩ })] })
def burst7_o : BrOcc := ⟨0, [(255, 0)], false⟩
def burst8_s : State :=
  (changed (stateWith 5 [(F.BRX_SOAK_CFG_SOAK_BR, 31, 0, 0), (F.BRn_THR_SPAN, 30720, 31, 0)]) fun z => (z.withTick
    40000).withBrx { rcv := [(31, { occ := some ⟨0, [(255, 0)], false⟩ })] })
def burst8_o : BrOcc := ⟨0, [(255, 0)], false⟩
def burst9_s : State := (stateWith 3 [])
def burst9_p : Port := (.host 0)


set_option maxRecDepth 40000 in
/-- Every clause of the statement has states and operands that meet its hypotheses. -/
theorem witness_BurstCommandsComplete :
    (∃ (s : State) (p : Port) (n : Fin 32) (v : Nat),
    s.may p 0xFE = true ∧
    let c := s.chip.brCfg n (setBit v 63 true);
    (c.br n).stopping = false ∧ c.flag F.BRn_CFG_EN n = false) ∧
    (∃ (s : State) (p : Port) (n : Fin 32) (v : Nat),
    s.may p 0xFE = true ∧
    let c := (s.chip.brCfg n (setBit v 63 false)).wr F.BRn_STAT_ENABLE_PENDING 0 n;
    c.flag F.BRn_CFG_EN n = true) ∧
    (∃ (s : State) (n : Fin 32),
    (s.chip.br n).stopping = true ∧ (s.chip.br n).recs = [] ∧ s.chip.brInSpan n = false) ∧
    (∃ (s : State) (n : Fin 32) (start : Nat) (k : Int),
    s.chip.brLast n = (start, k) ∧ s.chip.brRuns n = true ∧ s.chip.domRuns 37 = true ∧ ((∀ o, (s.chip.br n).occ = some o → o.start ≠ start)) ∧ ((∀ b, (s.chip.br n).notBefore = some b → tickLater b start = false)) ∧ (s.chip.mode ≠ mSoak ∨ k % ((max 1 (s.chip.rd F.BRX_SOAK_CFG_SOAK_DIV) : Nat) : Int) = 0)) ∧
    (∃ (s : State) (n : Fin 32) (j : Nat) (o : BrOcc),
    (s.chip.br n).occ = some o ∧ s.chip.brTseq n + j * (s.chip.brTseq n / 2) ≤ s.chip.rd F.BRn_THR_SPAN n ∧ s.chip.brTseq n + j * (s.chip.brTseq n / 2) ≤ cntSub s.chip.tick o.start ∧ o.coefs ≠ [] ∧ s.chip.domRuns 37 = true) ∧
    (∃ (s : State) (n : Fin 32) (idx : Fin 64) (r : BrRec),
    (s.chip.br n).recs.find? (fun (r : BrRec) => r.idx == idx.val) = some r ∧ s.chip.brEnded n r = true) ∧
    (∃ (s : State) (n : Fin 32) (poison : Bool) (o : BrOcc),
    (s.chip.br n).occ = some o ∧ (s.chip.br n).recs ≠ []) ∧
    (∃ (s : State) (n : Fin 32) (poison : Bool) (o : BrOcc),
    (s.chip.br n).occ = some o ∧ (s.chip.br n).recs = []) ∧
    (∃ (s : State) (n : Fin 32) (o : BrOcc),
    (s.chip.br n).occ = some o ∧ s.chip.mode = mSoak ∧ n.val = s.chip.rd F.BRX_SOAK_CFG_SOAK_BR ∧ o.cand = false ∧ s.chip.rd F.BRn_THR_SPAN n + 1536 ≤ cntSub s.chip.tick o.start) ∧
    (∃ (s : State) (p : Port),
    s.may p 0xFE = true) :=
  ⟨⟨burst0_s, burst0_p, (31 : Fin 32), (1 : Nat), by decide +kernel, by decide +kernel, by decide +kernel⟩,
   ⟨burst1_s, burst1_p, (31 : Fin 32), (1 : Nat), by decide +kernel, by decide +kernel⟩,
   ⟨burst2_s, (31 : Fin 32), by decide +kernel, by decide +kernel, by decide +kernel⟩,
   ⟨burst3_s, (31 : Fin 32), (307200 : Nat), (1 : Int), by decide +kernel, by decide +kernel, by decide +kernel,
        by decide +kernel, by decide +kernel, by decide +kernel⟩,
   ⟨burst4_s, (31 : Fin 32), (0 : Nat), burst4_o, by decide +kernel, by decide +kernel, by decide +kernel,
        by decide +kernel, by decide +kernel⟩,
   ⟨burst5_s, (31 : Fin 32), (0 : Fin 64), burst5_r, by decide +kernel, by decide +kernel⟩,
   ⟨burst6_s, (31 : Fin 32), (false : Bool), burst6_o, by decide +kernel, by decide +kernel⟩,
   ⟨burst7_s, (31 : Fin 32), (false : Bool), burst7_o, by decide +kernel, by decide +kernel⟩,
   ⟨burst8_s, (31 : Fin 32), burst8_o, by decide +kernel, by decide +kernel, by decide +kernel, by decide +kernel,
        by decide +kernel⟩,
   ⟨burst9_s, burst9_p, by decide +kernel⟩⟩

/-! ### DomainCommandsComplete -/

def domain0_s : State := (stateWith 3 [])
def domain0_p : Port := (.host 0)
def domain1_s : State := (stateWith 3 [(F.PWR_DOM_STAT_IDLE_WAIT, 1, (0 : Fin 64), 0)])
def domain2_s : State := (stateWith 3 [(F.PWR_DOM_STAT_IDLE_WAIT, 1, (0 : Fin 64), 0)])
def domain3_s : State := (changed (stateWith 3 []) fun z => z.withPwr { ramps := [⟨some 63, true⟩] })
def domain3_r : Ramp := ⟨some 63, true⟩
def domain3_d := 63
def domain4_s : State := (changed (stateWith 3 []) fun z => z.withPwr { ramps := [⟨none, true⟩] })
def domain4_r : Ramp := ⟨none, true⟩
def domain6_s : State :=
  (stateWith 3 [(F.PWR_DOM_PEND_PEND_VALID, 1, (0 : Fin 64), 0), (F.PWR_DOM_PEND_HW_PEND, 0, (0 : Fin 64), 0)])
def domain6_p : Port := (.host 0)
def domain7_s : State := (stateWith 3 [])
def domain7_p : Port := (.host 0)


set_option maxRecDepth 40000 in
/-- Every clause of the statement has states and operands that meet its hypotheses. -/
theorem witness_DomainCommandsComplete :
    (∃ (s : State) (p : Port),
    s.may p 0xFC = true) ∧
    (∃ (s : State) (d : Fin 64),
    s.chip.flag F.PWR_DOM_STAT_IDLE_WAIT d = true ∧ s.chip.domIdle d = true ∧ s.chip.pwr.ramps.length < 128) ∧
    (∃ (s : State) (d : Fin 64),
    s.chip.flag F.PWR_DOM_STAT_IDLE_WAIT d = true) ∧
    (∃ (s : State) (r : Ramp) (rest : List Ramp),
    s.chip.pwr.ramps = r :: rest ∧ ∃ (d : _),
    r.dom = some d) ∧
    (∃ (s : State) (r : Ramp) (rest : List Ramp),
    s.chip.pwr.ramps = r :: rest ∧ r.dom = none) ∧
    (∃ (s : State) (p : Port) (d : Fin 64),
    s.may p 0xFC = true ∧ s.chip.flag F.PWR_DOM_PEND_PEND_VALID d = true ∧ s.chip.flag F.PWR_DOM_PEND_HW_PEND d = false) ∧
    (∃ (s : State) (p : Port),
    s.may p 0xFC = true) :=
  ⟨⟨domain0_s, domain0_p, by decide +kernel⟩,
   ⟨domain1_s, (0 : Fin 64), by decide +kernel, by decide +kernel, by decide +kernel⟩,
   ⟨domain2_s, (0 : Fin 64), by decide +kernel⟩,
   ⟨domain3_s, domain3_r, ([] : List Ramp), by decide +kernel, domain3_d, by decide +kernel⟩,
   ⟨domain4_s, domain4_r, ([] : List Ramp), by decide +kernel, by decide +kernel⟩,
   ⟨domain6_s, domain6_p, (0 : Fin 64), by decide +kernel, by decide +kernel, by decide +kernel⟩,
   ⟨domain7_s, domain7_p, by decide +kernel⟩⟩

/-! ### ShedAndSoakComplete -/

def shedAndSoak0_s : State := (stateWith 3 [])
def shedAndSoak1_s : State := (stateWith 3 [(F.PWR_SHED_STAGE_STAGE, 6, 0, 0)])
def shedAndSoak2_s : State := (stateWith 3 [])
def shedAndSoak3_s : State := (stateWith 3 [(F.PWR_SHED_STAGE_STAGE, 4, 0, 0)])
def shedAndSoak5_s : State := (stateWith 3 [])
def shedAndSoak5_p : Port := (.host 0)
def shedAndSoak6_s : State :=
  (stateWith 5 [(F.PWR_SOAK_TX_EN, 1, (0 : Fin 4), 0), (F.DEV_MODE_IN_TRANSITION, 0, 0, 0)])
def shedAndSoak7_s : State :=
  (changed (stateWith 5 [(F.PWR_SOAK_TX_EN, 1, (3 : Fin 4), 0), (F.PWR_SOAK_TX_EN, 1, 3, 0)]) fun z => (z.withTick
    1).withPwr { soakOcc := [(3, 1, true)] })
def shedAndSoak8_s : State :=
  (changed (stateWith 5 [(F.PWR_SOAK_TX_EN, 1, (3 : Fin 4), 0), (F.PWR_SOAK_TX_EN, 1, 3, 0)]) fun z => (z.withTick
    100).withPwr { soakOcc := [(3, 200000000, false)] })
def shedAndSoak9_s : State := (stateWith 5 [(F.DEV_MODE_IN_TRANSITION, 0, 0, 0)])
def shedAndSoak10_s : State := (stateWith 3 [(F.PWR_WAKE_CFG_LINK, 2 ^ 17, 0, 0)])
def shedAndSoak11_s : State := (stateWith 3 [])
def shedAndSoak12_s : State :=
  (stateWith 3 [(F.PWR_WAKE_CFG_MAX_SLEEP_S, 1, 0, 0), (F.PWR_WAKE_CFG_MAX_SLEEP_S, 1, 0, 0)])


set_option maxRecDepth 40000 in
/-- Every clause of the statement has states and operands that meet its hypotheses. -/
theorem witness_ShedAndSoakComplete :
    (∃ (s : State) (k : Fin 7) (v : Fin 1024),
    s.chip.mode ≠ mBypass ∧
    let c := (s.chip.wr F.PWR_SHED_STAGE_VMEAS v).wr F.PWR_SHED_STAGE_VMIN (min v.val (s.chip.rd
      F.PWR_SHED_STAGE_VMIN));
    c.stage < k.val ∧ v.val < stageThr k) ∧
    (∃ (s : State) (v : Fin 1024),
    s.chip.mode ≠ mBypass ∧
    let c := (s.chip.wr F.PWR_SHED_STAGE_VMEAS v).wr F.PWR_SHED_STAGE_VMIN (min v.val (s.chip.rd
      F.PWR_SHED_STAGE_VMIN));
    stageThr c.stage + 10 ≤ v.val ∧ (c.stage ≠ 4 ∨ c.flag F.PWR_SHED_STAGE_WARN = false)) ∧
    (∃ (s : State),
    s.chip.mode ≠ mBypass ∧
    let c := s.chip.wr F.PWR_SHED_STAGE_WARN 1;
    c.stage < 4) ∧
    (∃ (s : State),
    s.chip.mode ≠ mBypass ∧
    let c := s.chip.wr F.PWR_SHED_STAGE_WARN 1;
    4 ≤ c.stage) ∧
    (∃ (s : State) (p : Port),
    s.may p 0xFE = true) ∧
    (∃ (s : State) (q : Fin 4) (t : Nat),
    s.chip.mode = mSoak ∧ s.chip.flag F.PWR_SOAK_TX_EN q = true ∧ s.chip.soakNow q = some (t, false)) ∧
    (∃ (s : State) (q : Fin 4) (t : Nat),
    s.chip.mode = mSoak ∧ s.chip.flag F.PWR_SOAK_TX_EN q = true ∧ s.chip.soakNow q = some (t, true) ∧ tickLater t s.chip.tick = false) ∧
    (∃ (s : State) (q : Fin 4),
    s.chip.mode = mSoak ∧ s.chip.flag F.PWR_SOAK_TX_EN q = true ∧ s.chip.soakNow q = none) ∧
    (∃ (s : State),
    s.chip.mode = mSoak ∧ s.chip.inTrans = false) ∧
    (∃ (s : State) (src : Fin 9) (link : Fin 18),
    s.chip.wakeEnabled src link = true ∧ src.val = 4) ∧
    (∃ (s : State) (src : Fin 9) (link : Fin 18),
    s.chip.wakeEnabled src link = true ∧ src.val ≠ 4) ∧
    (∃ (s : State),
    s.chip.rd F.PWR_WAKE_CFG_MAX_SLEEP_S ≠ 0) :=
  ⟨⟨shedAndSoak0_s, (6 : Fin 7), (849 : Fin 1024), by decide +kernel, by decide +kernel, by decide +kernel⟩,
   ⟨shedAndSoak1_s, (860 : Fin 1024), by decide +kernel, by decide +kernel, by decide +kernel⟩,
   ⟨shedAndSoak2_s, by decide +kernel, by decide +kernel⟩,
   ⟨shedAndSoak3_s, by decide +kernel, by decide +kernel⟩,
   ⟨shedAndSoak5_s, shedAndSoak5_p, by decide +kernel⟩,
   ⟨shedAndSoak6_s, (0 : Fin 4), (0 : Nat), by decide +kernel, by decide +kernel, by decide +kernel⟩,
   ⟨shedAndSoak7_s, (3 : Fin 4), (1 : Nat), by decide +kernel, by decide +kernel, by decide +kernel,
        by decide +kernel⟩,
   ⟨shedAndSoak8_s, (3 : Fin 4), by decide +kernel, by decide +kernel, by decide +kernel⟩,
   ⟨shedAndSoak9_s, by decide +kernel, by decide +kernel⟩,
   ⟨shedAndSoak10_s, (4 : Fin 9), (17 : Fin 18), by decide +kernel, by decide +kernel⟩,
   ⟨shedAndSoak11_s, (2 : Fin 9), (17 : Fin 18), by decide +kernel, by decide +kernel⟩,
   ⟨shedAndSoak12_s, by decide +kernel⟩⟩

/-! ### TimingCommandsComplete -/

def timing0_s : State :=
  (stateWith 3 [(F.ETH_CFG_MODE, 1, 0, 0), (F.ETH_PORT_STAT_LINK_UP, 1, 15, 0), (F.ETH_PORT_CFG_ROLE_PTP, 1, 15, 0),
    (F.ETH_PORT_CFG_ROLE_FH, 1, 15, 0), (F.ETH_PORT_CFG_ROLE_SYNCE, 1, 15, 0), (F.PWR_DOM_STAT_STATE, 0, 52, 0),
    (F.TIME_PTP_CFG_PROFILE, 1, 0, 0), (F.CLK_PLL_STAT_LOCK, 0xFFF, 0, 0)])
def timing1_s : State :=
  (stateWith 3 [(F.TIME_PTP_PORT_PORT_STATE, 9, (15 : Fin 16), 0), (F.TIME_STAT_PHASE_SRC, 1, 0, 0), (F.ETH_CFG_MODE,
    1, 0, 0), (F.ETH_PORT_STAT_LINK_UP, 1, 15, 0), (F.ETH_PORT_CFG_ROLE_PTP, 1, 15, 0), (F.ETH_PORT_CFG_ROLE_FH, 1,
    15, 0), (F.ETH_PORT_CFG_ROLE_SYNCE, 1, 15, 0), (F.PWR_DOM_STAT_STATE, 0, 52, 0), (F.TIME_PTP_CFG_PROFILE, 1, 0,
    0), (F.CLK_PLL_STAT_LOCK, 0xFFF, 0, 0), (F.TIME_PTP_PORT_PORT_STATE, 9, 15, 0), (F.TIME_STAT_PHASE_SRC, 1, 0, 0)])
def timing2_s : State :=
  (stateWith 3 [(F.TIME_PTP_PORT_PORT_STATE, 6, (15 : Fin 16), 0), (F.ETH_CFG_MODE, 1, 0, 0),
    (F.ETH_PORT_STAT_LINK_UP, 1, 15, 0), (F.ETH_PORT_CFG_ROLE_PTP, 1, 15, 0), (F.ETH_PORT_CFG_ROLE_FH, 1, 15, 0),
    (F.ETH_PORT_CFG_ROLE_SYNCE, 1, 15, 0), (F.PWR_DOM_STAT_STATE, 0, 52, 0), (F.TIME_PTP_CFG_PROFILE, 1, 0, 0),
    (F.CLK_PLL_STAT_LOCK, 0xFFF, 0, 0), (F.TIME_PTP_PORT_PORT_STATE, 6, 15, 0)])
def timing3_s : State :=
  (stateWith 3 [(F.ETH_CFG_MODE, 1, 0, 0), (F.ETH_PORT_STAT_LINK_UP, 1, 15, 0), (F.ETH_PORT_CFG_ROLE_PTP, 1, 15, 0),
    (F.ETH_PORT_CFG_ROLE_FH, 1, 15, 0), (F.ETH_PORT_CFG_ROLE_SYNCE, 1, 15, 0), (F.PWR_DOM_STAT_STATE, 0, 52, 0),
    (F.TIME_PTP_CFG_PROFILE, 1, 0, 0), (F.CLK_PLL_STAT_LOCK, 0xFFF, 0, 0), (F.TIME_PTP_PORT_PORT_STATE, 8, 15, 0)])
def timing4_s : State :=
  (stateWith 3 [(F.TIME_STAT_FREQ_SRC, 3, 0, 0), (F.ETH_CFG_MODE, 1, 0, 0), (F.ETH_PORT_STAT_LINK_UP, 1, 15, 0),
    (F.ETH_PORT_CFG_ROLE_PTP, 1, 15, 0), (F.ETH_PORT_CFG_ROLE_FH, 1, 15, 0), (F.ETH_PORT_CFG_ROLE_SYNCE, 1, 15, 0),
    (F.PWR_DOM_STAT_STATE, 0, 52, 0), (F.TIME_PTP_CFG_PROFILE, 1, 0, 0), (F.CLK_PLL_STAT_LOCK, 0xFFF, 0, 0),
    (F.TIME_STAT_FREQ_SRC, 3, 0, 0), (F.TIME_SRC_CFG_SYNCE_PORT, 15, 0, 0)])
def timing5_s : State :=
  (stateWith 3 [(F.ETH_CFG_MODE, 1, 0, 0), (F.ETH_PORT_STAT_LINK_UP, 1, 15, 0), (F.ETH_PORT_CFG_ROLE_PTP, 1, 15, 0),
    (F.ETH_PORT_CFG_ROLE_FH, 1, 15, 0), (F.ETH_PORT_CFG_ROLE_SYNCE, 1, 15, 0), (F.PWR_DOM_STAT_STATE, 0, 52, 0),
    (F.TIME_PTP_CFG_PROFILE, 1, 0, 0), (F.CLK_PLL_STAT_LOCK, 0xFFF, 0, 0)])
def timing6_s : State :=
  (stateWith 3 [(F.ETH_CFG_MODE, 1, 0, 0), (F.ETH_PORT_STAT_LINK_UP, 1, 15, 0), (F.ETH_PORT_CFG_ROLE_PTP, 1, 15, 0),
    (F.ETH_PORT_CFG_ROLE_FH, 1, 15, 0), (F.ETH_PORT_CFG_ROLE_SYNCE, 1, 15, 0), (F.PWR_DOM_STAT_STATE, 0, 52, 0),
    (F.TIME_PTP_CFG_PROFILE, 1, 0, 0), (F.CLK_PLL_STAT_LOCK, 0xFFF, 0, 0)])
def timing8_s : State := (stateWith 3 [(F.TIME_CTRL_PPS_IN_EN, 1, 0, 0), (F.TIME_CTRL_PPS_IN_EN, 1, 0, 0)])
def timing9_s : State :=
  (stateWith 3 [(F.TIME_CTRL_PPS_IN_EN, 1, 0, 0), (F.TIME_STAT_PHASE_SRC, 2, 0, 0), (F.TIME_CTRL_PPS_IN_EN, 1, 0, 0),
    (F.TIME_STAT_PHASE_SRC, 2, 0, 0)])
def timing10_s : State :=
  (changed (stateWith 3 [(F.TIME_CTRL_PPS_IN_EN, 1, 0, 0), (F.TIME_STAT_PHASE_SRC, 2, 0, 0), (F.TIME_CTRL_PPS_IN_EN,
    1, 0, 0), (F.TIME_STAT_PHASE_SRC, 2, 0, 0)]) fun z => (z.withTick 30721).withTime { ppsTick := some 0 })
def timing11_s : State := (changed (stateWith 3 []) fun z => (z.withTick 46080001).withTime { ppsTick := some 0 })
def timing12_s : State := (stateWith 3 [(F.TIME_CTRL_PPS_OUT_EN, 1, 0, 0), (F.TIME_STAT_STATE, 1, 0, 0)])
def timing13_s : State := (stateWith 3 [(F.TIME_STAT_STATE, 1, 0, 0)])
def timing14_s : State :=
  (changed (stateWith 3 [(F.TIME_CTRL_REVERT, 1, 0, 0), (F.TIME_CTRL_REVERT, 1, 0, 0), (F.TIME_STAT_PHASE_SRC, 3, 0,
    0), (F.TIME_SRC_CFG_PRIO_PPS, 1, 0, 0), (F.TIME_SRC_CFG_PRIO_RING, 2, 0, 0), (F.TIME_CTRL_PPS_IN_EN, 1, 0, 0)])
    fun z => z.withTime { ppsOk := true })
def timing15_s : State := (stateWith 3 [])
def timing16_s : State := (stateWith 3 [(F.TIME_STAT_STATE, 1, 0, 0)])
def timing17_s : State := (stateWith 3 [(F.TIME_RING_STAT_HOLD, 1, 0, 0)])
def timing18_s : State :=
  (stateWith 3 [(F.ETH_CFG_MODE, 1, 0, 0), (F.ETH_PORT_STAT_LINK_UP, 1, 15, 0), (F.ETH_PORT_CFG_ROLE_PTP, 1, 15, 0),
    (F.ETH_PORT_CFG_ROLE_FH, 1, 15, 0), (F.ETH_PORT_CFG_ROLE_SYNCE, 1, 15, 0), (F.PWR_DOM_STAT_STATE, 0, 52, 0),
    (F.TIME_PTP_CFG_PROFILE, 1, 0, 0), (F.CLK_PLL_STAT_LOCK, 0xFFF, 0, 0)])
def timing19_s : State :=
  (stateWith 3 [(F.ETH_CFG_MODE, 1, 0, 0), (F.ETH_PORT_STAT_LINK_UP, 1, 15, 0), (F.ETH_PORT_CFG_ROLE_PTP, 1, 15, 0),
    (F.ETH_PORT_CFG_ROLE_FH, 1, 15, 0), (F.ETH_PORT_CFG_ROLE_SYNCE, 1, 15, 0), (F.PWR_DOM_STAT_STATE, 0, 52, 0),
    (F.TIME_PTP_CFG_PROFILE, 1, 0, 0), (F.CLK_PLL_STAT_LOCK, 0xFFF, 0, 0)])


set_option maxRecDepth 40000 in
/-- Every clause of the statement has states and operands that meet its hypotheses. -/
theorem witness_TimingCommandsComplete :
    (∃ (s : State) (q : Fin 16) (st : Nat),
    s.chip.ptpRuns q = true ∧ s.chip.ptpMay q st = true) ∧
    (∃ (s : State) (q : Fin 16),
    s.chip.ptpRuns q = true ∧ s.chip.rd F.TIME_PTP_PORT_PORT_STATE q = 9 ∧ s.chip.rd F.TIME_STAT_PHASE_SRC = 1) ∧
    (∃ (s : State) (q : Fin 16),
    s.chip.ptpRuns q = true ∧ s.chip.rd F.TIME_PTP_PORT_PORT_STATE q = 6) ∧
    (∃ (s : State) (q : Fin 16),
    s.chip.ptpRuns q = true ∧ (s.chip.rd F.TIME_PTP_PORT_PORT_STATE q = 8 ∨ s.chip.rd F.TIME_PTP_PORT_PORT_STATE q = 9)) ∧
    (∃ (s : State) (q : Fin 16),
    s.chip.synceRuns q = true ∧ s.chip.rd F.TIME_STAT_FREQ_SRC = 3 ∧ q.val = s.chip.rd F.TIME_SRC_CFG_SYNCE_PORT) ∧
    (∃ (s : State) (q : Fin 16),
    s.chip.synceRuns q = true ∧ s.chip.rd F.TIME_STAT_FREQ_SRC ≠ 3) ∧
    (∃ (s : State) (q : Fin 16),
    s.chip.synceRuns q = true) ∧
    (∃ (s : State),
    s.chip.mode ≠ mBypass ∧ s.chip.flag F.TIME_CTRL_PPS_IN_EN = true ∧ s.chip.rd F.TIME_STAT_PHASE_SRC ≠ 2) ∧
    (∃ (s : State),
    s.chip.mode ≠ mBypass ∧ s.chip.flag F.TIME_CTRL_PPS_IN_EN = true ∧ s.chip.rd F.TIME_STAT_PHASE_SRC = 2 ∧ s.chip.ppsOff = false) ∧
    (∃ (s : State),
    s.chip.mode ≠ mBypass ∧ s.chip.flag F.TIME_CTRL_PPS_IN_EN = true ∧ s.chip.rd F.TIME_STAT_PHASE_SRC = 2 ∧ s.chip.ppsOff = true) ∧
    (∃ (s : State) (t : Nat),
    s.chip.time.ppsTick = some t ∧ ppsTicks < cntSub s.chip.tick t) ∧
    (∃ (s : State),
    s.chip.mode ≠ mBypass ∧ s.chip.flag F.TIME_CTRL_PPS_OUT_EN = true ∧ s.chip.rd F.TIME_STAT_STATE ≠ 0) ∧
    (∃ (s : State),
    s.chip.rd F.TIME_STAT_STATE = 1 ∧ s.chip.time.offset.natAbs ≤ 50) ∧
    (∃ (s : State),
    let b := s.chip.bestSrc;
    let cur := s.chip.rd F.TIME_STAT_PHASE_SRC;
    s.chip.flag F.TIME_CTRL_REVERT = true ∧ b ≠ 0 ∧ cur ≠ 0 ∧ s.chip.srcPrio b < s.chip.srcPrio cur) ∧
    (∃ (s : State),
    s.chip.mode ≠ mBypass ∧ s.chip.rd F.TIME_CTRL_TE_LIMIT < s.chip.teEst.natAbs) ∧
    (∃ (s : State),
    s.chip.mode ≠ mBypass ∧ s.chip.teEst.natAbs ≤ s.chip.rd F.TIME_CTRL_TE_LIMIT) ∧
    (∃ (s : State),
    s.chip.flag F.TIME_RING_STAT_HOLD = true) ∧
    (∃ (s : State) (q : Fin 16),
    s.chip.mode ≠ mBypass ∧ s.chip.ethPort q = true ∧ s.chip.domState (s.chip.ethDomain q) = dOn) ∧
    (∃ (s : State) (q : Fin 16),
    s.chip.mode ≠ mBypass ∧ s.chip.ethPort q = true) :=
  ⟨⟨timing0_s, (15 : Fin 16), (9 : Nat), by decide +kernel, by decide +kernel⟩,
   ⟨timing1_s, (15 : Fin 16), by decide +kernel, by decide +kernel, by decide +kernel⟩,
   ⟨timing2_s, (15 : Fin 16), by decide +kernel, by decide +kernel⟩,
   ⟨timing3_s, (15 : Fin 16), by decide +kernel, by decide +kernel⟩,
   ⟨timing4_s, (15 : Fin 16), by decide +kernel, by decide +kernel, by decide +kernel⟩,
   ⟨timing5_s, (15 : Fin 16), by decide +kernel, by decide +kernel⟩,
   ⟨timing6_s, (15 : Fin 16), by decide +kernel⟩,
   ⟨timing8_s, by decide +kernel, by decide +kernel, by decide +kernel⟩,
   ⟨timing9_s, by decide +kernel, by decide +kernel, by decide +kernel, by decide +kernel⟩,
   ⟨timing10_s, by decide +kernel, by decide +kernel, by decide +kernel, by decide +kernel⟩,
   ⟨timing11_s, (0 : Nat), by decide +kernel, by decide +kernel⟩,
   ⟨timing12_s, by decide +kernel, by decide +kernel, by decide +kernel⟩,
   ⟨timing13_s, by decide +kernel, by decide +kernel⟩,
   ⟨timing14_s, by decide +kernel, by decide +kernel, by decide +kernel, by decide +kernel⟩,
   ⟨timing15_s, by decide +kernel, by decide +kernel⟩,
   ⟨timing16_s, by decide +kernel, by decide +kernel⟩,
   ⟨timing17_s, by decide +kernel⟩,
   ⟨timing18_s, (15 : Fin 16), by decide +kernel, by decide +kernel, by decide +kernel⟩,
   ⟨timing19_s, (15 : Fin 16), by decide +kernel, by decide +kernel⟩⟩

/-! ### EthernetCommandsComplete -/

def ethernet0_s : State :=
  (stateWith 3 [(F.ETH_CFG_MODE, 1, 0, 0), (F.ETH_PORT_STAT_LINK_UP, 1, 15, 0), (F.ETH_PORT_CFG_ROLE_PTP, 1, 15, 0),
    (F.ETH_PORT_CFG_ROLE_FH, 1, 15, 0), (F.ETH_PORT_CFG_ROLE_SYNCE, 1, 15, 0), (F.PWR_DOM_STAT_STATE, 0, 52, 0),
    (F.TIME_PTP_CFG_PROFILE, 1, 0, 0), (F.CLK_PLL_STAT_LOCK, 0xFFF, 0, 0)])
def ethernet0_f : EthFrame := ⟨64, 0, false, .other⟩
def ethernet1_s : State :=
  (stateWith 3 [(F.ETH_CFG_MODE, 1, 0, 0), (F.ETH_PORT_STAT_LINK_UP, 1, 15, 0), (F.ETH_PORT_CFG_ROLE_PTP, 1, 15, 0),
    (F.ETH_PORT_CFG_ROLE_FH, 1, 15, 0), (F.ETH_PORT_CFG_ROLE_SYNCE, 1, 15, 0), (F.PWR_DOM_STAT_STATE, 0, 52, 0),
    (F.TIME_PTP_CFG_PROFILE, 1, 0, 0), (F.CLK_PLL_STAT_LOCK, 0xFFF, 0, 0)])
def ethernet1_f : EthFrame := ⟨64, 0, true, .other⟩
def ethernet2_s : State :=
  (stateWith 3 [(F.ETH_CFG_MODE, 1, 0, 0), (F.ETH_PORT_STAT_LINK_UP, 1, 15, 0), (F.ETH_PORT_CFG_ROLE_PTP, 1, 15, 0),
    (F.ETH_PORT_CFG_ROLE_FH, 1, 15, 0), (F.ETH_PORT_CFG_ROLE_SYNCE, 1, 15, 0), (F.PWR_DOM_STAT_STATE, 0, 52, 0),
    (F.TIME_PTP_CFG_PROFILE, 1, 0, 0), (F.CLK_PLL_STAT_LOCK, 0xFFF, 0, 0)])
def ethernet2_f : EthFrame := ⟨64, 0, true, .owd 1 false 1 5⟩
def ethernet2_action := 1
def ethernet2_id := 5
def ethernet3_s : State :=
  (stateWith 3 [(F.ETH_CFG_MODE, 1, 0, 0), (F.ETH_PORT_STAT_LINK_UP, 1, 15, 0), (F.ETH_PORT_CFG_ROLE_PTP, 1, 15, 0),
    (F.ETH_PORT_CFG_ROLE_FH, 1, 15, 0), (F.ETH_PORT_CFG_ROLE_SYNCE, 1, 15, 0), (F.PWR_DOM_STAT_STATE, 0, 52, 0),
    (F.TIME_PTP_CFG_PROFILE, 1, 0, 0), (F.CLK_PLL_STAT_LOCK, 0xFFF, 0, 0)])
def ethernet3_f : EthFrame := ⟨64, 0, true, .owd 1 false 3 5⟩
def ethernet3_action := 3
def ethernet3_id := 5
def ethernet4_s : State :=
  (stateWith 3 [(F.ETH_CFG_MODE, 1, 0, 0), (F.ETH_PORT_STAT_LINK_UP, 1, 15, 0), (F.ETH_PORT_CFG_ROLE_PTP, 1, 15, 0),
    (F.ETH_PORT_CFG_ROLE_FH, 1, 15, 0), (F.ETH_PORT_CFG_ROLE_SYNCE, 1, 15, 0), (F.PWR_DOM_STAT_STATE, 0, 52, 0),
    (F.TIME_PTP_CFG_PROFILE, 1, 0, 0), (F.CLK_PLL_STAT_LOCK, 0xFFF, 0, 0)])
def ethernet4_m : UMsg := ⟨0, 0, 0, 0, []⟩
def ethernet5_s : State :=
  (changed (stateWith 3 [(F.ETH_CFG_MODE, 1, 0, 0), (F.ETH_PORT_STAT_LINK_UP, 1, 15, 0), (F.ETH_PORT_CFG_ROLE_PTP, 1,
    15, 0), (F.ETH_PORT_CFG_ROLE_FH, 1, 15, 0), (F.ETH_PORT_CFG_ROLE_SYNCE, 1, 15, 0), (F.PWR_DOM_STAT_STATE, 0, 52,
    0), (F.TIME_PTP_CFG_PROFILE, 1, 0, 0), (F.CLK_PLL_STAT_LOCK, 0xFFF, 0, 0), (F.ETH_RU_CFG_EN, 1, 31, 0),
    (F.ETH_RU_CFG_PORT, 15, 31, 0), (F.ETH_RU_CFG_N_RB, 1, 31, 0)]) fun z => z.withTick 4000)
def ethernet5_m : UMsg := ⟨0, 0, 0, 0, []⟩
def ethernet6_s : State :=
  (changed (stateWith 3 [(F.ETH_CFG_MODE, 1, 0, 0), (F.ETH_PORT_STAT_LINK_UP, 1, 15, 0), (F.ETH_PORT_CFG_ROLE_PTP, 1,
    15, 0), (F.ETH_PORT_CFG_ROLE_FH, 1, 15, 0), (F.ETH_PORT_CFG_ROLE_SYNCE, 1, 15, 0), (F.PWR_DOM_STAT_STATE, 0, 52,
    0), (F.TIME_PTP_CFG_PROFILE, 1, 0, 0), (F.CLK_PLL_STAT_LOCK, 0xFFF, 0, 0), (F.ETH_RU_CFG_EN, 1, 31, 0),
    (F.ETH_RU_CFG_PORT, 15, 31, 0), (F.ETH_RU_CFG_N_RB, 1, 31, 0)]) fun z => z.withTick 100)
def ethernet6_m : UMsg := ⟨0, 0, 0, 0, []⟩
def ethernet7_s : State :=
  (changed (stateWith 3 [(F.ETH_CFG_MODE, 1, 0, 0), (F.ETH_PORT_STAT_LINK_UP, 1, 15, 0), (F.ETH_PORT_CFG_ROLE_PTP, 1,
    15, 0), (F.ETH_PORT_CFG_ROLE_FH, 1, 15, 0), (F.ETH_PORT_CFG_ROLE_SYNCE, 1, 15, 0), (F.PWR_DOM_STAT_STATE, 0, 52,
    0), (F.TIME_PTP_CFG_PROFILE, 1, 0, 0), (F.CLK_PLL_STAT_LOCK, 0xFFF, 0, 0), (F.ETH_RU_CFG_EN, 1, 31, 0),
    (F.ETH_RU_CFG_PORT, 15, 31, 0), (F.ETH_RU_CFG_N_RB, 1, 31, 0), (F.PWR_DOM_STAT_STATE, 0, 39, 0)]) fun z =>
    z.withTick 4000)
def ethernet8_s : State :=
  (changed (stateWith 3 [(F.ETH_CFG_MODE, 1, 0, 0), (F.ETH_PORT_STAT_LINK_UP, 1, 15, 0), (F.ETH_PORT_CFG_ROLE_PTP, 1,
    15, 0), (F.ETH_PORT_CFG_ROLE_FH, 1, 15, 0), (F.ETH_PORT_CFG_ROLE_SYNCE, 1, 15, 0), (F.PWR_DOM_STAT_STATE, 0, 52,
    0), (F.TIME_PTP_CFG_PROFILE, 1, 0, 0), (F.CLK_PLL_STAT_LOCK, 0xFFF, 0, 0), (F.ETH_RU_CFG_EN, 1, 31, 0),
    (F.ETH_RU_CFG_PORT, 15, 31, 0), (F.ETH_RU_CFG_N_RB, 1, 31, 0)]) fun y => y.withHif { inflight := [⟨0, 0, 0, 0x102, (2 ^ 64), 0, .started, .ok, 0, 0, 0, none, none, false, 0, none, 0, none, true, [], []⟩] })
def ethernet8_h : HostCmd :=
  ⟨0, 0, 0, 0x102, (2 ^ 64), 0, .started, .ok, 0, 0, 0, none, none, false, 0, none, 0, none, true, [], []⟩
def ethernet8_a : Nat := (ethernet8_h.itemSpan).1
def ethernet8_z : Nat := (ethernet8_h.itemSpan).2
def ethernet8_t0 : Nat := (ethernet8_h.cpTimes (ethernet8_s.chip.ruCarrier (31 : Nat))).1
def ethernet8_t1 : Nat := (ethernet8_h.cpTimes (ethernet8_s.chip.ruCarrier (31 : Nat))).2
def ethernet9_s : State :=
  (stateWith 3 [(F.ETH_RU_PRACH_EN, 1, (31 : Fin 32), 0), (F.ETH_CFG_MODE, 1, 0, 0), (F.ETH_PORT_STAT_LINK_UP, 1, 15,
    0), (F.ETH_PORT_CFG_ROLE_PTP, 1, 15, 0), (F.ETH_PORT_CFG_ROLE_FH, 1, 15, 0), (F.ETH_PORT_CFG_ROLE_SYNCE, 1, 15,
    0), (F.PWR_DOM_STAT_STATE, 0, 52, 0), (F.TIME_PTP_CFG_PROFILE, 1, 0, 0), (F.CLK_PLL_STAT_LOCK, 0xFFF, 0, 0),
    (F.ETH_RU_CFG_EN, 1, 31, 0), (F.ETH_RU_CFG_PORT, 15, 31, 0), (F.ETH_RU_CFG_N_RB, 1, 31, 0), (F.ETH_RU_PRACH_EN, 1,
    31, 0), (F.ETH_RU_PRACH_PERIOD, 1, 31, 0)])
def ethernet10_s : State :=
  (stateWith 3 [(F.ETH_RU_PRACH_EN, 1, (31 : Fin 32), 0), (F.ETH_CFG_MODE, 1, 0, 0), (F.ETH_PORT_STAT_LINK_UP, 1, 15,
    0), (F.ETH_PORT_CFG_ROLE_PTP, 1, 15, 0), (F.ETH_PORT_CFG_ROLE_FH, 1, 15, 0), (F.ETH_PORT_CFG_ROLE_SYNCE, 1, 15,
    0), (F.PWR_DOM_STAT_STATE, 0, 52, 0), (F.TIME_PTP_CFG_PROFILE, 1, 0, 0), (F.CLK_PLL_STAT_LOCK, 0xFFF, 0, 0),
    (F.ETH_RU_CFG_EN, 1, 31, 0), (F.ETH_RU_CFG_PORT, 15, 31, 0), (F.ETH_RU_CFG_N_RB, 1, 31, 0), (F.ETH_RU_PRACH_EN, 1,
    31, 0), (F.ETH_RU_PRACH_PERIOD, 1, 31, 0), (F.ETH_RU_PRACH2_PRACH_OFF, 1, 31, 0)])
def ethernet11_s : State :=
  (changed (stateWith 3 [(F.ETH_CFG_MODE, 1, 0, 0), (F.ETH_PORT_STAT_LINK_UP, 1, 15, 0), (F.ETH_PORT_CFG_ROLE_PTP, 1,
    15, 0), (F.ETH_PORT_CFG_ROLE_FH, 1, 15, 0), (F.ETH_PORT_CFG_ROLE_SYNCE, 1, 15, 0), (F.PWR_DOM_STAT_STATE, 0, 52,
    0), (F.TIME_PTP_CFG_PROFILE, 1, 0, 0), (F.CLK_PLL_STAT_LOCK, 0xFFF, 0, 0), (F.ETH_RU_CFG_EN, 1, 31, 0),
    (F.ETH_RU_CFG_PORT, 15, 31, 0), (F.ETH_RU_CFG_N_RB, 1, 31, 0)]) fun z => z.withEth { sent := [⟨31, true, 0, 10, (0, 0, 0)⟩] })
def ethernet11_x : CpSpan := ⟨31, true, 0, 10, (0, 0, 0)⟩
def ethernet12_s : State := (stateWith 3 [(F.ETH_RU_CFG_EN, 0, (31 : Fin 32), 0), (F.ETH_RU_POOL_N_BUF, 1, 31, 0)])
def ethernet12_p : Port := (.host 0)
def ethernet12_v : Nat := (2 ^ 40 + 9 * 2 ^ 33)
def ethernet13_s : State := (stateWith 3 [(F.ETH_RU_CFG_EN, 1, (31 : Fin 32), 0), (F.ETH_RU_POOL_N_BUF, 1, 31, 0)])
def ethernet13_p : Port := (.host 0)
def ethernet13_v : Nat := (2 ^ 40 + 9 * 2 ^ 33)
def ethernet14_s : State := (stateWith 3 [])
def ethernet14_p : Port := (.host 0)
def ethernet15_s : State := (stateWith 3 [(F.ETH_RU_OWD_GO, 0, (0 : Fin 32), 0)])
def ethernet15_p : Port := (.host 0)
def ethernet16_s : State := (stateWith 3 [(F.ETH_RU_OWD_GO, 1, (0 : Fin 32), 0)])


set_option maxRecDepth 40000 in
/-- Every clause of the statement has states and operands that meet its hypotheses. -/
theorem witness_EthernetCommandsComplete :
    (∃ (s : State) (q : Fin 16) (f : EthFrame),
    s.chip.ethRuns q = true ∧ (9216 < f.bytes ∨ f.fcsOk = false)) ∧
    (∃ (s : State) (q : Fin 16) (f : EthFrame),
    s.chip.ethRuns q = true ∧ f.bytes ≤ 9216 ∧ f.fcsOk = true ∧ f.body = .other) ∧
    (∃ (s : State) (q : Fin 16) (f : EthFrame),
    s.chip.ethRuns q = true ∧ ∃ (action : _) (id : _),
    f.bytes ≤ 9216 ∧ f.fcsOk = true ∧ f.body = .owd 1 false action id ∧ s.chip.fhRuns q = true ∧ (action = 0 ∨ action = 1)) ∧
    (∃ (s : State) (q : Fin 16) (f : EthFrame),
    s.chip.ethRuns q = true ∧ ∃ (action : _) (id : _),
    f.bytes ≤ 9216 ∧ f.fcsOk = true ∧ f.body = .owd 1 false action id ∧ s.chip.fhRuns q = true ∧ action = 3) ∧
    (∃ (s : State) (q : Fin 16) (m : UMsg),
    s.chip.ethRuns q = true ∧ s.chip.fhRuns q = true ∧ s.chip.ruFind q m.eaxc = none) ∧
    (∃ (s : State) (q : Fin 16) (m : UMsg) (r : Nat) (p : Nat) (at_ : Nat) (close : Nat) (first : Nat),
    s.chip.ethRuns q = true ∧ s.chip.fhRuns q = true ∧ s.chip.ruFind q m.eaxc = some (r, p, false) ∧ Tbl.get s.chip.eth.seqRx (65536 * r + m.eaxc) 0 = m.seq % 256 ∧
    let c := s.chip.withEth { s.chip.eth with seqRx := Tbl.set s.chip.eth.seqRx (65536 * r + m.eaxc) ((m.seq + 1) % 256) 0 };
    c.ulWindow r false (m.frame % 256) 8 m.sym = (at_, close, first) ∧ tickLater at_ c.tick = false ∧ tickLater close c.tick = false) ∧
    (∃ (s : State) (q : Fin 16) (m : UMsg) (r : Nat) (p : Nat) (at_ : Nat) (close : Nat) (first : Nat),
    s.chip.ethRuns q = true ∧ s.chip.fhRuns q = true ∧ s.chip.ruFind q m.eaxc = some (r, p, false) ∧ Tbl.get s.chip.eth.seqRx (65536 * r + m.eaxc) 0 = m.seq % 256 ∧
    let c := s.chip.withEth { s.chip.eth with seqRx := Tbl.set s.chip.eth.seqRx (65536 * r + m.eaxc) ((m.seq + 1) % 256) 0 };
    c.ulWindow r false (m.frame % 256) 8 m.sym = (at_, close, first) ∧ tickLater at_ c.tick = false ∧ tickLater close c.tick = true) ∧
    (∃ (s : State) (r : Fin 32) (prach : Bool) (sfn : Fin 1024) (sym : Nat) (at_ : Nat) (close : Nat) (first : Nat),
    s.chip.ulWindow r prach sfn 10 sym = (at_, close, first) ∧ s.chip.ruRuns r = true ∧ s.chip.modeIn modesRu = true ∧ tickLater close s.chip.tick = false ∧ s.chip.awake = true ∧
    let c := (List.range (s.chip.rd F.ETH_RU_CFG_N_PORT_M1 r + 1)).foldl (fun c p =>
      c.ulClose r p prach at_ first sfn (prach || c.ulAsked r at_)) s.chip;
    c.awake = true) ∧
    (∃ (s : State) (f : Fin 64) (ring : Fin 8) (count : Nat) (r : Nat) (a : Nat) (z : Nat) (t0 : Nat) (t1 : Nat) (h : HostCmd),
    (s.chip.ringCmds f ring).find? (fun h => h.count == count) = some h ∧ s.chip.ruOf h.cell = some r ∧ h.itemSpan = (a, z) ∧ h.cpTimes (s.chip.ruCarrier r) = (t0, t1) ∧ h.isSlot = true ∧ h.stage = .started ∧ h.discard = false ∧ s.chip.ruRuns r = true ∧ s.chip.modeIn modesRu = true ∧ (h.op ≠ 2 ∨ s.chip.mode ≠ mShed) ∧ ((∀ x ∈ s.chip.eth.sent, x.ref ≠ h.ref)) ∧ tickLater (s.chip.cpInstant h r (s.chip.ruCarrier r)) s.chip.tick = false ∧ s.chip.ethRuns (s.chip.rd F.ETH_RU_CFG_PORT r) = true) ∧
    (∃ (s : State) (r : Fin 32) (slot : Nat),
    let w := s.chip.ruCarrier r;
    let sps := frameTicks / ccSlotTicks w;
    let at_ := s.chip.airOf w (slot / sps % 1024) 10 (slot % sps * ccSlotSyms w + s.chip.rd F.ETH_RU_PRACH_START_SYM r);
    let per := s.chip.rd F.ETH_RU_PRACH_PERIOD r;
    s.chip.ruRuns r = true ∧ s.chip.modeIn modesRu = true ∧ s.chip.flag F.ETH_RU_PRACH_EN r = true ∧ per ≠ 0 ∧ slot < 1024 * sps ∧ ((slot : Int) - s.chip.rd F.ETH_RU_PRACH_SLOT_OFF r) % per = 0 ∧ tickLater (tickAdd at_ (tickMod - s.chip.rd F.ETH_RU_WIN_TCP_ADV_UL r)) s.chip.tick = false ∧ s.chip.ethRuns (s.chip.rd F.ETH_RU_CFG_PORT r) = true ∧
    let x := (s.chip.readWord .fabric (0x300000000 + 128 * s.chip.rd F.ETH_RU_PRACH2_PRACH_OFF r - 16)).2;
    x.poison = true) ∧
    (∃ (s : State) (r : Fin 32) (slot : Nat),
    let w := s.chip.ruCarrier r;
    let sps := frameTicks / ccSlotTicks w;
    let at_ := s.chip.airOf w (slot / sps % 1024) 10 (slot % sps * ccSlotSyms w + s.chip.rd F.ETH_RU_PRACH_START_SYM r);
    let per := s.chip.rd F.ETH_RU_PRACH_PERIOD r;
    s.chip.ruRuns r = true ∧ s.chip.modeIn modesRu = true ∧ s.chip.flag F.ETH_RU_PRACH_EN r = true ∧ per ≠ 0 ∧ slot < 1024 * sps ∧ ((slot : Int) - s.chip.rd F.ETH_RU_PRACH_SLOT_OFF r) % per = 0 ∧ tickLater (tickAdd at_ (tickMod - s.chip.rd F.ETH_RU_WIN_TCP_ADV_UL r)) s.chip.tick = false ∧ s.chip.ethRuns (s.chip.rd F.ETH_RU_CFG_PORT r) = true ∧
    let x := (s.chip.readWord .fabric (0x300000000 + 128 * s.chip.rd F.ETH_RU_PRACH2_PRACH_OFF r - 16)).2;
    x.poison = false ∧ x.status = .ok ∧ x.data < 2 ^ 24) ∧
    (∃ (s : State) (r : Fin 32) (sfn : Fin 1024) (sym : Nat) (x : CpSpan) (ready : Bool),
    let at_ := s.chip.airOf (s.chip.ruCarrier r) sfn 10 sym;
    s.chip.eth.sent.find? (fun (x : CpSpan) => x.ru == r.val && x.dl && 0 ≤ tickDiff at_ x.first
      && 0 < tickDiff x.stop at_) = some x ∧ s.chip.ruRuns r = true ∧ s.chip.modeIn modesRu = true ∧ s.chip.mode ≠ mShed ∧ tickLater (tickAdd at_ (tickMod - s.chip.rd F.ETH_RU_WIN_T1A_UP r)) s.chip.tick = false ∧ s.chip.ethRuns (s.chip.rd F.ETH_RU_CFG_PORT r) = true ∧ s.chip.awake = true ∧
    let c := if ready then s.chip else s.chip.dlMissed x.ref;
    let c2 := (List.range (c.rd F.ETH_RU_CFG_N_PORT_M1 r + 1)).foldl (fun c p => c.dlPort r p sym sfn (!ready)) c;
    c2.awake = true) ∧
    (∃ (s : State) (p : Port) (r : Fin 32) (v : Nat),
    s.may p 0xBE = true ∧ s.chip.ruOk r (ruCfgOf v) = true ∧ s.chip.flag F.ETH_RU_CFG_EN r = false) ∧
    (∃ (s : State) (p : Port) (r : Fin 32) (v : Nat),
    s.may p 0xBE = true ∧ s.chip.ruOk r (ruCfgOf v) = true ∧ s.chip.flag F.ETH_RU_CFG_EN r = true) ∧
    (∃ (s : State) (p : Port) (r : Fin 32) (v : Nat),
    s.may p 0xBE = true ∧ s.chip.ruOk r (ruCfgOf v) = false) ∧
    (∃ (s : State) (p : Port) (r : Fin 32),
    s.may p modesRu = true ∧ s.chip.flag F.ETH_RU_OWD_GO r = false) ∧
    (∃ (s : State) (r : Fin 32),
    s.chip.flag F.ETH_RU_OWD_GO r = true) :=
  ⟨⟨ethernet0_s, (15 : Fin 16), ethernet0_f, by decide +kernel, by decide +kernel⟩,
   ⟨ethernet1_s, (15 : Fin 16), ethernet1_f, by decide +kernel, by decide +kernel, by decide +kernel,
        by decide +kernel⟩,
   ⟨ethernet2_s, (15 : Fin 16), ethernet2_f, by decide +kernel, ethernet2_action, ethernet2_id, by decide +kernel,
        by decide +kernel, by decide +kernel, by decide +kernel, by decide +kernel⟩,
   ⟨ethernet3_s, (15 : Fin 16), ethernet3_f, by decide +kernel, ethernet3_action, ethernet3_id, by decide +kernel,
        by decide +kernel, by decide +kernel, by decide +kernel, by decide +kernel⟩,
   ⟨ethernet4_s, (15 : Fin 16), ethernet4_m, by decide +kernel, by decide +kernel, by decide +kernel⟩,
   ⟨ethernet5_s, (15 : Fin 16), ethernet5_m, (31 : Nat), (0 : Nat), (0 : Nat), (3744 : Nat), (0 : Nat),
        by decide +kernel, by decide +kernel, by decide +kernel, by decide +kernel, by decide +kernel,
        by decide +kernel, by decide +kernel⟩,
   ⟨ethernet6_s, (15 : Fin 16), ethernet6_m, (31 : Nat), (0 : Nat), (0 : Nat), (3744 : Nat), (0 : Nat),
        by decide +kernel, by decide +kernel, by decide +kernel, by decide +kernel, by decide +kernel,
        by decide +kernel, by decide +kernel⟩,
   ⟨ethernet7_s, (31 : Fin 32), (false : Bool), (0 : Fin 1024), (0 : Nat), (0 : Nat), (3744 : Nat), (0 : Nat),
        by decide +kernel, by decide +kernel, by decide +kernel, by decide +kernel, by decide +kernel,
        by decide +kernel⟩,
   ⟨ethernet8_s, (0 : Fin 64), (0 : Fin 8), (0 : Nat), (31 : Nat), ethernet8_a, ethernet8_z, ethernet8_t0,
        ethernet8_t1, ethernet8_h, by decide +kernel, by decide +kernel, (Prod.eta _).symm, (Prod.eta _).symm,
        by decide +kernel, by decide +kernel, by decide +kernel, by decide +kernel, by decide +kernel,
        by decide +kernel, by decide +kernel, by decide +kernel, by decide +kernel⟩,
   ⟨ethernet9_s, (31 : Fin 32), (0 : Nat), by decide +kernel, by decide +kernel, by decide +kernel, by decide +kernel,
        by decide +kernel, by decide +kernel, by decide +kernel, by decide +kernel, by decide +kernel⟩,
   ⟨ethernet10_s, (31 : Fin 32), (0 : Nat), by decide +kernel, by decide +kernel, by decide +kernel,
        by decide +kernel, by decide +kernel, by decide +kernel, by decide +kernel, by decide +kernel,
        by decide +kernel, by decide +kernel, by decide +kernel⟩,
   ⟨ethernet11_s, (31 : Fin 32), (0 : Fin 1024), (0 : Nat), ethernet11_x, (false : Bool), by decide +kernel,
        by decide +kernel, by decide +kernel, by decide +kernel, by decide +kernel, by decide +kernel,
        by decide +kernel, by decide +kernel⟩,
   ⟨ethernet12_s, ethernet12_p, (31 : Fin 32), ethernet12_v, by decide +kernel, by decide +kernel, by decide +kernel⟩,
   ⟨ethernet13_s, ethernet13_p, (31 : Fin 32), ethernet13_v, by decide +kernel, by decide +kernel, by decide +kernel⟩,
   ⟨ethernet14_s, ethernet14_p, (0 : Fin 32), (0 : Nat), by decide +kernel, by decide +kernel⟩,
   ⟨ethernet15_s, ethernet15_p, (0 : Fin 32), by decide +kernel, by decide +kernel⟩,
   ⟨ethernet16_s, (0 : Fin 32), by decide +kernel⟩⟩

/-! ### SensorCommandsComplete -/

def sensor0_s : State := (stateWith 3 [(F.CLK_PLL_STAT_LOCK, 0x800, 0, 0)])
def sensor1_s : State := (changed (stateWith 3 [(F.CLK_PLL_STAT_LOCK, 0, 0, 0)]) fun z => z.withDev { held := .none })
def sensor2_s : State := (stateWith 3 [(F.CLK_REF_CFG_REF_A_OK, 1, 0, 0)])
def sensor3_s : State := (stateWith 3 [(F.CLK_REF_CFG_REF_B_OK, 1, 0, 0)])
def sensor4_s : State := (stateWith 3 [(F.CLK_REF_CFG_REF_A_OK, 1, 0, 0)])
def sensor5_s : State := (stateWith 3 [(F.CLK_REF_CFG_REF_B_OK, 0, 0, 0)])
def sensor6_s : State := (changed (stateWith 3 []) fun z => z.withSens { armed := true })
def sensor6_temps : List (Option Int) := [some 1200]
def sensor7_s : State := (changed (stateWith 3 []) fun z => (z.withSens { armed := true }).withDev { held := .none })
def sensor7_temps : List (Option Int) := [some 500]
def sensor8_s : State := (changed (stateWith 3 []) fun z => z.withDev { held := .none })
def sensor9_s : State := (stateWith 3 [(F.CAL_STAT_STORE_BAD, 1, 0, 0)])


set_option maxRecDepth 40000 in
/-- Every clause of the statement has states and operands that meet its hypotheses. -/
theorem witness_SensorCommandsComplete :
    (∃ (s : State) (p : Fin 12),
    bit (s.chip.rd F.CLK_PLL_STAT_LOCK) p = true) ∧
    (∃ (s : State) (p : Fin 12),
    s.chip.dev.held = .none ∧ bit (s.chip.rd F.CLK_PLL_STAT_LOCK) p = false) ∧
    (∃ (s : State),
    s.chip.flag F.CLK_REF_CFG_REF_A_OK = true) ∧
    (∃ (s : State),
    s.chip.flag F.CLK_REF_CFG_REF_B_OK = true) ∧
    (∃ (s : State),
    s.chip.rd F.CLK_REF_CFG_B_FREQ ≠ 3 ∧ s.chip.flag F.CLK_REF_CFG_REF_A_OK = true) ∧
    (∃ (s : State),
    s.chip.flag F.CLK_REF_CFG_REF_B_OK = false) ∧
    (∃ (s : State) (temps : List (Option Int)) (volts : List (Option Nat)) (n : Nat),
    s.chip.sens.armed = true ∧
    let c := s.chip.convertAll temps volts;
    let c2 := (c.wr F.SENS_STAT_MAX_TEMP (toBits 16 (c.sensorTemp n))).wr F.SENS_STAT_HOT n;
    c.hottest = some n ∧ 1000 ≤ c2.sensorTemp n) ∧
    (∃ (s : State) (temps : List (Option Int)) (volts : List (Option Nat)) (n : Nat),
    s.chip.sens.armed = true ∧
    let c := s.chip.convertAll temps volts;
    let c2 := (c.wr F.SENS_STAT_MAX_TEMP (toBits 16 (c.sensorTemp n))).wr F.SENS_STAT_HOT n;
    c.hottest = some n ∧ c2.sensorTemp n < 1000 ∧ c2.dev.held = .none) ∧
    (∃ (s : State),
    s.chip.dev.held = .none) ∧
    (∃ (s : State),
    s.chip.modeIn modesAge = true) :=
  ⟨⟨sensor0_s, (11 : Fin 12), by decide +kernel⟩,
   ⟨sensor1_s, (11 : Fin 12), by decide +kernel, by decide +kernel⟩,
   ⟨sensor2_s, by decide +kernel⟩,
   ⟨sensor3_s, by decide +kernel⟩,
   ⟨sensor4_s, by decide +kernel, by decide +kernel⟩,
   ⟨sensor5_s, by decide +kernel⟩,
   ⟨sensor6_s, sensor6_temps, ([] : List (Option Nat)), (0 : Nat), by decide +kernel, by decide +kernel,
        by decide +kernel⟩,
   ⟨sensor7_s, sensor7_temps, ([] : List (Option Nat)), (0 : Nat), by decide +kernel, by decide +kernel,
        by decide +kernel, by decide +kernel⟩,
   ⟨sensor8_s, by decide +kernel⟩,
   ⟨sensor9_s, by decide +kernel⟩⟩

/-! ### PortCommandsComplete -/

def port0_s : State := (stateWith 3 [])
def port1_s : State := (stateWith 3 [(F.PWR_WAKE_CFG_MGMT, 1, 0, 0)])
def port2_s : State := (stateWith 3 [])
def port3_s : State := (stateWith 3 [])
def port4_s : State := (stateWith 3 [])
def port5_s : State := (stateWith 3 [])
def port6_s : State := (stateWith 3 [])
def port7_s : State := (changed (stateWith 3 []) fun z => z.withDev { resetN := true })
def port8_s : State := (stateWith 3 [])
def port9_s : State := (stateWith 7 [(F.TRUST_STATUS_TOKEN_PERMS, 2, 0, 0)])
def port10_s : State := (stateWith 3 [])


set_option maxRecDepth 40000 in
/-- Every clause of the statement has states and operands that meet its hypotheses. -/
theorem witness_PortCommandsComplete :
    (∃ (s : State),
    s.chip.mode ≠ mBypass) ∧
    (∃ (s : State),
    s.chip.mode ≠ mBypass ∧ s.chip.flag F.PWR_WAKE_CFG_MGMT = true) ∧
    (∃ (s : State) (a : Fin 0x10000000) (q : Nat) (n : Nat),
    s.chip.mode ≠ mBypass ∧
    let k : Pkt := ⟨.rd, 0, 0, 2, a, n, 0, 0, some .mgmt⟩;
    s.chip.pktPort k = some q ∧ s.chip.gate (some q) (s.chip.pktDomain k) = .pass ∧ Tbl.get s.chip.fab.ante q [] = [] ∧ s.chip.reachesAddr .mgmt a = true ∧ n = 4) ∧
    (∃ (s : State) (a : Fin 0x10000000) (q : Nat) (n : Nat),
    s.chip.mode ≠ mBypass ∧
    let k : Pkt := ⟨.rd, 0, 0, 2, a, n, 0, 0, some .mgmt⟩;
    s.chip.pktPort k = some q ∧ s.chip.gate (some q) (s.chip.pktDomain k) = .pass ∧ Tbl.get s.chip.fab.ante q [] = [] ∧ s.chip.reachesAddr .mgmt a = true ∧ n = 8) ∧
    (∃ (s : State) (a : Fin 0x10000000) (q : Nat) (n : Nat) (v : BitVec 64),
    s.chip.mode ≠ mBypass ∧ (n = 4 ∧ v.toNat < 2 ^ 32 ∨ n = 8) ∧
    let k : Pkt := ⟨.wr, 0, 0, 2, a, n, v.toNat, 0, some .mgmt⟩;
    s.chip.pktPort k = some q ∧ s.chip.gate (some q) (s.chip.pktDomain k) = .pass ∧ Tbl.get s.chip.fab.ante q [] = [] ∧ s.chip.reachesAddr .mgmt a = true ∧ n = 4) ∧
    (∃ (s : State) (a : Fin 0x10000000) (q : Nat) (n : Nat) (v : BitVec 64),
    s.chip.mode ≠ mBypass ∧ (n = 4 ∧ v.toNat < 2 ^ 32 ∨ n = 8) ∧
    let k : Pkt := ⟨.wr, 0, 0, 2, a, n, v.toNat, 0, some .mgmt⟩;
    s.chip.pktPort k = some q ∧ s.chip.gate (some q) (s.chip.pktDomain k) = .pass ∧ Tbl.get s.chip.fab.ante q [] = [] ∧ s.chip.reachesAddr .mgmt a = true ∧ n = 8) ∧
    (∃ (s : State),
    s.chip.dev.vddAon = true ∧ s.chip.port.tap.drives = false) ∧
    (∃ (s : State),
    s.chip.dev.vddAon = true ∧ s.chip.port.tap.drives = false ∧ s.chip.tapAllows .extest = false) ∧
    (∃ (s : State),
    s.chip.dev.vddAon = true ∧ s.chip.port.tap.drives = false ∧ s.chip.dev.resetN = false) ∧
    (∃ (s : State),
    s.chip.dev.vddAon = true ∧ s.chip.port.tap.drives = false ∧ s.chip.tapAllows .debug = true) ∧
    (∃ (s : State),
    s.chip.dev.vddAon = true ∧ s.chip.port.tap.drives = false ∧ s.chip.tapAllows .debug = false) :=
  ⟨⟨port0_s, by decide +kernel⟩,
   ⟨port1_s, by decide +kernel, by decide +kernel⟩,
   ⟨port2_s, (0 : Fin 0x10000000), (0 : Nat), (4 : Nat), by decide +kernel, by decide +kernel, by decide +kernel,
        by decide +kernel, by decide +kernel, by decide +kernel⟩,
   ⟨port3_s, (0 : Fin 0x10000000), (0 : Nat), (8 : Nat), by decide +kernel, by decide +kernel, by decide +kernel,
        by decide +kernel, by decide +kernel, by decide +kernel⟩,
   ⟨port4_s, (0 : Fin 0x10000000), (0 : Nat), (4 : Nat), (default : BitVec 64), by decide +kernel, by decide +kernel,
        by decide +kernel, by decide +kernel, by decide +kernel, by decide +kernel, by decide +kernel⟩,
   ⟨port5_s, (0 : Fin 0x10000000), (0 : Nat), (8 : Nat), (default : BitVec 64), by decide +kernel, by decide +kernel,
        by decide +kernel, by decide +kernel, by decide +kernel, by decide +kernel, by decide +kernel⟩,
   ⟨port6_s, by decide +kernel, by decide +kernel⟩,
   ⟨port7_s, by decide +kernel, by decide +kernel, by decide +kernel⟩,
   ⟨port8_s, by decide +kernel, by decide +kernel, by decide +kernel⟩,
   ⟨port9_s, by decide +kernel, by decide +kernel, by decide +kernel⟩,
   ⟨port10_s, by decide +kernel, by decide +kernel, by decide +kernel⟩⟩

/-! ### EngineCommandsComplete -/

def engine0_s : State :=
  (changed (stateWith 3 [(F.CLU_ENG_STAT_STATE, 1, 15, 15), (F.PWR_DOM_STAT_STATE, 0, 15, 0), (F.CLK_PLL_STAT_LOCK,
    0xFFF, 0, 0)]) fun z => z.withClu { engs := [(255, { pc := 0 })], clus := [(15, { codeLen := 4 })] })
def engine0_c : Chip := (engine0_s.chip.plan (255 : Fin 256) (none : Option Nat)).1
def engine0_outs : List SlotOut := (engine0_s.chip.plan (255 : Fin 256) (none : Option Nat)).2.1
def engine0_c2 : Chip := (engine0_outs.foldl (fun engine0_c o => o.fx engine0_c) engine0_c)
def engine0_x : Eng := ((engine0_c2.eng (255 : Fin 256)).advance).1
def engine0_b : Bool := ((engine0_c2.eng (255 : Fin 256)).advance).2
def engine1_s : State :=
  (stateWith 3 [(F.CLU_ENG_STAT_STATE, 1, 15, 15), (F.PWR_DOM_STAT_STATE, 0, 15, 0), (F.CLK_PLL_STAT_LOCK, 0xFFF, 0,
    0)])
def engine1_c : Chip := (engine1_s.chip.plan (255 : Fin 256) (none : Option Nat)).1
def engine1_outs : List SlotOut := (engine1_s.chip.plan (255 : Fin 256) (none : Option Nat)).2.1
def engine1_y : Exc := (Exc.mk' .fetch 3)
def engine2_s : State :=
  (changed (stateWith 3 [(F.CLU_ENG_STAT_STATE, 1, 15, 15), (F.PWR_DOM_STAT_STATE, 0, 15, 0), (F.CLK_PLL_STAT_LOCK,
    0xFFF, 0, 0)]) fun z => z.withClu { engs := [(255, { pc := 0, ictrl := 0x101, irqPend := 1 })], clus := [(15, { codeLen := 4 })] })
def engine3_s : State :=
  (changed (stateWith 3 [(F.CLU_ENG_STAT_STATE, 1, 15, 15), (F.PWR_DOM_STAT_STATE, 0, 15, 0), (F.CLK_PLL_STAT_LOCK,
    0xFFF, 0, 0)]) fun z => z.withClu { engs := [(255, { pc := 0, hoArmed := true })], clus := [(15, { codeLen := 4 })] })
def engine4_s : State :=
  (changed (stateWith 3 []) fun z => z.withClu { engs := [(255, { pc := 0, tcmp := 2 ^ 32 })], clus := [(15, { codeLen := 4 })] })
def engine5_s : State := (stateWith 3 [])
def engine5_p : Port := (.host 0)
def engine6_s : State :=
  (stateWith 7 [(F.CLU_ENG_STAT_STATE, 1, 15, 15), (F.PWR_DOM_STAT_STATE, 0, 15, 0), (F.CLK_PLL_STAT_LOCK, 0xFFF, 0,
    0), (F.TRUST_STATUS_TOKEN_PERMS, 1, 0, 0)])
def engine6_p : Port := (.host 0)
def engine6_c : Chip :=
  ((engine6_s.chip.setEng (255 : Fin 256) { engine6_s.chip.eng (255 : Fin 256) with haltReq := true }).wr
    F.CLU_ENG_CTRL_HALT 1 (eC (255 : Fin 256)) (eJ (255 : Fin 256)))
def engine7_s : State :=
  (changed (stateWith 7 [(F.CLU_ENG_STAT_STATE, 5, 15, 15), (F.PWR_DOM_STAT_STATE, 0, 15, 0), (F.CLK_PLL_STAT_LOCK,
    0xFFF, 0, 0), (F.TRUST_STATUS_TOKEN_PERMS, 1, 0, 0)]) fun z => z.withClu { engs := [(255, { pc := 0, haltWhy := .test })], clus := [(15, { codeLen := 4 })] })
def engine7_p : Port := (.host 0)
def engine7_c : Chip :=
  (((engine7_s.chip.setEng (255 : Fin 256) { engine7_s.chip.eng (255 : Fin 256) with haltWhy := .none }).showRun (255
    : Fin 256)).wr F.CLU_ENG_CTRL_STEP 1 (eC (255 : Fin 256)) (eJ (255 : Fin 256)))
def engine8_s : State :=
  (changed (stateWith 7 [(F.CLU_ENG_STAT_STATE, 5, 15, 15), (F.PWR_DOM_STAT_STATE, 0, 15, 0), (F.CLK_PLL_STAT_LOCK,
    0xFFF, 0, 0), (F.TRUST_STATUS_TOKEN_PERMS, 1, 0, 0)]) fun z => z.withClu { engs := [(255, { pc := 0, haltWhy := .test })], clus := [(15, { codeLen := 4 })] })
def engine8_p : Port := (.host 0)
def engine8_c : Chip := (engine8_s.chip.setEng (255 : Fin 256) { engine8_s.chip.eng (255 : Fin 256) with
        haltWhy := .none
        haltReq := false })
def engine9_s : State :=
  (changed (stateWith 3 []) fun z => z.withClu { engs := [(255, { pc := 0, acc := [⟨0, true, false, false, 0x300000000, 8, 0, false, false, .ok, 0, false⟩] })], clus := [(15, { codeLen := 4 })] })
def engine9_a : EngAcc := ⟨0, true, false, false, 0x300000000, 8, 0, false, false, .ok, 0, false⟩
def engine10_s : State :=
  (changed (stateWith 3 [(F.PWR_DOM_STAT_STATE, 0, 63, 0), (F.CLK_PLL_STAT_LOCK, 0xFFF, 0, 0)]) fun z => z.withClu { engs := [(255, { pc := 0, acc := [⟨0, true, true, false, 0x0, 8, 0, false, false, .ok, 0, false⟩] })], clus := [(15, { codeLen := 4 })] })
def engine10_a : EngAcc := ⟨0, true, true, false, 0x0, 8, 0, false, false, .ok, 0, false⟩
def engine10_v := ((engine10_s.chip.ctlLoad (255 : Fin 256) engine10_a).getD (0, false, .ok)).1
def engine10_p := ((engine10_s.chip.ctlLoad (255 : Fin 256) engine10_a).getD (0, false, .ok)).2.1
def engine10_st := ((engine10_s.chip.ctlLoad (255 : Fin 256) engine10_a).getD (0, false, .ok)).2.2
def engine11_s : State :=
  (changed (stateWith 3 []) fun z => z.withClu { engs := [(255, { pc := 0, acc := [⟨0, false, false, false, 0x300000000, 8, 0, false, false, .ok, 0, false⟩] })], clus := [(15, { codeLen := 4 })] })
def engine11_a : EngAcc := ⟨0, false, false, false, 0x300000000, 8, 0, false, false, .ok, 0, false⟩
def engine11_c : Chip := engine11_s.chip
def engine12_s : State :=
  (changed (stateWith 3 []) fun z => z.withClu { engs := [(255, { pc := 0 })], clus := [(15, { codeLen := 4, fills := [(0x6000000, 255)] })] })
def engine12_c : Chip :=
  ((engine12_s.chip.setCluster (15 : Fin 16) { engine12_s.chip.cluster (15 : Fin 16) with fills := ([] : List (Nat × Nat)) }).ccSnoop
    (15 : Fin 16) (0x6000000 : Nat) false)
def engine12_c2 : Chip := (engine12_c.readLine (0x6000000 : Nat)).1
def engine12_l : CcLine := (engine12_c.readLine (0x6000000 : Nat)).2.1
def engine12_c3 : Chip :=
  ((engine12_c2.ccInstall (15 : Fin 16) (255 : Nat) engine12_l).incMod F.CLU_CC_STAT_MISSES (15 : Fin 16))
def engine13_s : State :=
  (changed (stateWith 3 []) fun z => z.withClu { engs := [(255, { pc := 0 })], clus := [(15, { codeLen := 4, wbs := [(⟨0x6000000, 5, 0, true⟩, 255)] })] })
def engine13_l : CcLine := ⟨0x6000000, 5, 0, true⟩
def engine13_c : Chip :=
  ((engine13_s.chip.setCluster (15 : Fin 16) { engine13_s.chip.cluster (15 : Fin 16) with wbs := ([] : List (CcLine × Nat)) }).writeLine
    engine13_l).1
def engine14_s : State :=
  (changed (stateWith 3 []) fun z => z.withClu { engs := [(255, { pc := 0 })], clus := [(15, { codeLen := 4, wbs := [(⟨0x5E00000, 5, 0, true⟩, 255)] })] })
def engine14_l : CcLine := ⟨0x5E00000, 5, 0, true⟩
def engine14_c : Chip :=
  ((engine14_s.chip.setCluster (15 : Fin 16) { engine14_s.chip.cluster (15 : Fin 16) with wbs := ([] : List (CcLine × Nat)) }).writeLine
    engine14_l).1
def engine14_st : Status :=
  ((engine14_s.chip.setCluster (15 : Fin 16) { engine14_s.chip.cluster (15 : Fin 16) with wbs := ([] : List (CcLine × Nat)) }).writeLine
    engine14_l).2
def engine15_s : State := (stateWith 3 [(F.CLU_CC_CTRL_CLEAN_ALL, 0, (0 : Fin 16), 0)])
def engine15_p : Port := (.host 0)
def engine16_s : State := (stateWith 3 [])
def engine16_p : Port := (.host 0)


set_option maxRecDepth 40000 in
/-- Every clause of the statement has states and operands that meet its hypotheses. -/
theorem witness_EngineCommandsComplete :
    (∃ (s : State) (e : Fin 256) (busy : Option Nat) (c : Chip) (c2 : Chip) (outs : List SlotOut) (x : Eng) (b : Bool),
    s.chip.engRuns e = true ∧ (s.chip.eng e).stalled = false ∧ (s.chip.eng e).popDue = false ∧ s.chip.plan e busy = (c, outs, none) ∧ (s.chip.eng e).irqTakeable = false ∧ ((∀ o ∈ outs, o.wait = false)) ∧ c2 = outs.foldl (fun c o => o.fx c) c ∧ (c2.eng e).advance = (x, b) ∧ (s.chip.eng e).overdue c.tick = false) ∧
    (∃ (s : State) (e : Fin 256) (busy : Option Nat) (c : Chip) (outs : List SlotOut) (y : Exc),
    s.chip.engRuns e = true ∧ (s.chip.eng e).stalled = false ∧ (s.chip.eng e).popDue = false ∧ s.chip.plan e busy = (c, outs, some y)) ∧
    (∃ (s : State) (e : Fin 256),
    s.chip.engRuns e = true ∧ (s.chip.eng e).irqTakeable = true ∧ ((s.chip.eng e).stalled = true ∨ (s.chip.plan e none).2.2 = none)) ∧
    (∃ (s : State) (e : Fin 256),
    s.chip.engRuns e = true ∧ (s.chip.eng e).overdue s.chip.tick = true) ∧
    (∃ (s : State) (e : Fin 256),
    bit (s.chip.eng e).tcmp 32 = true ∧ tickLater ((s.chip.eng e).tcmp % 2 ^ 32) s.chip.tick = false) ∧
    (∃ (s : State) (p : Port),
    s.may p modesRun = true) ∧
    (∃ (s : State) (p : Port) (e : Fin 256) (c : Chip),
    s.may p 0x80 = true ∧ bit (s.chip.rd F.TRUST_STATUS_TOKEN_PERMS) 0 = true ∧ c = (s.chip.setEng e { s.chip.eng e with haltReq := true }).wr F.CLU_ENG_CTRL_HALT 1 (eC e) (eJ e) ∧ 1 ≤ c.engState e ∧ c.engState e ≤ 4) ∧
    (∃ (s : State) (p : Port) (e : Fin 256) (c : Chip),
    s.may p 0x80 = true ∧ bit (s.chip.rd F.TRUST_STATUS_TOKEN_PERMS) 0 = true ∧ s.chip.engState e = esHalted ∧ (s.chip.eng e).haltWhy = .test ∧ c = ((s.chip.setEng e { s.chip.eng e with haltWhy := .none }).showRun e).wr F.CLU_ENG_CTRL_STEP 1 (eC e) (eJ e) ∧ c.engRuns e = true) ∧
    (∃ (s : State) (p : Port) (e : Fin 256) (c : Chip),
    s.may p 0x80 = true ∧ bit (s.chip.rd F.TRUST_STATUS_TOKEN_PERMS) 0 = true ∧ s.chip.engState e = esHalted ∧ (s.chip.eng e).haltWhy = .test ∧ c = s.chip.setEng e { s.chip.eng e with
        haltWhy := .none
        haltReq := false }) ∧
    (∃ (s : State) (e : Fin 256) (k : Nat) (a : EngAcc),
    ((s.chip.eng e).acc.filter fun (a : EngAcc) => a.load && !a.cached)[k]? = some a ∧ a.control = false) ∧
    (∃ (s : State) (e : Fin 256) (k : Nat) (a : EngAcc),
    ((s.chip.eng e).acc.filter fun (a : EngAcc) => a.load && !a.cached)[k]? = some a ∧ ∃ (v : _) (p : _) (st : _),
    a.control = true ∧ s.chip.ctlLoad e a = some (v, p, st)) ∧
    (∃ (s : State) (e : Fin 256) (k : Nat) (a : EngAcc) (c : Chip) (st : Status),
    ((s.chip.eng e).acc.filter fun (a : EngAcc) => !a.load && !a.cached)[k]? = some a ∧ (if a.control then s.chip.gate (s.chip.portControl a.addr) (s.chip.ctlDomain a.addr) = .pass ∧
      s.chip.regWrite (.engine e) a.addr a.size a.data = (c, st) else c = s.chip ∧ st = a.status)) ∧
    (∃ (s : State) (n : Fin 16) (line : Nat) (e : Nat) (r : List (Nat × Nat)) (c : Chip) (c2 : Chip) (c3 : Chip) (l : CcLine),
    (s.chip.cluster n).fills = (line, e) :: r ∧ c = (s.chip.setCluster n { s.chip.cluster n with fills := r }).ccSnoop n line false ∧ (s.chip.cluster n).wbs.find? (fun w => w.1.line == line) = none ∧ c.readLine line = (c2, l, .ok) ∧ c3 = (c2.ccInstall n e l).incMod F.CLU_CC_STAT_MISSES n) ∧
    (∃ (s : State) (n : Fin 16) (l : CcLine) (e : Nat) (r : List (CcLine × Nat)) (c : Chip) (st : Status),
    (s.chip.cluster n).wbs = (l, e) :: r ∧ (s.chip.setCluster n { s.chip.cluster n with wbs := r }).writeLine l = (c, st) ∧ c.flag F.CLU_CC_CTRL_CLEAN_ALL n = false ∧ st = .ok) ∧
    (∃ (s : State) (n : Fin 16) (l : CcLine) (e : Nat) (r : List (CcLine × Nat)) (c : Chip) (st : Status),
    (s.chip.cluster n).wbs = (l, e) :: r ∧ (s.chip.setCluster n { s.chip.cluster n with wbs := r }).writeLine l = (c, st) ∧ c.flag F.CLU_CC_CTRL_CLEAN_ALL n = false ∧ st ≠ .ok ∧ e < 256 ∧ ((c.incSat F.CLU_CC_STAT_WB_FAIL n).setEng e
        (((c.incSat F.CLU_CC_STAT_WB_FAIL n).eng e).ldNote false st 0 false)).flag F.CLU_CC_CTRL_CLEAN_ALL n = false) ∧
    (∃ (s : State) (p : Port) (n : Fin 16),
    s.may p modesRun = true ∧ s.chip.flag F.CLU_CC_CTRL_CLEAN_ALL n = false) ∧
    (∃ (s : State) (p : Port),
    s.may p modesRun = true) :=
  ⟨⟨engine0_s, (255 : Fin 256), (none : Option Nat), engine0_c, engine0_c2, engine0_outs, engine0_x, engine0_b,
        by decide +kernel, by decide +kernel, by decide +kernel, (Prod.ext rfl (Prod.ext rfl (by decide +kernel))),
        by decide +kernel, by decide +kernel, rfl, (Prod.eta _).symm, by decide +kernel⟩,
   ⟨engine1_s, (255 : Fin 256), (none : Option Nat), engine1_c, engine1_outs, engine1_y, by decide +kernel,
        by decide +kernel, by decide +kernel, (Prod.ext rfl (Prod.ext rfl (by decide +kernel)))⟩,
   ⟨engine2_s, (255 : Fin 256), by decide +kernel, by decide +kernel, by decide +kernel⟩,
   ⟨engine3_s, (255 : Fin 256), by decide +kernel, by decide +kernel⟩,
   ⟨engine4_s, (255 : Fin 256), by decide +kernel, by decide +kernel⟩,
   ⟨engine5_s, engine5_p, by decide +kernel⟩,
   ⟨engine6_s, engine6_p, (255 : Fin 256), engine6_c, by decide +kernel, by decide +kernel, rfl, by decide +kernel,
        by decide +kernel⟩,
   ⟨engine7_s, engine7_p, (255 : Fin 256), engine7_c, by decide +kernel, by decide +kernel, by decide +kernel,
        by decide +kernel, rfl, by decide +kernel⟩,
   ⟨engine8_s, engine8_p, (255 : Fin 256), engine8_c, by decide +kernel, by decide +kernel, by decide +kernel,
        by decide +kernel, rfl⟩,
   ⟨engine9_s, (255 : Fin 256), (0 : Nat), engine9_a, by decide +kernel, by decide +kernel⟩,
   ⟨engine10_s, (255 : Fin 256), (0 : Nat), engine10_a, by decide +kernel, engine10_v, engine10_p, engine10_st,
        by decide +kernel, by decide +kernel⟩,
   ⟨engine11_s, (255 : Fin 256), (0 : Nat), engine11_a, engine11_c, (.ok : Status), by decide +kernel,
        by decide +kernel⟩,
   ⟨engine12_s, (15 : Fin 16), (0x6000000 : Nat), (255 : Nat), ([] : List (Nat × Nat)), engine12_c, engine12_c2,
        engine12_c3, engine12_l, by decide +kernel, rfl, by decide +kernel, (Prod.ext rfl (Prod.ext rfl
        (by decide +kernel))), rfl⟩,
   ⟨engine13_s, (15 : Fin 16), engine13_l, (255 : Nat), ([] : List (CcLine × Nat)), engine13_c, ((.ok) : Status),
        by decide +kernel, (Prod.eta _).symm, by decide +kernel, rfl⟩,
   ⟨engine14_s, (15 : Fin 16), engine14_l, (255 : Nat), ([] : List (CcLine × Nat)), engine14_c, engine14_st,
        by decide +kernel, (Prod.eta _).symm, by decide +kernel, by decide +kernel, by decide +kernel,
        by decide +kernel⟩,
   ⟨engine15_s, engine15_p, (0 : Fin 16), by decide +kernel, by decide +kernel⟩,
   ⟨engine16_s, engine16_p, by decide +kernel⟩⟩

/-! ### AccessCommandsComplete -/

def access0_s : State := (stateWith 3 [(F.PWR_DOM_STAT_STATE, 0, 62, 0), (F.CLK_PLL_STAT_LOCK, 0xFFF, 0, 0)])
def access0_p : Port := (.host 0)
def access1_s : State := (stateWith 3 [])
def access1_k : Pkt := ⟨.rd, 12, 0, 2, 0x3F0000000, 16, 0, 0, none⟩
def access2_s : State := (stateWith 3 [])
def access2_k : Pkt := ⟨.rd, 12, 0, 2, 0x3F0000000, 16, 0, 0, none⟩
def access3_s : State :=
  (changed (stateWith 3 []) fun z => z.withFab { open_ := [(8, [⟨.rd, 12, 0, 2, 0x3F0000000, 16, 0, 0, none⟩])] })
def access3_k : Pkt := ⟨.rsp, 8, 0, 2, 0x3F0000000, 16, 0, 0, none⟩
def access3_q : Pkt := ⟨.rd, 12, 0, 2, 0x3F0000000, 16, 0, 0, none⟩
def access4_s : State :=
  (stateWith 3 [(F.RING_CFG_ENABLE, 1, (63 : Fin 64), (7 : Fin 8)), (F.RING_CFG_ENABLE, 1, 63, 7),
    (F.RING_CFG_LOG2_SIZE, 6, 63, 7)])


set_option maxRecDepth 40000 in
/-- Every clause of the statement has states and operands that meet its hypotheses. -/
theorem witness_AccessCommandsComplete :
    (∃ (s : State) (p : Port) (a : Fin 0x10000000) (n : Nat) (v : Nat) (q : Nat),
    s.chip.mode ≠ mBypass ∧ s.chip.reachesAddr p a = true ∧
    let k : Pkt := ⟨.wr, srcPort p, 0, 2, a, n, v, 0, some p⟩;
    s.chip.pktPort k = some q ∧ s.chip.gate (some q) (s.chip.pktDomain k) = .pass ∧ Tbl.get s.chip.fab.ante q [] = []) ∧
    (∃ (s : State) (k : Pkt) (q : Nat),
    s.chip.mode ≠ mBypass ∧ (s.chip.inWarm = false ∨ hifPorts.contains k.src = false) ∧ (k.op = .rd ∨ k.op = .wr) ∧ barFour k = false ∧ vfMemory k = false ∧ s.chip.pktPort k = some q ∧ s.chip.gate (some q) (s.chip.pktDomain k) = .pass ∧ Tbl.get s.chip.fab.ante q [] = [] ∧ s.chip.mustWait k = false) ∧
    (∃ (s : State) (k : Pkt) (q : Nat),
    s.chip.mode ≠ mBypass ∧ (s.chip.inWarm = false ∨ hifPorts.contains k.src = false) ∧ (k.op = .rd ∨ k.op = .wr) ∧ barFour k = false ∧ vfMemory k = false ∧ s.chip.pktPort k = some q ∧ s.chip.gate (some q) (s.chip.pktDomain k) = .pass ∧ Tbl.get s.chip.fab.ante q [] = []) ∧
    (∃ (s : State) (k : Pkt) (q : Pkt),
    s.chip.mode ≠ mBypass ∧ k.op = .rsp ∧ s.chip.flag F.FAB_PORT_STAT_ISOLATED k.src = false ∧ (Tbl.get s.chip.fab.open_ k.src []).find? (fun q => q.txn == k.txn) = some q ∧
    let c := s.chip.withFab { s.chip.fab with
      open_ := Tbl.set s.chip.fab.open_ k.src ((Tbl.get s.chip.fab.open_ k.src []).erase q) [] };
    c.mustWait q = false) ∧
    (∃ (s : State) (f : Fin 64) (r : Fin 8) (v : Nat),
    s.chip.mode ≠ mBypass ∧ s.chip.inWarm = false ∧ s.chip.flag F.RING_CFG_ENABLE f r = true ∧ s.chip.resetting f r = false ∧ s.chip.doorbellOk f r (v % 2 ^ 32) = true) :=
  ⟨⟨access0_s, access0_p, (0x100000 : Fin 0x10000000), (8 : Nat), (1 : Nat), (12 : Nat), by decide +kernel,
        by decide +kernel, by decide +kernel, by decide +kernel, by decide +kernel⟩,
   ⟨access1_s, access1_k, (0 : Nat), by decide +kernel, by decide +kernel, by decide +kernel, by decide +kernel,
        by decide +kernel, by decide +kernel, by decide +kernel, by decide +kernel, by decide +kernel⟩,
   ⟨access2_s, access2_k, (0 : Nat), by decide +kernel, by decide +kernel, by decide +kernel, by decide +kernel,
        by decide +kernel, by decide +kernel, by decide +kernel, by decide +kernel⟩,
   ⟨access3_s, access3_k, access3_q, by decide +kernel, by decide +kernel, by decide +kernel, by decide +kernel,
        by decide +kernel⟩,
   ⟨access4_s, (63 : Fin 64), (7 : Fin 8), (64 : Nat), by decide +kernel, by decide +kernel, by decide +kernel,
        by decide +kernel, by decide +kernel⟩⟩

/-! ### ResetCommandsComplete -/

def reset0_s : State := (stateWith 3 [])
def reset1_s : State := (changed (stateWith 3 []) fun z => z.withDev { vddSvc := false })
def reset3_s : State := (stateWith 3 [])
def reset5_s : State := (stateWith 3 [])
def reset5_p : Port := (.host 0)
def reset6_s : State :=
  (changed (stateWith 3 [(F.ACH_STAT_SVC_STATE, acIn, 255, 0)]) fun z => z.withAch { chans := [(255, { cfg := { cc := [(7, 2 ^ 61 + 2 ^ 29, 2 ^ 58)], period := 307200, wins := [(0, 1000, 9000)] }, win := some 0, pa := true })] })
def reset6_p : Port := (.host 0)
def reset7_s : State := (stateWith 0 [])
def reset8_s : State := (stateWith 1 [])
def reset9_s : State := (stateWith 3 [])
def reset10_s : State := (stateWith 3 [])
def reset11_s : State := (changed (stateWith 3 []) fun z => z.withDev { held := .brownOut })
def reset12_s : State :=
  (changed (stateWith 3 []) fun z => z.withDev { trans := some { source := 0, target := 1, phase := .boot } })
def reset12_t : Trans := { source := 0, target := 1, phase := .boot }
def reset13_s : State :=
  (changed (stateWith 3 []) fun z => z.withDev { trans := some { source := 3, target := 1, phase := .warm } })
def reset13_t : Trans := { source := 3, target := 1, phase := .warm }
def reset14_s : State :=
  (stateWith 3 [(F.DEV_STRAPS_PCIE_EN, 1, 0, 0), (F.DEV_STRAPS_PCIE_EN, 1, 0, 0), (F.PWR_DOM_STAT_STATE, 0, 62, 0)])


set_option maxRecDepth 40000 in
/-- Every clause of the statement has states and operands that meet its hypotheses. -/
theorem witness_ResetCommandsComplete :
    (∃ (s : State),
    (s.chip.dev.vddAon = false ∨ s.chip.dev.vddSvc = true)) ∧
    (∃ (s : State),
    s.chip.dev.vddAon = true ∧ s.chip.dev.vddSvc = false) ∧
    (∃ (s : State),
    s.chip.dev.thermtrip = false) ∧
    (∃ (s : State) (p : Port),
    s.may p 0xFE = true ∧ s.chip.inWarm = false ∧ (s.chip.report p .ok).rampDown.ramping = false) ∧
    (∃ (s : State) (p : Port),
    s.may p 0xFE = true ∧ s.chip.inWarm = false ∧ (s.chip.report p .ok).rampDown.ramping = true) ∧
    (∃ (s : State),
    s.chip.mode = mBypass) ∧
    (∃ (s : State),
    (s.chip.mode = mRelay ∨ s.chip.mode = mVerify ∨ s.chip.mode = mTest)) ∧
    (∃ (s : State),
    (s.chip.mode = mService ∨ s.chip.mode = mShed ∨ s.chip.mode = mSoak)) ∧
    (∃ (s : State),
    s.chip.dev.held = .release ∧ s.chip.dev.vddAon = true ∧ s.chip.dev.vddSvc = true ∧ s.chip.dev.thermtrip = false) ∧
    (∃ (s : State),
    s.chip.dev.held = .brownOut) ∧
    (∃ (s : State) (t : Trans),
    s.chip.dev.trans = some t ∧ t.phase = .boot) ∧
    (∃ (s : State) (t : Trans),
    s.chip.dev.trans = some t ∧ t.phase = .warm) ∧
    (∃ (s : State) (gen : Fin 8) (width : Fin 32) (flit : Bool),
    s.chip.flag F.DEV_STRAPS_PCIE_EN = true ∧ s.chip.domState 62 = dOn ∧ pcieLink gen width flit = true ∧ s.chip.inWarm = false ∧ s.chip.dev.trans = none) :=
  ⟨⟨reset0_s, by decide +kernel⟩,
   ⟨reset1_s, by decide +kernel, by decide +kernel⟩,
   ⟨reset3_s, by decide +kernel⟩,
   ⟨reset5_s, reset5_p, by decide +kernel, by decide +kernel, by decide +kernel⟩,
   ⟨reset6_s, reset6_p, by decide +kernel, by decide +kernel, by decide +kernel⟩,
   ⟨reset7_s, by decide +kernel⟩,
   ⟨reset8_s, by decide +kernel⟩,
   ⟨reset9_s, by decide +kernel⟩,
   ⟨reset10_s, by decide +kernel, by decide +kernel, by decide +kernel, by decide +kernel⟩,
   ⟨reset11_s, by decide +kernel⟩,
   ⟨reset12_s, reset12_t, by decide +kernel, by decide +kernel⟩,
   ⟨reset13_s, reset13_t, by decide +kernel, by decide +kernel⟩,
   ⟨reset14_s, (6 : Fin 8), (16 : Fin 32), (true : Bool), by decide +kernel, by decide +kernel, by decide +kernel,
        by decide +kernel, by decide +kernel⟩⟩

/-! ### ModeCommandsComplete -/

def mode0_s : State := (stateWith 2 [(F.DEV_MODE_IN_TRANSITION, 0, 0, 0)])
def mode0_p : Port := (.host 0)
def mode1_s : State := (stateWith 1 [(F.DEV_MODE_IN_TRANSITION, 0, 0, 0)])
def mode1_p : Port := (.host 0)
def mode2_s : State := (stateWith 4 [(F.DEV_MODE_IN_TRANSITION, 0, 0, 0)])
def mode2_p : Port := (.host 0)
def mode3_s : State := (stateWith 3 [(F.DEV_MODE_IN_TRANSITION, 0, 0, 0)])
def mode3_p : Port := (.host 0)
def mode4_s : State :=
  (stateWith 3 [(F.DEV_MODE_IN_TRANSITION, 0, 0, 0), (F.BRn_CFG_EN, 1, 0, 0), (F.BRX_SOAK_CFG_SOAK_LINKS, 1, 0, 0),
    (F.BRn_OCC_PERIOD, 307200, 0, 0)])
def mode4_p : Port := (.host 0)
def mode5_s : State :=
  (stateWith 4 [(F.DEV_MODE_IN_TRANSITION, 0, 0, 0), (F.BRn_CFG_EN, 1, 0, 0), (F.BRX_SOAK_CFG_SOAK_LINKS, 1, 0, 0),
    (F.BRn_OCC_PERIOD, 307200, 0, 0)])
def mode5_p : Port := (.host 0)
def mode6_s : State := (stateWith 3 [(F.DEV_MODE_IN_TRANSITION, 0, 0, 0)])
def mode6_p : Port := (.host 0)
def mode7_s : State :=
  (stateWith 1 [(F.TRUST_STATUS_TOKEN_OK, 1, 0, 0), (F.DEV_MODE_IN_TRANSITION, 0, 0, 0), (F.TRUST_STATUS_TOKEN_OK, 1,
    0, 0)])
def mode7_p : Port := (.host 0)
def mode8_s : State := (stateWith 1 [(F.DEV_MODE_IN_TRANSITION, 0, 0, 0)])
def mode8_p : Port := (.host 0)
def mode8_e := (Instr.modeReqRelay (.host 0) 0x4D4F, mRelay)
def mode9_s : State := (stateWith 3 [(F.DEV_MODE_PEND_HW_PEND, 0, 0, 0), (F.DEV_MODE_IN_TRANSITION, 1, 0, 0)])
def mode9_p : Port := (.host 0)
def mode10_s : State := (stateWith 3 [])
def mode10_p : Port := (.host 0)
def mode11_s : State :=
  (stateWith 4 [(F.DEV_MODE_SHED_BY_SW, 0, 0, 0), (F.DEV_MODE_RETURN_MODE, mService, 0, 0), (F.DEV_MODE_IN_TRANSITION,
    0, 0, 0)])
def mode12_s : State :=
  (stateWith 4 [(F.DEV_MODE_SHED_BY_SW, 0, 0, 0), (F.DEV_MODE_RETURN_MODE, mSoak, 0, 0), (F.DEV_MODE_IN_TRANSITION, 0,
    0, 0)])
def mode13_s : State :=
  (changed (stateWith 3 []) fun z => z.withDev { trans := some { source := 3, target := 1, phase := .run } })
def mode13_t : Trans := { source := 3, target := 1, phase := .run }
def mode14_s : State :=
  (changed (stateWith 3 []) fun z => z.withDev { trans := some { source := 3, target := 5, phase := .drain } })
def mode14_t : Trans := { source := 3, target := 5, phase := .drain }
def mode15_s : State :=
  (changed (stateWith 3 []) fun z => z.withDev { trans := some { source := 3, target := 6, phase := .drain } })
def mode15_t : Trans := { source := 3, target := 6, phase := .drain }
def mode16_s : State :=
  (changed (stateWith 3 []) fun z => z.withDev { trans := some { source := 3, target := 6, phase := .drain } })
def mode16_t : Trans := { source := 3, target := 6, phase := .drain }
def mode17_s : State := (stateWith 3 [(F.DEV_MODE_PEND_PEND_VALID, 1, 0, 0), (F.DEV_MODE_PEND_HW_PEND, 0, 0, 0)])
def mode17_p : Port := (.host 0)
def mode18_s : State := (stateWith 3 [])
def mode18_p : Port := (.host 0)


set_option maxRecDepth 40000 in
/-- Every clause of the statement has states and operands that meet its hypotheses. -/
theorem witness_ModeCommandsComplete :
    (∃ (s : State) (p : Port),
    s.may p 0xFE = true ∧ s.chip.inTrans = false ∧ s.chip.mode = mVerify) ∧
    (∃ (s : State) (p : Port),
    s.may p 0xFE = true ∧ s.chip.inTrans = false ∧ s.chip.mode = mRelay) ∧
    (∃ (s : State) (p : Port),
    s.may p 0xFE = true ∧ s.chip.inTrans = false ∧ (s.chip.mode = mVerify ∨ s.chip.mode = mShed ∨ s.chip.mode = mSoak) ∧ s.chip.dev.shedCauses = 0) ∧
    (∃ (s : State) (p : Port),
    s.may p 0xFE = true ∧ s.chip.inTrans = false ∧ (s.chip.mode = mService ∨ s.chip.mode = mSoak)) ∧
    (∃ (s : State) (p : Port),
    s.may p 0xFE = true ∧ s.chip.inTrans = false ∧ s.chip.mode = mService ∧ s.chip.dev.shedCauses = 0 ∧ s.chip.brSoakOk = true ∧ s.chip.soakTxBad = false) ∧
    (∃ (s : State) (p : Port),
    s.may p 0xFE = true ∧ s.chip.inTrans = false ∧ s.chip.mode = mShed ∧ s.chip.dev.shedCauses = 0 ∧ s.chip.brSoakOk = true ∧ s.chip.soakTxBad = false) ∧
    (∃ (s : State) (p : Port),
    s.may p 0xFE = true ∧ s.chip.inTrans = false ∧ (s.chip.mode = mService ∨ s.chip.mode = mShed ∨ s.chip.mode = mSoak)) ∧
    (∃ (s : State) (p : Port),
    s.may p 0xFE = true ∧ s.chip.inTrans = false ∧ s.chip.mode = mRelay ∧ s.chip.flag F.TRUST_STATUS_TOKEN_OK = true) ∧
    (∃ (s : State) (p : Port),
    s.may p 0xFE = true ∧ ∃ e ∈ [(Instr.modeReqRelay p 0x4D4F, mRelay), (.modeReqVerify p 0x4D4F, mVerify), (.modeReqService p 0x4D4F, mService),
      (.modeReqShed p 0x4D4F, mShed), (.modeReqSoak p 0x4D4F, mSoak), (.modeReqQuiesce p 0x4D4F, mQuiesce),
      (.modeReqTest p 0x4D4F, mTest)],
    s.chip.inTrans = false ∧ s.chip.mode = e.2) ∧
    (∃ (s : State) (p : Port),
    s.may p 0xFE = true ∧ s.chip.inTrans = true ∧ s.chip.flag F.DEV_MODE_PEND_HW_PEND = false) ∧
    (∃ (s : State) (p : Port),
    s.may p 0xFE = true) ∧
    (∃ (s : State),
    s.chip.mode = mShed ∧ s.chip.inTrans = false ∧ s.chip.flag F.DEV_MODE_SHED_BY_SW = false ∧ s.chip.dev.shedCauses = 0 ∧ s.chip.rd F.DEV_MODE_RETURN_MODE = mService) ∧
    (∃ (s : State),
    s.chip.mode = mShed ∧ s.chip.inTrans = false ∧ s.chip.flag F.DEV_MODE_SHED_BY_SW = false ∧ s.chip.dev.shedCauses = 0 ∧ s.chip.rd F.DEV_MODE_RETURN_MODE = mSoak) ∧
    (∃ (s : State) (t : Trans),
    s.chip.dev.trans = some t ∧ s.chip.transReady t = true) ∧
    (∃ (s : State) (t : Trans),
    s.chip.dev.trans = some t ∧ t.phase = .drain ∧ ((∀ h ∈ s.chip.hif.inflight, h.isSlot = false)) ∧ t.target = mSoak) ∧
    (∃ (s : State) (t : Trans),
    s.chip.dev.trans = some t ∧ t.phase = .drain ∧ ((∀ h ∈ s.chip.hif.inflight, h.isSlot = false)) ∧ t.target ≠ mSoak) ∧
    (∃ (s : State) (t : Trans),
    s.chip.dev.trans = some t ∧ t.phase = .drain) ∧
    (∃ (s : State) (p : Port),
    s.may p 0xFE = true ∧ s.chip.flag F.DEV_MODE_PEND_PEND_VALID = true ∧ s.chip.flag F.DEV_MODE_PEND_HW_PEND = false) ∧
    (∃ (s : State) (p : Port),
    s.may p 0xFE = true) :=
  ⟨⟨mode0_s, mode0_p, by decide +kernel, by decide +kernel, by decide +kernel⟩,
   ⟨mode1_s, mode1_p, by decide +kernel, by decide +kernel, by decide +kernel⟩,
   ⟨mode2_s, mode2_p, by decide +kernel, by decide +kernel, by decide +kernel, by decide +kernel⟩,
   ⟨mode3_s, mode3_p, by decide +kernel, by decide +kernel, by decide +kernel⟩,
   ⟨mode4_s, mode4_p, by decide +kernel, by decide +kernel, by decide +kernel, by decide +kernel, by decide +kernel,
        by decide +kernel⟩,
   ⟨mode5_s, mode5_p, by decide +kernel, by decide +kernel, by decide +kernel, by decide +kernel, by decide +kernel,
        by decide +kernel⟩,
   ⟨mode6_s, mode6_p, by decide +kernel, by decide +kernel, by decide +kernel⟩,
   ⟨mode7_s, mode7_p, by decide +kernel, by decide +kernel, by decide +kernel, by decide +kernel⟩,
   ⟨mode8_s, mode8_p, by decide +kernel, mode8_e, .head _, by decide +kernel, by decide +kernel⟩,
   ⟨mode9_s, mode9_p, by decide +kernel, by decide +kernel, by decide +kernel⟩,
   ⟨mode10_s, mode10_p, by decide +kernel⟩,
   ⟨mode11_s, by decide +kernel, by decide +kernel, by decide +kernel, by decide +kernel, by decide +kernel⟩,
   ⟨mode12_s, by decide +kernel, by decide +kernel, by decide +kernel, by decide +kernel, by decide +kernel⟩,
   ⟨mode13_s, mode13_t, by decide +kernel, by decide +kernel⟩,
   ⟨mode14_s, mode14_t, by decide +kernel, by decide +kernel, by decide +kernel, by decide +kernel⟩,
   ⟨mode15_s, mode15_t, by decide +kernel, by decide +kernel, by decide +kernel, by decide +kernel⟩,
   ⟨mode16_s, mode16_t, by decide +kernel, by decide +kernel⟩,
   ⟨mode17_s, mode17_p, by decide +kernel, by decide +kernel, by decide +kernel⟩,
   ⟨mode18_s, mode18_p, by decide +kernel⟩⟩

end Sys2Proof.Tests
end

section
/-! PROOFS. Numbers: little-endian values (R7), rounding (R11), saturation and wrapping (R12), ticks (R13, R88). -/
namespace Sys2Proof.Machine

/-! ## Little-endian values (R7) -/

theorem bits_byte (v k : Nat) : bits v (8 * k + 7) (8 * k) = v / 2 ^ (8 * k) % 256 := by
  rw [bits, show 8 * k + 7 + 1 - 8 * k = 8 by omega, show 2 ^ 8 = 256 from rfl]

/-- Byte `k + 1` of a value is byte `k` of the value without its lowest byte. -/
theorem bits_byte_succ (v k : Nat) :
    bits v (8 * (k + 1) + 7) (8 * (k + 1)) = bits (v / 256) (8 * k + 7) (8 * k) := by
  rw [bits_byte, bits_byte, Nat.div_div_eq_div_mul, show 2 ^ (8 * (k + 1)) = 256 * 2 ^ (8 * k) by ring]

@[simp] theorem toBytes_length (n v : Nat) : (toBytes n v).length = n := by
  induction n generalizing v with
  | zero => rfl
  | succ m ih => simp [toBytes, ih]

theorem toBytes_getElem? (n v k : Nat) (h : k < n) :
    (toBytes n v)[k]? = some (BitVec.ofNat 8 (bits v (8 * k + 7) (8 * k))) := by
  induction n generalizing v k with
  | zero => omega
  | succ m ih =>
    cases k with
    | zero => simp [toBytes, bits, ← BitVec.toNat_inj]
    | succ j => simpa [toBytes, bits_byte_succ] using ih (v / 256) j (by omega)

theorem ofBytes_toBytes (n v : Nat) : ofBytes (toBytes n v) = v % 2 ^ (8 * n) := by
  induction n generalizing v with
  | zero => simp [toBytes, ofBytes, Nat.mod_one]
  | succ m ih =>
    rw [show 2 ^ (8 * (m + 1)) = 256 * 2 ^ (8 * m) by ring, Nat.mod_mul]
    simp [toBytes, ofBytes, ih]

/-- Memory that holds the bytes of a list from an address on is read as the value of the list. -/
theorem Chip.rdBytes_eq_ofBytes (c : Chip) (a : Nat) (l : List Byte)
    (h : ∀ k (hk : k < l.length), c.rdByte (a + k) = l[k]) : c.rdBytes a l.length = ofBytes l := by
  induction l generalizing a with
  | nil => rfl
  | cons b r ih =>
    have hb : c.rdByte a = b := h 0 (by simp)
    have hr : c.rdBytes (a + 1) r.length = ofBytes r := ih (a + 1) fun k hk => by
      rw [Nat.add_right_comm]
      exact h (k + 1) (Nat.succ_lt_succ hk)
    simp [Chip.rdBytes, ofBytes, hb, hr]

theorem Chip.rdBytes_wrBytes (c : Chip) (a : Nat) (l : List Byte) :
    (c.wrBytes a l).rdBytes a l.length = ofBytes l :=
  Chip.rdBytes_eq_ofBytes _ a l fun k hk => c.rdByte_wrBytes_in a k l hk

theorem Chip.rdByte_wrBytes_toBytes (c : Chip) (a n v k : Nat) (h : k < n) :
    (c.wrBytes a (toBytes n v)).rdByte (a + k) = BitVec.ofNat 8 (bits v (8 * k + 7) (8 * k)) := by
  have hk : k < (toBytes n v).length := by simpa using h
  rw [c.rdByte_wrBytes_in a k _ hk, List.getElem_eq_iff, toBytes_getElem? n v k h]

/-- Settles O41: `toBytes` puts byte k at place k (induction on the length), memory keeps the places, and `ofBytes` undoes
`toBytes`. -/
theorem littleEndianValues : Obligations.LittleEndianValues := by
  refine ⟨toBytes_getElem?, Chip.rdByte_wrBytes_toBytes, fun c a n v => ?_, ofBytes_toBytes⟩
  simpa [ofBytes_toBytes] using c.rdBytes_wrBytes a (toBytes n v)

/-! ## Saturation and wrapping (R12) -/

theorem satS_mem_range (w : Nat) (x : Int) : -(2 ^ (w - 1) : Int) ≤ satS w x ∧ satS w x ≤ 2 ^ (w - 1) - 1 := by
  have hm : (0 : Int) < 2 ^ (w - 1) := by positivity
  unfold satS
  push_cast
  split_ifs <;> omega

theorem satS_nearest (w : Nat) (x y : Int) (hlo : -(2 ^ (w - 1) : Int) ≤ y) (hhi : y ≤ 2 ^ (w - 1) - 1) :
    |x - satS w x| ≤ |x - y| := by
  unfold satS
  push_cast
  split_ifs with below above
  · rw [abs_of_neg (by omega)]
    exact le_trans (by omega) (neg_le_abs (x - y))
  · rw [abs_of_pos (by omega)]
    exact le_trans (by omega) (le_abs_self (x - y))
  · simp

theorem toBits_eq_emod (w : Nat) (x : Int) : (toBits w x : Int) = x % 2 ^ w := by
  have h : (0 : Int) ≤ x % (2 ^ w : Nat) := Int.emod_nonneg _ (by positivity)
  rw [toBits, Int.toNat_of_nonneg h, Nat.cast_pow, Nat.cast_ofNat]

theorem toBits_lt (w : Nat) (x : Int) : toBits w x < 2 ^ w := by
  have h : x % (2 ^ w : Int) < 2 ^ w := Int.emod_lt_of_pos x (by positivity)
  rw [← toBits_eq_emod] at h
  exact_mod_cast h

/-- Settles O42: a result below or above the range is replaced by the end of the range on its side; the low-order bits are
the remainder by 2^w. -/
theorem saturationAndWrap : Obligations.SaturationAndWrap :=
  ⟨fun w x _ => ⟨(satS_mem_range w x).1, (satS_mem_range w x).2, satS_nearest w x⟩,
    fun w x => ⟨toBits_eq_emod w x, toBits_lt w x⟩⟩

/-! ## Rounding half up (R11) -/

theorem roundDrop_eq (n : Nat) (x : Int) (hn : 0 < n) : roundDrop n x = (x + 2 ^ (n - 1)) / 2 ^ n := by
  simp [roundDrop, hn.ne']

theorem roundDrop_one (x : Int) : roundDrop 1 x = halfUp x := roundDrop_eq 1 x Nat.one_pos

/-- Settles O43: the rounded value is a floor quotient by 2^n, of the value with half of 2^n added. -/
theorem roundingHalfUp : Obligations.RoundingHalfUp := by
  refine ⟨fun n x hn => ?_, roundDrop_one, by decide, by decide⟩
  have hp : (0 : Int) < 2 ^ n := by positivity
  rw [roundDrop_eq n x hn, mul_add, mul_one]
  exact ⟨Int.mul_ediv_self_le hp.ne', Int.lt_mul_ediv_self_add hp⟩

/-! ## Ticks (R13, R88) -/

theorem tickDiff_tickAdd_left (a d : Nat) (hd : d < 2 ^ 31) : tickDiff (tickAdd a d) a = d := by
  have hu : (tickAdd a d + tickMod - a % tickMod) % 2 ^ 32 = d := by
    unfold tickAdd tickMod
    omega
  simp only [tickDiff, sx, hu]
  omega

theorem tickDiff_tickAdd_right (a d : Nat) (hd : d < 2 ^ 31) : tickDiff a (tickAdd a d) = -d := by
  have hu : (a + tickMod - tickAdd a d % tickMod) % 2 ^ 32 = (2 ^ 32 - d) % 2 ^ 32 := by
    unfold tickAdd tickMod
    omega
  simp only [tickDiff, sx, hu]
  omega

/-- Settles O44: the difference modulo 2^32 is d one way and 2^32 − d the other, and d is below half the range. -/
theorem ticksCompareAcrossTheWrap : Obligations.TicksCompareAcrossTheWrap := by
  intro a d _ hd
  have hleft := tickDiff_tickAdd_left a d hd
  have hright := tickDiff_tickAdd_right a d hd
  simp [tickLater, hleft, hright]

end Sys2Proof.Machine
end

section
/-! PROOFS. Control space: widths and alignment (R15), write modes (R16). -/
namespace Sys2Proof.Machine

/-! ## The register map -/

theorem regMap_widths : ∀ r ∈ regMap, (r.bytes = 4 ∨ r.bytes = 8) ∧
    r.bytes ∣ r.base ∧ r.bytes ∣ r.stride1 ∧ r.bytes ∣ r.stride2 := by decide +kernel

/-- Every instance of a register of the map lies at a multiple of the register's width, whatever its indices. -/
theorem RegInfo.bytes_dvd_addr {r : RegInfo} (h : r ∈ regMap) (i j : Nat) : r.bytes ∣ r.addr i j := by
  obtain ⟨-, hbase, h1, h2⟩ := regMap_widths r h
  exact (hbase.add (h1.mul_right i)).add (h2.mul_right j)

/-! ## Accesses outside the MSI-X tables -/

section
variable (c : Chip) (p : Port) (a n v : Nat)

theorem Chip.regWrite_of_not_msix (h : ∀ f off, fnPage a = some (f, off) → isMsix off = false) :
    c.regWrite p a n v = if !c.reachesAddr p a then (c, .accessDenied) else Chip.regWrite.plain c p a n v := by
  cases hf : fnPage a with
  | none => simp only [Chip.regWrite, hf]
  | some q => simp [Chip.regWrite, hf, h q.1 q.2 hf]

theorem Chip.regRead_of_not_msix (h : ∀ f off, fnPage a = some (f, off) → isMsix off = false) :
    c.regRead p a n =
      if c.mode = mBypass || !c.reachesAddr p a then (0, .accessDenied) else Chip.regRead.reg c a n := by
  cases hf : fnPage a with
  | none => simp only [Chip.regRead, hf]
  | some q => simp [Chip.regRead, hf, h q.1 q.2 hf]

/-- A write at an address where no register of its width begins is dropped (R15). -/
theorem Chip.regWrite_plain_of_width_ne (h : ∀ r i j, regFind regMap a = some (r, i, j) → r.bytes ≠ n) :
    Chip.regWrite.plain c p a n v = (c, .accessDenied) := by
  cases hf : regFind regMap a with
  | none => simp [Chip.regWrite.plain, hf]
  | some q => simp [Chip.regWrite.plain, hf, h q.1 q.2.1 q.2.2 hf]

/-- A read at an address where no register of its width begins returns zero (R15). -/
theorem Chip.regRead_reg_of_width_ne (h : ∀ r i j, regFind regMap a = some (r, i, j) → r.bytes ≠ n) :
    Chip.regRead.reg c a n = (0, .accessDenied) := by
  cases hf : regFind regMap a with
  | none => simp [Chip.regRead.reg, hf]
  | some q => simp [Chip.regRead.reg, hf, h q.1 q.2.1 q.2.2 hf]

/-- A write in a mode that is no write mode of the register found is dropped (R16). -/
theorem Chip.regWrite_plain_of_not_modeIn (r : RegInfo) (i j : Nat) (hf : regFind regMap a = some (r, i, j))
    (hm : c.modeIn r.writeModes = false) : Chip.regWrite.plain c p a n v = (c, .accessDenied) := by
  simp [Chip.regWrite.plain, hf, hm]

@[simp] theorem Chip.modeIn_zero : c.modeIn 0 = false := by
  simp [Chip.modeIn, bit]

end

/-- Settles O46: base and strides of every register are multiples of its width, and both accesses compare the width of
the register they find with their own. -/
theorem accessWidths : Obligations.AccessWidths := by
  refine ⟨fun r hr => ⟨(regMap_widths r hr).1, fun i j => Nat.mod_eq_zero_of_dvd (RegInfo.bytes_dvd_addr hr i j)⟩,
    fun c p a n v hmsix hwidth => ⟨?_, ?_⟩⟩
  · rw [c.regWrite_of_not_msix p a n v hmsix, c.regWrite_plain_of_width_ne p a n v hwidth, ite_self]
  · rw [c.regRead_of_not_msix p a n hmsix, c.regRead_reg_of_width_ne a n hwidth, ite_self]

/-! ## Commands that stand for a write (R16) -/

/-- A command that stands for the write of a register has its effect under that register's guard: over the constructors,
`Instr.guard` is none, or names the requester and modes of the arm's own `guarded` write. -/
theorem exec_eq_guarded (s : State) (i : Instr) (p : Port) (modes : Nat) (h : i.guard = some (p, modes)) :
    ∃ f : Chip → Chip, exec i s = s.run fun c => c.guarded p modes f := by
  cases i
  all_goals cases h
  all_goals exact ⟨_, rfl⟩

theorem exec_denied_of_guard (s : State) (i : Instr) (p : Port) (modes : Nat) (hi : i.guard = some (p, modes))
    (hs : s.may p modes = false) : exec i s = .next (s.to (s.chip.report p .accessDenied)) := by
  obtain ⟨f, hf⟩ := exec_eq_guarded s i p modes hi
  rw [hf, State.run_eq, s.chip.guarded_denied p modes f hs, State.to]

/-- Settles O47: the register found refuses the mode (no mode is in the empty set), and a command that stands for such a
write is guarded by the same modes. -/
theorem writesOutsideTheirModes : Obligations.WritesOutsideTheirModes := by
  refine ⟨fun c p a n v r i j hmsix hfind hmodes => ?_, exec_denied_of_guard⟩
  have hm : c.modeIn r.writeModes = false := by
    rcases hmodes with hm | hnone
    · exact hm
    · rw [hnone, c.modeIn_zero]
  rw [c.regWrite_of_not_msix p a n v hmsix, c.regWrite_plain_of_not_modeIn p a n v r i j hfind hm, ite_self]

end Sys2Proof.Machine
end

section
/-! PROOFS. Status codes: their precedence and the condition masks (R36). -/
namespace Sys2Proof.Machine

/-! ## Precedence -/

@[simp] theorem Status.ok_worst (s : Status) : Status.worst .ok s = s := by
  cases s <;> rfl

theorem Status.rank_worst_le_left (a b : Status) : (a.worst b).rank ≤ a.rank := by
  unfold Status.worst
  split <;> omega

theorem Status.rank_worst_le_right (a b : Status) : (a.worst b).rank ≤ b.rank := by
  unfold Status.worst
  split <;> omega

theorem Status.worst_mem_pair (a b : Status) : a.worst b ∈ [a, b] := by
  unfold Status.worst
  split <;> simp

theorem Status.foldl_worst_mem (l : List Status) (a : Status) : l.foldl Status.worst a ∈ a :: l := by
  induction l generalizing a with
  | nil => simp
  | cons b r ih =>
    have hw := Status.worst_mem_pair a b
    have hr := ih (a.worst b)
    simp only [List.foldl_cons, List.mem_cons, List.not_mem_nil, or_false] at hw hr ⊢
    rcases hr with hr | hr
    · rw [hr, ← or_assoc]
      exact .inl hw
    · exact .inr (.inr hr)

theorem Status.rank_foldl_worst_le (l : List Status) (a : Status) :
    ∀ s ∈ a :: l, (l.foldl Status.worst a).rank ≤ s.rank := by
  induction l generalizing a with
  | nil => simp
  | cons b r ih =>
    have hw : (r.foldl Status.worst (a.worst b)).rank ≤ (a.worst b).rank := ih (a.worst b) _ (.head r)
    intro s hs
    rcases List.mem_cons.1 hs with rfl | hs
    · exact hw.trans (s.rank_worst_le_left b)
    · rcases List.mem_cons.1 hs with rfl | hs
      · exact hw.trans (a.rank_worst_le_right s)
      · exact ih (a.worst b) s (.tail _ hs)

theorem Status.worstOf_cons (a : Status) (l : List Status) : Status.worstOf (a :: l) = l.foldl Status.worst a := by
  rw [Status.worstOf, List.foldl_cons, Status.ok_worst]

theorem Status.worstOf_mem {l : List Status} (h : l ≠ []) : Status.worstOf l ∈ l := by
  cases l with
  | nil => exact absurd rfl h
  | cons a r => exact Status.worstOf_cons a r ▸ Status.foldl_worst_mem r a

theorem Status.rank_worstOf_le {l : List Status} {s : Status} (h : s ∈ l) : (Status.worstOf l).rank ≤ s.rank :=
  Status.rank_foldl_worst_le l .ok s (.tail _ h)

/-- The order of R36. -/
def Status.precedence : List Status :=
  [.accessDenied, .badDescriptor, .versionMismatch, .abortedByQuiesce, .shed, .storm, .targetIsolated, .domainOff,
    .notOwner, .narrowWrite, .deadlineMissed, .poisoned, .gap, .superseded, .recomputed, .ok]

/-- A status stands in the order of R36 behind statuses of lower rank only. -/
theorem Status.precedence_split (s : Status) : ∃ before after, Status.precedence = before ++ s :: after ∧
    ∀ a ∈ before, a.rank < s.rank :=
  ⟨Status.precedence.take (s.rank - 1), Status.precedence.drop s.rank, by cases s <;> rfl, by cases s <;> decide⟩

/-- The first status of the order of R36 that is in a list is the one reported of it. -/
theorem Status.find?_precedence {l : List Status} (h : l ≠ []) :
    Status.precedence.find? (l.contains ·) = some (Status.worstOf l) := by
  obtain ⟨before, after, hsplit, hbefore⟩ := (Status.worstOf l).precedence_split
  rw [List.find?_eq_some_iff_append]
  refine ⟨by simpa using Status.worstOf_mem h, before, after, hsplit, fun a ha => ?_⟩
  have hnot : a ∉ l := fun hl => absurd (Status.rank_worstOf_le hl) (hbefore a ha).not_ge
  simpa using hnot

/-! ## Codes and condition masks -/

theorem Status.code_lt (s : Status) : s.code < 16 := by
  cases s <;> decide

theorem bit_eq_testBit (v k : Nat) : bit v k = v.testBit k := by
  rw [bit, Nat.testBit_eq_decide_div_mod_eq, beq_eq_decide]

/-- Where bit n is clear, adding 2^n carries into no higher bit. -/
theorem add_two_pow_div {v n : Nat} (h : bit v n = false) : (v + 2 ^ n) / 2 ^ (n + 1) = v / 2 ^ (n + 1) := by
  have heven : v / 2 ^ n % 2 ≠ 1 := by simpa [bit] using h
  rw [pow_succ, ← Nat.div_div_eq_div_mul, ← Nat.div_div_eq_div_mul, Nat.add_div_right v (Nat.two_pow_pos n)]
  omega

theorem bit_add_two_pow {v n : Nat} (h : bit v n = false) (k : Nat) :
    bit (v + 2 ^ n) k = (bit v k || k == n) := by
  simp only [bit_eq_testBit] at h ⊢
  rcases lt_trichotomy k n with hk | rfl | hk
  · rw [Nat.add_comm, Nat.testBit_two_pow_add_gt hk, beq_false_of_ne hk.ne, Bool.or_false]
  · rw [Nat.add_comm, Nat.testBit_two_pow_add_eq, h, beq_self_eq_true, Bool.false_or, Bool.not_false]
  · obtain ⟨j, rfl⟩ := Nat.exists_eq_add_of_lt hk
    rw [show n + j + 1 = j + (n + 1) by omega, Nat.testBit_add, Nat.testBit_add,
      add_two_pow_div (by rw [bit_eq_testBit, h]), beq_false_of_ne (by omega), Bool.or_false]

theorem bit_setBit_true (v n k : Nat) : bit (setBit v n true) k = (bit v k || k == n) := by
  by_cases h : bit v n = true
  · have hk : k = n → bit v k = true := fun e => e ▸ h
    simpa [setBit, h] using hk
  · simpa [setBit, h] using bit_add_two_pow (Bool.eq_false_of_not_eq_true h) k

/-- Settles O45: `worst` keeps the smaller rank, so the status reported of a list is its first in the order of ranks, which
is the order of R36; a condition sets its own bit of the mask and no other. -/
theorem statusPrecedence : Obligations.StatusPrecedence :=
  ⟨fun _ h => Status.find?_precedence h, fun m k s => bit_setBit_true m s.code k, rfl⟩

end Sys2Proof.Machine
end

section
/-! PROOFS. Commits that are refused (R148, R152) and the bandwidth of a link at version 1.0 or 1.1 (R45). -/
namespace Sys2Proof.Machine

/-! ## Channel state and registers after a command -/

theorem Chip.achX_congr {c d : Chip} (h : c.ach = d.ach) (n : Nat) : c.achX n = d.achX n := by
  rw [Chip.achX, Chip.achX, h]

@[simp] theorem Chip.achX_settle (c : Chip) (n : Nat) : c.settle.achX n = c.achX n := Chip.achX_congr c.settle_ach n

@[simp] theorem Chip.achX_report (c : Chip) (p : Port) (st : Status) (n : Nat) : (c.report p st).achX n = c.achX n :=
  Chip.achX_congr (c.report_ach p st) n

@[simp] theorem Chip.achX_updAch_same (c : Chip) (n : Nat) (f : AchX → AchX) : (c.updAch n f).achX n = f (c.achX n) := by
  simp [Chip.updAch, Chip.setAch, Chip.achX]

@[simp] theorem Chip.rd_settle (c : Chip) (f : Fld) (i j : Nat) : c.settle.rd f i j = c.rd f i j :=
  Chip.rd_congr _ _ c.settle_regs f i j

/-! ## The shadow registers -/

/-- The fields that the shadow configuration of a channel is read from (R152). -/
def shadowFields : List Fld :=
  G.ACH_CC_CFG.fields ++ G.ACH_CC_POOL.fields ++ [F.ACH_TDD_CFG_ORIGIN, F.ACH_TDD_CFG_PERIOD, F.ACH_TDD_WIN_EN,
    F.ACH_TDD_WIN_START, F.ACH_TDD_WIN_END, F.ACH_RAMP_CFG_PA_LEAD, F.ACH_RAMP_CFG_PA_LAG, F.ACH_RAMP_CFG_RAMP_TICKS,
    F.ACH_RAMP_CFG_EMERG_TICKS, F.ACH_CFR_CFG_THR, F.ACH_CFR_CFG_ITER]

theorem Chip.rdFields_congr {c d : Chip} {fs : List Fld} {i j : Nat} (h : ∀ f ∈ fs, c.rd f i j = d.rd f i j) :
    c.rdFields fs i j = d.rdFields fs i j := by
  induction fs with
  | nil => rfl
  | cons f r ih =>
    rw [Chip.rdFields, Chip.rdFields, h f (.head r), ih fun g hg => h g (.tail f hg)]

theorem Chip.shadowCfg_congr {c d : Chip} (n : Nat) (h : ∀ f ∈ shadowFields, ∀ j, c.rd f n j = d.rd f n j) :
    c.shadowCfg n = d.shadowCfg n := by
  have hcfg (j : Nat) : c.rdFields G.ACH_CC_CFG.fields n j = d.rdFields G.ACH_CC_CFG.fields n j :=
    Chip.rdFields_congr fun f hf => h f (by simp [shadowFields, hf]) j
  have hpool (j : Nat) : c.rdFields G.ACH_CC_POOL.fields n j = d.rdFields G.ACH_CC_POOL.fields n j :=
    Chip.rdFields_congr fun f hf => h f (by simp [shadowFields, hf]) j
  simp only [shadowFields, List.forall_mem_append, List.forall_mem_cons] at h
  simp [Chip.shadowCfg, Chip.flag, hcfg, hpool, h]

/-! ## COMMIT_GO -/

/-- The registers as the write of ACH_COMMIT leaves them. -/
def Chip.commitWritten (c : Chip) (n tick : Nat) : Chip := (c.wr F.ACH_COMMIT_TICK tick n).wr F.ACH_COMMIT_GO 1 n

/-- What speaks against the carriers of a commit (R148). -/
def Chip.commitCcFaults (c : Chip) (n : Nat) : List Status :=
  (c.shadowCfg n).ccFaults (c.rd F.ECV_SAMPLE_CFG_RATE (achLink n)) (c.rd F.ECV_LINK_STAT_VERSION (achLink n))

/-- What speaks against a commit: its carriers, its windows and ramps (R160, R161), its tick (R152). -/
def Chip.commitFaults (c : Chip) (n tick : Nat) : List Status :=
  c.commitCcFaults n ++ (if (c.shadowCfg n).winsOk && (c.shadowCfg n).rampOk then [] else [Status.badDescriptor])
    ++ (if tickDiff (tick % tickMod) c.tick < 0 || tickDiff (c.frameAt (tick % tickMod)) c.tick < 3072
      then [Status.deadlineMissed] else [])

/-- A refused commit: no set is pending, and the status says why. -/
def Chip.commitRefused (c : Chip) (n : Nat) (st : Status) : Chip :=
  (((c.updAch n fun x => { x with pend := none }).wr F.ACH_STAT_COMMIT_STATUS st.code n).wr
    F.ACH_STAT_COMMIT_PEND 0 n).wr F.ACH_COMMIT_GO 0 n

/-- A commit that something speaks against is refused with the status of highest precedence. -/
theorem exec_commitGo_of_faults (s : State) (p : Port) (n : Fin 256) (tick : Nat) (hmay : s.may p 0xBE = true)
    {st : Status} {r : List Status} (hfaults : (s.chip.commitWritten n tick).commitFaults n tick = st :: r) :
    exec (.commitGo p n tick) s = .next (s.to (((s.chip.commitWritten n tick).commitRefused n
      (Status.worstOf (st :: r))).report p .ok)) := by
  obtain ⟨hmode, hreach⟩ : s.chip.modeIn 0xBE = true ∧ s.chip.reachesAll p = true := by simpa [State.may] using hmay
  rw [show exec (.commitGo p n tick) s = execCommitGo p n tick s from rfl, execCommitGo, State.run_eq,
    s.chip.action_allowed p 0xBE _ hmode hreach]
  -- With the list of what speaks against the commit a constructor, its match reduces.
  rw [Chip.commitFaults, Chip.commitCcFaults, Chip.commitWritten] at hfaults
  simp only [hfaults]
  rfl

section
variable (c : Chip) (n tick : Nat)

theorem Chip.rd_commitWritten (f : Fld) (i j : Nat) (htick : f.id ≠ F.ACH_COMMIT_TICK.id)
    (hgo : f.id ≠ F.ACH_COMMIT_GO.id) : (c.commitWritten n tick).rd f i j = c.rd f i j := by
  rw [Chip.commitWritten, Chip.rd_wr_id _ _ _ _ _ _ _ _ hgo, Chip.rd_wr_id _ _ _ _ _ _ _ _ htick]

/-- ACH_COMMIT holds no shadow field. -/
@[simp] theorem Chip.shadowCfg_commitWritten (m : Nat) : (c.commitWritten n tick).shadowCfg m = c.shadowCfg m := by
  have hid : ∀ f ∈ shadowFields, f.id ≠ F.ACH_COMMIT_TICK.id ∧ f.id ≠ F.ACH_COMMIT_GO.id := by decide
  refine Chip.shadowCfg_congr m fun f hf j => ?_
  obtain ⟨htick, hgo⟩ := hid f hf
  exact c.rd_commitWritten n tick f m j htick hgo

@[simp] theorem Chip.achX_commitWritten (m : Nat) : (c.commitWritten n tick).achX m = c.achX m := by
  simp [Chip.commitWritten]

@[simp] theorem Chip.commitCcFaults_commitWritten (m : Nat) :
    (c.commitWritten n tick).commitCcFaults m = c.commitCcFaults m := by
  rw [Chip.commitCcFaults, c.shadowCfg_commitWritten, c.rd_commitWritten _ _ _ _ _ (by decide) (by decide),
    c.rd_commitWritten _ _ _ _ _ (by decide) (by decide), Chip.commitCcFaults]

end

/-! ### What a refused commit leaves -/

@[simp] theorem Chip.achX_commitRefused (c : Chip) (n : Nat) (st : Status) :
    (c.commitRefused n st).achX n = { c.achX n with pend := none } := by
  simp [Chip.commitRefused]

theorem Chip.rd_commitStatus_commitRefused (c : Chip) (n : Nat) (st : Status) :
    (c.commitRefused n st).rd F.ACH_STAT_COMMIT_STATUS n = st.code := by
  have hcode : st.code % 2 ^ 8 = st.code := Nat.mod_eq_of_lt (st.code_lt.trans (by decide))
  rw [Chip.commitRefused, Chip.rd_wr_id _ _ _ _ _ _ _ _ (by decide), Chip.rd_wr_id _ _ _ _ _ _ _ _ (by decide),
    Chip.rd_wr_same]
  exact hcode

/-! ## Bandwidth of a link at version 1.0 or 1.1 (R45) -/

/-- A set wider than 200 MHz always has VERSION_MISMATCH against it at version 1.0 or 1.1. -/
theorem AchCfg.versionMismatch_mem_ccFaults (g : AchCfg) (rate : Nat) {version : Nat} (hv : version = 1 ∨ version = 2)
    (hw : 40000 < g.span.2 - g.span.1) : Status.versionMismatch ∈ g.ccFaults rate version := by
  simp [AchCfg.ccFaults, hv, hw]

/-- Lateness ranks below VERSION_MISMATCH (R36), so it does not change the status of a set refused for that alone. -/
theorem Chip.worstOf_commitFaults_of_versionMismatch (c : Chip) (n tick : Nat)
    (hcc : c.commitCcFaults n = [.versionMismatch]) (hwins : (c.shadowCfg n).winsOk = true)
    (hramp : (c.shadowCfg n).rampOk = true) : Status.worstOf (c.commitFaults n tick) = .versionMismatch := by
  rw [Chip.commitFaults, hcc, hwins, hramp, if_pos (Bool.and_self true)]
  split <;> rfl

/-- Settles O60: VERSION_MISMATCH is among what speaks against the set, so the commit is refused, with that status where
nothing else but its tick speaks against it. -/
theorem wideCarrierSetsRejected : Obligations.WideCarrierSetsRejected := by
  intro s t p n tick hmay hwidth hversion hexec
  have hmem : Status.versionMismatch ∈ (s.chip.commitWritten n tick).commitFaults n tick := by
    rw [Chip.commitFaults, Chip.commitCcFaults_commitWritten]
    exact List.mem_append_left _ (List.mem_append_left _
      (AchCfg.versionMismatch_mem_ccFaults _ _ hversion hwidth))
  obtain ⟨st, r, hfaults⟩ := List.exists_cons_of_ne_nil (List.ne_nil_of_mem hmem)
  rw [exec_commitGo_of_faults s p n tick hmay hfaults, ← hfaults, Host.Outcome.next.injEq] at hexec
  subst hexec
  refine ⟨by simp [State.to], by simp [State.to], fun hcc hwins hramp => ?_⟩
  have hstatus := Chip.worstOf_commitFaults_of_versionMismatch (s.chip.commitWritten n tick) n tick
    ((s.chip.commitCcFaults_commitWritten n tick n).trans hcc) (by simpa using hwins) (by simpa using hramp)
  rw [State.to, Chip.rd_settle, Chip.rd_report, Chip.rd_commitStatus_commitRefused, hstatus]

end Sys2Proof.Machine
end

section
/-! PROOFS. Accesses to reserved addresses (R29, R32). -/
namespace Sys2Proof.Machine

/-! ## Addresses -/

/-- Below the memory space lie control space and reserved addresses (R32). -/
theorem regionOf_below_memory {a : Nat} (h : a < 0x100000000) : regionOf a = .control ∨ regionOf a = .reserved := by
  have hmod : a % 281474976710656 = a := Nat.mod_eq_of_lt (by omega)
  by_cases hctl : a < 0x10000000
  · simp [regionOf, hmod, hctl]
  · have hbelow (m : Nat) (hm : 0x100000000 ≤ m) : ¬ m ≤ a := by omega
    simp [regionOf, hostBase, hmod, hctl, hbelow]

theorem Chip.destPort_of_reserved (c : Chip) {a : Nat} (h : regionOf a = .reserved) : c.destPort a = none := by
  rw [Chip.destPort, h]

/-! ## Requests -/

section
variable (c : Chip) {k : Pkt} (hop : k.op = .rd ∨ k.op = .wr) (hby : k.by_ = none)
include hop

/-- A read or write of memory or control space goes to the port of its address, and to none at a reserved address. -/
theorem Chip.pktPort_eq_destPort : c.pktPort k = c.destPort k.addr := by
  rcases hop with hop | hop <;> rw [Chip.pktPort, hop]

/-- A request without a port is answered by the router (R29). -/
theorem Chip.arrivePkt_of_reserved (answered clash : Bool) (h : regionOf k.addr = .reserved) :
    c.arrivePkt k answered clash = c.absorb k .accessDenied := by
  have hport : c.pktPort k = none := by rw [c.pktPort_eq_destPort hop, c.destPort_of_reserved h]
  simp [Chip.arrivePkt, Chip.gate, Chip.when, hport]

include hby

/-- The router's answer to a request of the fabric: a status, and of a read a poisoned zero word (R29). -/
theorem Chip.absorb_of_fabric (st : Status) : c.absorb k st = c.withFab { c.fab with
    rsp := c.fab.rsp ++ [⟨k.src, k.txn, st, 0, if k.op = .rd then 0xFF else 0⟩] } := by
  rcases hop with hop | hop <;> simp [Chip.absorb, Chip.answer, hop, hby]

/-- A request that no function of the host makes, in a mode with a fabric and outside a warm reset. -/
theorem exec_packetArrive_request (s : State) (answered clash : Bool) (hmode : s.chip.mode ≠ mBypass)
    (hwarm : s.chip.inWarm = false) : exec (.packetArrive k answered clash) s =
      .next (s.to (if barFour k then s.chip.absorb k .accessDenied else s.chip.arrivePkt k answered clash)) := by
  have hvf : vfMemory k = false := by simp [vfMemory, hby]
  rw [show exec (.packetArrive k answered clash) s = execPacketArrive k answered clash s from rfl, execPacketArrive,
    State.run_eq, State.to]
  rcases hop with hop | hop <;> simp [hmode, hwarm, hop, hvf]

theorem exec_packetArrive_reserved (s : State) (answered clash : Bool) (hmode : s.chip.mode ≠ mBypass)
    (hwarm : s.chip.inWarm = false) (hreg : regionOf k.addr = .reserved) :
    exec (.packetArrive k answered clash) s = .next (s.to (s.chip.absorb k .accessDenied)) := by
  rw [exec_packetArrive_request hop hby s answered clash hmode hwarm,
    s.chip.arrivePkt_of_reserved hop answered clash hreg, ite_self]

end

/-- Settles O49: an access through BAR4 to control space and a request whose address has no port are both answered by the
router; below 0x1_0000_0000 there is nothing else. -/
theorem reservedAddressesRefused : Obligations.ReservedAddressesRefused := by
  refine ⟨fun s k answered clash hmode hwarm hop hby hsrc haddr => ?_,
    fun s k answered clash hmode hwarm hop hby hreg => ?_⟩
  · rw [← s.chip.absorb_of_fabric hop hby]
    rcases regionOf_below_memory haddr with hctl | hreg
    · have hbar : barFour k = true := by
        rcases hop with hop | hop <;> simpa [barFour, hifPorts, hby, hop, hctl] using hsrc
      rw [exec_packetArrive_request hop hby s answered clash hmode hwarm, hbar, if_pos rfl]
    · exact exec_packetArrive_reserved hop hby s answered clash hmode hwarm hreg
  · rw [← s.chip.absorb_of_fabric hop hby]
    exact exec_packetArrive_reserved hop hby s answered clash hmode hwarm hreg

end Sys2Proof.Machine
end

section
/-! PROOFS. Causes of a reset (R75) and requests for a mode that start nothing (R63, R68, R72). -/
namespace Sys2Proof.Machine

/-! ## What a reset keeps of the registers -/

/-- Removing entries by their keys leaves what stands at a key that stays. -/
theorem Tbl.get_filter_key {α : Type} (t : Tbl α) (p : Nat → Bool) (d : α) {k : Nat} (hk : p k = true) :
    Tbl.get (t.filter fun e => p e.1) k d = Tbl.get t k d := by
  induction t with
  | nil => rfl
  | cons e r ih =>
    by_cases he : p e.1 = true
    · rw [List.filter_cons_of_pos (by simpa using he), Tbl.get, Tbl.get, ih]
    · have hne : k ≠ e.1 := fun h => he (h ▸ hk)
      rw [List.filter_cons_of_neg (by simpa using he), Tbl.get, if_neg hne, ih]

theorem Fld.key_div_index (f : Fld) (i j : Nat) : f.key i j / 2 ^ 32 = f.id := by
  have hi := Nat.mod_lt i (show 0 < 2 ^ 16 by decide)
  have hj := Nat.mod_lt j (show 0 < 2 ^ 16 by decide)
  rw [Fld.key]
  omega

theorem keepsField_of_mem_keptFields (form : ResetForm) {f : Fld} (h : f.id ∈ keptFields) (i j : Nat) :
    keepsField form (f.key i j) = true := by
  have hlist : keptFields.contains (f.key i j / 2 ^ 32) = true := by
    rw [f.key_div_index, List.contains_iff_mem]
    exact h
  rw [keepsField, hlist, Bool.true_or, Bool.true_or]

section
variable (c : Chip)

@[simp] theorem Chip.cutFuses_regs : c.cutFuses.regs = c.regs := by
  unfold Chip.cutFuses
  split <;> rfl

@[simp] theorem Chip.cutStore_regs : c.cutStore.regs = c.regs := by
  unfold Chip.cutStore
  split <;> rfl

theorem Chip.rd_wipe_of_kept (form : ResetForm) {f : Fld} (h : f.id ∈ keptFields) (i j : Nat) :
    (c.wipe form).rd f i j = c.rd f i j := by
  have hregs : (c.wipe form).regs = c.regs.filter fun e => keepsField form e.1 := by
    simp [Chip.wipe]
  rw [Chip.rd, hregs, Tbl.get_filter_key _ _ _ (keepsField_of_mem_keptFields form h i j), Chip.rd]

@[simp] theorem Chip.pinsTo_regs (col : Nat) : (c.pinsTo col).regs = c.regs :=
  List.foldlRecOn (motive := fun d : Chip => d.regs = c.regs) pinTable _ rfl fun _ hd _ _ => hd

theorem Chip.rd_setSeam_id (isOpen : Bool) {f : Fld} (h : f.id ≠ F.DEV_MODE_SEAM_OPEN.id) (i j : Nat) :
    (c.setSeam isOpen).rd f i j = c.rd f i j := by
  unfold Chip.setSeam
  split
  · rfl
  · rw [Chip.rd_emit, Chip.setFlag, c.rd_wr_id _ _ _ _ _ _ _ h]

theorem Chip.rd_resetPins_id (col : Nat) {f : Fld} (h : f.id ≠ F.DEV_MODE_SEAM_OPEN.id) (i j : Nat) :
    (c.resetPins col).rd f i j = c.rd f i j := by
  rw [← c.rd_setSeam_id false h i j]
  exact Chip.rd_congr _ _ ((c.setSeam false).pinsTo_regs col) f i j

/-! ## Clearing fields of a register -/

theorem Chip.rd_clrFields_of_ne (fs : List Fld) (i j k l : Nat) {g : Fld} (h : ∀ f ∈ fs, g.id ≠ f.id) :
    (c.clrFields fs i j).rd g k l = c.rd g k l :=
  List.foldlRecOn (motive := fun d : Chip => d.rd g k l = c.rd g k l) fs _ rfl
    fun d hd f hf => (d.rd_wr_id f g 0 i j k l (h f hf)).trans hd

theorem Chip.rd_clrFields_of_mem (fs : List Fld) (i j : Nat) {g : Fld} (hg : g ∈ fs)
    (hid : ∀ f ∈ fs, g.id = f.id → g = f) : (c.clrFields fs i j).rd g i j = 0 := by
  induction fs generalizing c with
  | nil => cases hg
  | cons f r ih =>
    have hr : ∀ f ∈ r, g.id = f.id → g = f := fun f hf => hid f (.tail _ hf)
    by_cases hmem : g ∈ r
    · exact ih (c.wr f 0 i j) hmem hr
    · obtain rfl : g = f := (List.mem_cons.1 hg).resolve_right hmem
      refine ((c.wr g 0 i j).rd_clrFields_of_ne r i j i j fun f hf e => hmem (hr f hf e ▸ hf)).trans ?_
      rw [Chip.rd_wr_same, Nat.zero_mod]

/-! ## DEV_RESET_CAUSE (R75) -/

/-- The causes that a power-on reset by VDD_AON clears: all but its own. -/
def clearedCauses : List Fld :=
  [F.DEV_RESET_CAUSE_PCIE, F.DEV_RESET_CAUSE_WARM_MGMT, F.DEV_RESET_CAUSE_WARM_SW, F.DEV_RESET_CAUSE_SVC_LOSS,
    F.DEV_RESET_CAUSE_THERMTRIP, F.DEV_RESET_CAUSE_BROWNOUT, F.DEV_RESET_CAUSE_PIN]

/-- The bits of DEV_RESET_CAUSE. -/
def causeFields : List Fld := clearedCauses ++ [F.DEV_RESET_CAUSE_POR]

/-- Every reset keeps the causes, and the other fields that a reset writes are none of them. -/
theorem causeFields_kept : ∀ g ∈ causeFields, g.id ∈ keptFields ∧ g.id ≠ F.DEV_MODE_SEAM_OPEN.id ∧
    g.id ≠ F.SENS_AVS_REDUCED.id := by decide

theorem causeFields_id_inj : ∀ f ∈ causeFields, ∀ g ∈ causeFields, g.id = f.id → g = f := by decide

theorem causeFields_width : ∀ f ∈ causeFields, f.w = 1 := by decide

theorem Chip.rd_wr_cause {f g : Fld} (hf : f ∈ causeFields) (hg : g ∈ causeFields) :
    (c.wr f 1).rd g = if g = f then 1 else c.rd g := by
  by_cases h : g = f
  · subst h
    rw [if_pos rfl, Chip.rd_wr_same, causeFields_width g hg]
    rfl
  · rw [if_neg h, c.rd_wr_id _ _ _ _ _ _ _ fun e => h (causeFields_id_inj f hf g hg e)]

/-- A reset into BYPASS sets its own cause and leaves the others (R75). -/
theorem Chip.rd_cause_resetDown (form : ResetForm) (held : Held) {f g : Fld} (hf : f ∈ causeFields)
    (hg : g ∈ causeFields) : (c.resetDown form f held).rd g = if g = f then 1 else c.rd g := by
  obtain ⟨hkept, hseam, havs⟩ := causeFields_kept g hg
  rw [Chip.resetDown, Chip.rd_withDev, Chip.setFlag, Chip.rd_wr_id _ _ _ _ _ _ _ _ havs,
    Chip.rd_wr_cause _ hf hg, Chip.rd_wipe_of_kept _ form hkept, c.rd_resetPins_id 1 hseam]

/-- After the other causes have been cleared, POR alone is set (R75). -/
theorem Chip.rd_cause_powerOn (held : Held) {g : Fld} (hg : g ∈ causeFields) :
    ((c.resetDown .powerOn F.DEV_RESET_CAUSE_POR held).clrFields clearedCauses).rd g =
      if g = F.DEV_RESET_CAUSE_POR then 1 else 0 := by
  rcases List.mem_append.1 hg with hclr | hpor
  · have hne : g ≠ F.DEV_RESET_CAUSE_POR := fun e => absurd (e ▸ hclr) (by decide)
    rw [if_neg hne]
    exact Chip.rd_clrFields_of_mem _ _ 0 0 hclr fun f hf => causeFields_id_inj f (List.mem_append_left _ hf) g hg
  · obtain rfl : g = F.DEV_RESET_CAUSE_POR := List.mem_singleton.1 hpor
    rw [Chip.rd_clrFields_of_ne _ _ 0 0 0 0 (by decide), c.rd_cause_resetDown _ _ hg hg, if_pos rfl, if_pos rfl]

end

/-! ## The commands of the supplies and pins -/

/-- The chip with both supplies in range. -/
def Chip.supplied (c : Chip) : Chip := c.withDev { c.dev with vddAon := true, vddSvc := true }

@[simp] theorem Chip.rd_supplied (c : Chip) (f : Fld) (i j : Nat) : c.supplied.rd f i j = c.rd f i j := rfl

theorem exec_powerOnReset (s : State) : exec .powerOnReset s = execPowerOnReset s := rfl

theorem exec_pinReset (s : State) (byResetN rises : Bool) :
    exec (.pinReset byResetN rises) s = execPinReset byResetN rises s := rfl

section
variable {s t : State} {g : Fld}

/-- A power-on reset by VDD_SVC, VDD_AON having stayed in range, is one with the cause SVC_LOSS (R75). -/
theorem rd_powerOnReset_svc (haon : s.chip.dev.vddAon = true) (hsvc : s.chip.dev.vddSvc = false)
    (h : exec .powerOnReset s = .next t) :
    t.chip.rd g = (s.chip.supplied.resetDown .svcLoss F.DEV_RESET_CAUSE_SVC_LOSS .release).rd g := by
  rw [exec_powerOnReset, execPowerOnReset, State.run_next_iff] at h
  rw [h.2, Chip.rd_settle]
  simp only [haon, hsvc]
  rfl

/-- A power-on reset by VDD_AON clears the other causes (R75). -/
theorem rd_powerOnReset_aon (hsup : (!s.chip.dev.vddAon || s.chip.dev.vddSvc) = true)
    (h : exec .powerOnReset s = .next t) :
    t.chip.rd g =
      ((s.chip.supplied.resetDown .powerOn F.DEV_RESET_CAUSE_POR .release).clrFields clearedCauses).rd g := by
  rw [exec_powerOnReset, execPowerOnReset, State.run_next_iff] at h
  rw [h.2, Chip.rd_settle]
  simp only [hsup]
  rfl

@[simp] theorem Chip.tripRelease_regs (c : Chip) : c.tripRelease.regs = c.regs := by
  unfold Chip.tripRelease
  split <;> rfl

/-- What the pins do to a device in reset writes no register. -/
theorem rd_pinReset {byResetN rises : Bool} (h : exec (.pinReset byResetN rises) s = .next t) :
    t.chip.rd g = (s.chip.resetDown .pin F.DEV_RESET_CAUSE_PIN .release).rd g := by
  rw [exec_pinReset, execPinReset, State.run_next_iff] at h
  rw [h.2, Chip.rd_settle]
  cases byResetN
  case false => rfl
  case true =>
    cases rises
    case false => rfl
    case true => exact Chip.rd_congr _ _ (Chip.tripRelease_regs _) g 0 0

end

/-- Settles O40: the causes are fields that every reset keeps, so a reset changes what it writes of them: its own bit,
and a power-on reset by VDD_AON the others besides. -/
theorem resetCauses : Obligations.ResetCauses := by
  rintro causes (rfl : causes = causeFields)
  refine ⟨fun c form held f g hf hg => c.rd_cause_resetDown form held hf hg, fun s t h g hg => ?_,
    fun s t byResetN rises h g hg => ?_⟩
  · split
    next hsvc =>
      rw [rd_powerOnReset_svc hsvc.1 hsvc.2 h, Chip.rd_cause_resetDown _ _ _ (by decide) hg, Chip.rd_supplied]
    next haon =>
      have hsup : (!s.chip.dev.vddAon || s.chip.dev.vddSvc) = true := by
        simpa [Classical.or_iff_not_imp_left] using haon
      rw [rd_powerOnReset_aon hsup h, Chip.rd_cause_powerOn _ _ hg]
  · rw [rd_pinReset h, s.chip.rd_cause_resetDown _ _ (by decide) hg]

/-! ## Requests for a mode (R63, R68, R72) -/

/-- The transitions of R63 that software can request. -/
def requestTable : List (Nat × Nat) :=
  [(1, 2), (1, 7), (2, 3), (2, 1), (3, 4), (5, 4), (4, 3), (4, 5), (3, 5), (5, 3), (3, 6), (4, 6), (5, 6)]

section
variable (c : Chip) (m : Nat)

theorem Chip.modeStatus_of_not_mem (h : (c.mode, m) ∉ requestTable) : c.modeStatus m = .accessDenied := by
  unfold Chip.modeStatus
  dsimp only
  split
  case h_14 => rfl
  all_goals
    next hmode => simp [hmode, requestTable] at h

/-- A rejection is recorded in DEV_MODE_PEND and nowhere else. -/
theorem Chip.rd_modeReject (st : Status) {f : Fld} (hst : f.id ≠ F.DEV_MODE_PEND_LAST_REJECT_STATUS.id)
    (hmode : f.id ≠ F.DEV_MODE_PEND_LAST_REJECT_MODE.id) (i j : Nat) : (c.modeReject m st).rd f i j = c.rd f i j := by
  rw [Chip.modeReject, Chip.rd_wr_id _ _ _ _ _ _ _ _ hmode, Chip.rd_wr_id _ _ _ _ _ _ _ _ hst]

@[simp] theorem Chip.mode_modeReject (st : Status) : (c.modeReject m st).mode = c.mode :=
  c.rd_modeReject m st (by decide) (by decide) 0 0

@[simp] theorem Chip.inTrans_modeReject (st : Status) : (c.modeReject m st).inTrans = c.inTrans := by
  rw [Chip.inTrans, Chip.flag, c.rd_modeReject m st (by decide) (by decide), Chip.inTrans, Chip.flag]

theorem Chip.modeReq_mode (h : c.inTrans = false) : c.modeReq c.mode = (c, .ok) := by
  simp [Chip.modeReq, h]

theorem Chip.modeReq_of_denied (h : c.inTrans = false) (hm : m ≠ c.mode) (hst : c.modeStatus m = .accessDenied) :
    c.modeReq m = (c.modeReject m .accessDenied, .accessDenied) := by
  simp [Chip.modeReq, h, hm, hst]

/-- The status of a software request while hardware holds the pending slot (R72). -/
def Chip.hwPendStatus : Status := if c.rd F.DEV_MODE_PEND_PEND_MODE = mShed then .shed else .abortedByQuiesce

theorem Chip.modeReq_of_hwPend (h : c.inTrans = true) (hhw : c.flag F.DEV_MODE_PEND_HW_PEND = true) :
    c.modeReq m = (c.modeReject m c.hwPendStatus, c.hwPendStatus) := by
  simp [Chip.modeReq, Chip.hwPendStatus, h, hhw]

end

/-- Settles O50: the request for the current mode changes nothing, and both rejections only record themselves. -/
theorem modeRequestsRefused : Obligations.ModeRequestsRefused := by
  refine ⟨fun c h => c.modeReq_mode h, fun c m h _ hm htable => ?_, fun c m h hhw => ?_⟩
  · rw [c.modeReq_of_denied m h hm (c.modeStatus_of_not_mem m htable)]
    exact ⟨rfl, c.mode_modeReject m _, (c.inTrans_modeReject m _).trans h⟩
  · rw [c.modeReq_of_hwPend m h hhw]
    exact ⟨rfl, c.mode_modeReject m _⟩

end Sys2Proof.Machine
end

section
/-! PROOFS. The scrambler of a lane's payload (R108). -/
namespace Sys2Proof.Machine

/-! ## One bit through the scrambler -/

/-- The bit the scrambler adds to the payload: the term x^23 of its register. -/
def scrambleOut (st : Nat) : Nat := st / 2 ^ 22 % 2

/-- The register one bit later: the terms x^23 and x^18 fed back. It does not see the payload, which is what makes the
scrambler additive. -/
def scrambleNext (st : Nat) : Nat := st * 2 % 2 ^ 23 + (scrambleOut st + st / 2 ^ 17) % 2

section
variable (n v st : Nat)

@[simp] theorem scramble_zero : scramble 0 v st = 0 := rfl

theorem scramble_succ :
    scramble (n + 1) v st = (v + scrambleOut st) % 2 + 2 * scramble n (v / 2) (scrambleNext st) := rfl

theorem scramble_succ_mod_two : scramble (n + 1) v st % 2 = (v + scrambleOut st) % 2 := by
  rw [scramble_succ]
  omega

theorem scramble_succ_div_two : scramble (n + 1) v st / 2 = scramble n (v / 2) (scrambleNext st) := by
  rw [scramble_succ]
  omega

/-- The same bit added twice modulo 2 goes away. -/
theorem scramble_succ_add_out_mod_two : (scramble (n + 1) v st + scrambleOut st) % 2 = v % 2 := by
  have hfirst := scramble_succ_mod_two n v st
  omega

/-! ## The whole payload -/

theorem scramble_scramble : scramble n (scramble n v st) st = v % 2 ^ n := by
  induction n generalizing v st with
  | zero => rw [scramble_zero, pow_zero, Nat.mod_one]
  | succ n ih =>
    calc scramble (n + 1) (scramble (n + 1) v st) st
        = v % 2 + 2 * scramble n (scramble n (v / 2) (scrambleNext st)) (scrambleNext st) := by
          rw [scramble_succ, scramble_succ_add_out_mod_two, scramble_succ_div_two]
      _ = v % 2 + 2 * (v / 2 % 2 ^ n) := by rw [ih]
      _ = v % 2 ^ (n + 1) := by rw [pow_succ', Nat.mod_mul]

end

/-- Settles O59, by induction on the number of bits: the register after the first bit is the same both times, so the rest is
the statement for one bit less. -/
theorem descramblingRestores : Obligations.DescramblingRestores :=
  scramble_scramble

end Sys2Proof.Machine
end

section
/-! PROOFS. What a word write stores and what it leaves alone (R375, R383). -/
namespace Sys2Proof.Machine

variable (c : Chip) (w : Who) (addr d : Nat) (p : Bool)

/-! ## The three ways a word write ends: refused, dropped by the host interface, stored -/

theorem Chip.writeWord_status : (c.writeWord w addr d p).2 = c.accessStatus w addr := by
  by_cases h : c.accessStatus w addr = .ok
  · simp only [Chip.writeWord, h]
    split
    · split <;> rfl
    · rfl
  · rw [c.writeWord_refused w addr d p h]

theorem Chip.writeWord_dropped {bus : Nat} (h : c.accessStatus w addr = .ok) (hr : regionOf addr = .host bus)
    (hd : c.hostDrops bus 16 = true) : c.writeWord w addr d p = (c, .ok) := by
  simp [Chip.writeWord, h, hr, hd]

/-- The host interface drops a write of a word at the address (R99), or it does not. -/
theorem Chip.hostDrops_or_forall :
    (∃ bus, regionOf addr = .host bus ∧ c.hostDrops bus 16 = true) ∨
      ∀ bus, regionOf addr = .host bus → c.hostDrops bus 16 = false := by
  by_cases h : ∃ bus, regionOf addr = .host bus ∧ c.hostDrops bus 16 = true
  · exact .inl h
  · exact .inr fun bus hr => Bool.eq_false_iff.mpr fun hd => h ⟨bus, hr, hd⟩

/-! ## The bytes after it -/

theorem Chip.rdByte_congr_mem {c e : Chip} (h : e.mem = c.mem) (x : Nat) : e.rdByte x = c.rdByte x := by
  simp only [Chip.rdByte, h]

theorem Chip.rdByte_writeWord_refused (h : c.accessStatus w addr ≠ .ok) (x : Nat) :
    (c.writeWord w addr d p).1.rdByte x = c.rdByte x := by
  rw [c.writeWord_refused w addr d p h]
  exact Chip.sameStore_rdByte (c.sameStore_countRefusal _) x

theorem Chip.rdByte_writeWord_in (h : c.accessStatus w addr = .ok)
    (hp : onDevice addr = true ∨ p = false ∧ ∀ bus, regionOf addr = .host bus → c.hostDrops bus 16 = false)
    {k : Nat} (hk : k < 16) :
    (c.writeWord w addr d p).1.rdByte (wordAddr (addr % 2 ^ 48) + k) = BitVec.ofNat 8 (bits d (8 * k + 7) (8 * k)) := by
  rw [Chip.rdByte_congr_mem (c.writeWord_ok w addr d p h hp).2, c.rdByte_wrBytes_toBytes _ 16 d k hk]

theorem Chip.rdByte_writeWord_out (hp : p = false ∨ onDevice addr = true) {x : Nat}
    (hx : x < wordAddr (addr % 2 ^ 48) ∨ wordAddr (addr % 2 ^ 48) + 16 ≤ x) :
    (c.writeWord w addr d p).1.rdByte x = c.rdByte x := by
  by_cases h : c.accessStatus w addr = .ok
  · obtain ⟨bus, hr, hd⟩ | hkept := c.hostDrops_or_forall addr
    · rw [c.writeWord_dropped w addr d p h hr hd]
    · have hmem := (c.writeWord_ok w addr d p h (hp.symm.imp_right fun hp => ⟨hp, hkept⟩)).2
      rw [Chip.rdByte_congr_mem hmem, c.rdByte_wrBytes_out _ x _ (by simpa using hx)]
  · exact c.rdByte_writeWord_refused w addr d p h x

/-- Settles O54: an admitted write stores its 16 bytes or is dropped by the host interface, and one that is not answered OK was
not admitted. -/
theorem wordWritesChangeTheirWordOnly : Obligations.WordWritesChangeTheirWordOnly := by
  intro c w addr d p
  refine ⟨fun h hp => ⟨(c.writeWord_status w addr d p).trans h, fun _ hk => c.rdByte_writeWord_in w addr d p h hp hk⟩,
    fun hp _ hx => c.rdByte_writeWord_out w addr d p hp hx, fun hs => ?_⟩
  rw [c.writeWord_status w addr d p] at hs
  exact c.rdByte_writeWord_refused w addr d p hs

end Sys2Proof.Machine
end

section
/-! PROOFS. The code of stored words (R392–R394): it is linear, and its columns are distinct and of odd weight. -/
namespace Sys2Proof.Machine

/-! ## Folding columns -/

/-- The fold is linear: XOR of two words gives XOR of their folds. -/
theorem secdedFold_xor (cols : List Nat) (a b : Nat) :
    secdedFold cols (a ^^^ b) = secdedFold cols a ^^^ secdedFold cols b := by
  induction cols generalizing a b with
  | nil => simp [secdedFold]
  | cons h t ih =>
    have hbit : (if (a ^^^ b) % 2 = 1 then h else 0) = (if a % 2 = 1 then h else 0) ^^^ (if b % 2 = 1 then h else 0) := by
      simp only [Nat.xor_mod_two_eq_one]
      by_cases ha : a % 2 = 1 <;> by_cases hb : b % 2 = 1 <;> simp [ha, hb]
    rw [secdedFold, secdedFold, secdedFold, Nat.xor_div_two, ih, hbit]
    ac_rfl

theorem secdedFold_lt {cols : List Nat} {n : Nat} (h : ∀ x ∈ cols, x < 2 ^ n) (d : Nat) : secdedFold cols d < 2 ^ n := by
  induction cols generalizing d with
  | nil => exact Nat.two_pow_pos n
  | cons x t ih =>
    have hx : (if d % 2 = 1 then x else 0) < 2 ^ n := by
      split
      · exact h x (.head t)
      · exact Nat.two_pow_pos n
    exact Nat.xor_lt_two_pow hx (ih (fun y hy => h y (.tail x hy)) (d / 2))

theorem secdedCheck_lt (d : Nat) : secdedCheck d < 2 ^ 9 :=
  secdedFold_lt (by decide +kernel) d

/-! ## The columns of the 138 stored bits (R393) -/

/-- The columns in the order of the stored bits: data and poison flag, then the check bits. -/
def secdedStoredCols : List Nat := secdedCols ++ secdedCheckCols

theorem secdedStoredCols_length : secdedStoredCols.length = 138 := by decide +kernel

theorem secdedStoredCols_nodup : secdedStoredCols.Nodup := by decide +kernel

/-- The parity of the nine bits of a syndrome. -/
def syndromeParity (s : Nat) : Nat := secdedFold (List.replicate 9 1) s

theorem syndromeParity_xor (a b : Nat) : syndromeParity (a ^^^ b) = syndromeParity a ^^^ syndromeParity b :=
  secdedFold_xor _ a b

/-- Every column is of odd weight. -/
theorem syndromeParity_of_mem_storedCols : ∀ h ∈ secdedStoredCols, syndromeParity h = 1 := by decide +kernel

theorem secdedStoredCols_ne_zero : ∀ h ∈ secdedStoredCols, h ≠ 0 := by decide +kernel

/-- The columns of two stored bits differ in an even number of places, and in at least one: their XOR is neither zero nor a
column. -/
theorem secdedStoredCols_xor {i j : Nat} (hi : i < secdedStoredCols.length) (hj : j < secdedStoredCols.length)
    (hij : i ≠ j) :
    secdedStoredCols[i] ^^^ secdedStoredCols[j] ≠ 0 ∧
      secdedStoredCols[i] ^^^ secdedStoredCols[j] ∉ secdedStoredCols := by
  refine ⟨fun e => hij (secdedStoredCols_nodup.getElem_inj_iff.1 (Nat.xor_eq_zero_iff.1 e)), fun hmem => ?_⟩
  have hodd := syndromeParity_of_mem_storedCols _ hmem
  rw [syndromeParity_xor, syndromeParity_of_mem_storedCols _ (List.getElem_mem hi),
    syndromeParity_of_mem_storedCols _ (List.getElem_mem hj), Nat.xor_self] at hodd
  exact absurd hodd (by decide)

/-! ## The syndrome (R394) -/

/-- The stored check bits XOR those computed from the other stored bits. -/
def secdedSyndrome (w : Nat) : Nat := w / 2 ^ 129 % 2 ^ 9 ^^^ secdedCheck (w % 2 ^ 129)

theorem secdedSyndrome_xor (v w : Nat) : secdedSyndrome (v ^^^ w) = secdedSyndrome v ^^^ secdedSyndrome w := by
  simp only [secdedSyndrome, secdedCheck, Nat.xor_div_two_pow, Nat.xor_mod_two_pow, secdedFold_xor]
  ac_rfl

/-- The syndrome of one stored bit is its column. -/
theorem secdedSyndrome_two_pow :
    ∀ i (hi : i < secdedStoredCols.length), secdedSyndrome (2 ^ i) = secdedStoredCols[i] := by decide +kernel

/-- The 129 bits that the code protects: the data and the poison flag. -/
def protectedBits (d : Nat) (p : Bool) : Nat := d % 2 ^ 128 + b2n p * 2 ^ 128

theorem secdedEncode_eq (d : Nat) (p : Bool) :
    secdedEncode d p = protectedBits d p + secdedCheck (protectedBits d p) * 2 ^ 129 := rfl

theorem protectedBits_lt (d : Nat) (p : Bool) : protectedBits d p < 2 ^ 129 := by
  have hd : d % 2 ^ 128 < 2 ^ 128 := Nat.mod_lt d (Nat.two_pow_pos 128)
  have hp : b2n p ≤ 1 := by cases p <;> decide
  rw [protectedBits]
  omega

theorem secdedEncode_mod (d : Nat) (p : Bool) : secdedEncode d p % 2 ^ 129 = protectedBits d p := by
  rw [secdedEncode_eq, Nat.add_mul_mod_self_right, Nat.mod_eq_of_lt (protectedBits_lt d p)]

theorem secdedEncode_div (d : Nat) (p : Bool) : secdedEncode d p / 2 ^ 129 = secdedCheck (protectedBits d p) := by
  rw [secdedEncode_eq, Nat.add_mul_div_right _ _ (Nat.two_pow_pos 129), Nat.div_eq_of_lt (protectedBits_lt d p),
    Nat.zero_add]

@[simp] theorem secdedSyndrome_encode (d : Nat) (p : Bool) : secdedSyndrome (secdedEncode d p) = 0 := by
  rw [secdedSyndrome, secdedEncode_mod, secdedEncode_div, Nat.mod_eq_of_lt (secdedCheck_lt _), Nat.xor_self]

theorem Decoded.mk129_protectedBits {d : Nat} (p : Bool) (s : Syndrome) (h : d < 2 ^ 128) :
    Decoded.mk129 (protectedBits d p) s = ⟨d, p, s⟩ := by
  have hd : protectedBits d p = d + b2n p * 2 ^ 128 := by rw [protectedBits, Nat.mod_eq_of_lt h]
  rw [Decoded.mk129, hd, Nat.add_mul_mod_self_right, Nat.mod_eq_of_lt h, Nat.add_mul_div_right _ _ (Nat.two_pow_pos 128),
    Nat.div_eq_of_lt h]
  cases p <;> rfl

/-! ## What a syndrome decodes to (R394) -/

theorem secdedDecode_of_syndrome_zero {w : Nat} (h : secdedSyndrome w = 0) :
    secdedDecode w = .mk129 (w % 2 ^ 129) .clean :=
  if_pos h

/-- A syndrome found among the columns of the data and the poison flag inverts its bit. -/
theorem secdedDecode_of_findIdx?_eq_some {w j : Nat} (h0 : secdedSyndrome w ≠ 0)
    (h : secdedCols.findIdx? (· == secdedSyndrome w) = some j) :
    secdedDecode w = .mk129 (w % 2 ^ 129 ^^^ 2 ^ j) .correctable := by
  refine (if_neg h0).trans ?_
  rw [secdedSyndrome] at h
  rw [h]

/-- Any other syndrome leaves the 129 bits: as they should be where it is a check bit's column, else poisoned. -/
theorem secdedDecode_of_not_mem {w : Nat} (h0 : secdedSyndrome w ≠ 0) (h : secdedSyndrome w ∉ secdedCols) :
    secdedDecode w = if secdedSyndrome w ∈ secdedCheckCols then .mk129 (w % 2 ^ 129) .correctable
      else ⟨w % 2 ^ 129 % 2 ^ 128, true, .uncorrectable⟩ := by
  have hnone : secdedCols.findIdx? (· == secdedSyndrome w) = none :=
    List.findIdx?_eq_none_iff.2 fun _ hx => beq_false_of_ne fun e => h (e ▸ hx)
  refine (if_neg h0).trans ?_
  rw [secdedSyndrome] at hnone
  rw [hnone, secdedSyndrome]

theorem secdedCols_findIdx?_getElem {i : Nat} (hi : i < secdedCols.length) :
    secdedCols.findIdx? (· == secdedCols[i]) = some i := by
  have hnodup : secdedCols.Nodup := secdedStoredCols_nodup.of_append_left
  refine List.findIdx?_eq_some_iff_getElem.2 ⟨hi, beq_self_eq_true _, fun j hj e => hj.ne ?_⟩
  exact hnodup.getElem_inj_iff.1 (beq_iff_eq.1 e)

/-- A syndrome that is the column of a stored bit inverts that bit; where it is a check bit, the other 129 stay. -/
theorem secdedDecode_of_syndrome_eq_column {w i : Nat} (hi : i < secdedStoredCols.length)
    (h : secdedSyndrome w = secdedStoredCols[i]) :
    secdedDecode w = .mk129 ((w ^^^ 2 ^ i) % 2 ^ 129) .correctable := by
  have h0 : secdedSyndrome w ≠ 0 := h ▸ secdedStoredCols_ne_zero _ (List.getElem_mem hi)
  rw [Nat.xor_mod_two_pow]
  by_cases hd : i < secdedCols.length
  · have hcol : secdedSyndrome w = secdedCols[i] := h.trans (List.getElem_append_left hd)
    have hbit : 2 ^ i % 2 ^ 129 = 2 ^ i := Nat.mod_eq_of_lt (Nat.pow_lt_pow_right Nat.one_lt_two hd)
    rw [secdedDecode_of_findIdx?_eq_some h0 (hcol ▸ secdedCols_findIdx?_getElem hd), hbit]
  · have hle : secdedCols.length ≤ i := Nat.not_lt.1 hd
    have hmem : secdedSyndrome w ∈ secdedCheckCols := by
      rw [h, show secdedStoredCols[i] = _ from List.getElem_append_right hle]
      exact List.getElem_mem _
    have hnot : secdedSyndrome w ∉ secdedCols := fun e => List.disjoint_of_nodup_append secdedStoredCols_nodup e hmem
    have hbit : 2 ^ i % 2 ^ 129 = 0 := Nat.mod_eq_zero_of_dvd (Nat.pow_dvd_pow 2 hle)
    rw [secdedDecode_of_not_mem h0 hnot, if_pos hmem, hbit, Nat.xor_zero]

theorem secdedDecode_of_syndrome_other {w : Nat} (h0 : secdedSyndrome w ≠ 0) (h : secdedSyndrome w ∉ secdedStoredCols) :
    secdedDecode w = ⟨w % 2 ^ 129 % 2 ^ 128, true, .uncorrectable⟩ := by
  rw [secdedDecode_of_not_mem h0 fun e => h (List.mem_append_left _ e),
    if_neg fun e => h (List.mem_append_right _ e)]

/-! ## A stored word with no, one and two bits inverted -/

section
variable {d : Nat} (p : Bool)

theorem secdedDecode_encode (hd : d < 2 ^ 128) : secdedDecode (secdedEncode d p) = ⟨d, p, .clean⟩ := by
  rw [secdedDecode_of_syndrome_zero (secdedSyndrome_encode d p), secdedEncode_mod, Decoded.mk129_protectedBits p _ hd]

/-- The syndrome of a stored word with one bit inverted. -/
theorem secdedSyndrome_encode_xor (d : Nat) {i : Nat} (hi : i < secdedStoredCols.length) :
    secdedSyndrome (secdedEncode d p ^^^ 2 ^ i) = secdedStoredCols[i] := by
  rw [secdedSyndrome_xor, secdedSyndrome_encode, secdedSyndrome_two_pow i hi, Nat.zero_xor]

theorem secdedDecode_encode_xor (hd : d < 2 ^ 128) {i : Nat} (hi : i < 138) :
    secdedDecode (secdedEncode d p ^^^ 2 ^ i) = ⟨d, p, .correctable⟩ := by
  rw [← secdedStoredCols_length] at hi
  rw [secdedDecode_of_syndrome_eq_column hi (secdedSyndrome_encode_xor p d hi), Nat.xor_xor_cancel_right,
    secdedEncode_mod, Decoded.mk129_protectedBits p _ hd]

theorem secdedDecode_encode_xor_xor (d : Nat) {i j : Nat} (hi : i < 138) (hj : j < 138) (hij : i ≠ j) :
    (secdedDecode (secdedEncode d p ^^^ 2 ^ i ^^^ 2 ^ j)).found = .uncorrectable ∧
      (secdedDecode (secdedEncode d p ^^^ 2 ^ i ^^^ 2 ^ j)).poison = true := by
  rw [← secdedStoredCols_length] at hi hj
  have hsyn : secdedSyndrome (secdedEncode d p ^^^ 2 ^ i ^^^ 2 ^ j) = secdedStoredCols[i] ^^^ secdedStoredCols[j] := by
    rw [secdedSyndrome_xor, secdedSyndrome_encode_xor p d hi, secdedSyndrome_two_pow j hj]
  obtain ⟨hne, hnot⟩ := secdedStoredCols_xor hi hj hij
  rw [← hsyn] at hne hnot
  rw [secdedDecode_of_syndrome_other hne hnot]
  exact ⟨rfl, rfl⟩

end

/-- Settles O51: the syndrome is linear, so it is zero for a stored word, the column of the bit for one inverted bit, and the
XOR of two columns for two, which no column equals because all are of odd weight. -/
theorem secdedCorrectsAndDetects : Obligations.SecdedCorrectsAndDetects :=
  fun d p hd => ⟨secdedDecode_encode p hd, fun _ hi => secdedDecode_encode_xor p hd hi,
    fun _ hi _ hj hij => secdedDecode_encode_xor_xor p d hi hj hij⟩

end Sys2Proof.Machine
end

section
/-! PROOFS. Stored words: what is read after a write, without and with an armed injection (R392, R394, R411). -/
namespace Sys2Proof.Machine

/-! ## Reading a word -/

theorem Chip.rdBytes_congr {c e : Chip} {a n : Nat} (h : ∀ x, a ≤ x → x < a + n → e.rdByte x = c.rdByte x) :
    e.rdBytes a n = c.rdBytes a n := by
  induction n generalizing a with
  | zero => rfl
  | succ n ih =>
    rw [Chip.rdBytes, Chip.rdBytes, h a le_rfl (by omega), ih fun x hlo hhi => h x (by omega) (by omega)]

section
variable (c : Chip) (a d : Nat) (p : Bool)

theorem Chip.rdBytes_lt (n : Nat) : c.rdBytes a n < 2 ^ (8 * n) := by
  induction n generalizing a with
  | zero => exact Nat.one_pos
  | succ n ih =>
    have hbyte := (c.rdByte a).isLt
    have hrest := ih (a + 1)
    rw [Chip.rdBytes, show 2 ^ (8 * (n + 1)) = 256 * 2 ^ (8 * n) by ring]
    omega

/-- What a read delivers is always what the code makes of the stored bits. -/
theorem Chip.decodeAt_eq : c.decodeAt a = secdedDecode (c.stored a) := by
  unfold Chip.decodeAt
  split
  next h => rw [Chip.stored, h, Nat.xor_zero, secdedDecode_encode _ (c.rdBytes_lt a 16)]
  next => rfl

/-! ## Writing a word (R411) -/

/-- The bits that an armed injection inverts in a word when it is written (R411). -/
def Chip.injectMask (k : Nat) : Nat :=
  if c.rd F.INTEG_INJECT_KIND ≠ 0 && c.rd F.INTEG_INJECT_ADDR = k then
    2 ^ c.rd F.INTEG_INJECT_BIT_A ^^^ (if c.rd F.INTEG_INJECT_KIND = 2 then 2 ^ c.rd F.INTEG_INJECT_BIT_B else 0)
  else 0

theorem Chip.writeStored_poison : (c.writeStored a d p).poison = Tbl.set c.poison (a / 16) p false := by
  obtain ⟨m, hm⟩ := c.wrBytes_eq a (toBytes 16 d)
  unfold Chip.writeStored
  rw [hm]
  dsimp only
  split <;> rfl

theorem Chip.writeStored_upset : (c.writeStored a d p).upset = Tbl.set c.upset (a / 16) (c.injectMask (a / 16)) 0 := by
  obtain ⟨m, hm⟩ := c.wrBytes_eq a (toBytes 16 d)
  unfold Chip.writeStored
  rw [hm]
  dsimp only
  split
  next hon => rw [show c.injectMask (a / 16) = _ from if_pos hon]; rfl
  next hoff => rw [show c.injectMask (a / 16) = _ from if_neg hoff]; rfl

theorem Chip.rdBytes_writeStored_same (hd : d < 2 ^ 128) : (c.writeStored a d p).rdBytes a 16 = d := by
  have hval := c.rdBytes_wrBytes a (toBytes 16 d)
  rw [toBytes_length, ofBytes_toBytes, Nat.mod_eq_of_lt hd] at hval
  exact (Chip.rdBytes_congr fun x _ _ => Chip.rdByte_congr_mem (c.writeStored_mem a d p) x).trans hval

theorem Chip.decodeAt_writeStored_same (hd : d < 2 ^ 128) :
    (c.writeStored a d p).decodeAt a = secdedDecode (secdedEncode d p ^^^ c.injectMask (a / 16)) := by
  rw [Chip.decodeAt_eq, Chip.stored, c.rdBytes_writeStored_same a d p hd, c.writeStored_poison, c.writeStored_upset,
    Tbl.get_set_same, Tbl.get_set_same]

theorem Chip.decodeAt_writeStored_ne {b : Nat} (ha : a % 16 = 0) (hb : b % 16 = 0) (h : b ≠ a) :
    (c.writeStored a d p).decodeAt b = c.decodeAt b := by
  have hword : b / 16 ≠ a / 16 := by omega
  have hbytes : (c.writeStored a d p).rdBytes b 16 = c.rdBytes b 16 := Chip.rdBytes_congr fun x hlo hhi => by
    have hout : x < a ∨ a + (toBytes 16 d).length ≤ x := by
      rw [toBytes_length]
      omega
    rw [Chip.rdByte_congr_mem (c.writeStored_mem a d p), c.rdByte_wrBytes_out a x _ hout]
  rw [Chip.decodeAt_eq, Chip.decodeAt_eq, Chip.stored, Chip.stored, hbytes, c.writeStored_poison, c.writeStored_upset,
    Tbl.get_set_ne _ _ _ _ _ _ hword, Tbl.get_set_ne _ _ _ _ _ _ hword]

end

/-- Settles O52: memory, poison flag and stored errors of the word are set and those of the others stay; the word then reads
as the code decodes it with the bits of an armed injection inverted. -/
theorem storedWordsReadBack : Obligations.StoredWordsReadBack := by
  intro c a d p ha hd
  rw [c.decodeAt_writeStored_same a d p hd]
  refine ⟨fun hoff => ?_, fun hkind haddr hA => ?_, fun hkind haddr hA hB hAB => ?_,
    fun b hb hne => c.decodeAt_writeStored_ne a d p ha hb hne⟩
  · have hmask : c.injectMask (a / 16) = 0 := by
      rcases hoff with hkind | haddr
      · simp [Chip.injectMask, hkind]
      · simp [Chip.injectMask, haddr]
    rw [hmask, Nat.xor_zero, secdedDecode_encode p hd]
  · have hmask : c.injectMask (a / 16) = 2 ^ c.rd F.INTEG_INJECT_BIT_A := by simp [Chip.injectMask, hkind, haddr]
    rw [hmask, secdedDecode_encode_xor p hd hA]
  · have hmask : c.injectMask (a / 16) = 2 ^ c.rd F.INTEG_INJECT_BIT_A ^^^ 2 ^ c.rd F.INTEG_INJECT_BIT_B := by
      simp [Chip.injectMask, hkind, haddr]
    rw [hmask, ← Nat.xor_assoc]
    exact secdedDecode_encode_xor_xor p d hA hB hAB

end Sys2Proof.Machine
end

section
/-! PROOFS. Buckets: one that stays within its threshold (R404). -/
namespace Sys2Proof.Machine

section
variable (c : Chip) (b : Nat)

/-- The level of a bucket after the leak of the millisecond. -/
def Chip.leakedLevel : Nat :=
  if c.integ.ms % max 1 (c.rd F.INTEG_BUCKET_CFG_LEAK_MS b) = 0 then c.rd F.INTEG_BUCKET_STAT_LEVEL b - 1
  else c.rd F.INTEG_BUCKET_STAT_LEVEL b

/-- The level of a bucket after the leak and the weight added in the millisecond. -/
def Chip.raisedLevel : Nat := min 255 (c.leakedLevel b + (Tbl.get c.integ.adds b {}).weight)

theorem Chip.leakedLevel_le : c.leakedLevel b ≤ c.rd F.INTEG_BUCKET_STAT_LEVEL b := by
  unfold Chip.leakedLevel
  split <;> omega

theorem Chip.bucketStep_of_le (h : c.raisedLevel b ≤ c.rd F.INTEG_BUCKET_CFG_THRESHOLD b) :
    c.bucketStep b = c.wr F.INTEG_BUCKET_STAT_LEVEL (c.raisedLevel b) b :=
  if_neg h.not_gt

end

/-- Settles O58: the leak only lowers the level, so leaked level and weight stay within the threshold and the cap of
255. -/
theorem bucketsBelowTheirThreshold : Obligations.BucketsBelowTheirThreshold := by
  intro c b hthr hfits
  have hleak := c.leakedLevel_le b
  have hraised : c.raisedLevel b = c.leakedLevel b + (Tbl.get c.integ.adds b {}).weight := min_eq_right (by omega)
  refine ⟨c.raisedLevel b, c.bucketStep_of_le b (by omega), by omega, fun hms => ?_⟩
  rw [hraised, Chip.leakedLevel, if_neg hms]

end Sys2Proof.Machine
end

section
/-! PROOFS. ALERT_N after every step, and SENS_ALERT (R515). -/
namespace Sys2Proof.Machine

/-! ## ALERT_N after a step -/

theorem step_of_pending_nil {s : State} (h : s.pending = []) : step s = s.run Chip.tickOn := by
  simp only [step, h]

theorem step_of_pending_cons {s : State} {i : Instr} {r : List Instr} (h : s.pending = i :: r) :
    step s = exec i { s with pending := r } := by
  simp only [step, h]

/-- Every step ends in what follows a command at once, the passing of a tick too. -/
theorem step_settles {s t : State} (h : step s = .next t) : ∃ c : Chip, t.chip = c.settle := by
  cases hpending : s.pending with
  | nil =>
    rw [step_of_pending_nil hpending, State.run_next_iff] at h
    exact ⟨_, h.2⟩
  | cons i r =>
    obtain ⟨c, hc⟩ := exec_run i { s with pending := r }
    rw [step_of_pending_cons hpending, hc] at h
    cases h
    exact ⟨c, rfl⟩

/-- The condition of ALERT_N is made of registers and the sensors' state. -/
theorem Chip.alertWanted_congr {c d : Chip} (hregs : c.regs = d.regs) (hsens : c.sens = d.sens) :
    c.alertWanted = d.alertWanted := by
  simp only [Chip.alertWanted, Chip.pllAlert, Chip.mode, Chip.flag, Chip.rd_congr c d hregs, hsens]

theorem Chip.showAlert_alert (c : Chip) : c.showAlert.dev.alert = c.alertWanted := by
  unfold Chip.showAlert
  split
  case isTrue h => exact (beq_iff_eq.1 h).symm
  case isFalse => rfl

theorem Chip.settle_alert (c : Chip) : c.settle.dev.alert = c.settle.alertWanted := by
  rw [Chip.settle, Chip.showAlert_alert]
  exact Chip.alertWanted_congr (Chip.showAlert_regs _).symm (Chip.showAlert_sens _).symm

/-- The invariant of R515: whatever the state before it, a step leaves ALERT_N right. -/
theorem step_alertRight {s t : State} (h : step s = .next t) : t.alertRight := by
  obtain ⟨c, hc⟩ := step_settles h
  rw [State.alertRight, hc]
  exact c.settle_alert

/-! ## The sources -/

section
variable (c : Chip)

theorem Chip.alertWanted_bypass (h : c.mode = mBypass) : c.alertWanted = false := by
  simp [Chip.alertWanted, h]

theorem Chip.alertWanted_iff (h : c.mode ≠ mBypass) :
    c.alertWanted = true ↔ (c.rd F.TIME_STAT_ALARM = 1 ∨ c.rd F.SENS_STAT_THROTTLE = 1 ∨
      c.rd F.CLK_PLL_STAT_LOCK ≠ 0xFFF ∨ c.rd F.CLK_PLL_STAT_LOL_SEEN ≠ 0 ∨ c.sens.avsBad = true ∨
      c.sens.failed ≠ []) := by
  simp [Chip.alertWanted, Chip.pllAlert, Chip.flag, h, or_assoc]

/-! ## SENS_ALERT -/

theorem b2n_mod_two (b : Bool) : b2n b % 2 = b2n b := by
  cases b <;> rfl

@[simp] theorem Chip.rdLive_sensAlertAvs (i j : Nat) : c.rdLive F.SENS_ALERT_AVS i j = b2n c.sens.avsBad :=
  b2n_mod_two _

@[simp] theorem Chip.rdLive_sensAlertSensor (i j : Nat) :
    c.rdLive F.SENS_ALERT_SENSOR i j = b2n !c.sens.failed.isEmpty :=
  b2n_mod_two _

@[simp] theorem Chip.rdLive_sensAlertPll (i j : Nat) : c.rdLive F.SENS_ALERT_PLL i j = b2n c.pllAlert :=
  b2n_mod_two _

@[simp] theorem Chip.rdLive_sensAlertThrottle (i j : Nat) :
    c.rdLive F.SENS_ALERT_THROTTLE i j = c.rd F.SENS_STAT_THROTTLE % 2 :=
  rfl

@[simp] theorem Chip.rdLive_sensAlertTime (i j : Nat) : c.rdLive F.SENS_ALERT_TIME i j = c.rd F.TIME_STAT_ALARM % 2 :=
  rfl

/-- SENS_ALERT shows each source at its place. -/
theorem Chip.regVal_sensAlert :
    c.regVal G.SENS_ALERT.fields 0 0 = b2n c.sens.avsBad * 16 + b2n (!c.sens.failed.isEmpty) * 8 + b2n c.pllAlert * 4
      + c.rd F.SENS_STAT_THROTTLE % 2 * 2 + c.rd F.TIME_STAT_ALARM % 2 := by
  have hsum : c.regVal G.SENS_ALERT.fields 0 0 = c.rdLive F.SENS_ALERT_AVS 0 0 * 16
      + (c.rdLive F.SENS_ALERT_SENSOR 0 0 * 8 + (c.rdLive F.SENS_ALERT_PLL 0 0 * 4
        + (c.rdLive F.SENS_ALERT_THROTTLE 0 0 * 2 + (c.rdLive F.SENS_ALERT_TIME 0 0 * 1 + 0)))) := rfl
  rw [hsum, c.rdLive_sensAlertAvs, c.rdLive_sensAlertSensor, c.rdLive_sensAlertPll, c.rdLive_sensAlertThrottle,
    c.rdLive_sensAlertTime]
  omega

end

/-- Settles O37: every step ends by bringing ALERT_N up to date, which leaves its sources alone; SENS_ALERT is read from the
same sources. -/
theorem alertFollowsItsSources : Obligations.AlertFollowsItsSources := by
  intro s t h
  have halert : t.chip.dev.alert = t.chip.alertWanted := step_alertRight h
  rw [halert]
  exact ⟨t.chip.alertWanted_bypass, t.chip.alertWanted_iff, t.chip.regVal_sensAlert⟩

end Sys2Proof.Machine
end

section
/-! PROOFS. What a command answers: the state its effect leaves, under the guard of the register it writes (R16). The
completion statements are assembled from these. -/
namespace Sys2Proof.Machine

@[simp] theorem Chip.when_true (c : Chip) (f : Chip → Chip) : c.when true f = f c := rfl

@[simp] theorem Chip.when_false (c : Chip) (f : Chip → Chip) : c.when false f = c := rfl

theorem Chip.when_self (c : Chip) (b : Bool) {f : Chip → Chip} (h : f c = c) : c.when b f = c := by
  cases b
  · rfl
  · exact h

/-- A command whose effect turns the chip into `d` answers the state with `d`. -/
theorem State.run_to {s : State} {f : Chip → Chip} {d : Chip} (h : f s.chip = d) : s.run f = .next (s.to d) :=
  congrArg (fun c => Host.Outcome.next (s.to c)) h

theorem State.may_iff {s : State} {p : Port} {m : Nat} :
    s.may p m = true ↔ s.chip.modeIn m = true ∧ s.chip.reachesAll p = true := Bool.and_eq_true_iff

theorem State.mayFn_iff {s : State} {p : Port} {f m : Nat} :
    s.mayFn p f m = true ↔ s.chip.modeIn m = true ∧ s.chip.reachesFn p f = true := Bool.and_eq_true_iff

/-- The write of an action bit that its register admits has the action's effect and is answered OK. -/
theorem State.run_action {s : State} {p : Port} {m : Nat} {f : Chip → Chip} {d : Chip} (h : s.may p m = true)
    (hf : f s.chip = d) : (s.run fun c => c.action p m f) = .next (s.to (d.report p .ok)) := by
  obtain ⟨hmode, hreach⟩ := State.may_iff.1 h
  exact State.run_to ((s.chip.action_allowed p m f hmode hreach).trans (congrArg (·.report p .ok) hf))

/-- A write that its register admits has its effect. -/
theorem State.run_guarded {s : State} {p : Port} {m : Nat} {f : Chip → Chip} {d : Chip} (h : s.may p m = true)
    (hf : f s.chip = d) : (s.run fun c => c.guarded p m f) = .next (s.to d) := by
  obtain ⟨hmode, hreach⟩ := State.may_iff.1 h
  exact State.run_to ((s.chip.guarded_allowed p m f hmode hreach).trans hf)

/-- A write in a function's page that its register admits has its effect. -/
theorem State.run_guardedFn {s : State} {p : Port} {fn m : Nat} {f : Chip → Chip} {d : Chip} (h : s.mayFn p fn m = true)
    (hf : f s.chip = d) : (s.run fun c => c.guardedFn p fn m f) = .next (s.to d) := by
  obtain ⟨hmode, hreach⟩ := State.mayFn_iff.1 h
  exact State.run_to ((s.chip.guardedFn_allowed p fn m f hmode hreach).trans hf)

/-- A stage whose accesses meet memory that is awake has its effect at once (R38). -/
theorem State.stage_to {s : State} {f : Chip → Chip} {d : Chip} (h : s.chip.awake = true) (hf : f s.chip = d)
    (hd : d.awake = true) : s.stage f = .next (s.to d) := by
  subst hf
  exact stage_awake s f h hd

end Sys2Proof.Machine
end

section
/-! PROOFS. The queue of commands (log entry 2), and the state after reset (R50, R75, R364). -/
namespace Sys2Proof.Machine

/-- Settles O35: both are the two arms of `step`. -/
theorem stepRunsFrontCommand : Obligations.StepRunsFrontCommand :=
  ⟨fun _ _ _ h => step_of_pending_cons h, fun _ h => step_of_pending_nil h⟩

/-- Settles O36: every command answers a state with the queue it was given, and a step gives it the tail. -/
theorem everyStepAnswers : Obligations.EveryStepAnswers := by
  intro s
  cases hpending : s.pending with
  | nil => exact ⟨s.to s.chip.tickOn, step_of_pending_nil hpending, hpending⟩
  | cons i r =>
    obtain ⟨c, hc⟩ := exec_run i { s with pending := r }
    exact ⟨_, (step_of_pending_cons hpending).trans hc, rfl⟩

/-- Settles O38: at reset the mode is BYPASS, in which ALERT_N is released. -/
theorem alertRightAtReset : Obligations.AlertRightAtReset :=
  (State.reset.chip.alertWanted_bypass (by decide)).symm

/-! ## The state after reset -/

theorem reset_regs : State.reset.chip.regs = [(F.DEV_RESET_CAUSE_POR.key 0 0, 1)] := rfl

theorem rd_reset_of_ne (f : Fld) (i j : Nat) (h : f.key i j ≠ F.DEV_RESET_CAUSE_POR.key 0 0) :
    State.reset.chip.rd f i j = f.reset i j := by
  rw [Chip.rd, reset_regs, Tbl.get, if_neg h, Tbl.get]

theorem rd_reset_of_id_ne (f : Fld) (i j : Nat) (h : f.id ≠ F.DEV_RESET_CAUSE_POR.id) :
    State.reset.chip.rd f i j = f.reset i j :=
  rd_reset_of_ne f i j (Fld.key_ne_of_id f _ i j 0 0 h)

/-- Settles O39: the only register field that is listed is the power-on cause, and no byte is. -/
theorem resetState : Obligations.ResetState :=
  ⟨rfl, rd_reset_of_id_ne _ 0 0 (by decide), by decide, rd_reset_of_ne, fun _ => rfl, rfl,
    fun r q => ⟨rd_reset_of_id_ne _ r q (by decide), rd_reset_of_id_ne _ r q (by decide)⟩,
    rd_reset_of_id_ne _ 0 0 (by decide)⟩

end Sys2Proof.Machine
end

section
/-! PROOFS. Writing words keeps memory in canonical form (log entry 5), events on the host's rings included (R95). -/
namespace Sys2Proof.Machine

variable (c : Chip)

/-! ## Events -/

@[simp] theorem Chip.fireVector_mem (f v : Nat) : (c.fireVector f v).mem = c.mem := by
  unfold Chip.fireVector
  dsimp only
  split <;> rfl

@[simp] theorem Chip.coalesce_mem (f r : Nat) : (c.coalesce f r).mem = c.mem := by
  unfold Chip.coalesce
  dsimp only
  split
  · rw [Chip.fireVector_mem]
    rfl
  · rfl

theorem Chip.writeEntry_wf (f r w0 w1 : Nat) (h : Memory.wf c.mem = true) : Memory.wf (c.writeEntry f r w0 w1).mem = true :=
  c.hostWrite_wf _ _ h

theorem Chip.postLost_wf (f : Nat) (h : Memory.wf c.mem = true) : Memory.wf (c.postLost f).mem = true := by
  unfold Chip.postLost
  dsimp only
  split
  · rw [Chip.coalesce_mem]
    exact c.writeEntry_wf _ _ _ _ h
  · exact h

theorem Chip.postTick_wf (f : Nat) (st : Status) (src type tick detail detail2 : Nat) (h : Memory.wf c.mem = true) :
    Memory.wf (c.postTick f st src type tick detail detail2).mem = true := by
  have hlost := c.postLost_wf f h
  unfold Chip.postTick
  dsimp only
  split
  · exact h
  · split
    · rw [Chip.coalesce_mem]
      exact Chip.writeEntry_wf _ _ _ _ _ hlost
    · exact hlost

theorem Chip.hostPoison_wf (bus : Nat) (p : Bool) (h : Memory.wf c.mem = true) :
    Memory.wf (c.hostPoison bus p).mem = true := by
  cases p
  · exact h
  · rw [Chip.hostPoison, Chip.when, if_pos rfl, Chip.emit_mem, Chip.postPoison, Chip.post, Chip.postTo]
    exact c.postTick_wf _ _ _ _ _ _ _ h

/-! ## Words -/

variable (w : Who)

theorem Chip.writeWord_wf (addr d : Nat) (p : Bool) (h : Memory.wf c.mem = true) :
    Memory.wf (c.writeWord w addr d p).1.mem = true := by
  by_cases hs : c.accessStatus w addr = .ok
  · unfold Chip.writeWord
    rw [hs]
    dsimp only
    split
    · split
      · exact h
      · exact Chip.wrBytes_wf _ _ _ (c.hostPoison_wf _ p h)
    · rw [Chip.writeStored_mem]
      refine Chip.wrBytes_wf _ _ _ ?_
      rw [(Chip.sameStore_trans (Chip.sameStore_trans (c.sameStore_wakeFor _) (Chip.sameStore_retWake _ _))
        (Chip.sameStore_fillWait _ _)).1]
      exact h
  · rw [c.writeWord_refused w addr d p hs, (c.sameStore_countRefusal _).1]
    exact h

theorem Chip.writeWords_wf (addr : Nat) (ds : List Nat) (p : Bool) (h : Memory.wf c.mem = true) :
    Memory.wf (c.writeWords w addr ds p).1.mem = true := by
  induction ds generalizing c addr with
  | nil => exact h
  | cons d r ih => exact ih _ _ (c.writeWord_wf w addr d p h)

/-- Settles O53: what a write of words does to memory is to store bytes, and its events are stored bytes too. -/
theorem writesKeepMemoryCanonical : Obligations.WritesKeepMemoryCanonical := by
  intro c h
  refine ⟨fun w addr d p => c.writeWord_wf w addr d p h, fun w addr ds p => c.writeWords_wf w addr ds p h,
    fun w addr n d p => ?_⟩
  refine List.foldlRecOn (motive := fun a : Chip × Status => Memory.wf a.1.mem = true) _ _ h fun a ha k _ => ?_
  dsimp only
  split
  · exact a.1.writeWord_wf w _ _ _ ha
  · exact ha

end Sys2Proof.Machine
end

section
/-! PROOFS. The commands that store nothing in any memory: each effect is made of updates that leave the memories alone. -/
namespace Sys2Proof.Machine

variable (c : Chip)

theorem Chip.sameStore_clrAction (p : Port) (m : Nat) (fs : List Fld) (i j : Nat) :
    c.sameStore (c.action p m (·.clrFields fs i j)) :=
  c.sameStore_action p m _ fun c => c.sameStore_clrFields fs i j

/-! ## Scheduler -/

theorem Chip.sameStore_sqDoorbell (n count : Nat) : c.sameStore (c.sqDoorbell n count) := by
  unfold Chip.sqDoorbell
  dsimp only
  split_ifs <;> exact ⟨rfl, rfl, rfl⟩

theorem Chip.sameStore_sqCfg (n v : Nat) : c.sameStore (c.sqCfg n v).1 := by
  unfold Chip.sqCfg
  dsimp only
  split_ifs <;> exact ⟨rfl, rfl, rfl⟩

/-! ## Fabric and memory -/

theorem Chip.sameStore_copyRoutes : c.sameStore c.copyRoutes :=
  c.sameStore_foldl _ (fun c _ => c.sameStore_foldl _ (fun c _ => c.sameStore_wr _ _ _ _) _) _

theorem Chip.sameStore_routeChange (p : Port) (gen : Nat) : c.sameStore (c.routeChange p gen) := by
  refine c.sameStore_guarded p _ _ fun c => ?_
  split_ifs
  · exact c.sameStore_report _ _
  · exact c.sameStore_report _ _
  · exact Chip.sameStore_trans ⟨rfl, rfl, rfl⟩ (Chip.sameStore_report _ _ _)
  · exact Chip.sameStore_trans (c.sameStore_wr _ _ _ _) (Chip.sameStore_report _ _ _)

theorem Chip.sameStore_routeDrained : c.sameStore c.routeDrained := by
  unfold Chip.routeDrained
  split
  · exact c.sameStore_refl
  · refine Chip.sameStore_trans c.sameStore_copyRoutes ?_
    generalize c.copyRoutes = d
    exact ⟨rfl, rfl, rfl⟩

theorem Chip.sameStore_routeTimeout : c.sameStore c.routeTimeout := by
  unfold Chip.routeTimeout
  split <;> exact ⟨rfl, rfl, rfl⟩

theorem Chip.sameStore_fabReadmit (p : Port) (port : Nat) : c.sameStore (c.fabReadmit p port) := by
  refine c.sameStore_action p _ _ fun c => ?_
  dsimp only
  split
  · exact ⟨rfl, rfl, rfl⟩
  · exact Chip.sameStore_trans (c.sameStore_wr _ _ _ _) (Chip.sameStore_w1sStart _ _ _ _ _ Chip.sameStore_refl)

theorem Chip.sameStore_fabProbe (ok : Bool) : c.sameStore (c.fabProbe ok) := by
  unfold Chip.fabProbe
  refine c.sameStore_ite _ _ _ (fun _ => c.sameStore_refl) fun _ => ?_
  refine Chip.sameStore_trans ?_ (Chip.sameStore_w1sEnd _ _ _ _ _ Chip.sameStore_refl)
  split <;> exact ⟨rfl, rfl, rfl⟩

theorem Chip.sameStore_bankHandover (p : Port) (n b v : Nat) : c.sameStore (c.bankHandover p n b v) := by
  refine c.sameStore_guarded p _ _ fun c => ?_
  dsimp only
  split
  · exact ⟨rfl, rfl, rfl⟩
  · exact Chip.sameStore_trans ⟨rfl, rfl, rfl⟩ (Chip.sameStore_report _ _ _)

/-! ## Integrity -/

theorem Chip.sameStore_injectArm (p : Port) (v : Nat) : c.sameStore (c.injectArm p v) := by
  refine c.sameStore_guarded p _ _ fun c => ?_
  dsimp only
  split
  · exact c.sameStore_report _ _
  · exact Chip.sameStore_trans ⟨rfl, rfl, rfl⟩ (Chip.sameStore_report _ _ _)

theorem Chip.sameStore_integClear : c.sameStore c.integClear :=
  Chip.sameStore_trans (c.sameStore_foldl _ (fun c b => c.sameStore_clrFields _ b 0) _) (Chip.sameStore_clrFields _ _ _ _)

theorem Chip.sameStore_tmrFix (w : Nat) : c.sameStore (c.tmrFix w) := ⟨rfl, rfl, rfl⟩

theorem Chip.sameStore_patrolPeriod : c.sameStore c.patrolPeriod :=
  c.sameStore_ite _ _ _ (fun _ => ⟨rfl, rfl, rfl⟩) fun _ => ⟨rfl, rfl, rfl⟩

/-! ## Frames -/

theorem Chip.sameStore_commitApply (n : Nat) : c.sameStore (c.commitApply n) := by
  unfold Chip.commitApply
  split
  · exact c.sameStore_ite _ _ _ (fun _ => ⟨rfl, rfl, rfl⟩) fun _ => c.sameStore_refl
  · exact c.sameStore_refl

theorem Chip.sameStore_frameBegin (sfn : Nat) : c.sameStore (c.frameBegin sfn) := by
  refine Chip.sameStore_trans ?_ (Chip.sameStore_foldl _ _ Chip.sameStore_commitApply _)
  exact Chip.sameStore_trans (Chip.sameStore_trans (b := ((c.wr F.TIME_FRAME_STAT_SFN sfn).withAch _).withTime _)
    ⟨rfl, rfl, rfl⟩ (Chip.sameStore_when _ _ _ ⟨rfl, rfl, rfl⟩)) ⟨rfl, rfl, rfl⟩

/-! ## All of them -/

/-- Each of these commands has an effect that leaves the memories alone, by cases on the command. -/
theorem exec_storesNothing (i : Instr) (s : State) (h : i.storesNothing = true) :
    ∃ c : Chip, exec i s = .next (s.to c) ∧ s.chip.sameStore c := by
  cases i
  all_goals cases h
  case ecvCntClr | achCntClr | aeCntClr | calCntClr | cluCcCntClr | memCntClr | plrCntClr =>
    exact ⟨_, rfl, s.chip.sameStore_clrAction _ _ _ _ _⟩
  case modePendCntClr | domPendCntClr | relRdWrite => exact ⟨_, rfl, s.chip.sameStore_action _ _ _ fun c => ⟨rfl, rfl, rfl⟩⟩
  case brCntClr =>
    exact ⟨_, rfl, s.chip.sameStore_action _ _ _ fun c =>
      c.sameStore_foldl _ (fun c n => c.sameStore_clrFields _ n 0) _⟩
  case aeJdCntClr =>
    exact ⟨_, rfl, s.chip.sameStore_action _ _ _ fun c =>
      c.sameStore_foldl _ (fun c n => c.sameStore_clrFields _ n 0) _⟩
  case codeCntClr =>
    exact ⟨_, rfl, s.chip.sameStore_action _ _ _ fun c =>
      Chip.sameStore_trans (c.sameStore_foldl _ (fun c n => c.sameStore_clrFields _ n 0) _) (Chip.sameStore_clrFields _ _ _ _)⟩
  case aeResInject | harqFlush =>
    exact ⟨_, rfl, s.chip.sameStore_action _ _ _ fun c => c.sameStore_w1sStart _ _ _ _ Chip.sameStore_refl⟩
  case sqDoorbell => exact ⟨_, rfl, s.chip.sameStore_action _ _ _ fun c => c.sameStore_sqDoorbell _ _⟩
  case sqCfgWrite =>
    exact ⟨_, rfl, s.chip.sameStore_guarded _ _ _ fun c =>
      Chip.sameStore_trans (c.sameStore_sqCfg _ _) (Chip.sameStore_report _ _ _)⟩
  case bundleLoad =>
    exact ⟨_, rfl, s.chip.sameStore_guarded _ _ _ fun c => c.sameStore_ite _ _ _ (fun _ => c.sameStore_report _ _)
      fun _ => Chip.sameStore_trans ⟨rfl, rfl, rfl⟩ (Chip.sameStore_report _ _ _)⟩
  case clSubmit =>
    exact ⟨_, rfl, s.chip.sameStore_action _ _ _ fun c =>
      c.sameStore_ite _ _ _ (fun _ => ⟨rfl, rfl, rfl⟩) fun _ => ⟨rfl, rfl, rfl⟩⟩
  case clCancel | shedStageClrWrite | newNonce =>
    exact ⟨_, rfl, s.chip.sameStore_action _ _ _ fun c => ⟨rfl, rfl, rfl⟩⟩
  case routeChange => exact ⟨_, rfl, s.chip.sameStore_routeChange _ _⟩
  case routeDrainComplete => exact ⟨_, rfl, s.chip.sameStore_routeDrained⟩
  case routeChangeTimeout => exact ⟨_, rfl, s.chip.sameStore_routeTimeout⟩
  case fabReadmit => exact ⟨_, rfl, s.chip.sameStore_fabReadmit _ _⟩
  case fabProbeResult => exact ⟨_, rfl, s.chip.sameStore_fabProbe _⟩
  case bankHandover => exact ⟨_, rfl, s.chip.sameStore_bankHandover _ _ _ _⟩
  case integInjectArm => exact ⟨_, rfl, s.chip.sameStore_injectArm _ _⟩
  case integCntClr => exact ⟨_, rfl, s.chip.sameStore_action _ _ _ Chip.sameStore_integClear⟩
  case tmrCheck =>
    exact ⟨_, rfl, s.chip.sameStore_ite _ _ _ (fun _ => s.chip.sameStore_refl)
      fun _ => s.chip.sameStore_foldl _ (fun c _ => c.sameStore_tmrFix _) _⟩
  case patrolPeriodStart => exact ⟨_, rfl, s.chip.sameStore_patrolPeriod⟩
  case frameBoundary =>
    refine ⟨_, rfl, ?_⟩
    dsimp only
    split
    · exact s.chip.sameStore_frameBegin _
    · exact s.chip.sameStore_refl

/-- Settles O56: the effect leaves the memories alone, and so does what follows every command. -/
theorem controlCommandsStoreNothing : Obligations.ControlCommandsStoreNothing := by
  intro i s t hi hexec
  obtain ⟨c, hc, hstore⟩ := exec_storesNothing i s hi
  obtain rfl : s.to c = t := Host.Outcome.next.inj (hc.symm.trans hexec)
  have hsame : s.chip.sameStore (s.to c).chip := Chip.sameStore_trans hstore c.sameStore_settle
  exact ⟨Chip.sameStore_rdByte hsame, hsame.2⟩

end Sys2Proof.Machine
end

section
/-! PROOFS. The commands of the memories (R377, R378, R387, R390) and the stages of a unit (R38). -/
namespace Sys2Proof.Machine

variable (c : Chip)

/-- Nothing is noted, so there is nothing to forget. -/
theorem Chip.noneAsleep_of_awake (h : c.awake = true) : c.noneAsleep = c := by
  rw [Chip.awake, List.isEmpty_iff] at h
  rw [Chip.noneAsleep, h]

/-- A handover that passes its checks waits for its bank (R377). -/
theorem State.run_bankHandover {s : State} {p : Port} {v : Nat} (n b : Nat) (owner : Nat) (hmay : s.may p 0xFE = true)
    (howner : (if bit v 40 then bits v 26 16 else bits v 10 0) = owner)
    (hst : s.chip.handoverStatus n b (bit v 40) (bits v 58 48) owner = .ok) :
    (s.run fun c => c.bankHandover p n b v) = .next (s.to (s.chip.withMems { s.chip.mems with
      handovers := s.chip.mems.handovers ++ [⟨n, b, bit v 40, owner, p⟩] })) := by
  subst howner
  exact State.run_guarded hmay (by simp only [hst])

/-- A retention request written for `cluster` (none: the pool) sets the request bits, and what is no longer asked to
retain begins to leave (R387). -/
theorem State.run_retWrite {s : State} {p : Port} {cluster : Option Nat} {v : Nat} {d : Chip} (hmay : s.may p 0xFE = true)
    (hd : (match cluster with
      | some n => s.chip.wr F.MEM_CLU_RET_REQ (v % 2 ^ 32) n
      | none => s.chip.wr F.MEM_POOL_RET_REQ (v % 2 ^ 64)) = d) :
    (s.run fun c => c.retWrite p cluster v) = .next (s.to (((retIndices cluster).foldl Chip.retLeave d).report p .ok)) := by
  subst hd
  exact State.run_guarded hmay rfl

/-- Settles O2: each command's effect, by the case that its state and operands select. -/
theorem memoryCommandsComplete : Obligations.MemoryCommandsComplete := by
  refine ⟨fun s p n b v hmay hport hst => ?_, fun s p n b v hmay hport hst => ?_, fun s h r hh => ?_,
    fun s p n v hmay hn => ?_, fun s p v hmay => ?_, fun s k hon hreq => ?_, fun s k hph => ?_, fun s k hph => ?_,
    fun s p hmay => State.run_action hmay rfl, fun s x r hfill => ?_, fun s f hs => ⟨stage_awake s f hs, fun hf => ?_⟩⟩
  · rw [← hport] at hst ⊢
    exact State.run_bankHandover n b _ hmay (by simp [hport]) hst
  · rw [← hport] at hst ⊢
    exact State.run_bankHandover n b _ hmay (by simp [hport]) hst
  · change execHandoverApply s = _
    exact State.run_to (by simp only [Chip.handoverApply, hh])
  · change execRetRequestWrite p n v s = _
    rw [execRetRequestWrite, if_pos hn]
    exact State.run_retWrite hmay rfl
  · change execRetRequestWrite p 16 v s = _
    exact State.run_retWrite hmay rfl
  · change execBankRetainEnter k s = _
    exact State.run_to (by simp [Chip.retEnter, hon, hreq])
  · change execBankRetainDone k s = _
    exact State.run_to (by simp only [Chip.retDone, hph])
  · change execBankRetainDone k s = _
    exact State.run_to (by simp only [Chip.retDone, hph])
  · change execHbmFillComplete s = _
    exact State.run_to (by simp only [hfill])
  · rw [← s.chip.noneAsleep_of_awake hs] at hf ⊢
    rw [stage_held s f (by rwa [s.chip.noneAsleep_of_awake hs] at hf ⊢), s.chip.noneAsleep_of_awake hs]

end Sys2Proof.Machine
end

section
/-! PROOFS. The Darner, the triplicated words, the buckets and injection (R397, R398, R401, R404, R411). -/
namespace Sys2Proof.Machine

variable (c : Chip)

/-! ## The patrol (R397, R398) -/

theorem Chip.patrolRead_runs (hrun : c.darnerRuns = true) (hen : c.flag F.INTEG_CTRL_DARNER_EN = true)
    (hwait : c.integ.patrolWait = false) : c.patrolRead =
      let d := c.patrolVisit c.integ.patrolPos
      if d.integ.patrolPos + 1 < patrolWords then d.withInteg { d.integ with patrolPos := d.integ.patrolPos + 1 }
      else
        let e := (d.incMod F.INTEG_DARNER_STAT_PASSES).wr F.INTEG_DARNER_STAT_LAG 0
        e.withInteg { e.integ with patrolPos := 0, patrolWait := !d.flag F.INTEG_DARNER_STAT_LAG } := by
  simp [Chip.patrolRead, hrun, hen, hwait]

/-- A word of memory that is not reached, or that holds no error, is left as it is. -/
theorem Chip.patrolVisit_clean {n : Nat} (hn : n < patrolMem)
    (h : c.patrolReads (patrolAddr n) = false ∨ (c.decodeAt (patrolAddr n)).found = .clean) : c.patrolVisit n = c := by
  rw [Chip.patrolVisit, if_pos hn]
  rcases h with h | h
  · rw [Chip.patrolAt, h, Chip.when_false]
  · exact c.when_self _ (by simp [Chip.countError, Chip.rewrite, h])

/-! ## Injection (R411) -/

/-- The registers of an armed injection. -/
theorem State.run_injectArm {s : State} {p : Port} {v kind : Nat} (hmay : s.may p 0xFE = true) (hkind : bits v 1 0 = kind)
    (hbad : (decide (kind = 3) || (kind ≠ 0 && (137 < bits v 55 48 || !onDevice (bits v 47 4 * 16)))
      || (kind = 2 && (137 < bits v 63 56 || bits v 55 48 = bits v 63 56))) = false) :
    (s.run fun c => c.injectArm p v) = .next (s.to (((((s.chip.wr F.INTEG_INJECT_KIND kind).wr F.INTEG_INJECT_BIT_A
      (bits v 55 48)).wr F.INTEG_INJECT_BIT_B (bits v 63 56)).wr F.INTEG_INJECT_ADDR (bits v 47 4)).report p .ok)) := by
  subst hkind
  exact State.run_guarded hmay (if_neg (by simpa using hbad))

/-- Settles O3: each command's effect, by the case that its state and operands select. -/
theorem integrityCommandsComplete : Obligations.IntegrityCommandsComplete := by
  refine ⟨fun s b a r hrun hen hq => ?_, fun s hrun hen hwait => ?_, fun s hrun hen hwait hpos hclean => ?_,
    fun s hrun hen => ⟨fun hwait => ?_, fun hwait => ?_⟩, fun s l hmode => ?_, fun s => ?_,
    fun s p v hmay hkind ha hdev => ?_, fun s p v hmay hkind ha hb hab hdev => ?_, fun s p v hmay hkind => ?_,
    fun s p hmay => State.run_action hmay rfl⟩
  · change execDarnerRepair b s = _
    exact State.run_to (by simp [Chip.darnerRepair, hrun, hen, hq])
  · change execPatrolRead s = _
    exact State.run_to (s.chip.patrolRead_runs hrun hen hwait)
  · change execPatrolRead s = _
    have hin : s.chip.integ.patrolPos + 1 < patrolWords := Nat.lt_of_le_of_lt hpos (by decide)
    refine State.run_to ((s.chip.patrolRead_runs hrun hen hwait).trans ?_)
    rw [s.chip.patrolVisit_clean hpos hclean]
    exact if_pos hin
  · change execPatrolPeriodStart s = _
    exact State.run_to (by simp [Chip.patrolPeriod, hwait])
  · change execPatrolPeriodStart s = _
    exact State.run_to (by simp [Chip.patrolPeriod, hwait])
  · change execTmrCheck l s = _
    exact State.run_to (if_neg hmode)
  · change execBucketUpdate s = _
    rw [execBucketUpdate, State.run_eq, State.to]
  · change execIntegInjectArm p v s = _
    exact State.run_injectArm hmay hkind (by simp [ha, hdev])
  · change execIntegInjectArm p v s = _
    exact State.run_injectArm hmay hkind (by simp [ha, hb, hab, hdev])
  · change execIntegInjectArm p v s = _
    exact State.run_injectArm hmay hkind (by simp)

end Sys2Proof.Machine
end

section
/-! PROOFS. The scheduler: tasks, bundles, the Clothesline (R326–R348). -/
namespace Sys2Proof.Machine

variable (c : Chip)

theorem Chip.awake_congr {c d : Chip} (h : d.mems = c.mems) : d.awake = c.awake := by
  rw [Chip.awake, Chip.awake, h]

/-! ## Acceptance (R326, R327, R332) -/

/-- The entry of an accepted descriptor whose second word is not poisoned. -/
def Chip.acceptedTask (w0 w1 : Nat) : Task :=
  let dep := if bit w0 22 then some (bits w0 47 36, bits w0 63 48) else none
  let st := c.acceptStatus w0 w1 false
  { id := c.sched.nextId, flow := bits w0 35 24, seq := c.rd F.SCHED_FLOW_STAT_NEXT_SEQ (bits w0 35 24),
    prio := bits w0 15 12, target := bits w0 10 0, deadline := if bit w0 20 then some (bits w0 95 64) else none,
    record := bit w0 21, dep := dep, arg := bits w1 63 0, tag := bits w1 79 64,
    state := if st != .ok then .done else if c.depMet dep then .ready else .waiting, status := st }

/-- A descriptor of an enabled flow without poisoned words gets a task entry, a sequence number and a place among those
outstanding. -/
theorem Chip.accept_clean {w0 w1 : Nat} (addr : Nat) (hen : c.flag F.SCHED_FLOW_CFG_EN (bits w0 35 24) = true) :
    (c.accept w0 w1 false false addr).1 = ((c.withSched { c.sched with
      tasks := c.sched.tasks ++ [c.acceptedTask w0 w1]
      nextId := c.sched.nextId + 1 }).incMod F.SCHED_FLOW_STAT_NEXT_SEQ (bits w0 35 24)).incMod F.SCHED_FLOW_STAT_OUT
        (bits w0 35 24) := by
  simp only [Chip.accept, hen]
  rfl

/-- The two words of a descriptor, both read without poison. -/
theorem Chip.acceptAt_clean {c0 d : Chip} {x y : WordRead} {addr : Nat} (hx : c.readWord .fabric addr = (c0, x))
    (hy : c0.readWord .fabric (addr + 16) = (d, y)) (hxp : x.poison = false) (hxs : x.status = .ok)
    (hyp : y.poison = false) (hys : y.status = .ok) :
    c.acceptAt addr = d.accept x.data y.data false false addr := by
  simp [Chip.acceptAt, hx, hy, hxp, hxs, hyp, hys]

/-! ## Submission rings (R331) -/

section
variable {c} {n count : Nat} (hen : c.flag F.SCHED_SQ_CFG_EN n = true) (hrun : c.flag F.SCHED_SQ_PTR_HALTED n = false)
include hen hrun

theorem Chip.sqDoorbell_fits (hroom : cntSub count (c.sq n).2 ≤ 2 ^ c.rd F.SCHED_SQ_CFG_LOG2 n)
    (hfwd : cntSub count (c.sq n).1 < 2 ^ 31) : c.sqDoorbell n count = c.setSq n (count, (c.sq n).2) := by
  simp [Chip.sqDoorbell, hen, hrun, hroom, hfwd, -Nat.reducePow]

theorem Chip.sqDoorbell_overrun (hover : 2 ^ c.rd F.SCHED_SQ_CFG_LOG2 n < cntSub count (c.sq n).2) :
    c.sqDoorbell n count = c.wr F.SCHED_SQ_PTR_HALTED 1 n := by
  simp [Chip.sqDoorbell, hen, hrun, hover.not_ge]

/-- The next descriptor of a ring is accepted above RESERVE where its flow has room. -/
theorem Chip.sqRead_accepts {a : Nat} {d : Chip} {x : WordRead}
    (ha : a = c.rd F.SCHED_SQ_CFG_BASE n * 32 + (c.sq n).2 % 2 ^ c.rd F.SCHED_SQ_CFG_LOG2 n * 32)
    (hx : c.readWord .fabric a = (d, x)) (hmode : c.modeIn modesRun = true) (hsome : (c.sq n).1 ≠ (c.sq n).2)
    (hfree : min 8192 (c.rd F.SCHED_CFG_RESERVE) < c.freeEntries)
    (hroom : c.rd F.SCHED_FLOW_STAT_OUT (bits x.data 35 24) < c.maxOut (bits x.data 35 24)) :
    c.sqRead n = (c.acceptAt a).1.setSq n ((c.sq n).1, ((c.sq n).2 + 1) % 2 ^ 32) := by
  subst ha
  simp only [Chip.sqRead, hx, hmode, hen, hrun, hsome, hfree.not_ge, hroom.not_ge]
  simp

end

theorem Chip.sqCfg_opens {n v : Nat} (hoff : c.flag F.SCHED_SQ_CFG_EN n = false)
    (hv : F.SCHED_SQ_CFG_EN.of v = 0 ∨ (4 ≤ F.SCHED_SQ_CFG_LOG2.of v ∧ F.SCHED_SQ_CFG_LOG2.of v ≤ 12)) :
    c.sqCfg n v = (((c.wr F.SCHED_SQ_CFG_BASE (F.SCHED_SQ_CFG_BASE.of v) n).wr F.SCHED_SQ_CFG_LOG2
      (F.SCHED_SQ_CFG_LOG2.of v) n).wr F.SCHED_SQ_CFG_EN (F.SCHED_SQ_CFG_EN.of v) n, .ok) := by
  have hok : (decide (F.SCHED_SQ_CFG_EN.of v = 1) && (decide (F.SCHED_SQ_CFG_LOG2.of v < 4)
      || decide (12 < F.SCHED_SQ_CFG_LOG2.of v))) = false := by
    rcases hv with hv | ⟨hlo, hhi⟩
    · simp [hv]
    · simp [hlo.not_gt, hhi.not_gt]
  simp [Chip.sqCfg, hoff, hok]

theorem Chip.sqCfg_closes {n v : Nat} (hon : c.flag F.SCHED_SQ_CFG_EN n = true) (hen : F.SCHED_SQ_CFG_EN.of v = 0)
    (hlog : F.SCHED_SQ_CFG_LOG2.of v = c.rd F.SCHED_SQ_CFG_LOG2 n)
    (hbase : F.SCHED_SQ_CFG_BASE.of v = c.rd F.SCHED_SQ_CFG_BASE n) :
    c.sqCfg n v = (((c.wr F.SCHED_SQ_CFG_EN 0 n).wr F.SCHED_SQ_PTR_HALTED 0 n).setSq n (0, 0), .ok) := by
  simp [Chip.sqCfg, hon, hen, hlog, hbase]

/-- The configuration of a ring is answered with the status it gives. -/
theorem State.run_sqCfg {s : State} {p : Port} {n v : Nat} {d : Chip} (hmay : s.may p 0xFE = true)
    (h : s.chip.sqCfg n v = (d, .ok)) :
    (s.run fun c => c.guarded p modesAll fun c => (c.sqCfg n v).1.report p (c.sqCfg n v).2) =
      .next (s.to (d.report p .ok)) :=
  State.run_guarded hmay (by rw [h])

/-! ## Dispatch, completion, release (R334, R336, R339, R342) -/

theorem Chip.dispatch_places {t : Task} {d : Chip} {u : Nat} (ht : c.nextTask = some t)
    (hu : c.leafOf t.flow c.depth t.target = (d, some u)) : c.dispatch = d.placeTask t u := by
  simp only [Chip.dispatch, ht, hu]

theorem Chip.placeTask_unlocked (t : Task) {u : Nat} (h : c.domLocked (c.unitDom u) = false) :
    c.placeTask t u =
      let d := c.putTask { t with state := .held u c.sched.nextOrd, unit := u }
      let e := d.withSched { d.sched with nextOrd := d.sched.nextOrd + 1 }
      ((e.when (e.domState (c.unitDom u) != dOn) (·.hwWake (c.unitDom u))).when
        (decide (u < 256) && (c.currentTask u).isSome) (·.engIrq u 1)).when (decide (0x120 ≤ u))
          (·.portOffer (u - 0x120) t) := by
  simp [Chip.placeTask, h]

theorem Chip.taskDone_in_time (t : Task) (st : Status) (h : c.deadlinePassed t.deadline = false) :
    c.taskDone t st = c.putTask { t with state := .done, status := st, ran := true } := by
  simp [Chip.taskDone, Chip.taskEnd, h]

theorem Chip.deadlineTask_waiting {t : Task} (h : t.state = .ready ∨ t.state = .waiting) :
    c.deadlineTask t = c.tombstone t .deadlineMissed := by
  rcases h with h | h <;> simp only [Chip.deadlineTask, h]

/-- The release of an item once its record has been written. -/
def Chip.recorded (c : Chip) (flow : Nat) (t : Task) : Chip :=
  let c := c.incMod F.SCHED_FLOW_STAT_REL_NEXT flow
  let c := c.withSched { c.sched with tasks := c.sched.tasks.filter (·.id != t.id) }
  let c := c.wr F.SCHED_FLOW_STAT_OUT (c.rd F.SCHED_FLOW_STAT_OUT flow - 1) flow
  let c := c.when (c.rd F.SCHED_FLOW_STAT_OUT flow == 0) fun c =>
    c.withSched { c.sched with bars := c.sched.bars.filter (·.2 != flow) }
  let c := c.withHif { c.hif with
    inflight := c.hif.inflight.map fun (h : HostCmd) =>
      if h.task = some t.id then { h with stage := .finished, rel := some (t.status, t.ran) } else h }
  c.meetDeps

/-- The definition is unfolded before it is applied: comparing the applied one with its unfolding, the kernel would
evaluate the search for the next item. -/
theorem Chip.foldRelease_some {flow : Nat} {t : Task} (ht : c.nextRelease flow = some t) :
    c.foldRelease flow = (c.writeRecord t).recorded flow t := by
  have hdef : @Chip.foldRelease = @Chip.foldRelease := rfl
  conv_rhs at hdef => delta Chip.foldRelease
  rw [congrFun₂ hdef c flow, ht]
  rfl

theorem Chip.awake_recorded (flow : Nat) (t : Task) : (c.recorded flow t).awake = c.awake := by
  refine Chip.awake_congr ?_
  unfold Chip.recorded Chip.when
  dsimp only
  split <;> rfl

/-- Settles O4: each command's effect, by the case that its state and operands select. -/
theorem taskCommandsComplete : Obligations.TaskCommandsComplete := by
  refine ⟨fun s addr c0 c x y hmode hfree hx hy hs hc hxp hxs hyp hys hen => ?_,
    fun s p n v hmay hen hrun => ⟨fun hroom hfwd => ?_, fun hover => ?_⟩, fun s p n v hmay hoff hv => ?_,
    fun s p n v hmay hon hen hlog hbase => ?_,
    fun s n a c x ha hx hmode hen hrun hsome hfree hroom hs hc => ?_, fun s t c c' u ht hu hlock hc' => ?_,
    fun s u k st t ht hdl => ?_, fun s flow t ht hs hrec => ?_, fun s t ht hst => ?_, fun s t ht => ?_,
    fun s p flow v hmay => State.run_action hmay rfl⟩
  · change execTaskAccept addr s = _
    have hacc := s.chip.acceptAt_clean hx hy hxp hxs hyp hys
    refine State.stage_to hs ?_ (hc ▸ Chip.awake_congr (by simp))
    rw [if_pos (by simp [hmode, hfree]), hacc]
    exact c.accept_clean _ hen
  · change execSqDoorbell p n v s = _
    exact State.run_action hmay (Chip.sqDoorbell_fits hen hrun hroom hfwd)
  · change execSqDoorbell p n v s = _
    exact State.run_action hmay (Chip.sqDoorbell_overrun hen hrun hover)
  · change execSqCfgWrite p n v s = _
    exact State.run_sqCfg hmay (s.chip.sqCfg_opens hoff hv)
  · change execSqCfgWrite p n v s = _
    exact State.run_sqCfg hmay (s.chip.sqCfg_closes hon hen hlog hbase)
  · change execSqDescriptorRead n s = _
    exact State.stage_to hs (Chip.sqRead_accepts hen hrun ha hx hmode hsome hfree hroom)
      ((Chip.awake_congr rfl).trans hc)
  · change execDispatch s = _
    subst hc'
    exact State.run_to ((s.chip.dispatch_places ht hu).trans (c.placeTask_unlocked t hlock))
  · change execTaskComplete u k st s = _
    exact State.run_to (by simp only [ht, s.chip.taskDone_in_time t _ hdl])
  · change execFoldRelease flow s = _
    exact State.stage_to hs (s.chip.foldRelease_some ht) ((Chip.awake_recorded _ _ _).trans hrec)
  · change execTaskDeadlinePassed s = _
    exact State.run_to (by simp only [ht, s.chip.deadlineTask_waiting hst]; rfl)
  · change execTaskHang s = _
    exact State.run_to (by simp only [ht])

end Sys2Proof.Machine
end

section
/-! PROOFS. Bundles (R337, R338) and the Clothesline (R344–R348). -/
namespace Sys2Proof.Machine

variable (c : Chip)

/-! ## Bundles -/

/-- Settles O5: each command's effect, by the case that its state and operands select. -/
theorem bundleCommandsComplete : Obligations.BundleCommandsComplete := by
  refine ⟨fun s p i addr hmay hbusy => ?_, fun s k i addr b c w0 w1 w2 w3 hload hread hb hs hc => ?_,
    fun s p i hmay hbusy hsome huse => ?_⟩
  · change execBundleLoad p i addr s = _
    exact State.run_guarded hmay (if_neg (by simp [hbusy]))
  · change execBundleLoadComplete s = _
    refine State.stage_to hs ?_ ((Chip.awake_congr rfl).trans hc)
    simp only [hload, hread]
    simp [hb, Chip.bundleEnd]
  · change execBundleUnload p i s = _
    refine State.run_guarded hmay ?_
    have hnone : (s.chip.bundle (0x200 + i)).isNone = false := by simpa using hsome
    rw [if_neg (by simp [hbusy])]
    simp only [Chip.bundleUnload, hnone, huse]
    rfl

/-! ## Entries that fire (R347) -/

/-- An entry that was not held leaves its list, and one more has fired in the tick. -/
theorem Chip.clTake_free {e : ClEntry} (h : e.held = false) : c.clTake e = c.withSched { c.sched with
    cl := c.sched.cl.erase e
    clFired := c.sched.clFired + 1 } := by
  rw [Chip.clTake, h, Chip.when_false]

/-- An entry that is not late and for which there is room is inserted behind the others (R346). -/
theorem Chip.clInsert_ok {w addr : Nat} (hok : clEntryOk w = true) (hfree : 8192 < c.clFree)
    (hlate : c.clLate (bits w 31 0) = false) : c.clInsert ⟨w, false, .ok⟩ addr = c.withSched { c.sched with
      cl := c.sched.cl ++ [⟨bits w 41 36, bits w 31 0, bits w 35 32, bits w 127 64, false, false, false⟩] } := by
  simp [Chip.clInsert, hok, hfree.not_ge, hlate]

/-- Settles O6: each command's effect, by the case that its state and operands select. -/
theorem clotheslineCommandsComplete : Obligations.ClotheslineCommandsComplete := by
  refine ⟨fun s p v hmay hroom => State.run_action hmay (if_neg hroom.not_ge),
    fun s p v hmay hfull => State.run_action hmay (if_pos hfull),
    fun s addr n w r c hb hread hok hfree hlate hs hc => ?_, fun s p v hmay => State.run_action hmay rfl,
    fun s e c he hlist hheld hc => ⟨fun hkind hs hacc => ?_, fun hkind => ?_, fun hkind => ?_⟩,
    fun s act => by cases act <;> rfl⟩
  · change execClEntryInsert s = _
    refine State.stage_to hs ?_ ((Chip.awake_congr rfl).trans hc)
    simp only [hb, hread]
    exact Chip.clInsert_ok _ hok hfree hlate
  all_goals rw [← s.chip.clTake_free hheld] at hc
  · change execClFireTask s = _
    refine State.stage_to hs ?_ hacc
    simp [he, hlist, hkind, hc]
  · change execClFirePower s = _
    refine State.run_to ?_
    simp [he, hlist, hkind, hc]
  · change execClFireWrite32 s = _
    refine State.run_to ?_
    simp [he, hlist, hkind, hc]

end Sys2Proof.Machine
end

section
/-! PROOFS. Units leaving and entering service (R352–R356). -/
namespace Sys2Proof.Machine

variable (c : Chip)

/-- A request written for a unit is carried out and answered OK. -/
theorem State.run_readmitWrite {s : State} {p : Port} {u op : Nat} {d : Chip} (hmay : s.may p 0xFE = true)
    (hu : isUnit u = true) (h : s.chip.unitRequest u op = d) :
    (s.run fun c => c.readmitWrite p u op) = .next (s.to (d.report p .ok)) := by
  subst h
  exact State.run_guarded hmay (if_pos hu)

section
variable {c} {u : Nat}

theorem Chip.unitRequest_leave (h : c.unitState u = uIn) :
    c.unitRequest u 1 = (c.unitDepart u 1 .ok).unitStatus u .ok := if_pos h

theorem Chip.unitRequest_readmit (h : c.unitState u = uOut) : c.unitRequest u 2 = c.unitProceed u ⟨2, false⟩ := by
  simp [Chip.unitRequest, h]

theorem Chip.unitRequest_subst (hu : u < 0x110) (hfree : c.spareFree u = true) (h : c.unitState u = uIn) :
    c.unitRequest u 3 = (c.unitDepart u 5 .ok).unitHold u ⟨3, true⟩ := by
  simp [Chip.unitRequest, hu.not_ge, hfree, h]

/-- An engine, Press or coding engine whose domain is ON and not locked goes on to its admission (R354). -/
theorem Chip.unitProceed_admits (hmode : c.modeIn 0x98 = true) (hu : u < 0x120)
    (hon : c.domState (c.unitDom u) = dOn) (hlock : c.domLocked (c.unitDom u) = false)
    (hsrc : c.rd F.PWR_DOM_STAT_LOCK_SRC (c.unitDom u) ≠ 1) :
    c.unitProceed u ⟨2, false⟩ = (c.unitUnhold u).wr F.SCHED_UNIT_STAT_STATE uAdmitting u := by
  simp [Chip.unitProceed, hmode, hu.not_ge, hon, hlock, hsrc]

end

/-- The end of a unit's self-test is the end of its own test, where no test of the spare alone is awaited. -/
theorem exec_spareSelftestDone {s : State} {u : Fin 320} (h : s.chip.unitState u = uTesting) (pass : Bool) :
    exec (.spareSelftestDone u pass) s = .next (s.to (s.chip.selftestDone u pass)) := by
  change execSpareSelftestDone u pass s = _
  exact State.run_to (by simp [h])

/-- Settles O7: each command's effect, by the case that its state and operands select. -/
theorem unitCommandsComplete : Obligations.UnitCommandsComplete := by
  refine ⟨fun s p u hmay hu hin => ?_, fun s p u hmay hmode hu hout hlt hon hlock hsrc => ?_,
    fun s p u hmay hlt hu hfree hin => ?_, fun s u hu hdrain hrun hlt => ?_, fun s u htest hlt => ?_,
    fun s u htest hpend => ?_, fun s u hadm hon => ?_⟩
  · change execSchedLeave p u s = _
    exact State.run_readmitWrite hmay hu (Chip.unitRequest_leave hin)
  · change execSchedReadmit p u s = _
    exact State.run_readmitWrite hmay hu
      ((Chip.unitRequest_readmit hout).trans (Chip.unitProceed_admits hmode hlt hon hlock hsrc))
  · change execSchedSubst p u s = _
    exact State.run_readmitWrite hmay hu (Chip.unitRequest_subst hlt hfree hin)
  · change execUnitDrainComplete u s = _
    exact State.run_to (by simp [hu, hdrain, hrun, hlt.not_ge])
  · rw [exec_spareSelftestDone htest]
    simp [Chip.selftestDone, htest, hlt]
  · rw [exec_spareSelftestDone htest]
    simp [Chip.selftestDone, htest, hpend]
  · change execUnitAdmitComplete u s = _
    exact State.run_to (if_pos (by simp [hadm, hon]))

end Sys2Proof.Machine
end

section
/-! PROOFS. Programmable logic: its regions (R415–R417) and its boundary (R418–R424). -/
namespace Sys2Proof.Machine

/-- Settles O8: each command's effect, by the case that its state and operands select. -/
theorem regionCommandsComplete : Obligations.RegionCommandsComplete := by
  refine ⟨fun s r img e he => ?_, fun s r hst => ?_,
    fun s r img src m found hst hop => ⟨fun hok => ?_, fun err frame herr => ?_⟩,
    fun s r img src m hst hop => ⟨?_, ?_⟩, fun s p r hmay => State.run_action hmay rfl⟩
  · change execPlrLoadStart r img s = _
    exact State.run_to (by simp only [he])
  · change execPlrDrainTimeout r s = _
    exact State.run_to (if_pos hst)
  · change execPlrFramesDone r found s = _
    exact State.run_to (by simp [hst, hop, hok])
  · change execPlrFramesDone r found s = _
    exact State.run_to (by simp [hst, hop, herr])
  · change execPlrCheckDone r true s = _
    exact State.run_to (by simp [hst, hop])
  · change execPlrCheckDone r false s = _
    exact State.run_to (by simp [hst, hop])

section
variable {c : Chip} {p : Nat}

/-- A pin that no region claims is shown to none. -/
theorem Chip.pinShow_unclaimed (h : 8 ≤ c.rd F.PLR_PIN_CFG_REGION p) : c.pinShow p = c := by
  simp [Chip.pinShow, h.not_gt]

theorem Chip.pinShow_claimed (h : c.rd F.PLR_PIN_CFG_REGION p < 8) :
    c.pinShow p = c.emit (.plr (c.rd F.PLR_PIN_CFG_REGION p) "PIN" (2 * p + b2n (c.pinSeen p))) := by
  simp [Chip.pinShow, h]

end

/-- Settles O9: each command's effect, by the case that its state and operands select. -/
theorem boundaryCommandsComplete : Obligations.BoundaryCommandsComplete := by
  refine ⟨fun s p t k hrun ht hk => ?_, fun s p slot st k t hrun hslot => ⟨fun hst => ?_, fun hst => ?_⟩,
    fun s p slot st hrun hslot => ?_, fun s r kind hrun => ?_, fun s r w addr bytes data poison hrun hout => ?_,
    fun s p lvl hfire hreg => ?_, fun s p lvl hfire hreg hwake => ?_, fun s p lvl hfire hreg => ?_, fun s hed => ?_,
    fun s p n hed hn => ?_, fun s p q v hit hmay hhit => ?_, fun s b mv => ?_, fun s p hmay => State.run_action hmay rfl⟩
  · change execPlrTaskAccept p s = _
    exact State.run_to (by simp only [hrun, ht, hk]; rfl)
  · change execPlrTaskDone p slot st s = _
    exact State.run_to (by simp [hrun, hslot, hst.not_gt])
  · change execPlrTaskDone p slot st s = _
    exact State.run_to (by simp [hrun, hslot, hst])
  · change execPlrTaskDone p slot st s = _
    exact State.run_to (by simp [hrun, hslot])
  · change execPlrPoisonPulse r kind s = _
    exact State.run_to (if_pos hrun)
  · change execPlrMasterRequest r w addr bytes data poison s = _
    exact State.run_to (by simp [hrun, hout])
  · change execPlrInputFire p lvl s = _
    exact State.run_to (by simp [hfire, Chip.pinShow_unclaimed hreg])
  · change execPlrInputFire p lvl s = _
    exact State.run_to (by simp [hfire, hwake, Chip.pinShow_claimed hreg, s.chip.pinSeen_of_fires p lvl hfire])
  · change execPlrInputFire p lvl s = _
    exact State.run_to (by simp [hfire, Chip.pinShow_claimed hreg])
  · change execPlrStormCheck s = _
    have hkeep : s.chip.withPlr { s.chip.plr with edges := [] } = s.chip := by rw [← hed]; rfl
    exact State.run_to (by simp only [hed, List.filter_nil, List.foldl_nil, hkeep])
  · change execPlrStormCheck s = _
    exact State.run_to (by simp [hed, hn])
  · change execPlrStormUnmask p q v s = _
    subst hhit
    exact State.run_action hmay rfl
  · change execBankSupplyChange b mv s = _
    exact State.run_to rfl

end Sys2Proof.Machine
end


section
/-! PROOFS. The Ecrov links: registers (R103–R144), training (R103–R107, R121) and signal (R110, R120–R128). -/
namespace Sys2Proof.Machine

/-! ## Registers of a link -/

theorem Chip.when_not (c : Chip) (b : Bool) (f : Chip → Chip) : c.when (!b) f = if b then c else f c := by
  cases b <;> rfl

/-- The Seam is no part of a link's state. -/
theorem Chip.lkState_setSeam (c : Chip) (isOpen : Bool) (l : Nat) : (c.setSeam isOpen).lkState l = c.lkState l :=
  c.rd_setSeam_id isOpen (by decide) l 0

theorem Chip.lkUp_of_lkState {c d : Chip} {l : Nat} (h : d.lkState l = c.lkState l) : d.lkUp l = c.lkUp l :=
  congrArg (fun n => decide (7 ≤ n) && decide (n ≤ 9)) h

theorem Chip.lkUp_setSeam (c : Chip) (isOpen : Bool) (l : Nat) : (c.setSeam isOpen).lkUp l = c.lkUp l :=
  Chip.lkUp_of_lkState (c.lkState_setSeam isOpen l)

/-- Settles O10: each command's effect, by the case that its state and operands select. -/
theorem linkControlComplete : Obligations.LinkControlComplete := by
  refine ⟨fun s p l hmay hsh => ?_, fun s p l hmay hsh hr => ?_, fun s p l hmay hsh hr => ?_, fun s p l hmay => ?_,
    fun s p l hmay hup => State.run_action hmay (if_pos hup), fun s p l hmay => State.run_action hmay rfl,
    fun s p l hmay hst => State.run_action hmay (if_pos hst), fun s p l v hmay hout hrate hmant hcfg => ?_,
    fun s p l v hmay => State.run_action hmay rfl⟩
  · change execLinkEnable p l s = _
    exact State.run_action hmay (if_pos hsh)
  · change execLinkEnable p l s = _
    exact State.run_action hmay (by simp [hsh, hr])
  · change execLinkEnable p l s = _
    exact State.run_action hmay (by simp [hsh, hr])
  · change execLinkDisable p l s = _
    exact State.run_action hmay (by
      simp only [Chip.when_not, Chip.lkUp_setSeam, Chip.lkState_setSeam]; rfl)
  · change execSampleCfgWrite p l v s = _
    exact State.run_guarded hmay (by simp [hout, hmant, hcfg, Nat.not_lt.2 hrate, Chip.when])

/-! ## Training -/

section
variable {s : State} {l : Fin 18} {lanes : Fin 256}

/-- Eight lanes locked: the widest width a link may have is 8 (R104). -/
theorem bitLock_eight (hst : s.chip.lkState l = lkBitLock) (hw : 8 ≤ s.chip.maxWidth l) :
    exec (.bitLockDone l 255) s = .next (s.to ((s.chip.wr F.ECV_LINK_STAT_WIDTH 8 l).setLk l lkAlign)) := by
  change execBitLockDone l 255 s = _
  exact State.run_to (by simp [hst, hw])

/-- Lane 0 locked and lane 1 not: a width of 1 runs and no wider one does (R104). -/
theorem bitLock_one (hst : s.chip.lkState l = lkBitLock) (hw : 1 ≤ s.chip.maxWidth l) (hl : lanes.val % 4 = 1) :
    exec (.bitLockDone l lanes) s = .next (s.to ((s.chip.wr F.ECV_LINK_STAT_WIDTH 1 l).setLk l lkAlign)) := by
  have h8 : lanes.val % 256 ≠ 255 := by omega
  have h4 : lanes.val % 16 ≠ 15 := by omega
  have h1 : lanes.val % 2 = 1 := by omega
  change execBitLockDone l lanes s = _
  exact State.run_to (by simp [hst, hw, hl, h8, h4, h1])

/-- Without lane 0 no width runs (R104). -/
theorem bitLock_none (hst : s.chip.lkState l = lkBitLock) (hl : lanes.val % 2 = 0) :
    exec (.bitLockDone l lanes) s = .next (s.to (s.chip.linkDetect l 0)) := by
  have h8 : lanes.val % 256 ≠ 255 := by omega
  have h4 : lanes.val % 16 ≠ 15 := by omega
  have h2 : lanes.val % 4 ≠ 3 := by omega
  change execBitLockDone l lanes s = _
  exact State.run_to (by simp [hst, hl, h8, h4, h2])

end

/-- Settles O11: each command's effect, by the case that its state and operands select. -/
theorem linkTrainingComplete : Obligations.LinkTrainingComplete := by
  refine ⟨fun s l hst hlos hsh => ?_, fun s l hst => ?_,
    fun s l lanes hst => ⟨fun hw hl => ?_, bitLock_one hst, bitLock_none hst⟩, fun s l hst => ?_,
    fun s l hst hcap hre => ⟨fun st hhold => ?_, fun hhold hw => ?_, fun hhold hw hv => ?_, fun hhold hw hv => ⟨fun hlead => ?_,
      fun hr hlead => ?_⟩⟩, fun s l hst => ?_, fun s l hst hcap => ?_,
    fun s l => ⟨fun hst => ?_, fun hst => ?_, fun hst => ?_⟩, fun s l hst hstorm => ?_⟩
  · change execClkLaneDetected l s = _
    exact State.run_to (by simp [hst, hlos, hsh])
  · change execClkLockAchieved l s = _
    exact State.run_to (if_pos hst)
  · subst hl
    exact bitLock_eight hst hw
  · change execAlignDone l s = _
    exact State.run_to (if_pos hst)
  · change execCapsComplete l s = _
    exact State.run_to (by simp [hst, hcap.not_gt, hre, hhold])
  · change execCapsComplete l s = _
    exact State.run_to (by simp [hst, hcap.not_gt, hre, hhold, hw])
  · change execCapsComplete l s = _
    exact State.run_to (by simp [hst, hcap.not_gt, hre, hhold, hw, hv, Chip.when_not])
  · change execCapsComplete l s = _
    exact State.run_to (by simp [hst, hcap.not_gt, hre, hhold, hw, hv.not_gt, hlead])
  · change execCapsComplete l s = _
    exact State.run_to (by simp [hst, hcap.not_gt, hre, hhold, hw, hv.not_gt, hr, hlead.not_ge])
  · change execRateUpDone l s = _
    exact State.run_to (if_pos hst)
  · change execRetrainRelockDone l s = _
    exact State.run_to (by simp [hst, hcap])
  · change execTrainStateTimeout l s = _
    exact State.run_to (by rcases hst with h | h | h <;> simp [h])
  · change execTrainStateTimeout l s = _
    exact State.run_to (by simp [hst])
  · change execTrainStateTimeout l s = _
    exact State.run_to (by simp [hst])
  · change execHoldRetryTimer l s = _
    exact State.run_to (by simp [hst, hstorm])

/-! ## Signal, lock and frames -/

/-! ### A frame on a link that is not up

A NAK is no command to be acknowledged, and one sent on a link that is not up wakes no direction: it changes no field. -/

theorem sbAcked_nak (seq reason : Nat) : sbAcked (sbMsg 4 0 seq reason) = false := by
  have hcmd : sbCmd (sbMsg 4 0 seq reason) = 4 := by
    simp only [sbCmd, sbMsg, bits]
    omega
  simp [sbAcked, hcmd]

section
variable {c : Chip} {l : Nat}

theorem Chip.sbNak_regs (h : c.lkUp l = false) (seq reason : Nat) : (c.sbNak l seq reason).regs = c.regs := by
  simp only [Chip.sbNak, Chip.sbSend, h, Chip.when_false, sbAcked_nak]
  rfl

theorem Chip.lkUp_congr {d : Chip} (h : d.regs = c.regs) : d.lkUp l = c.lkUp l :=
  Chip.lkUp_of_lkState (Chip.rd_congr _ _ h _ _ _)

/-- The sideband slots of a frame change no field while the link is not up (R116). -/
theorem Chip.frameSideband_regs (h : c.lkUp l = false) (markers : List Nat) :
    (c.frameSideband l markers).regs = c.regs := by
  refine List.foldlRecOn (motive := fun d : Chip => d.regs = c.regs) _ _ rfl fun d hd m _ => ?_
  have hup : d.lkUp l = false := (Chip.lkUp_congr hd).trans h
  split_ifs
  · exact hd
  · exact hd
  · exact hd
  · exact (Chip.sbNak_regs hup _ _).trans hd

theorem Chip.lkUp_frameSideband (h : c.lkUp l = false) (markers : List Nat) : (c.frameSideband l markers).lkUp l = false :=
  (Chip.lkUp_congr (Chip.frameSideband_regs h markers)).trans h

theorem Chip.lkUp_of_caps (h : c.lkState l = lkCaps) : c.lkUp l = false := by
  simp only [Chip.lkUp, h]
  rfl

theorem Chip.lkUp_incSat_crc (i j n : Nat) : (c.incSat F.ECV_ERR_CNT_CRC_ERR i j n).lkUp l = c.lkUp l :=
  Chip.lkUp_of_lkState (Chip.rd_wr_id _ _ _ _ _ _ _ _ (by decide))

end

section
variable {s : State} {l : Fin 18} {lanes : List LaneFrame} (frac : Fin 1024)

/-- In CAPS a frame carries its sideband slots alone (R110, R116). -/
theorem frameReceive_caps (hne : lanes ≠ []) (hst : s.chip.lkState l = lkCaps)
    (hlp : s.chip.rd F.ECV_LINK_STAT_RX_LP l = 0) (hsync : (lanes.map (·.marker)).getD 0 0 % 2 ^ 16 = mkSync)
    (hprev : (s.chip.link l).prev = []) :
    exec (.frameReceive l lanes frac) s = .next (s.to (((s.chip.incSat F.ECV_ERR_CNT_CRC_ERR l 0 0).updLink l fun x =>
      { x with
        prev := []
        noSync := 0 }).frameSideband l (lanes.map (·.marker)))) := by
  have hup : s.chip.lkUp l = false := Chip.lkUp_of_caps hst
  have hup' (f : LinkX → LinkX) : ((s.chip.incSat F.ECV_ERR_CNT_CRC_ERR l 0 0).updLink l f).lkUp l = false :=
    (Chip.lkUp_incSat_crc l 0 0).trans hup
  change execFrameReceive l lanes frac s = _
  refine State.run_to ?_
  generalize lanes.map (·.marker) = mks at hsync ⊢
  have hside (f : LinkX → LinkX) :
      (((s.chip.incSat F.ECV_ERR_CNT_CRC_ERR l 0 0).updLink l f).frameSideband l mks).lkUp l = false :=
    Chip.lkUp_frameSideband (hup' f) mks
  simp [hne, hst, hlp, hsync, hprev, hup, hside, Chip.lkUp_incSat_crc, -Nat.reducePow, -List.getD_eq_getElem?_getD]
  rfl

/-- A frame without SYNC that is not the fourth in a row is counted (R110, R120). -/
theorem frameReceive_noSync (hne : lanes ≠ []) (hst : s.chip.lkState l = lkCaps)
    (hlp : s.chip.rd F.ECV_LINK_STAT_RX_LP l = 0) (hsync : (lanes.map (·.marker)).getD 0 0 % 2 ^ 16 ≠ mkSync)
    (hk : (s.chip.link l).noSync + 1 ≠ 4) :
    exec (.frameReceive l lanes frac) s = .next (s.to (s.chip.updLink l fun x =>
      { x with noSync := (s.chip.link l).noSync + 1 })) := by
  have hk3 : (s.chip.link l).noSync ≠ 3 := fun h => hk (congrArg (· + 1) h)
  change execFrameReceive l lanes frac s = _
  refine State.run_to ?_
  generalize lanes.map (·.marker) = mks at hsync ⊢
  simp [hne, hst, hlp, hsync, hk3, -Nat.reducePow, -List.getD_eq_getElem?_getD]

end

/-- Settles O12: each command's effect, by the case that its state and operands select. -/
theorem linkSignalComplete : Obligations.LinkSignalComplete := by
  refine ⟨fun s l hlos => ?_, fun s l => ⟨?_, ?_⟩, fun s l => ?_, fun s l hloss hup => ?_,
    fun s l lanes frac hne hst hlp => ⟨frameReceive_caps frac hne hst hlp, frameReceive_noSync frac hne hst hlp⟩, fun s l hlp => ?_,
    fun s l => ?_, fun s l => ?_, fun s l hreq => ?_⟩
  · change execLosAssert l s = _
    exact State.run_to (by simp [hlos])
  · change execLosDeassert l s = _
    exact State.run_to rfl
  · change execLolDeassert l s = _
    exact State.run_to rfl
  · change execLolAssert l s = _
    exact State.run_to rfl
  · change execLinkLossTimeout l s = _
    exact State.run_to (by simp [hloss, hup])
  · change execWakePatternSeen l s = _
    exact State.run_to (by simp [hlp])
  · change execLpRxExit l s = _
    exact State.run_to rfl
  · change execLpTxExit l s = _
    exact State.run_to rfl
  · change execLpTxEnter l s = _
    exact State.run_to (if_pos hreq)

end Sys2Proof.Machine
end


section
/-! PROOFS. Sideband messages (R105, R117–R119, R126, R139, R140) and the ring (R133, R137). -/
namespace Sys2Proof.Machine

/-! ## Sideband messages -/

section
variable {s : State} {l m : Nat} {t : List Nat}

/-- The oldest received message of a link, if it carries the command, is taken and has its effect. -/
theorem State.run_sbTake {cmd : Nat} {f : Nat → Chip → Chip} {d : Chip} (hrx : (s.chip.link l).sbRx = m :: t)
    (hcmd : sbCmd m = cmd) (hf : f m (s.chip.sbRest l t) = d) : (s.run fun c => c.sbTake l cmd f) = .next (s.to d) := by
  refine State.run_to ?_
  simp only [Chip.sbTake, hrx, hcmd, if_true]
  exact hf

end

/-- Fields of the timing unit that name the master of time transfer are none of a link's. -/
theorem Chip.ttMaster_wr (c : Chip) (f : Fld) (v i j l : Nat)
    (h : ∀ g ∈ [F.TIME_STAT_PHASE_SRC, F.TIME_RING_STAT_UP_VALID, F.TIME_RING_STAT_UPSTREAM], g.id ≠ f.id) :
    (c.wr f v i j).ttMaster l = c.ttMaster l := by
  have hrd (g : Fld) (hg : g ∈ [F.TIME_STAT_PHASE_SRC, F.TIME_RING_STAT_UP_VALID, F.TIME_RING_STAT_UPSTREAM]) :
      (c.wr f v i j).rd g = c.rd g := by
    exact c.rd_wr_id _ _ _ _ _ _ _ (h g hg)
  simp only [Chip.ttMaster, Chip.flag, hrd _ (List.mem_cons_self ..), hrd F.TIME_RING_STAT_UP_VALID (by simp),
    hrd F.TIME_RING_STAT_UPSTREAM (by simp)]

/-- An exchange of a port that follows its partner leaves the offset averaged over the exchanges so far (R140, R141). -/
theorem Chip.ttExchange_offset {c : Chip} {l k r t2 t3 t4 : Nat} {t1 : Nat × Nat} {x : LinkX} {a : Nat} (hx : c.link l = x)
    (ha : c.rd F.ECV_TT_ASYM_ASYM l = a)
    (h1 : x.t1.find? (fun e => e.1 == r) = some t1) (h2 : x.t2 = some (r, t2)) (h3 : x.t3 = some (k, t3))
    (h4 : x.t4 = some (k, t4)) (hup : c.lkUp l = true) (hm : c.ttMaster l = false) (hn : x.exchN + 1 < 256) :
    (c.ttExchange l).rd F.ECV_TT_OFFSET l = toBits 32 (meanOf (((x.exch
      ++ [ttCompute t1.2 t2 t3 t4 (sx 16 a)]).drop (x.exch.length + 1 - 256)).map (·.1)))
        % 2 ^ F.ECV_TT_OFFSET.w := by
  have hwr (d : Chip) (a b : Nat) (hd : d.ttMaster l = false) :
      ((d.wr F.ECV_TT_OFFSET a l).wr F.ECV_TT_DELAY b l).ttMaster l = false := by
    rw [Chip.ttMaster_wr _ _ _ _ _ _ (by decide), Chip.ttMaster_wr _ _ _ _ _ _ (by decide), hd]
  have hset (y : LinkX) : (c.setLink l y).ttMaster l = false := hm
  unfold Chip.ttExchange
  simp only [hx, ha, h1, h2, h3, h4, hup, hn.not_ge, decide_true, decide_false, Bool.and_self, Bool.false_and, if_true,
    Chip.when_false, hwr, hset]
  rw [Chip.rd_wr_id _ _ _ _ _ _ _ _ (by decide), Chip.rd_wr_same]

/-- The partner's receive stamp of an own frame completes the exchange (R140). -/
theorem Chip.ttExchange_report {c : Chip} {l k r t2 t3 t4 : Nat} {t1 : Nat × Nat}
    (h1 : (c.link l).t1.find? (fun e => e.1 == r) = some t1) (h3 : (c.link l).t3 = some (k, t3))
    (h4 : (c.link l).t4 = some (k, t4)) (hup : c.lkUp l = true) (hm : c.ttMaster l = false)
    (hn : (c.link l).exchN + 1 < 256) :
    ((c.updLink l fun x => { x with t2 := some (r, t2) }).ttExchange l).rd F.ECV_TT_OFFSET l
      = toBits 32 (meanOf ((((c.link l).exch ++ [ttCompute t1.2 t2 t3 t4 (sx 16 (c.rd F.ECV_TT_ASYM_ASYM l))]).drop
          ((c.link l).exch.length + 1 - 256)).map (·.1))) % 2 ^ F.ECV_TT_OFFSET.w := by
  have hx := c.link_updLink l fun x => { x with t2 := some (r, t2) }
  have ha : (c.updLink l fun x => { x with t2 := some (r, t2) }).rd F.ECV_TT_ASYM_ASYM l
    = c.rd F.ECV_TT_ASYM_ASYM l := rfl
  have hup' := (Chip.lkUp_congr (d := c.updLink l fun x => { x with t2 := some (r, t2) }) rfl).trans hup
  have hm' : (c.updLink l fun x => { x with t2 := some (r, t2) }).ttMaster l = false := hm
  generalize (c.updLink l fun x => { x with t2 := some (r, t2) }) = d at *
  exact Chip.ttExchange_offset (x := { c.link l with t2 := some (r, t2) }) hx ha h1 rfl h3 h4 hup' hm' hn

/-- The partner's receive stamp of an own frame (R140). -/
theorem execSbTtRx_report {s : State} {l : Fin 18} {m : Nat} {t : List Nat} (hrx : (s.chip.link l).sbRx = m :: t)
    (hcmd : sbCmd m = 0x31) : exec (.sbTtRx l) s = .next (s.to (((s.chip.sbRest l t).updLink l fun x =>
      { x with t2 := some (sbExt m, sbArg m) }).ttExchange l)) := by
  change execSbTtRx l s = _
  exact State.run_sbTake hrx hcmd rfl

/-- Settles O13: each command's effect, by the case that its state and operands select. -/
theorem sidebandCommandsComplete : Obligations.SidebandCommandsComplete := by
  refine ⟨fun s l m t hrx => ⟨fun hc => ?_, fun hc => ?_, fun hc => ?_, fun hc hnone => ?_, fun hc hext hsome => ?_,
      fun hc hr => ?_, fun hc hr hst hv => ?_, fun hc hup hv hext => ?_, fun hc hext => ?_, fun hc => ?_, fun hc => ?_,
      execSbTtRx_report hrx, fun hc hr => ?_, fun hc hr => ?_, fun hacc => ?_⟩,
    fun s l m t x t1 k t3 t2 t4 e ex hrx hc hx h2 h1 h3 h4 hup hm hn he hex => ?_,
    fun s l seq e hfind => ⟨fun hrep => ?_, fun hrep => ?_⟩, fun s l frac hup hv hlp => ?_⟩
  · change execSbCapsLo l s = _
    exact State.run_sbTake hrx hc rfl
  · change execSbCapsHi l s = _
    exact State.run_sbTake hrx hc rfl
  · change execSbAck l s = _
    exact State.run_sbTake hrx hc rfl
  · change execSbNak l s = _
    exact State.run_sbTake hrx hc (by simp only [hnone])
  · change execSbNak l s = _
    obtain ⟨e, he⟩ := Option.isSome_iff_exists.1 hsome
    exact State.run_sbTake hrx hc (by simp only [he, hext, if_true])
  · change execSbRateGo l s = _
    exact State.run_sbTake hrx hc (if_pos hr)
  · change execSbRateGo l s = _
    exact State.run_sbTake hrx hc (by simp [hr, hst, hv])
  · change execSbLpEnter l s = _
    exact State.run_sbTake hrx hc (by simp [hup, hv, hext])
  · change execSbTelem l s = _
    exact State.run_sbTake hrx hc (by simp [hext])
  · change execSbTileAlarm l s = _
    exact State.run_sbTake hrx hc rfl
  · change execSbTtTx l s = _
    exact State.run_sbTake hrx hc rfl
  · change execSbTtTick l s = _
    exact State.run_sbTake hrx hc (if_pos hr)
  · change execSbRingState l s = _
    exact State.run_sbTake hrx hc (by simp [hr])
  · change execSbUnsupportedCmd l s = _
    exact State.run_to (by simp [hrx, hacc, Chip.sbRest])
  · have hd := Chip.ttExchange_report (t2 := t2) (hx ▸ h1) (hx ▸ h3) (hx ▸ h4) hup hm (hx ▸ hn)
    rw [hx] at hex
    rw [hex, he]
    subst h2
    exact ⟨_, execSbTtRx_report hrx hc, hd⟩
  · change execSbAckTimeout l seq s = _
    exact State.run_to (by simp [Chip.sbRepeat, hfind, hrep])
  · change execSbAckTimeout l seq s = _
    exact State.run_to (by simp [Chip.sbRepeat, hfind, hrep.not_gt])
  · change execTtFrameSend l frac s = _
    exact State.run_to (by simp [hup, hv, hlp])

/-! ## The ring -/

/-- A ring port that is up sends RING_STATE, of its own fields and the other port's peer (R137). -/
def Chip.ringStateOut (c : Chip) (l : Nat) : Chip :=
  if c.lkUp l then
    c.sbSend l (sbMsg 0x40 0 (c.rd F.ECV_RING_STAT_LOCAL_ID l + c.mode * 2 ^ 5 + b2n c.jdRuns * 2 ^ 8
      + c.rd F.ECV_RING_STAT_PEER_ID (33 - l) * 2 ^ 9 + c.rd F.ECV_RING_STAT_PEER_VALID (33 - l) * 2 ^ 14)
      (c.rd F.ECV_RING_STAT_PEER_HOPS (33 - l)))
  else c

theorem execRingStateTimer_eq (s : State) :
    execRingStateTimer s = s.run fun c => (c.ringStateOut 16).ringStateOut 17 := rfl

theorem Chip.ringStateOut_down {c : Chip} {l : Nat} (h : c.lkUp l = false) : c.ringStateOut l = c := by
  simp only [Chip.ringStateOut, h, Bool.false_eq_true, if_false]

theorem Chip.ringStateOut_up {c : Chip} {l : Nat} (h : c.lkUp l = true) :
    c.ringStateOut l = c.sbSend l (sbMsg 0x40 0 (c.rd F.ECV_RING_STAT_LOCAL_ID l + c.mode * 2 ^ 5 + b2n c.jdRuns * 2 ^ 8
      + c.rd F.ECV_RING_STAT_PEER_ID (33 - l) * 2 ^ 9 + c.rd F.ECV_RING_STAT_PEER_VALID (33 - l) * 2 ^ 14)
      (c.rd F.ECV_RING_STAT_PEER_HOPS (33 - l))) := by
  simp only [Chip.ringStateOut, h, if_true]

/-- With the west port down, RING_STATE goes out on the east port alone (R137). -/
theorem execRingStateTimer_east (s : State) (hw : s.chip.lkUp 16 = false) (he : s.chip.lkUp 17 = true) :
    exec .ringStateTimer s = .next (s.to (s.chip.sbSend 17 (sbMsg 0x40 0 (s.chip.rd F.ECV_RING_STAT_LOCAL_ID 17
      + s.chip.mode * 2 ^ 5 + b2n s.chip.jdRuns * 2 ^ 8 + s.chip.rd F.ECV_RING_STAT_PEER_ID 16 * 2 ^ 9
      + s.chip.rd F.ECV_RING_STAT_PEER_VALID 16 * 2 ^ 14) (s.chip.rd F.ECV_RING_STAT_PEER_HOPS 16)))) := by
  change execRingStateTimer s = _
  rw [execRingStateTimer_eq]
  exact State.run_to ((congrArg (Chip.ringStateOut · 17) (Chip.ringStateOut_down hw)).trans (Chip.ringStateOut_up he))
theorem Chip.peerApply_some {c : Chip} {l id hops : Nat} {v : Bool} (h : (c.link l).peerNext = some (v, id, hops)) :
    c.peerApply l = (((c.updLink l fun x => { x with peerNext := none }).setFlag F.ECV_RING_STAT_PEER_VALID v l).wr
      F.ECV_RING_STAT_PEER_ID id l).wr F.ECV_RING_STAT_PEER_HOPS hops l := by
  simp only [Chip.peerApply, h]

/-- Settles O14: each command's effect, by the case that its state and operands select. -/
theorem ringCommandsComplete : Obligations.RingCommandsComplete := by
  refine ⟨fun s q hst hlos => ?_, fun s vw ve hready => ?_, execRingStateTimer_east, fun s v id hops hpeer => ?_⟩
  · change execListenNoSignalTimeout q s = _
    exact State.run_to (by simp [hst, hlos])
  · obtain ⟨hst, hsig⟩ := hready 16 (.inl rfl)
    obtain ⟨hst', hsig'⟩ := hready 17 (.inr rfl)
    change execListenComplete vw ve s = _
    exact State.run_to (by simp [hst, hsig, hst', hsig'])
  · change execPeerChangeApply s = _
    exact State.run_to (congrArg (Chip.peerApply · 17) (Chip.peerApply_some hpeer))

end Sys2Proof.Machine
end


section
/-! PROOFS. Antenna channels: boundaries, commits and service states (R145, R152, R166–R170), and the signal chains
(R145–R165). -/
namespace Sys2Proof.Machine

/-! ## Reading after an update of a channel -/

section
variable (c : Chip) (n : Nat) (f : AchX → AchX)
@[simp] theorem Chip.rd_updAch (g : Fld) (i j : Nat) : (c.updAch n f).rd g i j = c.rd g i j := rfl
@[simp] theorem Chip.flag_updAch (g : Fld) (i j : Nat) : (c.updAch n f).flag g i j = c.flag g i j := rfl
@[simp] theorem Chip.svc_updAch (m : Nat) : (c.updAch n f).svc m = c.svc m := rfl
@[simp] theorem Chip.clampCode_updAch (m code : Nat) : (c.updAch n f).clampCode m code = c.clampCode m code := rfl
@[simp] theorem Chip.updAch_tick : (c.updAch n f).tick = c.tick := rfl
end

/-! ## Boundaries (R154, R170, R445) -/

section
variable (c : Chip) (n : Nat)

/-- Fields that a step of the calibration coefficients writes. -/
def coefFields : List Fld := [F.CAL_COEF_RX, F.CAL_COEF_TX, F.CAL_CNT_UPDATES]

theorem Chip.rd_when {f : Chip → Chip} {g : Fld} {i j : Nat} (b : Bool) (h : (f c).rd g i j = c.rd g i j) :
    (c.when b f).rd g i j = c.rd g i j := by
  cases b
  · rfl
  · exact h

/-- A step of the calibration coefficients changes no other field. -/
theorem Chip.rd_coefStep {f : Fld} (hf : ∀ g ∈ coefFields, f.id ≠ g.id) (i j : Nat) :
    (c.coefStep n).rd f i j = c.rd f i j := by
  have hrx : f.id ≠ F.CAL_COEF_RX.id := hf _ (by simp [coefFields])
  have htx : f.id ≠ F.CAL_COEF_TX.id := hf _ (by simp [coefFields])
  have hcnt : f.id ≠ F.CAL_CNT_UPDATES.id := hf _ (by simp [coefFields])
  unfold Chip.coefStep
  split_ifs
  · rfl
  · refine (Chip.rd_when _ _ (Chip.rd_wr_id _ _ _ _ _ _ _ _ hcnt)).trans ?_
    refine List.foldlRecOn (motive := fun d : Chip => d.rd f i j = c.rd f i j) _ _ rfl fun d hd k _ => ?_
    dsimp only
    split <;> split <;>
      simp [Chip.rd_when, Chip.rd_wr_id _ _ f _ _ _ _ _ hrx, Chip.rd_wr_id _ _ f _ _ _ _ _ htx, hd]

/-- A slot boundary records whether the channel was IN and steps its coefficients before its service state goes on. -/
def Chip.slotStep : Chip :=
  (c.updAch n fun x => { x with hist := ((c.tick, c.svc n == acIn) :: x.hist).take 4 }).coefStep n

theorem Chip.svc_slotStep : (c.slotStep n).svc n = c.svc n := Chip.rd_coefStep _ n (by decide) n 0

theorem Chip.converged_slotStep : (c.slotStep n).flag F.CAL_ANT_STAT_CONVERGED n = c.flag F.CAL_ANT_STAT_CONVERGED n := by
  rw [Chip.flag, Chip.slotStep, Chip.rd_coefStep _ n (by decide)]
  rfl

theorem Chip.achSlot_eq : c.achSlot n =
    if c.svc n = acLeaving then ((c.slotStep n).achOut n 1).achHeld n
    else if c.svc n = acConv && c.flag F.CAL_ANT_STAT_CONVERGED n then
      ((c.slotStep n).wr F.ACH_STAT_SVC_STATE acIn n).updAch n fun x => { x with convTick := none }
    else c.slotStep n := by
  rw [← c.svc_slotStep n, ← c.converged_slotStep n]
  rfl

end

/-- A frame begins: the frame number, and the tick of SFN 0 if it is that (R445). -/
theorem Chip.frameBegin_eq (c : Chip) (sfn : Nat) : c.frameBegin sfn =
    (let d := ((c.wr F.TIME_FRAME_STAT_SFN sfn).withAch { c.ach with frameTick := c.tick }).withTime
      { c.time with counting := true }
    (List.range 256).foldl (fun c n => c.commitApply n)
      ((if sfn = 0 then d.wr F.TIME_FRAME_STAT_SFN0_TICK c.tick else d).withEth
        { c.eth with start := c.eth.start.filter fun (e : Nat × Nat) => tickLater e.2 c.tick })) := by
  by_cases h : sfn = 0
  · subst h
    rfl
  · rw [Chip.frameBegin, beq_false_of_ne h]
    simp only [h, if_false]
    rfl

/-- A commit that nothing speaks against is pending from now on (R152). -/
theorem exec_commitGo_of_no_faults (s : State) (p : Port) (n : Fin 256) (tick : Nat) (hmay : s.may p 0xBE = true)
    (hfaults : (s.chip.commitWritten n tick).commitFaults n tick = [])
    (hpend : ((s.chip.commitWritten n tick).achX n).pend = none) :
    exec (.commitGo p n tick) s = .next (s.to ((((s.chip.commitWritten n tick).updAch n fun x => { x with
      pend := some ((s.chip.commitWritten n tick).shadowCfg n, (s.chip.commitWritten n tick).frameAt (tick % tickMod)) }).wr
        F.ACH_STAT_COMMIT_PEND 1 n).report p .ok)) := by
  change execCommitGo p n tick s = _
  refine State.run_action hmay ?_
  rw [Chip.commitFaults, Chip.commitCcFaults, Chip.commitWritten] at hfaults
  rw [Chip.commitWritten] at hpend
  simp only [hfaults, hpend, Option.isSome_none, Chip.when_false]
  rfl

/-- Settles O15: each command's effect, by the case that its state and operands select. -/
theorem channelServiceComplete : Obligations.ChannelServiceComplete := by
  refine ⟨fun s n => ⟨fun hst => ?_, fun hst hconv => ?_, fun hst => ?_⟩, fun s n hload hmode => ?_,
    fun s n hload hmode hfreeze hsvc hstep hcode => ?_, fun s sfn hsfn => ?_, fun s hsfn => ?_,
    fun s p n tick hmay hcc hwin htick hframe hpend => ?_, fun s p n hmay hst => ?_,
    fun s p n hmay hst => ⟨fun hstart => ?_, fun hstart => ?_⟩, fun s n hst hheld hstart => ?_,
    fun s p n hmay => State.run_action hmay rfl⟩
  · change execSlotBoundary n s = _
    exact State.run_to ((s.chip.achSlot_eq n).trans (if_pos hst))
  · change execSlotBoundary n s = _
    exact State.run_to ((s.chip.achSlot_eq n).trans (by simp [hst, hconv, Chip.slotStep]))
  · change execSlotBoundary n s = _
    exact State.run_to ((s.chip.achSlot_eq n).trans (by rcases hst with h | h <;> simp [h, Chip.slotStep]))
  · change execSymbolBoundary n s = _
    exact State.run_to (by simp [hload, hmode])
  · change execSymbolBoundary n s = _
    exact State.run_to (by simp [hload, hmode, hfreeze, hsvc, hstep, hcode])
  · change execFrameBoundary s = _
    exact State.run_to (by simp only [hsfn]; exact s.chip.frameBegin_eq sfn)
  · change execFrameBoundary s = _
    exact State.run_to (by simp only [hsfn])
  · refine exec_commitGo_of_no_faults s p n tick hmay ?_ hpend
    simp only [Chip.commitFaults, Chip.commitCcFaults, Chip.commitWritten, hcc, hwin, htick.not_gt, hframe.not_gt]
    rfl
  · exact State.run_action hmay (by rcases hst with h | h <;> simp [Chip.achLeave, h])
  · exact State.run_action hmay (by simp [Chip.achReadmit, hst, hstart])
  · exact State.run_action hmay (by simp [Chip.achReadmit, hst, hstart])
  · change execAchReadmitHeldStart n s = _
    exact State.run_to (by simp [Chip.achHeld, hst, hheld, hstart])

/-! ## What a message sent on a link leaves alone -/

section
variable (c : Chip) (l : Nat)

theorem Chip.when_dev {f : Chip → Chip} (b : Bool) (h : (f c).dev = c.dev) : (c.when b f).dev = c.dev := by
  cases b
  · rfl
  · exact h

theorem Chip.updLink_dev (f : LinkX → LinkX) : (c.updLink l f).dev = c.dev := rfl

theorem Chip.frameSend_dev : (c.frameSend l).dev = c.dev := by
  unfold Chip.frameSend
  simp only [Chip.emit_dev, Chip.setLink_dev]

theorem Chip.lkShow_dev : (c.lkShow l).dev = c.dev := by
  unfold Chip.lkShow
  split <;> rfl

theorem Chip.lpExit_dev : (c.lpExit l).dev = c.dev := by
  unfold Chip.lpExit
  split_ifs
  · rfl
  · rfl
  · simp only [Chip.frameSend_dev, Chip.updLink_dev, Chip.lkShow_dev, Chip.wr_dev, Chip.emit_dev]
    exact c.when_dev _ rfl

theorem Chip.sbFlush_dev : (c.sbFlush l).dev = c.dev := by
  refine List.foldlRecOn (motive := fun d : Chip => d.dev = c.dev) _ _ rfl fun d hd _ _ => Eq.trans ?_ hd
  unfold Chip.sbNext
  dsimp only
  split
  · rfl
  · split_ifs <;> rfl

theorem Chip.sbSend_dev (m : Nat) : (c.sbSend l m).dev = c.dev := by
  unfold Chip.sbSend
  split_ifs
  · simp only [Chip.sbFlush_dev, Chip.updLink_dev, Chip.when_dev, Chip.lpExit_dev]
  · simp only [Chip.sbEmit, Chip.emit_dev, Chip.updLink_dev, Chip.when_dev, Chip.lpExit_dev]

theorem Chip.muteLink_dev : (c.muteLink l).dev = c.dev := by
  rw [Chip.muteLink, Chip.updLink_dev, Chip.sbSend_dev]

end

/-! ## The receive chain (R151, R154) -/

section
variable (c : Chip) (n cc sym : Nat) (q : Nat × Nat)

/-- A received symbol's words and its status word go into the buffer of carrier `cc` (R151, R154); `q` are its tick and frame
number. -/
def Chip.rxPut (st : Status) (v : Nat → Nat) (sat : Bool) : Chip :=
  let g := c.cfgDone n cc sym
  let w := g.ccw cc
  let base := 0x300000000 + 128 * cpUl (g.pool cc) + sym % cpBuf (g.pool cc) * 128 * cpStride (g.pool cc)
  ((c.writeWords .fabric base (packWords (ccSc w) v) false).1.writeWord .fabric (base + 16 * ((ccSc w + 3) / 4))
    (rxStatus st sat (c.codeAt n q.1) (c.stepIn n q.1 (symTicks w sym)) q.1 sym q.2) false).1

/-- The values of a received symbol, each with whether it saturated. -/
def Chip.rxVals (zeros : Bool) : List (Nat × Bool) :=
  let w := (c.cfgDone n cc sym).ccw cc
  (List.range (ccSc w)).map fun k => if zeros then (0, false)
    else fdScale w (c.rxSub n w (c.tapSamples n q.1 (symTicks w sym)) k)

/-- What a received symbol writes, once its receive runs. -/
def Chip.rxWrite (zeros gap : Bool) : Chip :=
  (c.rxPut n cc sym q (Status.worstOf (if gap then [.gap] else []))
    (fun k => ((c.rxVals n cc sym q zeros).getD k (0, false)).1) ((c.rxVals n cc sym q zeros).any (·.2))).when ((c.rxVals n cc sym q zeros).any (·.2)) fun c => c.incSat F.ACH_CNT_FD_SAT n

/-- A received symbol whose samples carry no poison. -/
def Chip.rxDone : Chip :=
  let w := (c.cfgDone n cc sym).ccw cc
  if ccType w = 0 || ccSyms w ≤ sym || !c.rxRuns w q.1 then c
  else c.rxWrite n cc sym q (c.rxZeros n w sym q.1) (!c.rxZeros n w sym q.1 && c.gapIn n q.1 (symTicks w sym))

theorem Chip.rxVals_zeros_getD (k : Nat) : ((c.rxVals n cc sym q true).getD k (0, false)).1 = 0 := by
  simp only [Chip.rxVals, if_true, List.getD_eq_getElem?_getD, List.getElem?_map]
  cases (List.range (ccSc ((c.cfgDone n cc sym).ccw cc)))[k]? <;> rfl

theorem Chip.rxVals_zeros_any : (c.rxVals n cc sym q true).any (·.2) = false := by
  simp [Chip.rxVals]

variable {c n cc sym q}

/-- Zeros of a channel that is OUT. -/
theorem Chip.rxDone_zeros (hw : ccType ((c.cfgDone n cc sym).ccw cc) ≠ 0) (hsym : sym < ccSyms ((c.cfgDone n cc sym).ccw cc))
    (hruns : c.rxRuns ((c.cfgDone n cc sym).ccw cc) q.1 = true)
    (hz : c.rxZeros n ((c.cfgDone n cc sym).ccw cc) sym q.1 = true) :
    c.rxDone n cc sym q = c.rxPut n cc sym q .ok (fun _ => 0) false := by
  rw [Chip.rxDone, if_neg (by simp [hw, hsym, hruns]), hz, Chip.rxWrite, Chip.rxVals_zeros_any, Chip.when_false]
  simp only [Chip.rxVals_zeros_getD]
  rfl

/-- The samples that arrived, of a channel in service and without a gap. -/
theorem Chip.rxDone_values (hw : ccType ((c.cfgDone n cc sym).ccw cc) ≠ 0)
    (hsym : sym < ccSyms ((c.cfgDone n cc sym).ccw cc)) (hruns : c.rxRuns ((c.cfgDone n cc sym).ccw cc) q.1 = true)
    (hz : c.rxZeros n ((c.cfgDone n cc sym).ccw cc) sym q.1 = false)
    (hgap : c.gapIn n q.1 (symTicks ((c.cfgDone n cc sym).ccw cc) sym) = false) :
    c.rxDone n cc sym q = (c.rxPut n cc sym q .ok (fun k => ((c.rxVals n cc sym q false).getD k (0, false)).1)
      ((c.rxVals n cc sym q false).any (·.2))).when ((c.rxVals n cc sym q false).any (·.2)) fun c =>
        c.incSat F.ACH_CNT_FD_SAT n := by
  rw [Chip.rxDone, if_neg (by simp [hw, hsym, hruns]), hz, hgap]
  rfl

end

theorem execRxSymbolDone_clean (n : Fin 256) (cc : Fin 8) (sym : Nat) (s : State) :
    execRxSymbolDone n cc sym false s
      = s.stage fun c => c.rxDone n cc sym (c.symWhen ((c.cfgDone n cc sym).ccw cc) sym) := by
  rw [execRxSymbolDone]
  refine congrArg s.stage (funext fun c => ?_)
  generalize hR : Chip.rxDone c n cc sym = R
  extract_lets -underBinder g w p
  change _ = R (c.symWhen w sym)
  generalize c.symWhen w sym = q
  subst hR
  obtain ⟨t, sfn⟩ := q
  rfl

/-- The zeros of a channel that is OUT are stored where memory is awake. -/
theorem exec_rxSymbolDone_zeros {s : State} {n : Fin 256} {cc : Fin 8} {sym w : Nat} {q : Nat × Nat}
    (hcc : (s.chip.cfgDone n cc sym).ccw cc = w) (hq : s.chip.symWhen w sym = q) (hw : ccType w ≠ 0) (hsym : sym < ccSyms w)
    (hruns : s.chip.rxRuns w q.1 = true) (ha : s.chip.awake = true) (hz : s.chip.rxZeros n w sym q.1 = true)
    (hd : (s.chip.rxPut n cc sym q .ok (fun _ => 0) false).awake = true) :
    exec (.rxSymbolDone n cc sym false) s = .next (s.to (s.chip.rxPut n cc sym q .ok (fun _ => 0) false)) := by
  subst hcc hq
  change execRxSymbolDone n cc sym false s = _
  rw [execRxSymbolDone_clean]
  exact State.stage_to ha (Chip.rxDone_zeros hw hsym hruns hz) hd

/-- The values that arrived are stored where memory is awake, and a saturation is counted. -/
theorem exec_rxSymbolDone_values {s : State} {n : Fin 256} {cc : Fin 8} {sym w : Nat} {q : Nat × Nat}
    (hcc : (s.chip.cfgDone n cc sym).ccw cc = w) (hq : s.chip.symWhen w sym = q) (hw : ccType w ≠ 0) (hsym : sym < ccSyms w)
    (hruns : s.chip.rxRuns w q.1 = true) (ha : s.chip.awake = true) (hz : s.chip.rxZeros n w sym q.1 = false)
    (hgap : s.chip.gapIn n q.1 (symTicks w sym) = false) {d : Chip}
    (hput : s.chip.rxPut n cc sym q .ok (fun k => ((s.chip.rxVals n cc sym q false).getD k (0, false)).1)
      ((s.chip.rxVals n cc sym q false).any (·.2)) = d) (hd : d.awake = true) :
    exec (.rxSymbolDone n cc sym false) s = .next (s.to (
      if (s.chip.rxVals n cc sym q false).any (·.2) then d.incSat F.ACH_CNT_FD_SAT n else d)) := by
  subst hcc hq hput
  change execRxSymbolDone n cc sym false s = _
  rw [execRxSymbolDone_clean]
  have hwhen (b : Bool) (d : Chip) (h : d.awake = true) : (d.when b fun c => c.incSat F.ACH_CNT_FD_SAT n).awake = true := by
    cases b <;> exact h
  exact State.stage_to ha (Chip.rxDone_values hw hsym hruns hz hgap) (hwhen _ _ hd)

/-! ## The gain loop (R155–R158) -/

/-- The symbol measured is the one that has just ended (R156): nothing in it speaks against the measurement. -/
theorem exec_gainSymbolMeasured {s : State} {n : Fin 256} {w len peak : Nat} {st d : Nat × Nat} (href : s.chip.refCarrier n = some w)
    (hst : s.chip.symOf w (tickAdd (s.chip.symOf w s.chip.tick).2 (tickMod - 1)) = st) (hlen : symTicks w st.1 = len)
    (hpeak : (s.chip.tapsIn n st.2 len).foldl (fun m p => max m p.peak) 0 = peak) (hd : s.chip.gainDecide n peak = d)
    (hmode : s.chip.rd F.ACH_GAIN_CFG_MODE n = 1) (hsvc : s.chip.svc n ≠ acOut) (hstep : (s.chip.achX n).step = none)
    (hlast : ∀ g, (s.chip.achX n).lastStep = some g → tickLater g st.2 = false) (hpa : s.chip.paOver n st.2 len = false)
    (hexch : s.chip.exchOver st.2 len = false) (hgap : s.chip.gapIn n st.2 len = false) :
    exec (.gainSymbolMeasured n) s = .next (s.to (
      let c := s.chip.updAch n (fun x => { x with dnRun := d.2 })
      if d.1 = s.chip.rd F.ACH_GAIN_STAT_CODE n then c else c.gainStep n d.1 (tickAdd st.2 len))) := by
  subst hd hpeak hlen
  change execGainSymbolMeasured n s = _
  refine State.run_to ?_
  generalize Chip.symOf s.chip = symOf at hst ⊢
  generalize Chip.gainDecide s.chip = gainDecide
  subst hst
  cases hl : (s.chip.achX n).lastStep with
  | none =>
    simp [href, hmode, hsvc, hstep, hl, hpa, hexch, hgap]
    rfl
  | some g =>
    simp [href, hmode, hsvc, hstep, hl, hlast g hl, hpa, hexch, hgap]
    rfl

/-! ## The transmit chain (R159–R165) -/

/-- A downlink symbol that its stage finds ready, or that goes out as zeros. -/
theorem Chip.stageStart_runs {c : Chip} {n cc sym : Nat} (ready : Bool)
    (hw : ccType (dlWord ((c.cfgNext n cc sym).ccw cc)) ≠ 0) (hsym : sym < ccSyms (dlWord ((c.cfgNext n cc sym).ccw cc)))
    (hruns : c.txRuns n (dlWord ((c.cfgNext n cc sym).ccw cc)) (c.symNext (dlWord ((c.cfgNext n cc sym).ccw cc)) sym) = true) :
    c.stageStart n cc sym ready = (
      let g := c.cfgNext n cc sym
      let w := dlWord (g.ccw cc)
      let t := c.symNext w sym
      let c := if ready then (if g.inWindow [] t (symTicks w sym) true then c else c.incSat F.ACH_CNT_TX_OUTSIDE n)
        else
          let c := match c.dlCommand w t with
            | some h => c.dlMissed h.ref
            | none => c
          c.withAch { c.ach with
            zeroed := (c.ach.zeroed.filter fun (e : Nat × Nat) => tickDiff c.tick e.2 < frameTicks) ++ [(ccCell w, t)] }
      if g.inWindow (c.achX n).skip t (symTicks w sym) false then c.txSend g n cc sym t ready else c) := by
  unfold Chip.stageStart
  refine (if_neg ?_).trans ?_
  · simp [hw, hsym.not_ge, hruns]
  · cases ready with
    | true => simp only [if_true, Chip.when_not]
    | false => rfl

/-- A power amplifier's edge that comes early enough and alone is sent to its antenna (R162). -/
theorem execPaEdge_sent {s : State} {n : Fin 256} {w : Fin 8} {t : Nat} {v : Nat × Nat} {c : Chip}
    (ht : s.chip.paEdgeTick n w true = some t) (hwin : (s.chip.achX n).cfg.win w = some v) (hok : s.chip.txOpenOk n = true)
    (hc : s.chip.setAch n { s.chip.achX n with
      skip := (s.chip.achX n).skip.filter (· != w.val)
      pa := true } = c)
    (hlead : leadTicks ≤ tickDiff t s.chip.tick) (hsame : s.chip.sameEdge (achLink n) t true = false)
    (hinj : (c.sbSend (achLink n) (sbMsg 0x11 (n.val % 16) t 1)).injRuns = false) :
    execPaEdge n w true s = .next (s.to (c.sbSend (achLink n) (sbMsg 0x11 (n.val % 16) t 1))) := by
  have hon : b2n true = 1 := rfl
  refine State.run_to ?_
  generalize tickDiff = lead at hlead ⊢
  simp only [ht, hwin, hok, Int.not_lt.2 hlead, decide_false, Bool.and_false, Bool.not_true, Bool.false_eq_true, if_false,
    Bool.false_and, hsame, hon, Bool.not_false, Bool.true_or, if_true]
  rw [hc, Chip.when_true, Bool.true_and, hinj, Chip.when_false]

/-- An emergency ramp ends; a warm reset that waited for it begins with the last (R52, R169). -/
theorem Chip.emergEnd_of_emer {c : Chip} {n : Nat} (h : (c.achX n).emer = true) : c.emergEnd n = (c.setAch n { c.achX n with
    emer := false
    win := none
    up := none
    down := none
    pa := false }).muteLink (achLink n) := if_pos h

theorem Chip.emergEnd_dev (c : Chip) (n : Nat) : (c.emergEnd n).dev = c.dev := by
  unfold Chip.emergEnd
  dsimp only
  split
  · exact Chip.muteLink_dev _ _
  · rfl

/-- Settles O16: each command's effect, by the case that its state and operands select. -/
theorem channelSignalComplete : Obligations.ChannelSignalComplete := by
  refine ⟨fun s n cc sym => fun hw hsym hruns ha => ⟨exec_rxSymbolDone_zeros rfl rfl hw hsym hruns ha,
      fun hz hgap => exec_rxSymbolDone_values rfl rfl hw hsym hruns ha hz hgap rfl⟩,
    fun s n w href => exec_gainSymbolMeasured href rfl rfl rfl rfl, fun s n code t hstep => ?_,
    fun s n w hwin hok hskip hnone => ?_, fun s n w hwin hemer => ?_,
    fun s n w t v ht hwin hok => ⟨fun hlead => ?_, fun hlead hsame hinj => ?_⟩,
    fun s n hemer => ⟨fun hwarm => ?_, fun f hwarm => ?_⟩, fun s n cc sym ready => fun hw hsym hruns ha hd => ?_⟩
  · change execGainStepApply n s = _
    exact State.run_to (by simp only [hstep])
  · change execTxWindowOpen n w s = _
    exact State.run_to (if_pos (by rw [hwin, hok, hskip, hnone]; rfl))
  · change execTxWindowEnd n s = _
    exact State.run_to (by simp [hwin, hemer])
  · change execPaEdge n w true s = _
    exact State.run_to (by simp only [ht, hwin, hok, hlead]; rfl)
  · change execPaEdge n w true s = _
    exact execPaEdge_sent ht hwin hok rfl hlead hsame hinj
  · change execEmergencyRampEnd n s = _
    exact State.run_to (by simp only [(s.chip.emergEnd_dev n), hwarm]; exact Chip.emergEnd_of_emer hemer)
  · change execEmergencyRampEnd n s = _
    exact State.run_to (by simp only [(s.chip.emergEnd_dev n), hwarm]; rw [Chip.emergEnd_of_emer hemer])
  · change execAchTxStageStart n cc sym ready s = _
    exact State.stage_to ha (Chip.stageStart_runs ready hw hsym hruns) hd

end Sys2Proof.Machine
end


section
/-! PROOFS. The Steamer (R243–R251) and the calibration store (R258–R264). -/
namespace Sys2Proof.Machine

/-! ## The Steamer -/

section
variable {s : State} {n : Fin 256} (obs same : Bool)

/-- A period cut short is discarded (R244). -/
theorem despreadPeriodEnd_cut (hsvc : s.chip.svc n ≠ acOut) (htrack : s.chip.calTrack = true) (hcut : s.chip.cal.cut = true)
    (hsince : s.chip.cal.since.contains n.val = false) :
    exec (.despreadPeriodEnd n obs same) s = .next (s.to
      ((s.chip.setCalAnt n { s.chip.calAnt n with lost := false }).withCal
        { (s.chip.setCalAnt n { s.chip.calAnt n with lost := false }).cal with since := n.val :: s.chip.cal.since })) := by
  have hcond : (s.chip.cal.cut && !s.chip.cal.since.contains n.val) = true := by rw [hcut, hsince]; rfl
  change execDespreadPeriodEnd n obs same s = _
  exact State.run_to ((if_neg (by simp [hsvc, htrack])).trans (if_pos hcond))

/-- Any other gives an estimate where the injection came back, and receive coefficients where the uplink is tracked (R243,
R247). -/
theorem despreadPeriodEnd_whole (hsvc : s.chip.svc n ≠ acOut) (htrack : s.chip.calTrack = true)
    (hcut : s.chip.cal.cut = false ∨ s.chip.cal.since.contains n.val = true) :
    let c1 := (s.chip.setCalAnt n { s.chip.calAnt n with lost := false }).setFlag F.CAL_ANT_STAT_OBS_OK
      (obs && (s.chip.setCalAnt n { s.chip.calAnt n with lost := false }).injRuns) n
    let held := c1.flag F.CAL_ANT_STAT_DIVERGED n
    let c2 := if (c1.injRuns && obs && !held && !(s.chip.calAnt n).lost) = true then c1.calDrift n else c1
    let c3 := if (c2.flag F.CAL_CTRL_ULT_EN && !held && c2.ulMapped n) = true then c2.calTrackRx n else c2
    exec (.despreadPeriodEnd n obs same) s = .next (s.to ((c3.setCalAnt n { c3.calAnt n with
      periods := (c3.calAnt n).periods + 1
      pairOk := (c3.calAnt n).pairOk || (1 ≤ (c3.calAnt n).periods && same) }).calConverge n)) := by
  have hcond : (s.chip.cal.cut && !s.chip.cal.since.contains n.val) = false := by
    rcases hcut with h | h <;> rw [h]
    · rfl
    · exact Bool.and_false _
  change execDespreadPeriodEnd n obs same s = _
  exact State.run_to ((if_neg (by simp [hsvc, htrack])).trans (if_neg (by rw [← Bool.not_eq_true] at hcond; exact hcond)))

end

/-- Settles O17: each command's effect, by the case that its state and operands select. -/
theorem steamerCommandsComplete : Obligations.SteamerCommandsComplete := by
  refine ⟨fun s n obs same hsvc htrack hcut => despreadPeriodEnd_whole obs same hsvc htrack hcut,
    fun s n obs same hsvc htrack hcut hsince => despreadPeriodEnd_cut obs same hsvc htrack hcut hsince,
    fun s hrun hen hnone clash => ?_, fun s t hrun hen ht => ?_, fun s t hrun hen ht hfree => ?_,
    fun s t res hgroup htick hrun => ?_, fun s => fun hrun => ?_⟩
  · change execGuardExchange clash s = _
    exact State.run_to (by simp only [hrun, hen, hnone]; rfl)
  · change execGuardExchange true s = _
    exact State.run_to (by simp only [hrun, hen, ht, Bool.not_true, Bool.or_self, Bool.false_eq_true, if_false, Bool.true_or,
      if_true])
  · change execGuardExchange false s = _
    refine State.run_to ?_
    simp only [hrun, hen, ht, Bool.not_true, Bool.or_self, Bool.false_eq_true, if_false, Bool.false_or]
    rw [if_neg]
    -- No power amplifier rises within the exchange.
    simp only [Bool.not_eq_true, List.any_eq_true, List.mem_range, not_exists, not_and]
    intro n hn w hw
    cases he : s.chip.paEdgeTick n w true with
    | none => simp
    | some e =>
      simp only [Bool.and_eq_false_iff, decide_eq_false_iff_not, not_le]
      push_cast
      exact hfree n hn w hw e he
  · change execSweepComplete res s = _
    exact State.run_to (by simp only [hgroup, htick, hrun]; rfl)
  · change execTempReadTimer s = _
    exact State.run_to (by simp only [hrun]; rfl)

/-! ## The calibration store -/

/-- The oldest fetched command of a ring, if it is the command that the step is for. -/
theorem State.run_takeCmd {s : State} {f r op : Nat} {k : Chip → HostCmd → Chip} {h : HostCmd} {d : Chip}
    (hnext : s.chip.nextFetched f r = some h) (hop : h.op = op) (hlist : opListed op = true) (hk : k s.chip h = d) :
    (s.run fun c => c.takeCmd f r op k) = .next (s.to d) := by
  subst hop
  exact State.run_to (by simp only [Chip.takeCmd, hnext, hlist, Bool.not_true, Bool.false_eq_true, if_false, if_true, hk])

/-- Settles O18: each command's effect, by the case that its state and operands select. -/
theorem storeCommandsComplete : Obligations.StoreCommandsComplete := by
  refine ⟨fun s p v hmay hkey hgo => ?_, fun s t hop => ?_, fun s hpend => ?_, fun s p hmay => State.run_action hmay rfl,
    fun s f r h hnext hop hok => ⟨fun hidle => ?_, fun hbusy => ?_⟩, fun s f r h hnext hop hok => ?_⟩
  · change execCalStoreSave p v s = _
    exact State.run_guarded hmay (by simp [hkey, hgo])
  · change execCalStoreWriteComplete s = _
    exact State.run_to (by simp only [hop])
  · change execEraseLeftoverDone s = _
    exact State.run_to (if_pos hpend)
  · change execCalStoreExport f r s = _
    exact State.run_takeCmd hnext hop (by decide) (by simp only [hok, hidle]; rfl)
  · change execCalStoreExport f r s = _
    exact State.run_takeCmd hnext hop (by decide) (by simp only [hok, Option.isSome_iff_ne_none.2 hbusy, if_true])
  · change execCalStoreImport f r s = _
    refine State.run_takeCmd hnext hop (by decide) ?_
    simp only [hok]
    generalize s.chip.importFails (s.chip.hostImg h.buf) = checked
    match checked with
    | (none, _) => rfl
    | (some _, none) => rfl
    | (some _, some (_, _)) => rfl

end Sys2Proof.Machine
end


section
/-! PROOFS. The host interface: versions, rings and doorbells (R79–R83, R97–R99). -/
namespace Sys2Proof.Machine

/-! ## Doorbells (R82, R83) -/

/-- The doorbell of completion ring `k` stands at 0x100 + 8k of its function's page. -/
theorem doorbellRing_completion {k : Nat} (hk : k < 8) : doorbellRing (0x100 + 8 * k) = some (8 + k) := by
  have h8 : (0x100 + 8 * k) % 8 = 0 := by omega
  have hlo : ¬ 0x100 + 8 * k < 0x40 := by omega
  have hhi : 0x100 + 8 * k < 0x140 := by omega
  have hq : (0x100 + 8 * k - 0x100) / 8 = k := by omega
  simp only [doorbellRing, h8, hlo, hhi, hq, Nat.le_add_right, decide_true, Bool.and_self, ne_eq, not_true_eq_false, if_false,
    if_true]

section
variable {c : Chip} {f off r v : Nat}

/-- A valid doorbell of an enabled ring is taken. -/
theorem Chip.doorbell_taken (hr : doorbellRing off = some r) (hen : c.flag F.RING_CFG_ENABLE f r = true)
    (hres : c.resetting f r = false) (hok : c.doorbellOk f r (v % 2 ^ 32) = true) :
    c.doorbell f off 8 v = (if 8 ≤ r && r < 16 then (c.wr F.RING_PTR_HOST_COUNT (v % 2 ^ 32) f r).stallUp f r
      else c.wr F.RING_PTR_HOST_COUNT (v % 2 ^ 32) f r, true) := by
  simp only [Chip.doorbell, hr, hen, hres, hok, ne_eq, not_true_eq_false, decide_false, Bool.not_true, Bool.or_self,
    Bool.false_eq_true, if_false, if_true]

/-- An invalid one is an error of its ring. -/
theorem Chip.doorbell_invalid (hr : doorbellRing off = some r) (hen : c.flag F.RING_CFG_ENABLE f r = true)
    (hres : c.resetting f r = false) (hok : c.doorbellOk f r (v % 2 ^ 32) = false) :
    (c.doorbell f off 8 v).1 = c.ringError f r .badDescriptor := by
  simp only [Chip.doorbell, hr, hen, hres, hok, ne_eq, not_true_eq_false, decide_false, Bool.not_true, Bool.or_self,
    Bool.false_eq_true, if_false]

end

/-- Settles O19: each command's effect, by the case that its state and operands select. -/
theorem ringControlComplete : Obligations.RingControlComplete := by
  refine ⟨fun s p f v r hmay hr hen => ?_, fun s p f v hmay hoff => ?_,
    fun s p f r v hmay hoff hres hmust hlo hhi htop hver => ?_, fun s p f r hmay => State.run_guardedFn hmay rfl,
    fun s f r hres hquiet hnone => ?_, fun s p f hmay => State.run_guardedFn hmay rfl,
    fun s f k v hmode hwarm hen hres => ⟨fun hok => ?_, fun hok => ?_⟩, fun s f v hmode hwarm hen hres hok => ?_,
    fun s f q hen => ?_, fun s f q hn htime => ?_, fun s f v m hm => ⟨fun hpend => ?_, fun hpend => ?_⟩⟩
  · change execHifVersionWrite p f v s = _
    exact State.run_guardedFn hmay (if_pos (List.any_eq_true.2 ⟨r, List.mem_range.2 hr, hen⟩))
  · have hnone : ((List.range 17).any fun r => s.chip.flag F.RING_CFG_ENABLE f r) = false := by
      simpa [List.any_eq_false] using hoff
    refine ⟨fun hmaj => ?_, fun hmaj => ?_⟩
    · change execHifVersionWrite p f v s = _
      exact State.run_guardedFn hmay (by simp only [hnone, hmaj, Bool.false_eq_true, if_false, if_true])
    · change execHifVersionWrite p f v s = _
      exact State.run_guardedFn hmay (by simp only [hnone, hmaj, Bool.false_eq_true, if_false])
  · change execRingEnable p f r v s = _
    exact State.run_guardedFn hmay (by
      simp only [hoff, hres, hmust, hlo.not_gt, hhi.not_gt, htop.not_gt, hver, decide_false, Bool.or_self, Bool.false_eq_true,
        if_false, if_true, List.append_nil])
  · change execRingResetComplete f r s = _
    have hend : (List.range 17).any (fun k => Chip.resetting ((s.chip.ringZero f r).w1sEnd F.RING_CFG_RESET f r fun c =>
        c.setRingX f r { c.ringX f r with resetting := true }) f k) = false := by
      simpa [List.any_eq_false] using hnone
    exact State.run_to ((if_pos (by rw [hres, hquiet]; rfl)).trans (if_neg (by rw [hend]; exact Bool.false_ne_true)))
  · change execCplDoorbell f (0x100 + 8 * k) 8 v s = _
    refine State.run_to ?_
    rw [if_neg hmode, hwarm, if_neg Bool.false_ne_true, Chip.doorbell_taken (doorbellRing_completion k.isLt) hen hres hok]
    have hk : 8 + k.val < 16 := by omega
    exact if_pos (by simp [hk])
  · change execCplDoorbell f (0x100 + 8 * k) 8 v s = _
    refine State.run_to ?_
    rw [if_neg hmode, hwarm, if_neg Bool.false_ne_true, Chip.doorbell_invalid (doorbellRing_completion k.isLt) hen hres hok]
  · change execEventDoorbell f 0x180 8 v s = _
    refine State.run_to ?_
    have hevt : ¬ (decide (8 ≤ 16) && decide (16 < 16)) = true := by decide
    rw [if_neg hmode, hwarm, if_neg Bool.false_ne_true, Chip.doorbell_taken (r := 16) (by decide) hen hres hok, if_neg hevt]
  · change execHostWriteFailed f q s = _
    exact State.run_to (if_pos hen)
  · change execCoalesceTimeout f q s = _
    exact State.run_to (if_pos (by simp [hn, htime]))
  · change execMsixUnmask f v s = _
    subst hm
    exact State.run_to (if_pos hpend)
  · change execMsixUnmask f v s = _
    subst hm
    exact State.run_to (if_neg (by simp [hpend]))

end Sys2Proof.Machine
end


section
/-! PROOFS. Commands of the host, from their fetch to their completion (R82–R94, R98). -/
namespace Sys2Proof.Machine

/-! ## Slot commands (R85–R92) -/

section
variable {s : State} {f : Fin 64} {r : Fin 8} {h : HostCmd}

/-- A slot command that nothing speaks against has its item table read, with no status held. -/
theorem Chip.slotTake_clean {c : Chip} (hmode : c.mode ≠ mSoak) (hentry : Chip.entryFaults h = [])
    (hslot : c.slotEntryFaults h = [])
    (hopen : (c.setRingX h.fn h.ring { c.ringX h.fn h.ring with lastStart := some h.start }).intakeClosed = false)
    (hstart : tickLater h.fetchTick h.start = false)
    (hlate : (h.op == 1) = true → tickLater c.tick h.deadline = false)
    (hshort : ∀ w l, (h.op == 1) = true → h.carrier = some (w, l) →
      symInSlot w h.slotNo 14 ≤ tickDiff h.deadline h.start) :
    c.slotTake h = (c.setRingX h.fn h.ring { c.ringX h.fn h.ring with lastStart := some h.start }).putCmd { h with
      stage := .table
      status := .ok
      cond := 0 } := by
  have hlate' : (h.op == 1 && tickLater (c.setRingX h.fn h.ring
      { c.ringX h.fn h.ring with lastStart := some h.start }).tick h.deadline) = false := by
    cases hop : h.op == 1
    · exact Bool.false_and _
    · rw [Bool.true_and, Chip.setRingX_tick, hlate hop]
  unfold Chip.slotTake
  rw [if_neg hmode, hentry, hslot]
  simp only [List.append_nil, hopen, hstart, hlate', Bool.or_self, Bool.false_or, Bool.false_eq_true, if_false,
    List.nil_append]
  rw [if_neg]
  · rfl
  · cases hop : h.op == 1
    · simp
    · cases hc : h.carrier with
      | none => simp
      | some e => simpa using hshort e.1 e.2 hop hc

/-- A finished entry's status is the worst that holds, and its mask names each of them (R90). -/
theorem nop_clean {c : Chip} (hentry : Chip.entryFaults h = []) (hres : h.nopReserved = false) :
    c.cmdEnd h (Chip.entryFaults h ++ (if h.nopReserved then [.badDescriptor] else [])) 0 0 = c.putCmd { h with
      stage := .finished
      status := .ok
      cond := condAdd h.cond .ok
      nOk := 0
      nFail := 0 } := by
  rw [hentry, hres]
  rfl

theorem nop_reserved {c : Chip} (hentry : Chip.entryFaults h = []) (hres : h.nopReserved = true) :
    c.cmdEnd h (Chip.entryFaults h ++ (if h.nopReserved then [.badDescriptor] else [])) 0 0 = c.putCmd { h with
      stage := .finished
      status := .badDescriptor
      cond := condAdd h.cond .badDescriptor
      nOk := 0
      nFail := 0 } := by
  rw [hentry, hres]
  rfl

end

/-- The flow of slot queue `k` has no room for another task (R82). -/
def Chip.flowFull (c : Chip) (k : Nat) : Bool :=
  let fl := c.rd F.SCHED_SLOT_MAP_FLOW k
  c.flag F.SCHED_FLOW_CFG_EN fl && c.maxOut fl ≤ c.rd F.SCHED_FLOW_STAT_OUT fl

theorem Chip.flowFull_eq_false {c : Chip} {k : Nat} (h : c.flag F.SCHED_FLOW_CFG_EN (c.rd F.SCHED_SLOT_MAP_FLOW k) = true →
    c.rd F.SCHED_FLOW_STAT_OUT (c.rd F.SCHED_SLOT_MAP_FLOW k) < c.maxOut (c.rd F.SCHED_SLOT_MAP_FLOW k)) :
    c.flowFull k = false := by
  simpa [Chip.flowFull] using h

/-- Settles O20: each command's effect, by the case that its state and operands select. -/
theorem hostCommandsComplete : Obligations.HostCommandsComplete := by
  refine ⟨fun s f r => fun hmode hen hres hhost hfree hcmds hall hentries hflow => ?_,
    fun s f r h hnext hmode => fun hentry hopen hslot hstart => ⟨fun hop => ?_, fun w l hop hlate hcar hshort => ?_⟩,
    fun s f r h hnext hop hentry => ⟨fun hres => ?_, fun hres => ?_⟩,
    fun s f r h k hfind hst hfree => ⟨fun hok hcp => ?_, fun hbad => ?_, ?_, ?_⟩, fun s f r h t hcmds hst hturn => ?_⟩
  · have hnone : ([0, 1].any fun k =>
        (s.chip.stallUp f (cplRing (s.chip.rd F.RING_CFG_CPL_RING f r))).flowFull k) = false := by
      simp only [List.any_cons, List.any_nil, Chip.flowFull_eq_false (hflow 0 (by decide)),
        Chip.flowFull_eq_false (hflow 1 (by decide)), Bool.or_self]
    change execCommandFetch f r .ok s = _
    exact State.run_to ((if_neg (by simp [hmode, hen, hres, hhost])).trans (if_neg (by
      change ¬ (_ || _ || _ || _ || ([0, 1].any fun k => Chip.flowFull _ k)) = true
      rw [hnone]
      simp [hfree, hcmds, hall, hentries.ne'])))
  · change execDlSlot f r s = _
    exact State.run_takeCmd hnext hop (by decide) (Chip.slotTake_clean hmode hentry hslot hopen hstart
      (fun h1 => absurd h1 (by simp [hop])) (fun _ _ h1 => absurd h1 (by simp [hop])))
  · change execUlSlot f r s = _
    refine State.run_takeCmd hnext hop (by decide) (Chip.slotTake_clean hmode hentry hslot hopen hstart
      (fun _ => hlate) fun w' l' _ hcar' => ?_)
    obtain ⟨rfl, rfl⟩ : w = w' ∧ l = l' := by simpa [hcar] using hcar'
    exact hshort
  · change execNop f r s = _
    exact State.run_takeCmd hnext hop (by decide) (nop_clean hentry hres)
  · change execNop f r s = _
    exact State.run_takeCmd hnext hop (by decide) (nop_reserved hentry hres)
  · change execItemTableRead f r .ok s = _
    simp only [hst] at hok hcp
    exact State.run_to (by simp only [hfind, hok, hcp, hst, hfree, if_true, Bool.false_eq_true, if_false, List.append_nil])
  · change execItemTableRead f r .ok s = _
    simp only [hst] at hbad
    exact State.run_to (by simp only [hfind, hbad, hst, hfree, if_true, Bool.false_eq_true, if_false, List.append_nil]; rfl)
  · change execItemTableRead f r .poisoned s = _
    exact State.run_to (by simp only [hfind])
  · change execItemTableRead f r .failed s = _
    exact State.run_to (by simp only [hfind])
  · change execCompletionPost f r s = _
    exact State.run_to (by simp only [hcmds, hst, hturn]; rfl)

end Sys2Proof.Machine
end


section
/-! PROOFS. Images, attestation and the trust block's own actions (R475–R492). -/
namespace Sys2Proof.Machine

section
variable {s : State} {f : Fin 64} {r : Fin 8} {h : HostCmd}

/-- An IMAGE_LOAD that nothing speaks against is put to the trust block (R485). -/
theorem Chip.imageTake_clean {c : Chip} {dest : Nat} {op : CmdRef → TrustOp} (hdest : h.dest = dest)
    (hok : c.svcFaults h (h.bufOk (bits h.w2 31 0) && h.w2 / 2 ^ 34 == 0
        && (2 ≤ dest || (bits h.w2 31 0 == manBytes + Img.bodyLen (c.hostImg h.buf)
          && (dest != 0 || Img.type (c.hostImg h.buf) != 5))))
      (loadModes dest (Img.type (c.hostImg h.buf))) = []) :
    c.imageTake h dest op = (c.putCmd { h with stage := .started }).trustAsk (op h.ref) := by
  simp only [Chip.imageTake, hdest, hok, ne_eq, not_true_eq_false, if_false]

end

/-- Settles O21: each command's effect, by the case that its state and operands select. -/
theorem trustCommandsComplete : Obligations.TrustCommandsComplete := by
  refine ⟨fun s f r h hnext hop hok => ?_,
    fun s f r h im len hnext hop him hlen => ⟨fun hdest hok => ?_, fun hdest hok => ?_, fun hdest hok => ?_,
      fun hdest hok => ?_⟩,
    fun s code hop => ?_, fun s code ref hop hact hfuse => ?_, fun s p hmay hwait => ?_, fun s hwait => ?_,
    fun s p n hmay hn => ?_, fun s rsa slh floor ref u hfuse hu => ?_, fun s ref rep h d hop hd hcmd hkeep hpcie => ?_,
    fun s a c hact hbusy hc => ⟨fun ref href => ?_, fun hnone => ?_⟩⟩
  · change execAttestReport f r s = _
    exact State.run_takeCmd hnext hop (by decide) (by simp only [hok])
  · subst him hlen
    change execImageLoadLoad f r s = _
    exact State.run_takeCmd hnext hop (by decide) (Chip.imageTake_clean hdest hok)
  · subst him hlen
    change execImageLoadFlash f r s = _
    exact State.run_takeCmd hnext hop (by decide) (Chip.imageTake_clean hdest (by simpa [loadModes] using hok))
  · subst him hlen
    change execImageLoadCommit f r s = _
    exact State.run_takeCmd hnext hop (by decide) (Chip.imageTake_clean hdest (by simpa [loadModes] using hok))
  · subst him hlen
    change execImageLoadErase f r s = _
    exact State.run_takeCmd hnext hop (by decide) (Chip.imageTake_clean hdest (by simpa [loadModes] using hok))
  · change execImageVerifyDone code s = _
    exact State.run_to (by simp only [hop])
  · change execImageVerifyDone code s = _
    exact State.run_to (by simp only [hop, hact, hfuse])
  · exact State.run_action hmay (if_pos hwait)
  · change execHostImageTimeout s = _
    exact State.run_to (if_pos hwait)
  · subst hn
    exact State.run_action hmay rfl
  · subst hu
    change execFuseProgramDone s = _
    exact State.run_to (by simp only [hfuse])
  · subst hd
    change execAttestSignDone s = _
    exact State.run_to (by simp [hop, Chip.fresh, hcmd, hkeep, hpcie])
  · change execFlashOpDone s = _
    rw [hc] at href ⊢
    exact State.run_to (by rcases href with href | href | href <;> simp only [hact, hbusy, href])
  · change execFlashOpDone s = _
    rw [hc] at hnone ⊢
    exact State.run_to (by simp only [hact, hbusy, hnone])

end Sys2Proof.Machine
end


section
/-! PROOFS. The Presses: their commands, from their reading to their record (R194–R211), and ring messages (R136). -/
namespace Sys2Proof.Machine

/-! ## Reading and starting commands -/

section
variable {s : State} {n : Fin 8} {q : AeCmd} {c2 : Chip} {m : Nat}

/-- A command whose words arrive unpoisoned is read ahead (R196). -/
theorem exec_aeCommandRead {t : Task} {read : Chip × List WordRead} (hready : s.chip.aeReady n = none)
    (hnext : s.chip.aeNext n = some t) (harg : t.arg % 128 = 0)
    (hread : s.chip.readWords (.pressStream n) t.arg 8 = read) (hclean : ∀ w ∈ read.2, w.poison = false)
    (ha : s.chip.awake = true) (hd : read.1.awake = true) :
    exec (.aeCommandRead n) s = .next (s.to (read.1.setAe n { read.1.aeX n with
      ready := some ⟨t.id, t.arg, read.2.map (·.data)⟩ })) := by
  obtain ⟨c, ws⟩ := read
  have hany : ws.any (·.poison) = false := by simpa using hclean
  change execAeCommandRead n s = _
  refine State.stage_to ha ?_ ((Chip.awake_congr rfl).trans hd)
  simp only [hready, hnext, hread, hany, harg, Option.isSome_none, ne_eq, not_true_eq_false, Bool.false_eq_true, if_false]

/-- The chip when the Press takes up the command `q` it has read ahead, the command of task `t`. -/
def Chip.aeTaken (c : Chip) (n : Nat) (t : Task) : Chip :=
  (c.setAe n { c.aeX n with
    ready := none
    run := none }).putTask { t with ran := true }

/-- A command of the operation, kept by its rules and in time, starts with its mask (R195, R202). -/
theorem Chip.aeStart_go {c c2 : Chip} {n : Nat} {t t' : Task} {ops : Nat → Bool} {go : Chip → AeRun → Chip}
    (hready : c.aeReady n = some q) (hrun : c.aeRun n = none) (hruns : c.aeRuns n = true)
    (htask : (c.setAe n { c.aeX n with
      ready := none
      run := none }).task q.task = some t) (htask' : (c.aeTaken n t).task q.task = some t')
    (hok : (c.aeTaken n t).aeOk q = true) (hver : bits (q.word 0) 11 8 = 1)
    (hdl : (c.aeTaken n t).deadlinePassed t'.deadline = false)
    (hmask : (if (q.maskK || q.maskM) = true then (c.aeTaken n t).aeMask q.cell q.tick else (c.aeTaken n t, some 0))
      = (c2, some m))
    (hops : ops q.op = true) (h0 : q.op ≠ 0) (h5 : q.op ≤ 5) :
    c.aeStart n ops go = go c2 {
      cmd := q
      mask := m
      maxRe := min 2 ((c.aeTaken n t).rd F.AE_TILE_CFG_MAX_RECOMP n)
      finished := false
      cond := 0 } := by
  simp only [Chip.aeTaken] at htask' hok hdl hmask ⊢
  unfold Chip.aeStart
  simp only [hready, hrun, hruns, hops, htask, htask', hok, hver, hdl, h0, h5.not_gt, Option.isSome_none, decide_false,
    Bool.not_true, Bool.or_self, Bool.false_eq_true, ne_eq, not_true_eq_false, if_false]
  cases hm : q.maskK || q.maskM
  · rw [hm] at hmask
    obtain ⟨hc, h0⟩ := Prod.mk.inj hmask
    rw [← hc, ← Option.some.inj h0]
    rfl
  · rw [hm] at hmask
    rw [if_pos rfl] at hmask ⊢
    rw [hmask]

/-- On a port that runs joint detection a send command starts as any other. -/
theorem Chip.aeGoSend_on {c : Chip} {n : Nat} {r : AeRun} (h : c.jdOn (16 + r.cmd.port) = true) :
    c.aeGoSend n r = c.aeGo n r := by
  simp only [Chip.aeGoSend, h, Bool.true_or, if_true]

end

/-- A REQUEST whose words all arrive is sent (R194, R213). -/
theorem exec_aeJdReqSend {s : State} {n : Fin 8} {r : AeRun} {c2 : Chip} {read : Chip × List WordRead}
    (hstart : ∀ go, s.chip.aeStart n (· == 5) go = go c2 r) (hfin : r.finished = false) (hcond : r.cond = 0)
    (hjd : c2.jdOn (16 + r.cmd.port) = true)
    (hread : c2.readWords (.pressStream n) r.cmd.mIn.addr r.cmd.n = read)
    (hclean : ∀ w ∈ read.2, w.poison = false ∧ w.status = .ok) (ha : s.chip.awake = true) {c4 : Chip}
    (hsend : read.1.jdSend r.cmd.port (read.1.rd F.ECV_RING_STAT_PEER_ID (16 + r.cmd.port)) 0 r.cmd.tick
      (jdHead r.cmd.kind r.cmd.carrier r.cmd.slotPar 0 0 0 0 (if r.cmd.kind = 3 then 5 else 0) 0 0 r.cmd.tick
        :: read.2.map (·.data)) = c4)
    (hd : (c4.aeGo n { r with finished := true }).awake = true) :
    exec (.aeJdReqSend n) s = .next (s.to (c4.aeGo n { r with finished := true })) := by
  obtain ⟨c3, ws⟩ := read
  have hany : ws.any (·.poison) = false := by simpa using fun w hw => (hclean w hw).1
  have hcondWords : ws.foldl (fun m (w : WordRead) => if w.status = .ok then m else condAdd m w.status) 0 = 0 :=
    List.foldlRecOn (motive := fun m : Nat => m = 0) _ _ rfl fun m hm w hw => by rw [if_pos (hclean w hw).2, hm]
  have hdata : (ws.map fun (w : WordRead) => if w.poison then 0 else w.data) = ws.map (·.data) :=
    List.map_congr_left fun w hw => if_neg (by rw [(hclean w hw).1]; exact Bool.false_ne_true)
  have hsent : b2n false = 0 := rfl
  dsimp only at hsend
  change execAeJdReqSend n s = _
  refine State.stage_to ha ((hstart _).trans ?_) hd
  simp only [hfin, hjd, hread, hany, hcondWords, hdata, Bool.not_true, Bool.false_and, Bool.false_eq_true, if_false,
    Chip.when_false, hsent, hsend, hcond]

/-! ## The end of a tile -/

section
variable {s : State} {n : Fin 8} {r : AeRun} {rem : AeWords} {entry : Option (Nat × Nat)} {c c2 : Chip} {o : AeOut}

/-- A tile whose comparison agrees is delivered (R199). -/
theorem exec_aeTileDone_match (hrun : s.chip.aeRun n = some r) (hfin : r.finished = false)
    (hring : r.cmd.ring = false ∨ s.chip.jdOn (16 + r.cmd.port) = true)
    (hmerge : s.chip.aeMerge n r (r.cmd.tileOf r.tile) = (c, rem, entry, false)) (hinj : c.flag F.AE_CTRL_RES_INJECT n = false)
    (hcompute : c.aeCompute n r (r.cmd.tileOf r.tile) rem entry = (c2, o)) (ha : s.chip.awake = true)
    (hd : (c2.aeDeliver n { r with waiting := false } (r.cmd.tileOf r.tile) o false).awake = true) :
    exec (.aeTileDone n false) s
      = .next (s.to (c2.aeDeliver n { r with waiting := false } (r.cmd.tileOf r.tile) o false)) := by
  have hsend : (r.cmd.ring && !s.chip.jdOn (16 + r.cmd.port)) = false := by
    rcases hring with h | h <;> simp [h]
  change execAeTileDone n false s = _
  refine State.stage_to ha ?_ hd
  unfold Chip.aeTileDone
  simp only [hrun, hfin, hsend, hmerge, hinj, Chip.when_false, hcompute, Bool.not_false, Bool.and_self, Bool.false_eq_true,
    if_false, if_true]

/-- One whose comparison fails is computed again while it has an attempt left (R205). -/
theorem exec_aeTileDone_mismatch (hrun : s.chip.aeRun n = some r) (hfin : r.finished = false)
    (hring : r.cmd.ring = false ∨ s.chip.jdOn (16 + r.cmd.port) = true)
    (hmerge : s.chip.aeMerge n r (r.cmd.tileOf r.tile) = (c, rem, entry, false)) (hinj : c.flag F.AE_CTRL_RES_INJECT n = false)
    (hcompute : c.aeCompute n r (r.cmd.tileOf r.tile) rem entry = (c2, o)) (ha : s.chip.awake = true)
    (hleft : r.attempt < r.maxRe) {c3 : Chip}
    (hc3 : (c2.aeFail n r r.injected false).aeGo n { r with
      attempt := r.attempt + 1
      waiting := false
      injected := r.injected
      cycles := r.cycles + r.cmd.cycles (r.cmd.tileOf r.tile) } = c3) (hd : c3.awake = true) :
    exec (.aeTileDone n true) s = .next (s.to c3) := by
  have hsend : (r.cmd.ring && !s.chip.jdOn (16 + r.cmd.port)) = false := by
    rcases hring with h | h <;> simp [h]
  subst hc3
  change execAeTileDone n true s = _
  refine State.stage_to ha ?_ hd
  unfold Chip.aeTileDone
  simp only [hrun, hfin, hsend, hmerge, hinj, Chip.when_false, hcompute, hleft.not_ge, decide_false, Bool.not_true,
    Bool.false_and, Bool.false_or, Bool.false_eq_true, if_false]

end

/-! ## Ring messages -/

section
variable {s : State} {p : Fin 2} {h : Nat} {body : List Nat}

/-- A message of the right length on a port that is up reaches the member (R136). -/
theorem exec_ringMessageReceive {d : Chip} (hup : s.chip.lkUp (16 + p) = true) (hopen : s.chip.flag F.DEV_MODE_SEAM_OPEN = true)
    (hd : s.chip.ringReceive p (h :: body) = d) : exec (.ringMessageReceive p (h :: body)) s = .next (s.to d) := by
  change execRingMessageReceive p (h :: body) s = _
  exact State.run_to ((if_pos (by rw [hup, hopen]; rfl)).trans hd)

section
variable {c : Chip} {p : Nat} (hlen : bits h 47 32 = body.length) (hne : body ≠ []) (hmax : body.length ≤ 4096)
  (hver : bits h 7 0 = 1)
include hlen hne hmax hver

omit hne hver in
theorem Chip.ringReceive_badCrc (hcrc : bits h 127 96 ≠ ringCrc h body) :
    c.ringReceive p (h :: body) = c.incSat F.ECV_RING_STAT_DISCARD (16 + p) := by
  generalize hc : ringCrc = crc at hcrc
  simp [Chip.ringReceive, hc, hlen, hmax.not_gt, hcrc, Chip.ringDiscard]

theorem Chip.ringReceive_mine (hcrc : bits h 127 96 = ringCrc h body) (hjd : c.jdRuns = true)
    (hmine : bits h 20 16 = c.rd F.ECV_RING_STAT_LOCAL_ID (16 + p)) :
    c.ringReceive p (h :: body) = c.jdReceive p (bits h 12 8) body := by
  simp [Chip.ringReceive, hlen, hne, hmax.not_gt, hver, hcrc, hjd, hmine]

theorem Chip.ringReceive_forward (hcrc : bits h 127 96 = ringCrc h body) (hjd : c.jdRuns = false)
    (hmine : bits h 20 16 ≠ c.rd F.ECV_RING_STAT_LOCAL_ID (16 + p)) (hhops : bits h 25 24 ≠ 2)
    (hup : c.lkUp (33 - (16 + p)) = true) :
    c.ringReceive p (h :: body) = c.ringPut (33 - (16 + p)) true
      ((h % 2 ^ 96 + 2 ^ 24 + ringCrc (h % 2 ^ 96 + 2 ^ 24) body * 2 ^ 96) :: body) := by
  simp [Chip.ringReceive, hlen, hne, hmax.not_gt, hver, hcrc, hjd, hmine, hhops, hup, -Nat.reducePow]

end

end

/-- Settles O22: each command's effect, by the case that its state and operands select. -/
theorem pressCommandsComplete : Obligations.PressCommandsComplete := by
  refine ⟨fun s n t hready hnext harg => fun hclean ha hd => exec_aeCommandRead hready hnext harg rfl hclean ha hd,
    fun s n q t t' c2 m hready hrun hruns => fun htask htask' hok hver hdl hmask ha hd => ?_,
    fun s n r rem entry c c2 o hrun hfin hring => fun hmerge hinj hcompute ha =>
      ⟨exec_aeTileDone_match hrun hfin hring hmerge hinj hcompute ha,
        fun hleft => exec_aeTileDone_mismatch hrun hfin hring hmerge hinj hcompute ha hleft rfl⟩,
    fun s n r hrun hwait => ?_, fun s n r hrun hfin ha => fun hd => ?_,
    fun s p n hmay hidle => State.run_action hmay (Chip.w1sStart_idle _ _ _ _ _ hidle),
    fun s p n hmay => State.run_action hmay rfl, fun s p hmay => State.run_action hmay rfl,
    fun s n hfind ha => fun hd => ?_, fun s p h body hup hopen hlen hne hmax hver => ⟨fun hcrc => ?_, fun hcrc hjd hmine => ?_,
      fun hcrc hjd hmine hhops hfree => ?_⟩⟩
  · have hstart (ops : Nat → Bool) (go : Chip → AeRun → Chip) (hops : ops q.op = true) (h0 : q.op ≠ 0) (h5 : q.op ≤ 5) :=
      Chip.aeStart_go (go := go) hready hrun hruns htask htask' hok hver hdl hmask hops h0 h5
    refine ⟨fun hop => ?_, fun hop => ?_, fun hop hjd => ?_, fun hop hjd => ?_, fun hop hjd => fun hclean hd => ?_⟩
    · change execAeMatmul n s = _
      exact State.stage_to ha (hstart _ _ (by simp [hop]) (by omega) (by omega)) ((Chip.awake_congr rfl).trans hd)
    · change execAeGram n s = _
      exact State.stage_to ha (hstart _ _ (by simp [hop]) (by omega) (by omega)) ((Chip.awake_congr rfl).trans hd)
    · change execAeJdMfSend n s = _
      exact State.stage_to ha ((hstart _ _ (by simp [hop]) (by omega) (by omega)).trans (Chip.aeGoSend_on hjd))
        ((Chip.awake_congr rfl).trans hd)
    · change execAeJdGramSend n s = _
      exact State.stage_to ha ((hstart _ _ (by simp [hop]) (by omega) (by omega)).trans (Chip.aeGoSend_on hjd))
        ((Chip.awake_congr rfl).trans hd)
    · exact exec_aeJdReqSend (fun go => hstart _ go (by simp [hop]) (by omega) (by omega)) rfl rfl hjd rfl hclean ha rfl hd
  · change execAeJdWaitTimeout n s = _
    exact State.run_to (by simp only [hrun, hwait, if_true])
  · change execAeCommandComplete n s = _
    exact State.stage_to ha (by simp only [hrun, hfin, Bool.not_true, Bool.false_eq_true, if_false]) hd
  · change execAeMemCopyDone s = _
    exact State.stage_to ha (by simp only [hfind]) hd
  · exact exec_ringMessageReceive hup hopen (Chip.ringReceive_badCrc hlen hmax hcrc)
  · exact exec_ringMessageReceive hup hopen (Chip.ringReceive_mine hlen hne hmax hver hcrc hjd hmine)
  · exact exec_ringMessageReceive hup hopen (Chip.ringReceive_forward hlen hne hmax hver hcrc hjd hmine hhops hfree)

end Sys2Proof.Machine
end


section
/-! PROOFS. Jobs of the coding engines and the HARQ state (R218–R238). -/
namespace Sys2Proof.Machine

/-! ## Reading and starting jobs -/

/-- A job as it stands once its input, or its payload, has been read (R222). -/
def Chip.codeRead (c : Chip) (k : Nat) (r : CodeRun) : Chip × CodeRun := if r.dec then c.codeInput k r else c.codePayload k r

theorem Chip.codeRead_op (c : Chip) (k : Nat) (r : CodeRun) : (c.codeRead k r).2.op = r.op := by
  unfold Chip.codeRead
  split <;> rfl

theorem Chip.codeRead_refused (c : Chip) (k : Nat) (r : CodeRun) : (c.codeRead k r).2.refused = r.refused := by
  unfold Chip.codeRead
  split <;> rfl

/-- A descriptor that nothing refuses names an operation that the engine accepts (R220). -/
theorem Chip.codeAccepts_of_codeRefusal {c : Chip} {k : Nat} {r : CodeRun} (h : c.codeRefusal k r = none) :
    codeAccepts k r.op = true := by
  cases hacc : codeAccepts k r.op with
  | true => rfl
  | false => simp [Chip.codeRefusal, hacc] at h

section
variable {c c1 : Chip} {k op : Nat} {t : Task} {ws : List WordRead} {r0 : CodeRun}

theorem Chip.codeFetch_clean (hread : c.readWords (.coding k) t.arg 3 = (c1, ws)) (hclean : ∀ w ∈ ws, w.poison = false)
    (hr0 : r0 = { task := t.id, addr := t.arg, w := ws.map (·.data) }) (hok : c1.codeRefusal k r0 = none) :
    c.codeFetch k t = c1.codeRead k r0 := by
  have hany : ws.any (·.poison) = false := by simpa using hclean
  subst hr0
  simp only [Chip.codeFetch, hread, hany, Bool.false_eq_true, if_false, hok]
  rfl

/-- A job that nothing refuses starts before its deadline as it was read (R236). -/
theorem Chip.codeBegin_inTime {r : CodeRun} (href : r.refused = none)
    (hdl : (c.putTask { t with ran := true }).deadlinePassed t.deadline = false) :
    c.codeBegin k t r = (c.putTask { t with ran := true }).setCode k (some r) := by
  simp only [Chip.codeBegin, href, hdl, Bool.false_eq_true, if_false]

/-- What an engine does with a job it has read: while another job runs the job is kept ready, else it starts. -/
def Chip.codeTaken (c : Chip) (k : Nat) (t : Task) (r : CodeRun) (busy : Bool) : Chip :=
  if busy then c.withCode { c.code with eng := Tbl.set c.code.eng k { c.codeX k with ready := some r } {} }
  else (c.putTask { t with ran := true }).setCode k (some r)

/-- The next job of an engine that is not stopped and keeps none ready is read and taken up (R218–R221, R233). -/
theorem Chip.codeStart_read (hready : c.codeReady k = none) (hruns : c.codeRuns k = true)
    (hflush : c.flag F.CODE_CTRL_FLUSH = false)
    (hnext : (c.heldTasks (0x110 + k)).find? (fun t => !t.ran) = some t)
    (hread : c.readWords (.coding k) t.arg 3 = (c1, ws)) (hclean : ∀ w ∈ ws, w.poison = false)
    (hr0 : r0 = { task := t.id, addr := t.arg, w := ws.map (·.data) }) (hok : c1.codeRefusal k r0 = none)
    (hdl : ((c1.codeRead k r0).1.putTask { t with ran := true }).deadlinePassed t.deadline = false) (hop : r0.op = op) :
    c.codeStart k op = (c1.codeRead k r0).1.codeTaken k t (c1.codeRead k r0).2 (c.codeRun k).isSome := by
  have hname : codeName k (c1.codeRead k r0).2.op = op := by
    rw [Chip.codeRead_op, codeName, if_pos (Chip.codeAccepts_of_codeRefusal hok), hop]
  have href : (c1.codeRead k r0).2.refused = none := by rw [Chip.codeRead_refused, hr0]
  simp only [Chip.codeStart, hready, hruns, hflush, hnext, Chip.codeFetch_clean hread hclean hr0 hok, hname,
    Chip.codeBegin_inTime href hdl, Bool.not_true, Bool.false_or, Bool.false_eq_true, if_false, ne_eq, not_true_eq_false]
  rfl

end

theorem State.stage_codeStart {s : State} {d : Chip} {k e op : Nat} (he : k = e) (ha : s.chip.awake = true)
    (h : s.chip.codeStart k op = d) (hd : d.awake = true) :
    s.stage (fun c => c.codeStart e op) = .next (s.to d) := by
  subst he
  exact State.stage_to ha h hd

/-- The command of an operation starts the job of that operation on the engine it names (R218). -/
theorem exec_codeStarts {s : State} {d : Chip} {k n : Nat} (ha : s.chip.awake = true)
    (h : ∀ op, n = op → s.chip.codeStart k op = d) (hd : d.awake = true) :
    (∀ e : Fin 8, k = e → (n = 1 → exec (.ldpcDec e) s = .next (s.to d)) ∧ (n = 2 → exec (.ldpcEnc e) s = .next (s.to d))) ∧
    (∀ e : Fin 2, k = 8 + e → (n = 3 → exec (.polarDec e) s = .next (s.to d)) ∧
      (n = 4 → exec (.polarEnc e) s = .next (s.to d))) ∧
    (∀ e : Fin 2, k = 10 + e → (n = 5 → exec (.turboDec e) s = .next (s.to d)) ∧
      (n = 6 → exec (.turboEnc e) s = .next (s.to d)) ∧ (n = 7 → exec (.convDec e) s = .next (s.to d)) ∧
      (n = 8 → exec (.convEnc e) s = .next (s.to d))) :=
  have hstage {e op : Nat} (he : k = e) (hop : n = op) := State.stage_codeStart he ha (h op hop) hd
  ⟨fun _ he => ⟨fun hop => hstage he hop, fun hop => hstage he hop⟩,
    fun _ he => ⟨fun hop => hstage he hop, fun hop => hstage he hop⟩,
    fun _ he => ⟨fun hop => hstage he hop, fun hop => hstage he hop, fun hop => hstage he hop, fun hop => hstage he hop⟩⟩

theorem Chip.when_beq (c : Chip) (st st' : Status) (f : Chip → Chip) : c.when (st == st') f = if st = st' then f c else c := by
  simp only [Chip.when, beq_iff_eq]

/-! ## HARQ entries, blocks and the end of a job -/

section
variable {s : State} {k : Fin 12} {r : CodeRun}

/-- A job reads its HARQ entry when no other job holds it and no flush runs (R233). -/
theorem exec_codeHarqEntryRead {t : Task} (hrun : s.chip.codeRun k = some r) (hen : r.harqEn = true) (hnone : r.harq = none)
    (hfin : r.finished = false) (hflush : s.chip.flag F.CODE_CTRL_FLUSH = false) (htask : s.chip.task r.task = some t)
    (hbusy : s.chip.entryBusy k r t.ord = false) (ha : s.chip.awake = true) (hd : (s.chip.harqRead k r).awake = true) :
    exec (.codeHarqEntryRead k) s = .next (s.to (s.chip.harqRead k r)) := by
  change execCodeHarqEntryRead k s = _
  refine State.stage_to ha ?_ hd
  simp only [hrun, hen, hnone, hfin, hflush, htask, hbusy, Option.isNone_none, Bool.not_false, Bool.and_self, if_true]

/-- A block of a job that goes on, and has read its HARQ entry where it has one, is decoded or encoded (R223, R231). -/
theorem exec_codeBlockDone {c : Chip} (hrun : s.chip.codeRun k = some r) (hfin : r.finished = false)
    (hharq : r.harqEn = true → r.harq ≠ none) (ha : s.chip.awake = true)
    (hc : (if r.dec then s.chip.codeDecBlock k r else s.chip.codeEncBlock k r) = c) (hd : c.awake = true) :
    exec (.codeBlockDone k) s = .next (s.to c) := by
  have hread : (r.harqEn && r.harq.isNone) = false := by
    cases hen : r.harqEn with
    | false => rfl
    | true => rw [Bool.true_and, Option.isNone_eq_false_iff, Option.isSome_iff_ne_none]; exact hharq hen
  change execCodeBlockDone k s = _
  refine State.stage_to ha ?_ hd
  simp only [hrun, hfin, hread, Bool.or_self, Bool.false_eq_true, if_false, hc]

end

/-! ## The sweep of old entries -/

/-- While no engine runs a job the sweep invalidates the one entry that holds anything, once it is old (R232). -/
theorem Chip.harqTtlSweep_idle {s : State} {w : Nat} {d : Decoded} {c : Chip} {l : List Nat} (hws : s.chip.harqWords = [w])
    (hdec : s.chip.decodeAt (16 * w) = d) (hvalid : bit d.data 0 = true) (hclean : d.poison = false)
    (hidle : ∀ k < 12, s.chip.codeRun k = none)
    (hold : (30720 * max 1 (s.chip.rd F.CODE_HARQ_TTL_TTL) : Nat) < tickDiff s.chip.tick (bits d.data 127 96))
    (hchain : s.chip.slabChain 0 (bits d.data 31 16) (bits d.data 63 32) = (c, l)) :
    exec .harqTtlSweep s = .next (s.to ((c.dropSlabs l).entryInvalid w)) := by
  change execHarqTtlSweep s = _
  unfold execHarqTtlSweep
  generalize tickDiff = diff at *
  refine State.run_to ?_
  simp only [hws, List.foldl_cons, List.foldl_nil, hdec, hvalid, hclean, hchain, Bool.not_false]
  rw [List.any_eq_false.2 (fun k hk => ?_)]
  · exact if_pos (by rw [decide_eq_true hold]; rfl)
  · rw [hidle k (List.mem_range.1 hk)]
    exact Bool.false_ne_true

/-- Settles O23: each command's effect, by the case that its state selects. -/
theorem codingCommandsComplete : Obligations.CodingCommandsComplete := by
  refine ⟨fun s k t hready hruns hflush hnext => fun hclean hok => fun hdl ha hd => ?_,
    fun s k r t hrun hen hnone hfin hflush htask hbusy ha hd =>
      exec_codeHarqEntryRead hrun hen hnone hfin hflush htask hbusy ha hd,
    fun s k r hrun hfin hharq ha => fun hd => exec_codeBlockDone hrun hfin hharq ha rfl hd,
    fun s k r c c2 m m2 kept hrun hfin hput hend => fun ha hd => ?_,
    fun s p hmay hidle => State.run_action hmay (Chip.w1sStart_idle _ _ _ _ _ hidle), fun s hflush hidle => ?_,
    fun s => ⟨fun hws => ?_, fun w d c l hws hdec hvalid hclean hidle hold hchain =>
      Chip.harqTtlSweep_idle hws hdec.symm hvalid hclean hidle hold hchain⟩,
    fun s p hmay => State.run_action hmay rfl⟩
  · exact exec_codeStarts ha
      (fun _ hop => Chip.codeStart_read hready hruns hflush hnext rfl hclean rfl hok hdl hop) hd
  · change execCodeJobComplete k s = _
    refine State.stage_to ha ?_ hd
    simp only [hrun, hfin, hput, hend, Bool.not_true, Bool.false_eq_true, if_false]
    exact congrArg (fun d : Chip => ((d.setCode k none).codeFinish k r.task _).shedLocks) (Chip.when_beq _ _ _ _)
  · change execHarqFlushComplete s = _
    refine State.run_to ?_
    rw [hflush, hidle]
    rfl
  · change execHarqTtlSweep s = _
    exact State.run_to (by simp only [hws, List.foldl_nil])

end Sys2Proof.Machine
end


section
/-! PROOFS. Burst receivers: enables, occasions, windows and the gain loop (R173–R187). -/
namespace Sys2Proof.Machine

/-- The bit that was set reads as it was set. -/
theorem setBit_div_mod (v k : Nat) (b : Bool) : setBit v k b / 2 ^ k % 2 = b2n b := by
  have hadd : (v + 2 ^ k) / 2 ^ k = v / 2 ^ k + 1 := Nat.add_div_right v (Nat.two_pow_pos k)
  have hsub : (v - 2 ^ k) / 2 ^ k = v / 2 ^ k - 1 := by simpa using Nat.sub_mul_div v (2 ^ k) 1
  rcases Nat.mod_two_eq_zero_or_one (v / 2 ^ k) with h | h <;> cases b <;> simp [setBit, bit, b2n, h, hadd, hsub] <;> omega

/-! ## Enable and disable (R174, R187) -/

theorem Chip.brCfgWrite_on {c : Chip} {n v : Nat} (hstop : ((c.brCfg n (setBit v 63 true)).br n).stopping = false)
    (hoff : (c.brCfg n (setBit v 63 true)).flag F.BRn_CFG_EN n = false) :
    c.brCfgWrite n (setBit v 63 true) = (c.brCfg n (setBit v 63 true)).brEnable n := by
  have hen : F.BRn_CFG_EN.of (setBit v 63 true) = 1 := setBit_div_mod v 63 true
  simp only [Chip.brCfgWrite, hen, if_true, Chip.brAskOn, hstop, hoff, Bool.false_eq_true, if_false]

theorem Chip.brCfgWrite_off {c : Chip} {n v : Nat}
    (hon : ((c.brCfg n (setBit v 63 false)).wr F.BRn_STAT_ENABLE_PENDING 0 n).flag F.BRn_CFG_EN n = true) :
    c.brCfgWrite n (setBit v 63 false) = (((c.brCfg n (setBit v 63 false)).wr F.BRn_STAT_ENABLE_PENDING 0 n).wr
      F.BRn_CFG_EN 0 n).setBr n { ((c.brCfg n (setBit v 63 false)).wr F.BRn_STAT_ENABLE_PENDING 0 n).br n with
        stopping := true } := by
  have hen : F.BRn_CFG_EN.of (setBit v 63 false) = 0 := setBit_div_mod v 63 false
  simp only [Chip.brCfgWrite, hen, zero_ne_one, if_false, Chip.brAskOff, hon, if_true]

section
variable {s : State} {n : Fin 32}

/-- A receiver whose receptions have closed and whose span has ended is stopped; a held enable is applied (R187). -/
theorem exec_brStopComplete {c : Chip} (hstop : (s.chip.br n).stopping = true) (hrecs : (s.chip.br n).recs = [])
    (hspan : s.chip.brInSpan n = false)
    (hc : (s.chip.setBr n { s.chip.br n with
      stopping := false
      occ := none
      frozen := false }).wr F.BRn_STAT_ENABLE_PENDING 0 n = c) :
    exec (.brStopComplete n) s =
      .next (s.to (if s.chip.flag F.BRn_STAT_ENABLE_PENDING n then c.brEnable n else c)) := by
  change execBrStopComplete n s = _
  refine State.run_to ?_
  simp only [hrecs] at hc
  simp only [hstop, hrecs, hspan, List.isEmpty_nil, Bool.not_false, Bool.and_self, if_true, hc]

/-! ## Occasions and windows (R173, R180–R185) -/

/-- The last occasion to have begun is searched: not yet under search, not before the enable took effect, sampled. -/
theorem exec_brOccasionStart {start : Nat} {k : Int} (hlast : s.chip.brLast n = (start, k)) (hruns : s.chip.brRuns n = true)
    (hdom : s.chip.domRuns 37 = true) (hfresh : ∀ o, (s.chip.br n).occ = some o → o.start ≠ start)
    (hheld : ∀ b, (s.chip.br n).notBefore = some b → tickLater b start = false)
    (hsampled : s.chip.mode ≠ mSoak ∨ k % ((max 1 (s.chip.rd F.BRX_SOAK_CFG_SOAK_DIV) : Nat) : Int) = 0) :
    exec (.brOccasionStart n) s = .next (s.to (s.chip.setBr n { s.chip.br n with
      occ := some {
        start := start
        coefs := s.chip.brLatch n }
      grid := some (start, k)
      notBefore := none })) := by
  have hon : (s.chip.mode != mSoak || k % ((max 1 (s.chip.rd F.BRX_SOAK_CFG_SOAK_DIV) : Nat) : Int) == 0) = true := by
    simpa using hsampled
  change execBrOccasionStart n s = _
  unfold execBrOccasionStart
  generalize tickLater = later at *
  refine State.run_to ?_
  simp only [hlast, hruns, hdom, hon]
  refine if_pos ?_
  cases hocc : (s.chip.br n).occ with
  | none =>
    cases hnb : (s.chip.br n).notBefore with
    | none => rfl
    | some b => simp [hheld b hnb]
  | some o =>
    cases hnb : (s.chip.br n).notBefore with
    | none => simp [hfresh o hocc]
    | some b => simp [hfresh o hocc, hheld b hnb]

/-- A window within the span that has ended is evaluated (R173, R180–R182). -/
theorem exec_brWindowEval {j : Nat} {o : BrOcc} {t : Nat} {poison gap : Bool} {c c1 : Chip} {good : List BrPeak}
    (hocc : (s.chip.br n).occ = some o)
    (hspan : s.chip.brTseq n + j * (s.chip.brTseq n / 2) ≤ s.chip.rd F.BRn_THR_SPAN n)
    (htick : s.chip.brTseq n + j * (s.chip.brTseq n / 2) ≤ cntSub s.chip.tick o.start) (hants : o.coefs ≠ [])
    (hdom : s.chip.domRuns 37 = true) (ht : tickAdd o.start (j * (s.chip.brTseq n / 2)) = t)
    (hpoison : s.chip.brPoisonIn n t = poison) (hgap : s.chip.brGap n t (s.chip.brTseq n) = gap)
    (hc : (s.chip.brMark n poison gap).brCloseEnded n = c)
    (hgood : ((c.brPeaks n t o).filter fun p => c.brThr n ≤ p.metric).mergeSort brBefore = good)
    (hc1 : good.foldl (fun c p => c.brTake n p) c = c1) :
    exec (.brWindowEval n j) s = .next (s.to ((if good.isEmpty then c1 else c1.brSoakSignal n).brMark n poison gap)) := by
  change execBrWindowEval n j s = _
  refine State.run_to ?_
  simp only [hocc, ht, hpoison, hgap, hc, hgood, hc1]
  exact if_neg (by simp [hspan, htick, hants, hdom])

/-- At the end of a gain block what it showed is noted in every reception; the loop sets the gain of the next block where no
reception is open (R177, R178). -/
theorem exec_brGainBlock {poison sat : Bool} {o : BrOcc} {b len t dg : Nat} {c c2 : Chip}
    (hocc : (s.chip.br n).occ = some o) (hb : s.chip.brBlock n = b) (hlen : 64 * brSample (s.chip.rd F.BRn_CFG_SCS n) = len)
    (ht : tickAdd b (tickMod - len) = t) (hdg : s.chip.rd F.BRn_STAT_DG n = dg) (hsat : s.chip.brSat n t 64 = sat)
    (hc : s.chip.setBr n { s.chip.br n with
      blocks := ⟨t, dg, poison⟩ :: (s.chip.br n).blocks.take 63
      frozen := !(s.chip.br n).recs.isEmpty
      recs := (s.chip.br n).recs.map fun (r : BrRec) => { r with
        sat := r.sat || ((s.chip.br n).frozen && sat)
        poison := r.poison || poison
        gap := r.gap || s.chip.brGap n t len } } = c)
    (hc2 : c.setBr n { c.br n with recs := (c.br n).recs.map (c.brAccum n b) } = c2) :
    ((s.chip.br n).recs ≠ [] → exec (.brGainBlock n poison) s = .next (s.to c2)) ∧
    ((s.chip.br n).recs = [] → exec (.brGainBlock n poison) s = .next (s.to (c2.wr F.BRn_STAT_DG
      (brGain dg (sx 8 (c2.rd F.BRn_THR_TARGET n)) (c2.brPower n t dg) sat) n))) := by
  change (_ → execBrGainBlock n poison s = _) ∧ (_ → execBrGainBlock n poison s = _)
  have hrun : execBrGainBlock n poison s = .next (s.to (if (!(s.chip.br n).recs.isEmpty) = true then c2 else
      c2.wr F.BRn_STAT_DG (brGain dg (sx 8 (c2.rd F.BRn_THR_TARGET n)) (c2.brPower n t dg) sat) n)) := by
    simp only [hocc] at hc
    dsimp only at hc2
    refine State.run_to ?_
    simp only [hocc, hb, hlen, ht, hdg, hsat, hc, hc2]
  exact ⟨fun hrecs => hrun.trans (by simp [hrecs]), fun hrecs => hrun.trans (by simp [hrecs])⟩

end

/-- Settles O24: each command's effect, by the case that its state selects. -/
theorem burstCommandsComplete : Obligations.BurstCommandsComplete := by
  refine ⟨fun s p n v hmay => fun hstop hoff => State.run_action hmay (Chip.brCfgWrite_on hstop hoff),
    fun s p n v hmay => fun hon => State.run_action hmay (Chip.brCfgWrite_off hon),
    fun s n hstop hrecs hspan => exec_brStopComplete hstop hrecs hspan rfl,
    fun s n start k hlast hruns hdom hfresh hheld hsampled =>
      exec_brOccasionStart hlast hruns hdom hfresh hheld hsampled,
    fun s n j o hocc hspan htick hants hdom => ?_, fun s n idx poison r hfind hend => ?_, fun s n poison o hocc =>
      exec_brGainBlock hocc rfl rfl rfl rfl rfl rfl rfl,
    fun s n o hocc hmode hbr hcand htick => ?_, fun s p v hmay => State.run_action hmay rfl⟩
  · exact exec_brWindowEval hocc hspan htick hants hdom rfl rfl rfl rfl rfl rfl
  · change execBrReceptionClose n idx poison s = _
    exact State.run_to (by simp only [hfind, hend, if_true])
  · change execBrSoakSpanEnd n s = _
    refine State.run_to ?_
    simp only [hocc]
    exact if_pos (by rw [hmode, hcand, decide_eq_true hbr, decide_eq_true htick]; rfl)

end Sys2Proof.Machine
end


section
/-! PROOFS. Power: domains and the Mangle (R451–R459), the shed ladder and SOAK (R463–R470). -/
namespace Sys2Proof.Machine

/-- Settles O25: each command's effect, by the case that its state selects. -/
theorem domainCommandsComplete : Obligations.DomainCommandsComplete := by
  refine ⟨fun s p d st hmay => ?_, fun s d hwait hidle hroom => ?_, fun s d hwait => ?_,
    fun s r rest hramps => ⟨fun d hdom => ?_, fun hdom => ?_⟩, fun s d => rfl, fun s d => rfl,
    fun s p d hmay hpend hhw => ?_, fun s p d hmay => State.run_action hmay rfl⟩
  · change execDomainRequest p d st s = _
    refine State.run_guarded hmay ?_
    generalize s.chip.domReq d st false = req
    rfl
  · change execDomainIdle d s = _
    exact State.run_to (if_pos (by simp [hwait, hidle, hroom]))
  · change execDomainIdleTimeout d s = _
    exact State.run_to (if_pos hwait)
  · change execMangleRampDone s = _
    exact State.run_to (by simp only [hramps, hdom])
  · change execMangleRampDone s = _
    exact State.run_to (by simp only [hramps, hdom])
  · change execDomPendCancel p d s = _
    exact State.run_action hmay (if_pos (by rw [hpend, hhw]; rfl))

section
variable {s : State}

/-! ## The shed ladder (R463–R465) -/

theorem exec_shedStageEnter {k : Fin 7} {v : Fin 1024} (hmode : s.chip.mode ≠ mBypass)
    (hup : (s.chip.vSample v).stage < k.val) (hthr : v.val < stageThr k) :
    exec (.shedStageEnter k v) s = .next (s.to ((s.chip.vSample v).stageUp k false)) := by
  change execShedStageEnter k v s = _
  exact State.run_to ((if_neg hmode).trans (if_pos (by simp [hup, hthr])))

theorem exec_shedStageClear {v : Fin 1024} (hmode : s.chip.mode ≠ mBypass)
    (hthr : stageThr (s.chip.vSample v).stage + 10 ≤ v.val)
    (hwarn : (s.chip.vSample v).stage ≠ 4 ∨ (s.chip.vSample v).flag F.PWR_SHED_STAGE_WARN = false) :
    exec (.shedStageClear v) s = .next (s.to ((s.chip.vSample v).stageDown false)) := by
  have hfree : (decide ((s.chip.vSample v).stage = 4) && (s.chip.vSample v).flag F.PWR_SHED_STAGE_WARN) = false := by
    rcases hwarn with h | h <;> simp [h]
  change execShedStageClear v s = _
  exact State.run_to ((if_neg hmode).trans (if_pos (by rw [hfree, decide_eq_true hthr]; rfl)))

theorem exec_pwrWarnAssert (hmode : s.chip.mode ≠ mBypass) :
    exec .pwrWarnAssert s = .next (s.to (if (s.chip.wr F.PWR_SHED_STAGE_WARN 1).stage < 4 then
      ((s.chip.wr F.PWR_SHED_STAGE_WARN 1).withDev { (s.chip.wr F.PWR_SHED_STAGE_WARN 1).dev with
        shedCauses := setBit (s.chip.wr F.PWR_SHED_STAGE_WARN 1).dev.shedCauses 1 true }).stageUp 4 true
      else (s.chip.wr F.PWR_SHED_STAGE_WARN 1).shedCause 1)) := by
  change execPwrWarnAssert s = _
  exact State.run_to (if_neg hmode)

/-! ## SOAK (R467–R469) -/

/-- A source that is enabled fires; only a link's is noted (R469). -/
theorem exec_soakWake {src : Fin 9} {link : Fin 18} (hen : s.chip.wakeEnabled src link = true) :
    exec (.soakWake src link) s = .next (s.to ((s.chip.when (src.val == 4) fun c =>
      c.wr F.PWR_WAKE_STAT_LAST_LINK link).soakWake src)) := by
  change execSoakWake src link s = _
  exact State.run_to (if_pos hen)

end

/-- Settles O26: each command's effect, by the case that its state selects. -/
theorem shedAndSoakComplete : Obligations.ShedAndSoakComplete := by
  refine ⟨fun s k v hmode => ⟨fun hup hthr => exec_shedStageEnter hmode hup hthr,
      fun hthr hwarn => exec_shedStageClear hmode hthr hwarn⟩,
    fun s hmode => ⟨fun hlow => (exec_pwrWarnAssert hmode).trans (by rw [if_pos hlow]),
      fun hhigh => (exec_pwrWarnAssert hmode).trans (by rw [if_neg (not_lt.2 hhigh)])⟩,
    fun s done => ?_, fun s p v hmay => State.run_action hmay rfl,
    fun s q t hmode hen => ⟨fun hnow => ?_, fun hnow hdue => ?_, fun hnow => ?_⟩, fun s hmode hidle => ?_,
    fun s src link hen => ⟨fun hlink => ?_, fun hlink => ?_⟩, fun s hsleep => ?_⟩
  · change execPwrWarnDeassert done s = _
    exact State.run_to (by simp only [Bool.and_eq_true, decide_eq_true_eq])
  · change execSoakTx q s = _
    refine State.run_to ((if_neg (by rw [hmode, hen]; decide)).trans ?_)
    simp only [hnow]
  · change execSoakTx q s = _
    refine State.run_to ((if_neg (by rw [hmode, hen]; decide)).trans ?_)
    simp only [hnow, hdue, Bool.false_eq_true, if_false]
  · change execSoakTx q s = _
    refine State.run_to ((if_neg (by rw [hmode, hen]; decide)).trans ?_)
    simp only [hnow]
  · change execSoakDomainReturn s = _
    exact State.run_to (if_neg (by rw [hmode, hidle]; decide))
  · rw [exec_soakWake hen, beq_iff_eq.2 hlink, Chip.when_true]
  · rw [exec_soakWake hen, beq_eq_false_iff_ne.2 hlink, Chip.when_false]
  · change execSoakMaxSleepTimer s = _
    exact State.run_to (if_pos (bne_iff_ne.2 hsleep))

end Sys2Proof.Machine
end


section
/-! PROOFS. The timing unit (R439–R446, R496). -/
namespace Sys2Proof.Machine

section
variable {s : State} {q : Fin 16}

/-! ## PTP and SyncE (R440, R441) -/

/-- A port in state MASTER sends its Sync and Announce (R440). -/
theorem exec_ptpSendTimer_master {kind : Fin 3} (hruns : s.chip.ptpRuns q = true)
    (hst : s.chip.rd F.TIME_PTP_PORT_PORT_STATE q = 6) (hkind : kind.val ≠ 1) :
    exec (.ptpSendTimer q kind) s =
      .next (s.to (s.chip.ptpSend q (if kind.val = 0 then "PTP Sync" else "PTP Announce"))) := by
  change execPtpSendTimer q kind s = _
  exact State.run_to ((if_neg (by rw [hruns]; decide)).trans ((if_neg hkind).trans (if_pos hst)))

/-- A port in state UNCALIBRATED or SLAVE sends its Delay_Req (R440). -/
theorem exec_ptpSendTimer_slave (hruns : s.chip.ptpRuns q = true)
    (hst : s.chip.rd F.TIME_PTP_PORT_PORT_STATE q = 8 ∨ s.chip.rd F.TIME_PTP_PORT_PORT_STATE q = 9) :
    exec (.ptpSendTimer q 1) s = .next (s.to (s.chip.ptpSend q "PTP Delay_Req")) := by
  change execPtpSendTimer q 1 s = _
  exact State.run_to ((if_neg (by rw [hruns]; decide)).trans
    ((if_pos rfl).trans (if_pos (by simpa using hst))))

theorem exec_esmcSendTimer (hruns : s.chip.synceRuns q = true) :
    exec (.esmcSendTimer q) s = .next (s.to (s.chip.emit (.eth q "ESMC"
      [if s.chip.rd F.TIME_STAT_FREQ_SRC == 3 && q.val == s.chip.rd F.TIME_SRC_CFG_SYNCE_PORT then 15
        else s.chip.qlInUse]))) := by
  change execEsmcSendTimer q s = _
  exact State.run_to (if_pos hruns)

/-! ## PPS (R442, R443) -/

/-- What an edge of PPS_IN changes first: that it came near the last one, and when it came. -/
def Chip.ppsNoted (c : Chip) : Chip :=
  c.withTime { c.time with
    ppsOk := c.ppsNear
    ppsTick := some c.tick }

theorem exec_ppsInEdge {half : Fin 66} (hmode : s.chip.mode ≠ mBypass) (hen : s.chip.flag F.TIME_CTRL_PPS_IN_EN = true) :
    exec (.ppsInEdge half) s = .next (s.to (
      if s.chip.rd F.TIME_STAT_PHASE_SRC == 2 && s.chip.ppsOff then s.chip.incSat F.TIME_STAT_PPS_DROP
      else (if s.chip.rd F.TIME_STAT_PHASE_SRC == 2 then s.chip.ppsNoted.ppsSecond half else s.chip.ppsNoted).timeEval)) := by
  change execPpsInEdge half s = _
  exact State.run_to (if_neg (by rw [hen, decide_eq_false hmode]; decide))

/-! ## Links of the Ethernet ports (R429) -/

theorem exec_ethLinkChange {up : Bool} (hmode : s.chip.mode ≠ mBypass) (hport : s.chip.ethPort q = true)
    (hdom : up = true → s.chip.domState (s.chip.ethDomain q) = dOn) :
    exec (.ethLinkChange q up) s = .next (s.to (
      let c := (s.chip.setFlag F.ETH_PORT_STAT_LINK_UP up q).wr F.ETH_PORT_STAT_SPEED
        (if up then (if s.chip.rd F.ETH_CFG_MODE = 1 then 1 else 2) else 0) q
      let c := if c.flag F.ETH_PORT_CFG_ROLE_PTP q then c.wr F.TIME_PTP_PORT_PORT_STATE (if up then 4 else 2) q else c
      (if up then c else c.withEth { c.eth with ql := Tbl.erase c.eth.ql q }).timeEval)) := by
  have hblock : (up && s.chip.domState (s.chip.ethDomain q) != dOn) = false := by
    cases up with
    | false => rfl
    | true => rw [hdom rfl]; rfl
  change execEthLinkChange q up s = _
  refine State.run_to ((if_neg (by rw [hport, hblock, decide_eq_false hmode]; decide)).trans ?_)
  rfl

end

/-- Settles O27: each command's effect, by the case that its state selects. -/
theorem timingCommandsComplete : Obligations.TimingCommandsComplete := by
  refine ⟨fun s q st hruns hmay => ?_, fun s q sec ns half hruns hst hsrc => ?_,
    fun s q hruns hst => ⟨?_, exec_ptpSendTimer_master hruns hst (by decide), exec_ptpSendTimer_master hruns hst (by decide)⟩,
    fun s q hruns hst => exec_ptpSendTimer_slave hruns hst,
    fun s q hruns => ⟨fun hsrc hport => (exec_esmcSendTimer hruns).trans (by
        rw [if_pos (by rw [hsrc, beq_iff_eq.2 hport]; rfl)]),
      fun hsrc => (exec_esmcSendTimer hruns).trans (by rw [beq_eq_false_iff_ne.2 hsrc]; rfl)⟩,
    fun s q ql hruns => ?_, fun s q => rfl, fun s half hmode hen => ⟨fun hsrc => ?_, fun hsrc hoff => ?_, fun hsrc hoff => ?_⟩,
    fun s t htick hlate => ?_, fun s hmode hen hst => ?_, fun s hst hoff => ?_, fun s => ?_,
    fun s hmode => ⟨fun hlim => ?_, fun hlim => ?_⟩, fun s hhold => ?_, fun s q hmode hport => ⟨fun hdom => ?_, ?_⟩,
    fun s => rfl⟩
  · change execPtpMessageReceive q (.announce st) s = _
    exact State.run_to ((if_neg (by rw [hruns]; decide)).trans (if_pos hmay))
  · change execPtpMessageReceive q (.sync sec ns half) s = _
    exact State.run_to ((if_neg (by rw [hruns]; decide)).trans (if_pos (by simp [hst, hsrc])))
  · change execPtpMessageReceive q .delayReq s = _
    exact State.run_to ((if_neg (by rw [hruns]; decide)).trans (if_pos hst))
  · change execEsmcReceive q ql s = _
    exact State.run_to (if_pos hruns)
  · exact (exec_ppsInEdge hmode hen).trans (by rw [beq_eq_false_iff_ne.2 hsrc]; rfl)
  · exact (exec_ppsInEdge hmode hen).trans (by rw [hsrc, hoff]; rfl)
  · exact (exec_ppsInEdge hmode hen).trans (by rw [hsrc, hoff]; rfl)
  · change execPpsInLoss s = _
    exact State.run_to (by simp only [htick, hlate, if_true])
  · change execPpsOutEdge s = _
    exact State.run_to (if_neg (by simp [hmode, hen, hst]))
  · change execTimeLockTimer s = _
    exact State.run_to (if_pos (by simp [hst, hoff]))
  · intro b cur hrev hb hcur hprio
    change execRevertWtrTimer s = _
    exact State.run_to (if_pos (by simp [hrev, hb, hcur, hprio, b, cur]))
  · change execTimeAlarm s = _
    exact State.run_to ((if_neg hmode).trans (by dsimp only; rw [decide_eq_true hlim]; rfl))
  · change execTimeAlarm s = _
    exact State.run_to ((if_neg hmode).trans (by dsimp only; rw [decide_eq_false (not_lt.2 hlim)]; rfl))
  · change execRingHoldTimer s = _
    exact State.run_to (if_pos hhold)
  · exact exec_ethLinkChange hmode hport fun _ => hdom
  · exact exec_ethLinkChange hmode hport fun h => absurd h Bool.false_ne_true

end Sys2Proof.Machine
end


section
/-! PROOFS. The Ethernet ports and third-party radio units (R428–R438). -/
namespace Sys2Proof.Machine

section
variable {s : State} {q : Fin 16}

/-! ## Frames and U-plane messages (R428, R430, R435) -/

theorem exec_ethFrameReceive_bad {f : EthFrame} (hruns : s.chip.ethRuns q = true) (hbad : 9216 < f.bytes ∨ f.fcsOk = false) :
    exec (.ethFrameReceive q f) s = .next (s.to ((s.chip.incSat F.ETH_PORT_STAT_FEC_UNCORR q 0 f.fec).incMod
      F.ETH_PORT_STAT_RX_DROP q)) := by
  change execEthFrameReceive q f s = _
  refine State.run_to ?_
  simp only [hruns, Chip.when_true, Bool.not_true, Bool.false_eq_true, if_false]
  exact if_pos (by simpa using hbad)

/-- A frame without fault and of a kind no port takes is dropped (R428). -/
theorem exec_ethFrameReceive_other {f : EthFrame} (hruns : s.chip.ethRuns q = true) (hlen : f.bytes ≤ 9216)
    (hfcs : f.fcsOk = true) (hbody : f.body = .other) :
    exec (.ethFrameReceive q f) s = .next (s.to ((s.chip.incSat F.ETH_PORT_STAT_FEC_UNCORR q 0 f.fec).incMod
      F.ETH_PORT_STAT_RX_DROP q)) := by
  change execEthFrameReceive q f s = _
  refine State.run_to ?_
  simp only [hruns, Chip.when_true, Bool.not_true, Bool.false_eq_true, if_false, hbody]
  exact if_neg (by simp [hlen, hfcs])

/-- A delay measurement message of a fronthaul port is answered, or asks for a request, by its action (R438). -/
theorem exec_ethFrameReceive_owd {f : EthFrame} {action id : Nat} (hruns : s.chip.ethRuns q = true) (hlen : f.bytes ≤ 9216)
    (hfcs : f.fcsOk = true) (hbody : f.body = .owd 1 false action id) (hfh : s.chip.fhRuns q = true) :
    (action = 0 ∨ action = 1 → exec (.ethFrameReceive q f) s = .next (s.to
      ((s.chip.incSat F.ETH_PORT_STAT_FEC_UNCORR q 0 f.fec).emit (.eth q "eCPRI OWD response" [id])))) ∧
    (action = 3 → exec (.ethFrameReceive q f) s = .next (s.to
      ((s.chip.incSat F.ETH_PORT_STAT_FEC_UNCORR q 0 f.fec).emit (.eth q "eCPRI OWD request" [id])))) := by
  change (_ → execEthFrameReceive q f s = _) ∧ (_ → execEthFrameReceive q f s = _)
  have hgood : (decide (9216 < f.bytes) || !f.fcsOk) = false := by simp [hlen, hfcs]
  refine ⟨fun haction => State.run_to ?_, fun haction => State.run_to ?_⟩
  · rcases haction with rfl | rfl <;> simp [hruns, hgood, hbody, hfh]
  · simp [hruns, hgood, hbody, hfh, haction]

theorem exec_uplaneReceive_unknown {m : UMsg} (hruns : s.chip.ethRuns q = true) (hfh : s.chip.fhRuns q = true)
    (hfind : s.chip.ruFind q m.eaxc = none) :
    exec (.uplaneReceive q m) s = .next (s.to (s.chip.ruDiscard q none)) := by
  change execUplaneReceive q m s = _
  refine State.run_to ((if_neg (by rw [hruns, hfh]; decide)).trans ?_)
  simp only [hfind]

section
variable {m : UMsg} {r p at_ close first : Nat} {c : Chip} (hruns : s.chip.ethRuns q = true) (hfh : s.chip.fhRuns q = true)
  (hfind : s.chip.ruFind q m.eaxc = some (r, p, false))
  (hseq : Tbl.get s.chip.eth.seqRx (65536 * r + m.eaxc) 0 = m.seq % 256)
  (hc : s.chip.withEth { s.chip.eth with
    seqRx := Tbl.set s.chip.eth.seqRx (65536 * r + m.eaxc) ((m.seq + 1) % 256) 0 } = c)
  (hwin : c.ulWindow r false (m.frame % 256) 8 m.sym = (at_, close, first)) (hearly : tickLater at_ c.tick = false)
include hruns hfh hfind hseq hc hwin hearly

/-- A message in sequence that comes after its window has closed is counted as late (R435). -/
theorem exec_uplaneReceive_late (hlate : tickLater close c.tick = false) :
    exec (.uplaneReceive q m) s = .next (s.to (c.incSat F.ETH_RU_CNT_LATE r)) := by
  change execUplaneReceive q m s = _
  refine State.run_to ((if_neg (by rw [hruns, hfh]; decide)).trans ?_)
  have hin : (Tbl.get s.chip.eth.seqRx (65536 * r + m.eaxc) 0 != m.seq % 256) = false := by rw [hseq]; exact bne_self_eq_false _
  dsimp only at hc
  simp only [hfind, hin, Chip.when_false, hc, hwin, hearly, hlate, Bool.false_eq_true, if_false]

/-- A message in sequence and in its window writes its sections to the open buffer, or opens one (R433, R435). -/
theorem exec_uplaneReceive_open {b : UlBuf} {x : Chip × UlBuf} (hopen : tickLater close c.tick = true)
    (hsome : ∀ b', c.ulBuf r p false at_ = some b' → b = b')
    (hnone : c.ulBuf r p false at_ = none → b = {
      ru := r
      port := p
      prach := false
      at_ := at_
      sym := first
      sfn := c.sfnAt at_ })
    (hx : c.ulSecs b 0 (c.rd F.ETH_RU_CFG_N_RB r) m.secs = x) :
    exec (.uplaneReceive q m) s = .next (s.to (x.1.putUl x.2)) := by
  change execUplaneReceive q m s = _
  refine State.run_to ((if_neg (by rw [hruns, hfh]; decide)).trans ?_)
  have hin : (Tbl.get s.chip.eth.seqRx (65536 * r + m.eaxc) 0 != m.seq % 256) = false := by rw [hseq]; exact bne_self_eq_false _
  dsimp only at hc
  obtain ⟨c2, b2⟩ := x
  simp only [hfind, hin, Chip.when_false, hc, hwin, hearly, hopen, Bool.false_eq_true, if_false, if_true, Bool.false_and]
  cases hbuf : c.ulBuf r p false at_ with
  | none => obtain rfl := hnone hbuf; simp only [hx]
  | some b' => obtain rfl := hsome b' hbuf; simp only [hx]

end

end

section
variable {s : State} {r : Fin 32}

/-- The window of a symbol that has closed closes the buffer of each of the entry's ports (R433). -/
theorem exec_uplaneWindowClose {prach : Bool} {sfn : Fin 1024} {sym at_ close first : Nat} {d : Chip}
    (hwin : s.chip.ulWindow r prach sfn 10 sym = (at_, close, first)) (hruns : s.chip.ruRuns r = true)
    (hmode : s.chip.modeIn modesRu = true) (hclosed : tickLater close s.chip.tick = false) (ha : s.chip.awake = true)
    (hd : (List.range (s.chip.rd F.ETH_RU_CFG_N_PORT_M1 r + 1)).foldl (fun c p =>
      c.ulClose r p prach at_ first sfn (prach || c.ulAsked r at_)) s.chip = d) (hda : d.awake = true) :
    exec (.uplaneWindowClose r prach sfn sym) s = .next (s.to d) := by
  change execUplaneWindowClose r prach sfn sym s = _
  refine State.stage_to ha ?_ hda
  simp only [hwin, hruns, hmode, hclosed, Bool.not_true, Bool.or_self, Bool.false_eq_true, if_false, hd]

/-! ## C-plane and downlink (R434, R436) -/

/-- A started slot command whose send instant has come has its C-plane sent, once (R434). -/
theorem exec_cplaneSend {f : Fin 64} {ring : Fin 8} {count r a z t0 t1 : Nat} {h : HostCmd} {c : Chip}
    (hfind : (s.chip.ringCmds f ring).find? (fun h => h.count == count) = some h) (hru : s.chip.ruOf h.cell = some r)
    (hspan : h.itemSpan = (a, z)) (htimes : h.cpTimes (s.chip.ruCarrier r) = (t0, t1)) (hslot : h.isSlot = true)
    (hstage : h.stage = .started) (hkeep : h.discard = false) (hruns : s.chip.ruRuns r = true)
    (hmode : s.chip.modeIn modesRu = true) (hshed : h.op ≠ 2 ∨ s.chip.mode ≠ mShed)
    (hnew : ∀ x ∈ s.chip.eth.sent, x.ref ≠ h.ref)
    (hdue : tickLater (s.chip.cpInstant h r (s.chip.ruCarrier r)) s.chip.tick = false)
    (hport : s.chip.ethRuns (s.chip.rd F.ETH_RU_CFG_PORT r) = true)
    (hc : s.chip.withEth { s.chip.eth with
      sent := (s.chip.eth.sent.filter fun x => tickDiff s.chip.tick x.stop < 2 ^ 20) ++
        [⟨r, h.op == 2, t0, t1, h.ref⟩] } = c) :
    exec (.cplaneSend f ring count) s = .next (s.to ((List.range (ruCfgOf (c.ruVal r)).ports).foldl (fun c' p =>
      c'.ruSend r ((ruCfgOf (c.ruVal r)).base + p) "C-plane type 1"
        [b2n (h.op == 2), c'.sfnAt t0 % 256, h.slotNo, a, z - a, (ruCfgOf (c.ruVal r)).nRb, 0xFFF]) c)) := by
  have hfresh : (s.chip.eth.sent.any fun x => x.ref == h.ref) = false := by simpa using hnew
  have hon : (decide (h.op = 2) && decide (s.chip.mode = mShed)) = false := by rcases hshed with hop | hm <;> simp [*]
  have hstarted : (h.stage != .started) = false := by rw [hstage]; rfl
  subst hc
  change execCplaneSend f ring count s = _
  refine State.run_to ?_
  simp only [hfind, hru, hspan, htimes]
  refine (if_neg ?_).trans rfl
  rw [hslot, hstarted, hkeep, hruns, hmode, hon, hfresh, hdue, hport]
  decide

section
variable {slot w sps at_ per : Nat} {read : Chip × WordRead} (hw : s.chip.ruCarrier r = w) (hsps : frameTicks / ccSlotTicks w = sps)
  (hat : s.chip.airOf w (slot / sps % 1024) 10 (slot % sps * ccSlotSyms w + s.chip.rd F.ETH_RU_PRACH_START_SYM r) = at_)
  (hper : s.chip.rd F.ETH_RU_PRACH_PERIOD r = per) (hruns : s.chip.ruRuns r = true) (hmode : s.chip.modeIn modesRu = true)
  (hen : s.chip.flag F.ETH_RU_PRACH_EN r = true) (hper0 : per ≠ 0) (hslot : slot < 1024 * sps)
  (hgrid : ((slot : Int) - s.chip.rd F.ETH_RU_PRACH_SLOT_OFF r) % per = 0)
  (hdue : tickLater (tickAdd at_ (tickMod - s.chip.rd F.ETH_RU_WIN_TCP_ADV_UL r)) s.chip.tick = false)
  (hport : s.chip.ethRuns (s.chip.rd F.ETH_RU_CFG_PORT r) = true)
  (hread : s.chip.readWord .fabric (0x300000000 + 128 * s.chip.rd F.ETH_RU_PRACH2_PRACH_OFF r - 16) = read)
include hw hsps hat hper hruns hmode hen hper0 hslot hgrid hdue hport hread

/-- A PRACH slot at its send instant has its C-plane sent by the word before its buffers, or is discarded where that word
holds no frequency offset (R434). -/
theorem execPrachCplaneSend_due :
    execPrachCplaneSend r slot s = .next (s.to (
      if read.2.poison || read.2.status != .ok || 2 ^ 24 ≤ read.2.data then read.1.incSat F.ETH_RU_CNT_DISCARD r
      else (List.range (ruCfgOf (read.1.ruVal r)).ports).foldl (fun c p =>
        c.ruSend r (read.1.rd F.ETH_RU_PRACH2_PRACH_BASE r / 2 ^ (ruCfgOf (read.1.ruVal r)).ruBits
            * 2 ^ (ruCfgOf (read.1.ruVal r)).ruBits + p) "C-plane type 3"
          [c.sfnAt at_ % 256, slot % sps, c.rd F.ETH_RU_PRACH_START_SYM r, c.rd F.ETH_RU_PRACH_N_SYM_M1 r + 1,
            c.rd F.ETH_RU_PRACH_N_PRBC r, c.rd F.ETH_RU_PRACH2_FILTER_IDX r, c.rd F.ETH_RU_PRACH2_FS_SCS r,
            c.rd F.ETH_RU_PRACH2_FFT r, read.2.data]) read.1)) := by
  obtain ⟨c, x⟩ := read
  refine State.run_to ?_
  simp only [hw, hsps, hat, hper, hread]
  refine (if_neg ?_).trans rfl
  rw [hruns, hmode, hen, hdue, hport, decide_eq_false hper0, decide_eq_false (not_le.2 hslot),
    decide_eq_false (not_not.2 hgrid)]
  decide

end

/-- A downlink symbol that a sent C-plane section covers goes out at its send instant, as zeros where it is not ready (R41,
R436). -/
theorem exec_uplaneSend {sfn : Fin 1024} {sym at_ : Nat} {x : CpSpan} {ready : Bool} {c d : Chip}
    (hat : s.chip.airOf (s.chip.ruCarrier r) sfn 10 sym = at_)
    (hfind : s.chip.eth.sent.find? (fun (x : CpSpan) => x.ru == r.val && x.dl && 0 ≤ tickDiff at_ x.first
      && 0 < tickDiff x.stop at_) = some x) (hruns : s.chip.ruRuns r = true) (hmode : s.chip.modeIn modesRu = true)
    (hshed : s.chip.mode ≠ mShed)
    (hdue : tickLater (tickAdd at_ (tickMod - s.chip.rd F.ETH_RU_WIN_T1A_UP r)) s.chip.tick = false)
    (hport : s.chip.ethRuns (s.chip.rd F.ETH_RU_CFG_PORT r) = true) (ha : s.chip.awake = true)
    (hc : (if ready then s.chip else s.chip.dlMissed x.ref) = c)
    (hd : (List.range (c.rd F.ETH_RU_CFG_N_PORT_M1 r + 1)).foldl (fun c p => c.dlPort r p sym sfn (!ready)) c = d)
    (hda : d.awake = true) :
    exec (.uplaneSend r sfn sym ready) s = .next (s.to d) := by
  change execUplaneSend r sfn sym ready s = _
  refine State.stage_to ha ?_ hda
  simp only [hat, hfind, hc, hd]
  refine if_neg ?_
  rw [hruns, hmode, hdue, hport, decide_eq_false hshed]
  decide

/-- An entry that passes the checks is written, and takes effect at the next slot boundary where it was not enabled (R432). -/
theorem exec_ruEnable_ok {p : Port} {v : Nat} {c : Chip} (hmay : s.may p 0xBE = true)
    (hc : G.ETH_RU_CFG.fields.foldl (fun c f => c.wr f (f.of (setBit v 63 true)) r) s.chip = c)
    (hok : s.chip.ruOk r (ruCfgOf v) = true) :
    exec (.ruEnable p r v) s = .next (s.to ((if s.chip.flag F.ETH_RU_CFG_EN r then c else c.withEth { c.eth with
      start := Tbl.insert (Tbl.erase c.eth.start r) r (c.slotNext (c.ruCarrier r)) }).report p .ok)) := by
  subst hc
  change execRuEnable p r v s = _
  exact State.run_guarded hmay (if_pos hok)

end

/-- Settles O28: each command's effect, by the case that its state selects. -/
theorem ethernetCommandsComplete : Obligations.EthernetCommandsComplete := by
  refine ⟨fun s q f hruns => ⟨exec_ethFrameReceive_bad hruns, exec_ethFrameReceive_other hruns,
      fun action id hlen hfcs hbody hfh => exec_ethFrameReceive_owd hruns hlen hfcs hbody hfh⟩,
    fun s q m hruns hfh hfind => exec_uplaneReceive_unknown hruns hfh hfind,
    fun s q m r p at_ close first hruns hfh hfind hseq => fun hwin hearly =>
      ⟨exec_uplaneReceive_late hruns hfh hfind hseq rfl hwin hearly, fun hopen =>
        exec_uplaneReceive_open hruns hfh hfind hseq rfl hwin hearly hopen (fun b' h => by simp only [h])
          (fun h => by simp only [h]) rfl⟩,
    fun s r prach sfn sym at_ close first hwin hruns hmode hclosed ha => fun hd =>
      exec_uplaneWindowClose hwin hruns hmode hclosed ha rfl hd,
    fun s f ring count r a z t0 t1 h hfind hru hspan htimes hslot hstage hkeep hruns hmode hshed hnew hdue hport =>
      exec_cplaneSend hfind hru hspan htimes hslot hstage hkeep hruns hmode hshed hnew hdue hport rfl,
    fun s r slot => fun hruns hmode hen hper hslot hgrid hdue hport => ?_,
    fun s r sfn sym x ready => fun hfind hruns hmode hshed hdue hport ha => fun hd =>
      exec_uplaneSend rfl hfind hruns hmode hshed hdue hport ha rfl rfl hd,
    fun s p r v hmay => ⟨fun hok hoff => (exec_ruEnable_ok hmay rfl hok).trans (by rw [hoff]; rfl),
      fun hok hon => (exec_ruEnable_ok hmay rfl hok).trans (by rw [hon]; rfl), fun hbad => ?_⟩,
    fun s p r hmay hidle => ?_, fun s r delay hgo => ⟨?_, ?_⟩⟩
  · have hsend := execPrachCplaneSend_due rfl rfl rfl rfl hruns hmode hen hper hslot hgrid hdue hport rfl
    change (_ → execPrachCplaneSend r slot s = _) ∧ (_ → _ → _ → execPrachCplaneSend r slot s = _)
    exact ⟨fun hbad => hsend.trans (by rw [if_pos (by rw [hbad]; rfl)]),
      fun hclean hok hdata => hsend.trans (by rw [if_neg (by rw [hclean, hok, decide_eq_false (not_le.2 hdata)]; decide)])⟩
  · change execRuEnable p r v s = _
    exact State.run_guarded hmay (if_neg (by rw [hbad]; exact Bool.false_ne_true))
  · exact State.run_action hmay (Chip.w1sStart_idle _ _ _ _ _ hidle)
  · change execOwdResponse r delay s = _
    exact State.run_to (if_pos hgo)
  · change execOwdTimeout r s = _
    exact State.run_to (if_pos hgo)

end Sys2Proof.Machine
end


section
/-! PROOFS. PLLs, references, sensors and the supply target (R495, R496, R503, R511–R521). -/
namespace Sys2Proof.Machine

section
variable {s : State}

/-- The hottest sensor of a round is noted; at the trip temperature it trips, below it the throttle and SHED follow (R511,
R512, R514). -/
theorem exec_sensorRound {temps : List (Option Int)} {volts : List (Option Nat)} {n : Nat} {c c2 : Chip}
    (harmed : s.chip.sens.armed = true) (hc : s.chip.convertAll temps volts = c) (hhot : c.hottest = some n)
    (hc2 : (c.wr F.SENS_STAT_MAX_TEMP (toBits 16 (c.sensorTemp n))).wr F.SENS_STAT_HOT n = c2) :
    (1000 ≤ c2.sensorTemp n → exec (.sensorRound temps volts) s = .next (s.to c2.thermTrip)) ∧
    (c2.sensorTemp n < 1000 → c2.dev.held = .none →
      exec (.sensorRound temps volts) s = .next (s.to ((c2.throttleRule n).thermShed n))) := by
  change (_ → execSensorRound temps volts s = _) ∧ (_ → _ → execSensorRound temps volts s = _)
  have hrun : execSensorRound temps volts s = .next (s.to (if 1000 ≤ c2.sensorTemp n then c2.thermTrip
      else if c2.dev.held != .none then c2 else (c2.throttleRule n).thermShed n)) := by
    refine State.run_to ((if_neg (by rw [harmed]; decide)).trans ?_)
    simp only [hc, hhot, hc2]
  exact ⟨fun htrip => hrun.trans (by rw [if_pos htrip]),
    fun hcool hheld => hrun.trans (by rw [if_neg (not_le.2 hcool), hheld]; rfl)⟩

theorem exec_refclkLoss_b : exec (.refclkLoss true) s = .next (s.to ((s.chip.wr F.CLK_REF_CFG_REF_B_OK 0).when
    (s.chip.flag F.CLK_REF_CFG_REF_A_OK) fun c => c.wr F.CLK_REF_CFG_USING_B 0)) := rfl

theorem exec_refclkLoss_a : exec (.refclkLoss false) s = .next (s.to ((s.chip.wr F.CLK_REF_CFG_REF_A_OK 0).when
    (s.chip.flag F.CLK_REF_CFG_REF_B_OK) fun c => c.wr F.CLK_REF_CFG_USING_B 1)) := rfl

theorem exec_refclkReturn_b (hfreq : s.chip.rd F.CLK_REF_CFG_B_FREQ ≠ 3) :
    exec (.refclkReturn true) s = .next (s.to ((s.chip.wr F.CLK_REF_CFG_REF_B_OK 1).when
      (!s.chip.flag F.CLK_REF_CFG_REF_A_OK) fun c => c.wr F.CLK_REF_CFG_USING_B 1)) := by
  change execRefclkReturn true s = _
  exact State.run_to ((if_pos rfl).trans (if_neg hfreq))

theorem exec_refclkReturn_a : exec (.refclkReturn false) s = .next (s.to ((s.chip.wr F.CLK_REF_CFG_REF_A_OK 1).when
    (!s.chip.flag F.CLK_REF_CFG_REF_B_OK) fun c => c.wr F.CLK_REF_CFG_USING_B 0)) := rfl

/-- The counts of a window give SLOW and the supply target, which the regulator is led to in steps; once it has acknowledged
the target it holds (R519–R521). -/
theorem exec_ageingCompute {counts : List Nat} {acked : Bool} {c c1 c2 c3 c4 c5 : Chip} {slow mv goal : Nat}
    (hmode : s.chip.modeIn modesAge = true)
    (hc : (List.range 32).foldl (fun c k => c.wr F.SENS_AGE_COUNT (counts.getD k 0) k) s.chip = c)
    (hc1 : c.withFree (c.free + 1) = c1)
    (hslow : (if c1.flag F.CAL_STAT_STORE_BAD then 0
      else slowOf ((List.range 32).map fun k => (Config.ageRef c.free k).toNat) counts) = slow)
    (hc2 : c1.wr F.SENS_AVS_SLOW slow = c2) (hgoal : c2.avsGoal = goal)
    (hc3 : (c2.when (decide (82300 ≤ goal) && !c2.flag F.SENS_AVS_REDUCED) fun c =>
      (c.when (!c.slowHeld) fun c => c.slowRamps false).wr F.SENS_AVS_REDUCED 1) = c3)
    (hc4 : c3.setFlag F.SENS_AVS_AT_LIMIT (decide (82000 < goal)) = c4) (hmv : min 820 (roundDiv goal 100).toNat = mv)
    (hc5 : (avsSteps (c4.rd F.SENS_AVS_TARGET) mv 1000).foldl (fun c v => c.emit (.avs v)) c4 = c5) :
    exec (.ageingCompute counts acked) s = .next (s.to (if acked then (c5.wr F.SENS_AVS_TARGET mv).withSens
      { (c5.wr F.SENS_AVS_TARGET mv).sens with avsBad := false } else c5)) := by
  change execAgeingCompute counts acked s = _
  refine State.run_to ((if_neg (by rw [hmode]; decide)).trans ?_)
  simp only [Chip.fresh, hc, hc1, hslow, hc2, hgoal, hc3, hc4, hmv, hc5, Chip.wr_sens]

end

/-- Settles O29: each command's effect, by the case that its state selects. -/
theorem sensorCommandsComplete : Obligations.SensorCommandsComplete := by
  refine ⟨fun s p hlock => ?_, fun s p hheld hlock => ?_,
    fun s => ⟨fun ha => exec_refclkLoss_b.trans (by rw [ha, Chip.when_true]),
      fun hb => exec_refclkLoss_a.trans (by rw [hb, Chip.when_true]),
      fun hfreq ha => (exec_refclkReturn_b hfreq).trans (by rw [ha, Bool.not_true, Chip.when_false]),
      fun hb => exec_refclkReturn_a.trans (by rw [hb, Bool.not_false, Chip.when_true])⟩,
    fun s temps volts n harmed => fun hhot => exec_sensorRound harmed rfl hhot rfl, fun s hheld => ?_,
    fun s counts hmode => ?_⟩
  · change execPllLol p s = _
    exact State.run_to (if_pos hlock)
  · change execPllRelock p s = _
    exact State.run_to (if_neg (by rw [hheld, hlock]; decide))
  · change execAvsTimeout s = _
    exact State.run_to (if_neg (by rw [hheld]; decide))
  · intro c c1 slow c2 goal c3 c4 mv c5
    have hrun (acked : Bool) := exec_ageingCompute (s := s) (counts := counts) (acked := acked) (c := c) (c1 := c1)
      (slow := slow) (c2 := c2) (goal := goal) (c3 := c3) (c4 := c4) (mv := mv) (c5 := c5) hmode rfl rfl rfl rfl rfl rfl rfl rfl rfl
    exact ⟨hrun true, hrun false⟩

end Sys2Proof.Machine
end


section
/-! PROOFS. Requests that reach their endpoint at once (R15–R19, R33, R361, R367, R382), and doorbells of command rings (R82,
R83, R469). -/
namespace Sys2Proof.Machine

/-! ## Control space (R32, R386) -/

theorem regionOf_control {a : Nat} (h : a < 0x10000000) : regionOf a = .control := by
  have hmod : a % 281474976710656 = a := Nat.mod_eq_of_lt (by omega)
  simp [regionOf, hmod, h]

/-- No request to control space waits at a memory. -/
theorem Chip.mustWait_of_control {c : Chip} {k : Pkt} (h : regionOf k.addr = .control) : c.mustWait k = false := by
  simp [Chip.mustWait, Chip.behindFill, Chip.atSleepingBank, retIndex, h]

/-! ## At the endpoint port (R29, R367–R369) -/

section
variable {c : Chip} {k : Pkt} {q : Nat} {clash : Bool}

theorem Chip.reach_of_awake (h : c.mustWait k = false) : c.reach k clash = c.serve k clash := by
  simp only [Chip.reach, h, Bool.false_eq_true, if_false]

/-- A request that its port lets pass, with nothing held there, reaches its block, or is left open where that does not answer
at once. -/
theorem Chip.arrivePkt_pass {answered : Bool} (hport : c.pktPort k = some q)
    (hgate : c.gate (some q) (c.pktDomain k) = .pass) (hante : Tbl.get c.fab.ante q [] = []) :
    c.arrivePkt k answered clash = if answered then c.reach k clash
      else c.withFab { c.fab with open_ := Tbl.set c.fab.open_ q (Tbl.get c.fab.open_ q [] ++ [k]) [] } := by
  simp only [Chip.arrivePkt, hport, hgate, Option.getD_some, hante, List.any_nil, Bool.false_eq_true, if_false]

end

/-! ## Requests of a port of control space -/

section
variable {c : Chip} {p : Port} {a n q : Nat}

/-- An access to control space that its requester reaches, its port lets pass and nothing held precedes is served. -/
theorem Chip.request_control {write : Bool} {data : Nat} {k : Pkt}
    (hk : k = ⟨if write then .wr else .rd, srcPort p, 0, 2, a, n, data, 0, some p⟩) (ha : a < 0x10000000)
    (hmode : c.mode ≠ mBypass) (hreach : c.reachesAddr p a = true) (hport : c.pktPort k = some q)
    (hgate : c.gate (some q) (c.pktDomain k) = .pass) (hante : Tbl.get c.fab.ante q [] = []) :
    c.request p write a n data 0 = c.serve k false := by
  have hreg : regionOf k.addr = .control := by rw [hk]; exact regionOf_control ha
  have hmod : a % 2 ^ 48 = a := Nat.mod_eq_of_lt (by omega)
  have hvf : vfMemory k = false := by simp only [vfMemory, hreg]; split <;> simp
  have hblock : (decide (regionOf a = .control) && !c.reachesAddr p (a % 2 ^ 48) || vfMemory k) = false := by
    rw [hmod, hreach, hvf, Bool.not_true, Bool.and_false, Bool.or_false]
  unfold Chip.request
  rw [← hk, if_neg hmode, hblock, if_neg Bool.false_ne_true, Chip.arrivePkt_pass hport hgate hante, if_pos rfl,
    Chip.reach_of_awake (Chip.mustWait_of_control hreg)]

/-- A write of control space is carried out and answered with its status. -/
theorem Chip.request_write {v : Nat} (ha : a < 0x10000000) (hmode : c.mode ≠ mBypass) (hreach : c.reachesAddr p a = true)
    (hport : c.pktPort ⟨.wr, srcPort p, 0, 2, a, n, v, 0, some p⟩ = some q)
    (hgate : c.gate (some q) (c.pktDomain ⟨.wr, srcPort p, 0, 2, a, n, v, 0, some p⟩) = .pass)
    (hante : Tbl.get c.fab.ante q [] = []) :
    c.request p true a n v 0 =
      (c.regWrite p a n v).1.answer ⟨.wr, srcPort p, 0, 2, a, n, v, 0, some p⟩ (c.regWrite p a n v).2 0 0 := by
  have hmod : a % 2 ^ 48 = a := Nat.mod_eq_of_lt (by omega)
  rw [Chip.request_control (write := true) (k := ⟨.wr, srcPort p, 0, 2, a, n, v, 0, some p⟩) rfl ha hmode hreach hport hgate
    hante, Chip.serve, if_pos (regionOf_control ha)]
  simp only [hmod, Option.getD_some, ne_eq, not_true_eq_false, if_false]

/-- A read of control space is answered with the value and status of the register; a reserved address poisons it (R18). -/
theorem Chip.request_read (ha : a < 0x10000000) (hmode : c.mode ≠ mBypass) (hreach : c.reachesAddr p a = true)
    (hport : c.pktPort ⟨.rd, srcPort p, 0, 2, a, n, 0, 0, some p⟩ = some q)
    (hgate : c.gate (some q) (c.pktDomain ⟨.rd, srcPort p, 0, 2, a, n, 0, 0, some p⟩) = .pass)
    (hante : Tbl.get c.fab.ante q [] = []) :
    c.request p false a n 0 0 = c.answer ⟨.rd, srcPort p, 0, 2, a, n, 0, 0, some p⟩ (c.regRead p a n).2 (c.regRead p a n).1
      (if ctlReserved a then 0xFF else 0) := by
  have hmod : a % 2 ^ 48 = a := Nat.mod_eq_of_lt (by omega)
  rw [Chip.request_control (write := false) (k := ⟨.rd, srcPort p, 0, 2, a, n, 0, 0, some p⟩) rfl ha hmode hreach hport hgate
    hante, Chip.serve, if_pos (regionOf_control ha)]
  simp only [hmod, Option.getD_some]

end

/-! ## Packets and doorbells -/

section
variable {s : State}

/-- A packet that asks for a read or write and is neither refused at the host interface nor at BAR4 goes to its port. -/
theorem exec_packetArrive_go {k : Pkt} {answered clash : Bool} (hmode : s.chip.mode ≠ mBypass)
    (hwarm : s.chip.inWarm = false ∨ hifPorts.contains k.src = false) (hop : k.op = .rd ∨ k.op = .wr)
    (hbar : barFour k = false) (hvf : vfMemory k = false) :
    exec (.packetArrive k answered clash) s = .next (s.to (s.chip.arrivePkt k answered clash)) := by
  have hshut : (s.chip.inWarm && hifPorts.contains k.src) = false := by rcases hwarm with h | h <;> rw [h] <;> simp
  change execPacketArrive k answered clash s = _
  refine State.run_to ((if_neg hmode).trans ?_)
  rcases hop with hop | hop <;> simp only [hop, hshut, hbar, hvf, Bool.or_self, Bool.false_eq_true, if_false]

/-- A response answers the request that its port holds open under its transaction (R361, R369). -/
theorem exec_packetArrive_response {k q : Pkt} {answered clash : Bool} {c : Chip} (hmode : s.chip.mode ≠ mBypass)
    (hop : k.op = .rsp) (hiso : s.chip.flag F.FAB_PORT_STAT_ISOLATED k.src = false)
    (hfind : (Tbl.get s.chip.fab.open_ k.src []).find? (fun q => q.txn == k.txn) = some q)
    (hc : s.chip.withFab { s.chip.fab with
      open_ := Tbl.set s.chip.fab.open_ k.src ((Tbl.get s.chip.fab.open_ k.src []).erase q) [] } = c)
    (hawake : c.mustWait q = false) : exec (.packetArrive k answered clash) s = .next (s.to (c.serve q false)) := by
  change execPacketArrive k answered clash s = _
  refine State.run_to ((if_neg hmode).trans ?_)
  dsimp only at hc
  simp only [hop, Chip.response, hiso, hfind, hc, Bool.false_eq_true, if_false]
  exact Chip.reach_of_awake hawake

theorem Chip.wakeBy_doorbell (c : Chip) : c.wakeBy 2 0 = c.soakWake 2 := rfl

/-- The doorbell of command ring `r` stands at 8r of its function's page. -/
theorem doorbellRing_command {r : Nat} (h : r < 8) : doorbellRing (8 * r) = some r := by
  have hlt : 8 * r < 64 := by omega
  simp [doorbellRing, hlt]

end

/-- Settles O32: each command's effect, by the case that its state selects. -/
theorem accessCommandsComplete : Obligations.AccessCommandsComplete := by
  refine ⟨fun s p a n v q hmode hreach => fun hport hgate hante => ?_,
    fun s k q clash hmode hwarm hop hbar hvf hport hgate hante => ⟨fun hawake => ?_, ?_⟩,
    fun s k q answered clash hmode hop hiso hfind => fun hawake =>
      exec_packetArrive_response hmode hop hiso hfind rfl hawake,
    fun s f r v hmode hwarm hen hres hok => ?_⟩
  · change execRegisterWrite p a n v s = _
    exact State.run_to (Chip.request_write a.isLt hmode hreach hport hgate hante)
  · rw [exec_packetArrive_go hmode hwarm hop hbar hvf, Chip.arrivePkt_pass hport hgate hante, if_pos rfl,
      Chip.reach_of_awake hawake]
  · rw [exec_packetArrive_go hmode hwarm hop hbar hvf, Chip.arrivePkt_pass hport hgate hante, if_neg Bool.false_ne_true]
  · have hcmd : doorbellRing (8 * r) = some r.val := doorbellRing_command r.isLt
    have hcpl : (decide (8 ≤ r.val) && decide (r.val < 16)) = false := by simp [r.isLt.not_ge]
    change execCmdDoorbell f (8 * r) 8 v s = _
    refine State.run_to ?_
    rw [if_neg hmode, hwarm, if_neg Bool.false_ne_true, Chip.doorbell_taken hcmd hen hres hok, hcpl, if_neg Bool.false_ne_true]
    simp only [hcmd, Option.getD_some, Bool.true_and, decide_eq_true r.isLt, Chip.when_true]
    rfl

end Sys2Proof.Machine
end


section
/-! PROOFS. The management port and JTAG (R506–R509). -/
namespace Sys2Proof.Machine

/-! ## Loading an instruction into the TAP (R507) -/

section
variable {c : Chip} {t : Tap}

/-- An instruction that drives no pins, after one that drove none. -/
theorem Chip.tapLoad_quiet (haon : c.dev.vddAon = true) (hwas : c.port.tap.drives = false) (hallow : c.tapAllows t = true)
    (hnew : t.drives = false) : c.tapLoad t = c.withPort { c.port with tap := t } := by
  simp only [Chip.tapLoad, haon, hwas, hallow, hnew, if_true, Bool.not_true, Bool.false_and, Bool.and_false, Chip.when_false,
    Bool.false_eq_true, if_false]

/-- An instruction whose condition does not hold acts as BYPASS. -/
theorem Chip.tapLoad_refused (haon : c.dev.vddAon = true) (hwas : c.port.tap.drives = false)
    (hallow : c.tapAllows t = false) : c.tapLoad t = c.withPort { c.port with tap := .bypass } := by
  have hnew : Tap.drives .bypass = false := rfl
  simp only [Chip.tapLoad, haon, hwas, hallow, hnew, Bool.not_true, Bool.false_and, Bool.and_false, Chip.when_false,
    Bool.false_eq_true, if_false]

/-- The chip once an instruction begins to drive pins: the Seam closed, the pins at slow slew. -/
def Chip.tapDriving (c : Chip) : Chip :=
  ((c.withPort { c.port with seamWas := c.flag F.DEV_MODE_SEAM_OPEN }).setSeam false).emit (.pin "PLR_JTAG_SLOW" 1)

/-- While RESET_N is low an instruction that drives pins is in force. -/
theorem Chip.tapLoad_drive (haon : c.dev.vddAon = true) (hwas : c.port.tap.drives = false) (hreset : c.dev.resetN = false)
    (hnew : t.drives = true) : c.tapLoad t = c.tapDriving.withPort { c.tapDriving.port with tap := t } := by
  have hallow : c.tapAllows t = true := by simp [Chip.tapAllows, hnew, hreset]
  simp only [Chip.tapLoad, haon, hwas, hallow, hnew, if_true, Bool.not_true, Bool.not_false, Bool.false_and, Bool.true_and,
    Chip.when_false, Chip.when_true, Bool.false_eq_true, if_false]
  rfl

theorem Chip.tapDriving_dev : c.tapDriving.dev = c.dev := by
  unfold Chip.tapDriving Chip.setSeam
  split <;> simp

/-- An instruction that drives pins is loaded and its pattern shifted in: what the pins gave comes out, the pattern is
driven. -/
theorem Chip.tapShift_drive {pins next : Nat} {drive : String} (haon : c.dev.vddAon = true)
    (hwas : c.port.tap.drives = false) (hreset : c.dev.resetN = false) (hnew : t.drives = true) :
    (c.tapLoad t).tapShift pins next drive = (((c.tapDriving.withPort { c.tapDriving.port with tap := t }).emit
      (.jtag "BOUNDARY" pins)).withPort { c.tapDriving.port with
        tap := t
        bsr := next }).emit (.pin drive next) := by
  have hbypass : t ≠ .bypass := by rintro rfl; exact Bool.false_ne_true hnew
  have haon' : c.tapDriving.dev.vddAon = true := by rw [Chip.tapDriving_dev, haon]
  rw [Chip.tapLoad_drive haon hwas hreset hnew]
  generalize c.tapDriving = d at haon'
  simp [Chip.tapShift, haon', hbypass, hnew]

end

/-! ## The management port (R506) -/

theorem Chip.i2cAlive_iff {c : Chip} : c.i2cAlive = true ↔ c.mode ≠ mBypass := bne_iff_ne

/-- Settles O30: each command's effect, by the case that its state and operands select. -/
theorem portCommandsComplete : Obligations.PortCommandsComplete := by
  refine ⟨fun s hmode => ⟨?_, fun hwake => ?_, ?_⟩, fun s a q n hmode => fun hport hgate hante hreach => ⟨fun hn => ?_, fun hn => ?_⟩,
    fun s a q n v hmode hn => fun hport hgate hante hreach => ⟨fun h4 => ?_, fun h8 => ?_⟩,
    fun s pins next haon hwas => ⟨?_, ?_, ?_, ?_, fun hrefused => ?_, fun hreset => ⟨?_, ?_, ?_, ?_, ?_⟩⟩,
    fun s a haon hwas => ⟨fun hallow => ?_, fun hrefused => ?_⟩⟩
  · change execI2cWarmReset 0x5752 s = _
    exact State.run_to (if_pos (by rw [Chip.i2cAlive_iff.2 hmode]; rfl))
  · change execI2cWake s = _
    exact State.run_to ((if_pos (Chip.i2cAlive_iff.2 hmode)).trans (if_pos hwake))
  · change execI2cStatus s = _
    exact State.run_to (if_pos (Chip.i2cAlive_iff.2 hmode))
  · change execI2cRead32 a s = _
    subst hn
    exact State.run_to ((if_pos (Chip.i2cAlive_iff.2 hmode)).trans (Chip.request_read a.isLt hmode hreach hport hgate hante))
  · change execI2cRead64 a s = _
    subst hn
    exact State.run_to ((if_pos (Chip.i2cAlive_iff.2 hmode)).trans (Chip.request_read a.isLt hmode hreach hport hgate hante))
  · have hlt : v.toNat < 2 ^ 32 := by omega
    have hv : (v.setWidth 32).toNat = v.toNat := by rw [BitVec.toNat_setWidth, Nat.mod_eq_of_lt hlt]
    change execI2cWrite32 a (v.setWidth 32) s = _
    subst h4
    refine State.run_to ((if_pos (Chip.i2cAlive_iff.2 hmode)).trans ?_)
    rw [hv]
    exact Chip.request_write a.isLt hmode hreach hport hgate hante
  · change execI2cWrite64 a v s = _
    subst h8
    exact State.run_to ((if_pos (Chip.i2cAlive_iff.2 hmode)).trans (Chip.request_write a.isLt hmode hreach hport hgate hante))
  · change execJtagReset s = _
    exact State.run_to (Chip.tapLoad_quiet haon hwas rfl rfl)
  · change execJtagBypass s = _
    exact State.run_to (Chip.tapLoad_quiet haon hwas rfl rfl)
  · change execJtagIdcode s = _
    exact State.run_to (by rw [haon, Chip.when_true, Chip.tapLoad_quiet haon hwas rfl rfl])
  · change execJtagSamplePreload pins next s = _
    refine State.run_to ?_
    rw [Chip.tapLoad_quiet haon hwas rfl rfl]
    have hquiet : Tap.drives .sample = false := rfl
    simp [Chip.tapShift, haon, hquiet]
  · change execJtagExtest pins next s = _
    refine State.run_to ?_
    rw [Chip.tapLoad_refused haon hwas hrefused]
    exact (if_neg (by simp [haon])).trans (if_pos rfl)
  · change execJtagExtest pins next s = _
    exact State.run_to (Chip.tapShift_drive haon hwas hreset rfl)
  · change execJtagExtestPulse pins next s = _
    exact State.run_to (Chip.tapShift_drive haon hwas hreset rfl)
  · change execJtagExtestTrain pins next s = _
    exact State.run_to (Chip.tapShift_drive haon hwas hreset rfl)
  · change execJtagClamp s = _
    refine State.run_to ?_
    rw [Chip.tapLoad_drive haon hwas hreset rfl]
    simp [Chip.tapDriving_dev, haon]
    rfl
  · change execJtagHighz s = _
    refine State.run_to ?_
    rw [Chip.tapLoad_drive haon hwas hreset rfl]
    simp [Chip.tapDriving_dev, haon]
    rfl
  · change execJtagDebugAccess (some a) s = _
    refine State.run_to ?_
    rw [Chip.tapLoad_quiet haon hwas hallow rfl]
    exact if_pos rfl
  · change execJtagDebugAccess (some a) s = _
    refine State.run_to ?_
    rw [Chip.tapLoad_refused haon hwas hrefused]
    exact if_neg nofun

end Sys2Proof.Machine
end


section
/-! PROOFS. Signal engines and control caches (R270–R303, R489). -/
namespace Sys2Proof.Machine

section
variable {s : State} {e : Fin 256}

/-! ## Issue (R270–R275, R302) -/

/-- A group whose slots raise nothing and need not wait issues: its effects, the group that follows, the boundary. -/
theorem exec_issueGroup {busy : Option Nat} {c c2 : Chip} {outs : List SlotOut} {x : Eng} {b : Bool}
    (hruns : s.chip.engRuns e = true) (hstall : (s.chip.eng e).stalled = false) (hpop : (s.chip.eng e).popDue = false)
    (hplan : s.chip.plan e busy = (c, outs, none)) (hirq : (s.chip.eng e).irqTakeable = false)
    (hwait : ∀ o ∈ outs, o.wait = false) (hc2 : outs.foldl (fun c o => o.fx c) c = c2)
    (hadv : (c2.eng e).advance = (x, b)) (hlate : (s.chip.eng e).overdue c.tick = false) :
    exec (.issueGroup e busy) s = .next (s.to (((c2.setEng e (x.holdTrack c2.tick)).showRun e).engBoundary e)) := by
  have hgo : outs.find? (·.wait) = none := List.find?_eq_none.2 fun o ho => by simp [hwait o ho]
  change execIssueGroup e busy s = _
  refine State.run_to ((if_pos hruns).trans ?_)
  simp only [Chip.issue, hstall, hpop, hplan, hirq, hgo, hc2, hadv, hlate, Chip.when_false, Bool.and_false,
    Bool.false_eq_true, if_false]

/-- A group that raises an exception does not issue: the exception is taken at its address (R294). -/
theorem exec_issueGroup_exception {busy : Option Nat} {c : Chip} {outs : List SlotOut} {y : Exc}
    (hruns : s.chip.engRuns e = true) (hstall : (s.chip.eng e).stalled = false) (hpop : (s.chip.eng e).popDue = false)
    (hplan : s.chip.plan e busy = (c, outs, some y)) :
    exec (.issueGroup e busy) s = .next (s.to ((c.takeExc e y (s.chip.eng e).pc true).engBoundary e)) := by
  change execIssueGroup e busy s = _
  refine State.run_to ((if_pos hruns).trans ?_)
  simp only [Chip.issue, hstall, hpop, hplan, Chip.when_false, Bool.false_eq_true, if_false]

/-! ## Accesses that come back (R274, R287) -/

section
variable {k : Nat} {a : EngAcc} (ha : ((s.chip.eng e).acc.filter fun (a : EngAcc) => a.load && !a.cached)[k]? = some a)
include ha

theorem exec_loadDataArrive_memory (hctl : a.control = false) :
    exec (.loadDataArrive e k) s = .next (s.to (s.chip.setEng e ((((s.chip.eng e).ldNote true a.status a.seen a.busy)).arrive
      a.id ((s.chip.eng e).readAt a.id).1 ((s.chip.eng e).readAt a.id).2))) := by
  change execLoadDataArrive e k s = _
  refine State.run_to ?_
  simp only [ha, hctl, Bool.false_eq_true, if_false]
  rfl

theorem exec_loadDataArrive_control {v : Nat} {p : Bool} {st : Status} (hctl : a.control = true)
    (hload : s.chip.ctlLoad e a = some (v, p, st)) :
    exec (.loadDataArrive e k) s = .next (s.to (s.chip.setEng e
      (((s.chip.eng e).ldNote true st 0 false).arrive a.id v (b2n p)))) := by
  change execLoadDataArrive e k s = _
  refine State.run_to ?_
  simp only [ha, hctl, hload, if_true]
  rfl

end

/-- A store is acknowledged; one to control space writes its register then (log entry 26). -/
theorem exec_storeAck {k : Nat} {a : EngAcc} {c : Chip} {st : Status}
    (ha : ((s.chip.eng e).acc.filter fun (a : EngAcc) => !a.load && !a.cached)[k]? = some a)
    (hdone : if a.control then s.chip.gate (s.chip.portControl a.addr) (s.chip.ctlDomain a.addr) = .pass ∧
      s.chip.regWrite (.engine e) a.addr a.size a.data = (c, st) else c = s.chip ∧ st = a.status) :
    exec (.storeAck e k) s = .next (s.to (c.setEng e
      ({ c.eng e with acc := (c.eng e).acc.filter fun b => b.id != a.id }.ldNote false st a.seen false))) := by
  change execStoreAck e k s = _
  refine State.run_to ?_
  cases hctl : a.control with
  | true =>
    rw [hctl, if_pos rfl] at hdone
    obtain ⟨hgate, hwrite⟩ := hdone
    simp only [ha, hctl, hgate, hwrite, if_true]
    rfl
  | false =>
    rw [hctl, if_neg Bool.false_ne_true] at hdone
    obtain ⟨rfl, rfl⟩ := hdone
    simp only [ha, hctl, Bool.false_eq_true, if_false]
    rfl

/-! ## Debug (R489) -/

theorem State.run_debugAction {p : Port} {f : Chip → Chip} {d : Chip} (hmay : s.may p 0x80 = true)
    (hperm : bit (s.chip.rd F.TRUST_STATUS_TOKEN_PERMS) 0 = true) (hf : f s.chip = d) :
    (s.run fun c => c.debugAction p f) = .next (s.to (d.report p .ok)) :=
  State.run_guarded hmay ((if_pos hperm).trans (congrArg (·.report p .ok) hf))

end

/-! ## The control cache (R288, R289) -/

section
variable {s : State} {n : Fin 16}

/-- A line that is read without fault is installed, and the accesses that wait for it are made. -/
theorem exec_ccFillComplete {line e : Nat} {r : List (Nat × Nat)} {c c2 c3 : Chip} {l : CcLine}
    (hfills : (s.chip.cluster n).fills = (line, e) :: r)
    (hc : (s.chip.setCluster n { s.chip.cluster n with fills := r }).ccSnoop n line false = c)
    (hwb : (s.chip.cluster n).wbs.find? (fun w => w.1.line == line) = none) (hread : c.readLine line = (c2, l, .ok))
    (hc3 : (c2.ccInstall n e l).incMod F.CLU_CC_STAT_MISSES n = c3) :
    exec (.ccFillComplete n) s = .next (s.to (((List.range 16).filter fun j =>
      (c3.eng (16 * n + j)).acc.any fun a => a.cached && ccLine a.addr == line).foldl
        (fun c j => c.ccServe (16 * n + j) line .ok) c3)) := by
  have hgood : ((Status.ok : Status) != .ok) = false := rfl
  change execCcFillComplete n s = _
  refine State.run_to ?_
  dsimp only at hc
  simp only [Chip.ccFill, hfills, hc, hwb, hread, hc3, hgood, Bool.false_and, Chip.when_false]

/-- The oldest write-back ends; a failure is counted and recorded in LDSTAT of the engine that caused it. -/
theorem Chip.ccWbDone_write {s c : Chip} {l : CcLine} {e : Nat} {r : List (CcLine × Nat)} {st : Status}
    (hwbs : (s.cluster n).wbs = (l, e) :: r)
    (hwrite : (s.setCluster n { s.cluster n with wbs := r }).writeLine l = (c, st)) :
    s.ccWbDone n =
      let c := c.when (st != .ok) fun c =>
        (c.incSat F.CLU_CC_STAT_WB_FAIL n).when (e < 256) fun c => c.modEng e fun x => x.ldNote false st 0 false
      if r = [] && c.flag F.CLU_CC_CTRL_CLEAN_ALL n then c.w1sEnd F.CLU_CC_CTRL_CLEAN_ALL n 0 (·.ccCleanAll n) else c := by
  dsimp only at hwrite
  simp only [Chip.ccWbDone, hwbs, hwrite]

end

/-- Settles O31: each command's effect, by the case that its state selects. -/
theorem engineCommandsComplete : Obligations.EngineCommandsComplete := by
  refine ⟨fun s e busy c c2 outs x b hruns hstall hpop hplan hirq hwait hc2 hadv hlate =>
      exec_issueGroup hruns hstall hpop hplan hirq hwait hc2.symm hadv hlate,
    fun s e busy c outs y hruns hstall hpop hplan => exec_issueGroup_exception hruns hstall hpop hplan,
    fun s e hruns hirq hfree => ?_, fun s e hruns hover => ?_, fun s e harmed hdue => ?_,
    fun s p e v hmay => State.run_action hmay rfl, fun s p e c hmay hperm hc hlo hhi => ?_,
    fun s p e c hmay hperm hhalted htest => ⟨fun hc hruns => ?_, fun hc => ?_⟩,
    fun s e k a ha => ⟨fun hctl => exec_loadDataArrive_memory ha hctl,
      fun v p st hctl hload => exec_loadDataArrive_control ha hctl hload⟩,
    fun s e k a c st ha hdone => exec_storeAck ha hdone,
    fun s n line e r c c2 c3 l hfills hc hwb hread hc3 => exec_ccFillComplete hfills hc.symm hwb hread hc3.symm,
    fun s n l e r c st hwbs hwrite hclean => ⟨fun hok => ?_, fun hbad hlt hclean' => ?_⟩,
    fun s p n hmay => ⟨fun hidle => ?_, State.run_action hmay rfl⟩⟩
  · change execInterruptTaken e s = _
    refine State.run_to (if_pos ?_)
    rw [hruns, hirq]
    rcases hfree with h | h <;> simp [h]
  · change execHoldoffOverrun e s = _
    exact State.run_to (if_pos (by rw [hruns, hover]; rfl))
  · change execTcmpTimer e s = _
    exact State.run_to (if_pos (by rw [harmed, hdue]; rfl))
  · change execEngHalt p e s = _
    subst hc
    exact State.run_debugAction hmay hperm (if_pos (by
      rw [Bool.and_eq_true, decide_eq_true_eq, decide_eq_true_eq]; exact ⟨hlo, hhi⟩))
  · change execEngStep p e s = _
    subst hc
    exact State.run_debugAction hmay hperm ((if_pos (by simp [hhalted, htest])).trans (if_pos hruns))
  · change execEngResume p e s = _
    subst hc
    exact State.run_debugAction hmay hperm (if_pos (by simp [hhalted, htest]))
  · change execCcWritebackComplete n s = _
    refine State.run_to ((Chip.ccWbDone_write hwbs hwrite).trans ?_)
    have hgood : (st != .ok) = false := by rw [hok]; rfl
    simp only [hgood, Chip.when_false, hclean, Bool.and_false, Bool.false_eq_true, if_false]
  · change execCcWritebackComplete n s = _
    refine State.run_to ((Chip.ccWbDone_write hwbs hwrite).trans ?_)
    have hfail : (st != .ok) = true := bne_iff_ne.2 hbad
    simp only [hfail, Chip.when_true, decide_eq_true hlt]
    exact if_neg (by rw [Bool.and_eq_true]; exact fun h => Bool.false_ne_true (hclean'.symm.trans h.2))
  · change execCcCleanAll p n s = _
    exact State.run_action hmay (Chip.w1sStart_idle _ _ _ _ _ hidle)

end Sys2Proof.Machine
end


section
/-! PROOFS. Modes: requests and transitions (R47, R63–R71). -/
namespace Sys2Proof.Machine

/-! ## Requests by software (R63, R64, R67, R68, R71) -/

section
variable {c : Chip} {m : Nat}

theorem Chip.modeReq_of_ok (hidle : c.inTrans = false) (hm : m ≠ c.mode) (hst : c.modeStatus m = .ok) :
    c.modeReq m = (c.modeStart m false 3, .ok) := by
  simp only [Chip.modeReq, hidle, hm, hst, Bool.false_eq_true, if_false]

theorem Chip.modeReq_of_inTrans (htrans : c.inTrans = true) (hhw : c.flag F.DEV_MODE_PEND_HW_PEND = false) :
    c.modeReq m = (c.modeHold m false, .ok) := by
  simp only [Chip.modeReq, htrans, hhw, Bool.false_eq_true, if_false, if_true]

theorem Chip.modeStatus_service (hmode : c.mode = mVerify ∨ c.mode = mShed ∨ c.mode = mSoak)
    (hheld : c.dev.shedCauses = 0) : c.modeStatus mService = .ok := by
  rcases hmode with h | h | h <;> simp [Chip.modeStatus, h, hheld]

theorem Chip.modeStatus_shed (hmode : c.mode = mService ∨ c.mode = mSoak) : c.modeStatus mShed = .ok := by
  rcases hmode with h | h <;> simp [Chip.modeStatus, h]

theorem Chip.modeStatus_soak (hmode : c.mode = mService ∨ c.mode = mShed) (hheld : c.dev.shedCauses = 0)
    (hbr : c.brSoakOk = true) (htx : c.soakTxBad = false) : c.modeStatus mSoak = .ok := by
  have hworst : Status.worst .ok .ok = .ok := by decide
  rcases hmode with h | h <;> simp [Chip.modeStatus, h, hheld, hbr, htx, hworst]

theorem Chip.modeStatus_quiesce (hmode : c.mode = mService ∨ c.mode = mShed ∨ c.mode = mSoak) :
    c.modeStatus mQuiesce = .ok := by
  rcases hmode with h | h | h <;> simp [Chip.modeStatus, h]

theorem Chip.modeStart_soak_of_service {hw : Bool} {src : Nat} (h : c.mode = mService) :
    c.modeStart mSoak hw src = (c.transBegin mSoak .drain hw).closeIntake := if_pos h

theorem Chip.modeStart_soak_of_shed {hw : Bool} {src : Nat} (h : c.mode = mShed) :
    c.modeStart mSoak hw src = (c.transBegin mSoak .run hw).soakDomains := if_neg (by rw [h]; decide)

theorem Chip.modeStart_service_of_shed {hw : Bool} {src : Nat} (h : c.mode = mShed) :
    c.modeStart mService hw src = c.transBegin mService .run hw :=
  (if_neg (by rw [h]; decide)).trans (if_neg (by rw [h]; decide))

end

section
variable {s : State} {p : Port}

theorem State.run_modeWrite {m : Nat} {d : Chip} {st : Status} (hmay : s.may p 0xFE = true)
    (h : s.chip.modeReq m = (d, st)) :
    (s.run fun c => c.modeWrite p (0x4D4F : Fin 65536) m) = .next (s.to (d.report p st)) := by
  refine State.run_guarded hmay ((if_pos rfl).trans ?_)
  simp only [h]

/-- The commands that ask for a mode with the key, each with its mode. -/
def modeRequests (p : Port) : List (Instr × Nat) :=
  [(.modeReqRelay p 0x4D4F, mRelay), (.modeReqVerify p 0x4D4F, mVerify), (.modeReqService p 0x4D4F, mService),
    (.modeReqShed p 0x4D4F, mShed), (.modeReqSoak p 0x4D4F, mSoak), (.modeReqQuiesce p 0x4D4F, mQuiesce),
    (.modeReqTest p 0x4D4F, mTest)]

theorem exec_of_mem_modeRequests {e : Instr × Nat} (he : e ∈ modeRequests p) :
    exec e.1 s = s.run fun c => c.modeWrite p (0x4D4F : Fin 65536) e.2 := by
  simp only [modeRequests, List.mem_cons, List.not_mem_nil, or_false] at he
  rcases he with rfl | rfl | rfl | rfl | rfl | rfl | rfl <;> rfl

theorem exec_modeRequest {e : Instr × Nat} {d : Chip} {st : Status} (he : e ∈ modeRequests p) (hmay : s.may p 0xFE = true)
    (h : s.chip.modeReq e.2 = (d, st)) : exec e.1 s = .next (s.to (d.report p st)) :=
  (exec_of_mem_modeRequests he).trans (State.run_modeWrite hmay h)

/-! ## Transitions (R63, R66, R69) -/

theorem exec_hwShedExit (hmode : s.chip.mode = mShed) (hidle : s.chip.inTrans = false)
    (hsw : s.chip.flag F.DEV_MODE_SHED_BY_SW = false) (hheld : s.chip.dev.shedCauses = 0) :
    exec .hwShedExit s = .next (s.to (s.chip.modeStart (s.chip.rd F.DEV_MODE_RETURN_MODE) true 0)) := by
  change execHwShedExit s = _
  exact State.run_to (if_pos (by rw [hmode, hidle, hsw, hheld]; rfl))

theorem Chip.drainEnd_soak {c : Chip} {t : Trans} (h : t.target = mSoak) :
    c.drainEnd t = (((c.withDev { c.dev with
      trans := some { t with phase := .run } }).brStopAll .deadlineMissed).closeWindows false).soakDomains := by
  have hmute : (t.target != mSoak) = false := bne_eq_false_iff_eq.2 h
  simp only [Chip.drainEnd, hmute, if_pos h]

theorem Chip.drainEnd_relay {c d : Chip} {t : Trans} (h : t.target ≠ mSoak)
    (hd : ((c.withDev { c.dev with
      trans := some { t with phase := .run } }).brStopAll .deadlineMissed).closeWindows true = d) :
    c.drainEnd t = ((d.endAllTasks .deadlineMissed).foldAll d.sched.tasks.length).stopEngines := by
  have hmute : (t.target != mSoak) = true := bne_iff_ne.2 h
  dsimp only at hd
  simp only [Chip.drainEnd, hmute, if_neg h, hd]

/-- A drain without a slot command in flight ends (R66). -/
theorem exec_drainEnd {t : Trans} (htrans : s.chip.dev.trans = some t) (hphase : t.phase = .drain)
    (hnone : ∀ h ∈ s.chip.hif.inflight, h.isSlot = false) :
    exec .drainEnd s = .next (s.to (s.chip.drainEnd t)) := by
  have hall : (s.chip.hif.inflight.all fun h => !h.isSlot) = true := by simpa using hnone
  change execDrainEnd s = _
  refine State.run_to ?_
  simp only [htrans, hphase, hall, decide_true, Bool.and_self, if_true]

end

/-- Settles O34: each command's effect, by the case that its state selects. -/
theorem modeCommandsComplete : Obligations.ModeCommandsComplete := by
  refine ⟨fun s p hmay hidle => ?_, fun s p hmay e he => ⟨fun hidle hmode => ?_, fun htrans hhw => ?_, ?_⟩,
    fun s hmode hidle hsw hheld => ⟨fun hret => ?_, fun hret => ?_⟩, fun s t htrans hready => ?_,
    fun s t htrans hphase hnone => ⟨fun hsoak => ?_, fun hsoak => ?_⟩, fun s t htrans hphase => ?_,
    fun s p hmay => ⟨fun hpend hhw => ?_, State.run_action hmay rfl⟩⟩
  · have hgo {m : Nat} (hm : m ≠ s.chip.mode) (hst : s.chip.modeStatus m = .ok) :=
      State.run_modeWrite hmay (Chip.modeReq_of_ok hidle hm hst)
    refine ⟨fun h => ?_, fun h => ?_, fun h hheld => ?_, fun h => ?_, fun h hheld hbr htx => ?_, fun h hheld hbr htx => ?_,
      fun h => ?_, fun h htok => ?_⟩
    · change execModeReqRelay p 0x4D4F s = _
      exact hgo (by rw [h]; decide) (by simp [Chip.modeStatus, h])
    · change execModeReqVerify p 0x4D4F s = _
      exact hgo (by rw [h]; decide) (by simp [Chip.modeStatus, h])
    · change execModeReqService p 0x4D4F s = _
      exact hgo (by rcases h with h | h | h <;> rw [h] <;> decide) (Chip.modeStatus_service h hheld)
    · change execModeReqShed p 0x4D4F s = _
      exact hgo (by rcases h with h | h <;> rw [h] <;> decide) (Chip.modeStatus_shed h)
    · change execModeReqSoak p 0x4D4F s = _
      rw [← Chip.modeStart_soak_of_service (src := 3) h]
      exact hgo (by rw [h]; decide) (Chip.modeStatus_soak (.inl h) hheld hbr htx)
    · change execModeReqSoak p 0x4D4F s = _
      rw [← Chip.modeStart_soak_of_shed (src := 3) h]
      exact hgo (by rw [h]; decide) (Chip.modeStatus_soak (.inr h) hheld hbr htx)
    · change execModeReqQuiesce p 0x4D4F s = _
      exact hgo (by rcases h with h | h | h <;> rw [h] <;> decide) (Chip.modeStatus_quiesce h)
    · change execModeReqTest p 0x4D4F s = _
      exact hgo (by rw [h]; decide) (by simp [Chip.modeStatus, h, htok])
  · exact exec_modeRequest he hmay (hmode ▸ s.chip.modeReq_mode hidle)
  · exact exec_modeRequest he hmay (Chip.modeReq_of_inTrans htrans hhw)
  · exact exec_modeRequest he hmay rfl
  · rw [exec_hwShedExit hmode hidle hsw hheld, hret, Chip.modeStart_service_of_shed hmode]
  · rw [exec_hwShedExit hmode hidle hsw hheld, hret, Chip.modeStart_soak_of_shed hmode]
  · change execTransitionComplete s = _
    exact State.run_to (by simp only [htrans, hready, if_true])
  · rw [exec_drainEnd htrans hphase hnone, Chip.drainEnd_soak hsoak]
  · rw [exec_drainEnd htrans hphase hnone, Chip.drainEnd_relay hsoak rfl]
  · change execDrainTimeout s = _
    exact State.run_to (by simp only [htrans, hphase, if_true])
  · change execModePendCancel p s = _
    exact State.run_action hmay (if_pos (by rw [hpend, hhw]; rfl))

end Sys2Proof.Machine
end


section
/-! PROOFS. Resets: supplies, pins, warm and PCIe resets, the release and the boot (R50–R58). -/
namespace Sys2Proof.Machine

/-! ## What a reset leaves of the mode and of the device (R50, R53) -/

/-- Where the entry of a key is removed, the default is read. -/
theorem Tbl.get_filter_removed {α : Type} (t : Tbl α) (p : Nat → Bool) (d : α) {k : Nat} (hk : p k = false) :
    Tbl.get (t.filter fun e => p e.1) k d = d := by
  induction t with
  | nil => rfl
  | cons e r ih =>
    by_cases he : p e.1 = true
    · have hne : k ≠ e.1 := by rintro rfl; exact Bool.false_ne_true (hk.symm.trans he)
      rw [List.filter_cons_of_pos (by simpa using he), Tbl.get, if_neg hne, ih]
    · rw [List.filter_cons_of_neg (by simpa using he), ih]

theorem keepsField_mode (form : ResetForm) : keepsField form (F.DEV_MODE_MODE.key 0 0) = false := by
  cases form <;> decide

section
variable {c : Chip}

theorem Chip.cutFuses_dev : c.cutFuses.dev = c.dev := by
  unfold Chip.cutFuses
  split <;> rfl

theorem Chip.cutStore_dev : c.cutStore.dev = c.dev := by
  unfold Chip.cutStore
  split <;> rfl

theorem Chip.mode_wipe (form : ResetForm) : (c.wipe form).mode = mBypass := by
  have hregs : (c.wipe form).regs = c.regs.filter fun e => keepsField form e.1 := by simp [Chip.wipe]
  rw [Chip.mode, Chip.rd, hregs, Tbl.get_filter_removed _ _ _ (keepsField_mode form)]
  rfl

theorem Chip.thermtrip_wipe (form : ResetForm) : (c.wipe form).dev.thermtrip = c.dev.thermtrip := by
  change c.cutFuses.cutStore.dev.thermtrip = _
  rw [Chip.cutStore_dev, Chip.cutFuses_dev]

theorem Chip.pinsTo_thermtrip (col : Nat) : (c.pinsTo col).dev.thermtrip = c.dev.thermtrip :=
  List.foldlRecOn (motive := fun d : Chip => d.dev.thermtrip = c.dev.thermtrip) pinTable _ rfl fun _ hd _ _ => hd

theorem Chip.thermtrip_resetPins (col : Nat) : (c.resetPins col).dev.thermtrip = c.dev.thermtrip := by
  have hseam : (c.setSeam false).dev = c.dev := by unfold Chip.setSeam; split <;> simp
  change ((c.setSeam false).pinsTo col).dev.thermtrip = _
  rw [Chip.pinsTo_thermtrip, hseam]

section
variable {form : ResetForm} {cause : Fld} {held : Held}

theorem Chip.thermtrip_resetDown : (c.resetDown form cause held).dev.thermtrip = c.dev.thermtrip := by
  change ((c.resetPins 1).wipe form).dev.thermtrip = _
  rw [Chip.thermtrip_wipe, Chip.thermtrip_resetPins]

/-- A reset into BYPASS leaves DEV_MODE reading BYPASS (R50). -/
theorem Chip.mode_resetDown (hcause : F.DEV_MODE_MODE.id ≠ cause.id) :
    (c.resetDown form cause held).mode = mBypass := by
  rw [← Chip.mode_wipe (c := c.resetPins 1) form, Chip.mode, Chip.resetDown, Chip.rd_withDev, Chip.setFlag,
    Chip.rd_wr_id _ _ _ _ _ _ _ _ (by decide), Chip.rd_wr_id _ _ _ _ _ _ _ _ hcause, Chip.mode]

end

/-- A device that is not tripped has nothing to release (R53). -/
theorem Chip.tripRelease_of_not_tripped (h : c.dev.thermtrip = false) : c.tripRelease = c := by
  simp only [Chip.tripRelease, h, Bool.false_and, Bool.false_eq_true, if_false]

/-- RESET_N low and high again, with no trip to release. -/
theorem Chip.resetN_rises_of_not_tripped (h : c.dev.thermtrip = false) :
    (c.withDev { c.dev with resetN := false }).tripRelease.withDev
      { (c.withDev { c.dev with resetN := false }).tripRelease.dev with resetN := true } =
    c.withDev { c.dev with resetN := true } := by
  rw [Chip.tripRelease_of_not_tripped (c := c.withDev { c.dev with resetN := false }) h]
  rfl

/-! ## What a PCIe reset leaves (R56) -/

theorem Chip.rd_resetReg_of_ne {r : RegInfo} {i j k l : Nat} {g : Fld} (h : ∀ f ∈ r.fields, g.id ≠ f.id) :
    (c.resetReg r i j).rd g k l = c.rd g k l :=
  List.foldlRecOn (motive := fun d : Chip => d.rd g k l = c.rd g k l) r.fields _ rfl
    fun d hd f hf => (d.rd_wr_id f g _ i j k l (h f hf)).trans hd

/-- The registers of the host interface that PERST_N resets do not hold DEV_MODE. -/
theorem pcieWipe_regs_ne_mode : ∀ r ∈ [G.HIF_VERSION, G.HIF_FN_CELLS, G.HIF_FN_STAT, G.RING_BASE, G.RING_CFG, G.HIF_LINK_STAT],
    ∀ f ∈ r.fields, F.DEV_MODE_MODE.id ≠ f.id := by decide

theorem Chip.mode_resetReg {r : RegInfo} {i j : Nat} (h : r ∈ [G.HIF_VERSION, G.HIF_FN_CELLS, G.HIF_FN_STAT, G.RING_BASE,
    G.RING_CFG, G.HIF_LINK_STAT]) : (c.resetReg r i j).mode = c.mode :=
  Chip.rd_resetReg_of_ne (pcieWipe_regs_ne_mode r h)

/-- A ring's registers go back to their reset values but for ENABLE (R99). -/
def Chip.ringWipe (c : Chip) (f r : Nat) : Chip :=
  ((c.resetReg G.RING_BASE f r).resetReg G.RING_CFG f r).wr F.RING_CFG_ENABLE (c.rd F.RING_CFG_ENABLE f r) f r

theorem Chip.mode_ringWipe {f r : Nat} : (c.ringWipe f r).mode = c.mode := by
  rw [Chip.ringWipe, Chip.mode, Chip.rd_wr_id _ _ _ _ _ _ _ _ (by decide), ← Chip.mode, Chip.mode_resetReg (by simp),
    Chip.mode_resetReg (by simp)]

theorem Chip.mode_pcieWipe : c.pcieWipe.mode = c.mode := by
  unfold Chip.pcieWipe
  extract_lets -underBinder c1 c2 c3
  refine (Chip.rd_withHif ..).trans ((Chip.rd_withDev ..).trans ((Chip.mode_resetReg (by simp)).trans ?_))
  refine List.foldlRecOn (motive := fun d : Chip => d.mode = c.mode) _ _ rfl fun d hd f _ => ?_
  refine List.foldlRecOn (motive := fun d : Chip => d.mode = c.mode) _ _ ?_ fun d hd r _ => Chip.mode_ringWipe.trans hd
  rw [Chip.mode_resetReg (by simp), Chip.mode_resetReg (by simp), Chip.mode_resetReg (by simp), hd]

theorem Chip.mode_pcieReset : (c.pcieWipe.wr F.DEV_RESET_CAUSE_PCIE 1).mode = c.mode := by
  rw [Chip.mode, Chip.rd_wr_id _ _ _ _ _ _ _ _ (by decide), ← Chip.mode, Chip.mode_pcieWipe]

end

/-! ## The commands of the supplies and pins (R50, R53, R54, R75) -/

section
variable {s : State}

/-- What a command of the supplies or pins answers, where it leaves DEV_MODE reading BYPASS. -/
theorem State.run_bypass {f : Chip → Chip} (h : (f s.chip).mode = mBypass) :
    ∃ t, s.run f = .next t ∧ t.chip.mode = mBypass ∧ t.pending = s.pending :=
  ⟨s.to (f s.chip), rfl, (Chip.rd_settle ..).trans h, rfl⟩

theorem exec_powerOnReset_bypass :
    ∃ t, exec .powerOnReset s = .next t ∧ t.chip.mode = mBypass ∧ t.pending = s.pending := by
  rw [exec_powerOnReset]
  refine State.run_bypass ?_
  extract_lets -underBinder
  split
  · refine (Chip.rd_withPort ..).trans ((Chip.rd_withDev ..).trans ?_)
    exact (Chip.rd_clrFields_of_ne _ _ 0 0 0 0 (by decide)).trans (Chip.mode_resetDown (by decide))
  · exact Chip.mode_resetDown (by decide)

theorem exec_supplyLoss_bypass (aon : Bool) :
    ∃ t, exec (.supplyLoss aon) s = .next t ∧ t.chip.mode = mBypass ∧ t.pending = s.pending := by
  change ∃ t, execSupplyLoss aon s = .next t ∧ _
  refine State.run_bypass ?_
  extract_lets -underBinder
  split
  · exact (Chip.rd_withPwr ..).trans ((Chip.rd_withDev ..).trans ((Chip.rd_when _ _ (Chip.rd_emit ..)).trans (Chip.mode_wipe _)))
  · exact (Chip.rd_withDev ..).trans (Chip.mode_wipe _)

theorem exec_pinReset_bypass (byResetN rises : Bool) :
    ∃ t, exec (.pinReset byResetN rises) s = .next t ∧ t.chip.mode = mBypass ∧ t.pending = s.pending := by
  rw [exec_pinReset]
  refine State.run_bypass ?_
  extract_lets -underBinder c1
  have hdown : c1.mode = mBypass := Chip.mode_resetDown (by decide)
  split
  · split
    · exact (Chip.rd_withDev ..).trans ((Chip.rd_congr _ _ (Chip.tripRelease_regs _) _ 0 0).trans hdown)
    · exact hdown
  · exact hdown

/-! ## Warm and PCIe resets, the release (R52, R56–R58) -/

/-- A warm reset outside of one ramps transmit down, and begins once no ramp runs (R52). -/
theorem Chip.warmReset_of_not_inWarm {c : Chip} {cause : Fld} (h : c.inWarm = false) :
    c.warmReset cause = if c.rampDown.ramping then c.rampDown.withDev { c.rampDown.dev with
      warm := some cause.id
      cfgRetry := true } else c.rampDown.warmBegin cause.id := by
  simp only [Chip.warmReset, h, Bool.false_eq_true, if_false]

theorem exec_warmReset {p : Port} (hmay : s.may p 0xFE = true) :
    exec (.warmReset p 0x5752) s = .next (s.to ((s.chip.report p .ok).warmReset F.DEV_RESET_CAUSE_WARM_SW)) := by
  change execWarmReset p 0x5752 s = _
  exact State.run_guarded hmay (if_pos rfl)

theorem Chip.inWarm_report {c : Chip} {p : Port} {st : Status} : (c.report p st).inWarm = c.inWarm := by
  rw [Chip.inWarm, Chip.report_dev, Chip.inWarm]

theorem exec_pcieReset_bypass (hmode : s.chip.mode = mBypass) :
    exec .pcieReset s = .next (s.to (s.chip.pcieWipe.wr F.DEV_RESET_CAUSE_PCIE 1)) := by
  change execPcieReset s = _
  exact State.run_to (if_pos (Chip.mode_pcieReset.trans hmode))

/-- Outside BYPASS the rings are zeroed where no slot work runs, else once it has drained; QUIESCE is asked for (R56). -/
theorem exec_pcieReset {c : Chip} (hc : s.chip.pcieWipe.wr F.DEV_RESET_CAUSE_PCIE 1 = c) (hmode : s.chip.mode ≠ mBypass) :
    exec .pcieReset s = .next (s.to ((if c.mode = mRelay || c.mode = mVerify || c.mode = mTest then c.hifZeroRings
      else c.withDev { c.dev with pcieDiscard := true }).modeHw mQuiesce)) := by
  subst hc
  change execPcieReset s = _
  exact State.run_to (if_neg fun h => hmode (Chip.mode_pcieReset.symm.trans h))

/-- A release with both supplies in range and no trip boots the device with its straps (R57). -/
theorem exec_resetRelease {straps : Nat} (hheld : s.chip.dev.held = .release) (haon : s.chip.dev.vddAon = true)
    (hsvc : s.chip.dev.vddSvc = true) (htrip : s.chip.dev.thermtrip = false) :
    exec (.resetRelease straps) s = .next (s.to (
      let c := (s.chip.withDev { s.chip.dev with
        resetN := true
        pwrgd := true }).withPwr { s.chip.pwr with bleed := false }
      (G.DEV_STRAPS.fields.foldl (fun c f => c.wr f (f.of straps))
        (c.withDev { c.dev with strapPins := straps })).bootRun)) := by
  have hrise : s.chip.when (!s.chip.dev.resetN) Chip.tripRelease = s.chip :=
    Chip.when_self _ _ (Chip.tripRelease_of_not_tripped htrip)
  change execResetRelease straps s = _
  refine State.run_to ((if_neg (by rw [hheld, haon, hsvc]; decide)).trans ?_)
  dsimp only
  rw [hrise]
  exact if_neg (by rw [Chip.withPwr_dev, Chip.withDev_dev, htrip]; exact Bool.false_ne_true)

end

/-- Settles O33: each command's effect, by the case that its state selects. -/
theorem resetCommandsComplete : Obligations.ResetCommandsComplete := by
  refine ⟨fun s hsup => ?_, fun s haon hsvc => ?_, fun s => ?_, fun s htrip => ?_, fun s => ?_, fun s htrip => ?_, fun s => ?_,
    fun s i hi => ?_, fun s p hmay hwarm => ⟨fun hramp => ?_, fun hramp => ?_⟩, fun s hmode => exec_pcieReset_bypass hmode,
    fun s hmode => ?_, fun s hmode => ?_,
    fun s straps hheld haon hsvc htrip => exec_resetRelease hheld haon hsvc htrip, fun s hheld => ?_,
    fun s t htrans hphase => ?_, fun s t htrans hphase => ?_, fun s gen width flit hen hdom hlink hwarm htrans => ?_⟩
  · change execPowerOnReset s = _
    exact State.run_to (if_pos (by simpa using hsup))
  · change execPowerOnReset s = _
    exact State.run_to (if_neg (by simp [haon, hsvc]))
  · change execSupplyLoss false s = _
    exact State.run_to (if_neg Bool.false_ne_true)
  · change execSupplyLoss true s = _
    refine State.run_to ((if_pos rfl).trans ?_)
    have hcool : (((s.chip.withDev { s.chip.dev with vddAon := false }).resetPins 0).wipe .powerOn).dev.thermtrip = false := by
      rw [Chip.thermtrip_wipe, Chip.thermtrip_resetPins, Chip.withDev_dev]
      exact htrip
    dsimp only at hcool ⊢
    rw [hcool, Chip.when_false]
  · change execPinReset true false s = _
    exact State.run_to ((if_pos rfl).trans (if_neg Bool.false_ne_true))
  · change execPinReset true true s = _
    exact State.run_to ((if_pos rfl).trans ((if_pos rfl).trans
      (Chip.resetN_rises_of_not_tripped (Chip.thermtrip_resetDown.trans htrip))))
  · change execPinReset false false s = _
    exact State.run_to (if_neg Bool.false_ne_true)
  · simp only [List.mem_cons, List.not_mem_nil, or_false] at hi
    rcases hi with rfl | rfl | rfl | rfl | rfl | rfl
    · exact exec_powerOnReset_bypass
    · exact exec_supplyLoss_bypass false
    · exact exec_supplyLoss_bypass true
    · exact exec_pinReset_bypass true false
    · exact exec_pinReset_bypass true true
    · exact exec_pinReset_bypass false false
  · rw [exec_warmReset hmay, Chip.warmReset_of_not_inWarm (Chip.inWarm_report.trans hwarm), hramp]
    rfl
  · rw [exec_warmReset hmay, Chip.warmReset_of_not_inWarm (Chip.inWarm_report.trans hwarm), hramp]
    rfl
  · rw [exec_pcieReset rfl (by rcases hmode with h | h | h <;> rw [h] <;> decide), Chip.mode_pcieReset,
      if_pos (by rcases hmode with h | h | h <;> rw [h] <;> decide)]
  · rw [exec_pcieReset rfl (by rcases hmode with h | h | h <;> rw [h] <;> decide), Chip.mode_pcieReset,
      if_neg (by rcases hmode with h | h | h <;> rw [h] <;> decide)]
  · change execBrownOutRelease s = _
    exact State.run_to (if_pos hheld)
  · change execRelayReached s = _
    refine State.run_to ?_
    simp only [htrans, hphase, if_true, reduceCtorEq, if_false]
    rfl
  · change execRelayReached s = _
    refine State.run_to ?_
    simp only [htrans, hphase, if_true]
    rfl
  · change execPcieLinkUp gen width flit s = _
    refine State.run_to ((if_pos (by simp [hen, hdom, hlink])).trans ?_)
    have hdev : (((s.chip.wr F.HIF_LINK_STAT_GEN gen).wr F.HIF_LINK_STAT_WIDTH width).setFlag F.HIF_LINK_STAT_FLIT
        flit).dev = s.chip.dev := by simp [Chip.setFlag]
    have hidle : s.chip.dev.warm.isSome = false := (Bool.or_eq_false_iff.1 hwarm).1
    generalize ((s.chip.wr F.HIF_LINK_STAT_GEN gen).wr F.HIF_LINK_STAT_WIDTH width).setFlag F.HIF_LINK_STAT_FLIT flit = c at hdev
    simp [Chip.inWarm, hdev, hidle, htrans]

end Sys2Proof.Machine
end
